-- ==== Sys2Proof/Word.lean ====
section
/-! DEFINITION. The word types of the BN-1620, serial comparison of wrapping values (R15), and the
sparse tables in which State keeps everything that exists many times over. -/

namespace Sys2Proof

/-- A byte of a memory, a packet or an image. -/
abbrev Byte := BitVec 8
/-- A 32-bit register, a scalar register or a descriptor word. -/
abbrev Word := BitVec 32
/-- A 64-bit value: package time, an instruction word, a route word. -/
abbrev DWord := BitVec 64

/-- R15: `a` is later than `b` when (a - b) mod 2^n lies in 1 … 2^(n-1) - 1. -/
def serialLater {n : Nat} (a b : BitVec n) : Bool :=
  let d := (a - b).toNat
  decide (0 < d) && decide (d < 2 ^ (n - 1))

/-- R15: `a` is earlier than `b` when (a - b) mod 2^n lies in 2^(n-1) + 1 … 2^n - 1. -/
def serialEarlier {n : Nat} (a b : BitVec n) : Bool :=
  decide (2 ^ (n - 1) < (a - b).toNat)

/-- A sparse table: the entries that differ from the table's default value, by rising key. -/
abbrev Tbl (α : Type) := List (Nat × α)

/-- The entry at `k`; `d` where nothing is listed. -/
def Tbl.get {α : Type} (d : α) (m : Tbl α) (k : Nat) : α := (m.lookup k).getD d

/-- Puts `new` between the entries below `k` and the entries above `k`. -/
def Tbl.splice {α : Type} (m : Tbl α) (k : Nat) (new : Option α) : Tbl α :=
  m.filter (fun e => decide (e.1 < k)) ++ (new.map (Prod.mk k)).toList ++ m.filter (fun e => decide (k < e.1))

/-- Lists `v` at `k`, keeping the keys rising. -/
def Tbl.put {α : Type} (m : Tbl α) (k : Nat) (v : α) : Tbl α := m.splice k (some v)

/-- Makes `v` the entry at `k`: writing the default value removes the entry. -/
def Tbl.set {α : Type} [DecidableEq α] (d : α) (m : Tbl α) (k : Nat) (v : α) : Tbl α :=
  m.splice k (if v = d then none else some v)

/-- The canonical form: keys strictly rising, no entry equal to the default value. -/
def Tbl.wf {α : Type} [DecidableEq α] (d : α) (m : Tbl α) : Bool :=
  decide ((m.map Prod.fst).Pairwise (· < ·)) && m.all (fun e => decide (e.2 ≠ d))

/-- The keys of the listed entries. -/
def Tbl.keys {α : Type} (m : Tbl α) : List Nat := m.map (·.1)

/-- The first value of `o`, or `d`. -/
def orElse {α : Type} (o : Option α) (d : α) : α := o.getD d

end Sys2Proof
end

