-- ==== Sys2Proof/Syntax.lean ====
section
/-! DEFINITION. The commands of the BN-1620: one constructor of `Instr` for each row of the table of
operations and events, and the operand types they carry. -/

namespace Sys2Proof

/-- A physical tile: floor × 19,200 + room × 1,200 + tile (R20, R28). -/
abbrev TileId := Fin 307200
/-- A room: floor × 16 + room (R20). -/
abbrev RoomId := Fin 256
/-- A floor F0–F15 (R18). -/
abbrev FloorId := Fin 16
/-- An edge die by its code: 0 EN, 1 EE, 2 ES, 3 EW (R18); its PCIe port has the same number (R648). -/
abbrev DieId := Fin 4
/-- A fabric link within its edge die (chapter "Yogan links"). -/
abbrev LinkId := Fin 8

/-- The fields every host command carries (R506), and the port and submission ring it was fetched from.
`rsv` is the offset of the first byte with a bit that the table or the opcode does not assign and that is not zero, if there
is one (R13): bytes 6–7 and 12–15, the bytes after the opcode's parameters, and bits [7:1] of byte 16 of a STOP or 17 of a
SESSION OPEN. `hostErr` is an input: the host address at which a write of the command's own record to host memory fails, where
one does (R509). -/
structure CmdHdr where
  port  : DieId
  ring  : Fin 8
  minor : Byte
  flags : BitVec 16
  tag   : BitVec 16
  unit  : Word
  rsv   : Option Nat
  hostErr : Option DWord
  deriving DecidableEq, Repr

/-- A command in progress, named by port, ring and TAG. -/
structure CmdId where
  port : DieId
  ring : Fin 8
  tag  : BitVec 16
  deriving DecidableEq, Repr

/-- What a read of host memory returned to the module: the bytes, or the host address that failed
(status 0x0108 of R509). -/
inductive HostRead where
  | bytes (l : List Byte)
  | error (addr : DWord)
  deriving DecidableEq, Repr

/-- A version range of NEGOTIATE (R514). -/
structure VerRange where
  major : Byte
  lo    : Byte
  hi    : Byte
  deriving DecidableEq, Repr

/-- The guard of an instruction word (R88): enable, negate, predicate. -/
structure Guard where
  en  : Bool
  neg : Bool
  p   : BitVec 3
  deriving DecidableEq, Repr

/-- The header fields of an engine instruction (R89), without its opcode. -/
structure EngHdr where
  g     : Guard
  wen   : Bool
  wkeep : Bool
  wf    : BitVec 4
  den   : Bool
  df    : BitVec 4
  hd    : BitVec 6
  ha    : BitVec 6
  hb    : BitVec 6
  hc    : BitVec 6
  ctrl  : BitVec 16
  deriving DecidableEq, Repr

/-- The two-register operations of R92, opcodes 0x10–0x1B. -/
inductive AluOp where
  | add | sub | and | or | xor | shl | shr | sra | min | max | minu | maxu
  deriving DecidableEq, Repr

/-- The immediate operations of R92, opcodes 0x20 and 0x22–0x27. -/
inductive AluImmOp where
  | addi | andi | ori | xori | shli | shri | srai
  deriving DecidableEq, Repr

/-- The engine opcodes of R174, R201, R230 and R277. -/
inductive EngOp where
  | pmul | pdrn
  | dload | dmul | ddrn | dkv
  | vmap | vred | vtopk | vqnt
  | hmov | hfill | hzero | hrel
  deriving DecidableEq, Repr

/-- One instruction of a tile's program, as its words decode (R88, R89, R92). -/
inductive TileInstr where
  | nop | halt
  | trap (code : BitVec 16)
  | alu (op : AluOp) (rd ra rb : BitVec 5)
  | mul (rd ra rb : BitVec 5)
  | alui (op : AluImmOp) (rd ra : BitVec 5) (imm : Word)
  | li (rd : BitVec 5) (imm : Word)
  | cmp (pd : BitVec 3) (ra rb : BitVec 5) (cc : BitVec 4)
  | cmpi (pd : BitVec 3) (ra : BitVec 5) (imm : Word) (cc : BitVec 4)
  | plog (pd pa pb : BitVec 3) (fn : BitVec 4)
  | ld (rd ra : BitVec 5) (imm : Word)
  | st (ra rb : BitVec 5) (imm : Word)
  | dsw (rb : BitVec 5) (h : BitVec 6) (w : BitVec 3)
  | dsr (rd : BitVec 5) (h : BitVec 6) (w : BitVec 3)
  | setf (f : BitVec 4)
  | clrf (f : BitVec 4)
  | waitf (f : BitVec 4) (keep : Bool)
  | bara (b : BitVec 5) (f : BitVec 4)
  | reds (rd ra : BitVec 5) (op : BitVec 4) (b : BitVec 5) (f : BitVec 4)
  | br (target : BitVec 10)
  | call (target : BitVec 10)
  | ret
  | loop (ra : BitVec 5) (endA : BitVec 10)
  | loopi (count : BitVec 16) (endA : BitVec 10)
  | engine (op : EngOp) (h : EngHdr) (param : DWord)
  deriving DecidableEq, Repr

/-- What the margin sensors of a room report in a period (R56). -/
inductive Margin where
  | quiet | caution | warning
  deriving DecidableEq, Repr

/-- Where wires A and B of a sync signal differ (R360): the room's node, its floor's hub, the module hub, or the sync
port of an edge die. -/
inductive SyncNode where
  | room | floorHub | moduleHub
  | diePort (d : DieId)
  deriving DecidableEq, Repr

/-- A single fault that strikes a tile or room in a period (R553). A mask inverts bits of a value formed or held; of an array
`part` says which value: 0 the sum of a column or group, 1 the word that the latch adder writes, 2 what the pass combiner forms,
3 the result of one converter, 4 of one bench adder (R192–R195). `bank` is one of the two sets of weight registers, which are
active and shadow in turn (R171). `stage` of a vector copy is 0–3 a slot, 4 a table, 5 a reduction, 6 top-k, 7 the quantiser, 8
the generator (R259, R260). `windowParity`, `queueWord`, `slotRegister` and the latches strike stored words with parity.
`serviceFlit` strikes a bit of a word of the packet at the head of a service router's input buffer (R337), `dieBuffer` a word of
the oldest record in a buffer of an edge die (R564). -/
inductive Upset where
  | pressLogic (t : TileId) (part : Fin 5) (array column : Fin 4) (mask : BitVec 64)
  | pressWeight (t : TileId) (bank : Fin 2) (array column : Fin 4) (row : Fin 8) (mask : BitVec 33)
  | pressLatch (t : TileId) (array : Fin 4) (word : Fin 1024) (mask : BitVec 40)
  | drawLogic (t : TileId) (part : Fin 5) (slot : Fin 8) (mask : BitVec 64)
  | drawLatch (t : TileId) (slot : Fin 8) (pass : Fin 4) (mask : BitVec 40)
  | slotRegister (t : TileId) (slot : Fin 8)
  | vectorCopy (t : TileId) (stage : Fin 9) (lane : Fin 64)
  | windowParity (t : TileId) (window : Fin 32) (word : Fin 8)
  | queueWord (t : TileId) (queue : Fin 4) (index : Fin 8)
  | lockstep (t : TileId) (item : Fin 4)
  | routeCompare (t : TileId)
  | generation (t : TileId) (slot : Fin 8) (e2 g2 : Byte)
  | programStore (t : TileId) (addr : BitVec 10) (trailer : Bool) (bits : Fin 3)
  | routeStore (t : TileId) (addr : Fin 512)
  | atticBits (t : TileId) (word : Fin 8192) (bits : Fin 3)
  | cellarBits (t : TileId) (word : Fin 32768) (bits : Fin 3)
  | meshParity (t : TileId) (port : Fin 4) (bit : Fin 143)
  | benchBits (t : TileId) (array : Fin 4) (entry : Fin 4096) (bits : Fin 3)
  | drawBenchBits (t : TileId) (slot : Fin 8) (entry : Fin 512) (bits : Fin 3)
  | slotBits (t : TileId) (slot : Fin 8) (word : Fin 264) (bits : Fin 3)
  | syncWire (node : SyncNode) (signal a b : Nat)
  | treadCounter
  | governor (quantity : Fin 3) (copy : Nat)
  | seqRegister (t : TileId) (trailer : Bool) (r : BitVec 5) (mask : Word)
  | hatchSlip (t : TileId) (port : Fin 4) (full : Bool)
  | serviceFlit (t : TileId) (port : Fin 5) (chan : Fin 4) (word : Fin 72) (bit : Fin 32)
  | dieBuffer (d : DieId) (buffer : Fin 64) (word : Fin 256)
  deriving DecidableEq, Repr

/-- A result of a calibration function in a slot (R76, R77). `unit` is the receiving lane (tile × 4 + direction) of a hatch
phase check, or the sensor site of a recalibration. `value` is the sampling phase at the window's centre, or the caution
tap; `other` the remaining margin, or the warning tap. The record of a result out of range gives the range's bounds. -/
structure CalResult where
  unit : Nat
  value : Int
  other : Int
  inRange : Bool
  lo : Int
  hi : Int
  deriving DecidableEq, Repr

/-- The outcome of one attempt at a start-up, module-reset or floor-reset step (R628, R638). -/
inductive Attempt where
  | pass
  | fail (code : BitVec 16)
  | absent
  | hang
  deriving DecidableEq, Repr

/-- A unit that a journal entry names (R634): kind 0 module, 1 edge die, 2 floor, 3 link, 4 PCIe port. -/
structure BootUnit where
  kind : Fin 5
  num  : Byte
  deriving DecidableEq, Repr

/-- The outcomes of the attempts that do not pass: start-up step number 1–13, unit, attempt 1 or 2. -/
structure AttemptRow where
  step    : Nat
  unit    : BootUnit
  attempt : Nat
  result  : Attempt
  deriving DecidableEq, Repr

/-- A copy of the firmware in flash as its header and body stand (R642). -/
structure FirmwareCopy where
  magic   : Word
  svn     : BitVec 16
  commit  : Bool
  bodyLen : Word
  key     : BitVec 768
  sig     : BitVec 768
  zeroRest : Bool
  body    : List Byte
  fwMajor : Byte
  fwMinor : Byte
  deriving DecidableEq, Repr

/-- A key record of the flash as it unseals (R644): `none` where it does not unseal. -/
structure KeyRecords where
  owner   : List (Option (BitVec 768))
  crate   : List (Option (BitVec 256))
  counter : Word
  deriving DecidableEq, Repr

/-- What a start meets outside the module and in its tests: outcomes of attempts, the flash's firmware
copies and key records, whether the always-on memory kept its contents, and the trained settings: of each stair, and of the
sampling phase of each receiving hatch lane (tile × 4 + direction). A stair or lane that is not listed trains to 0. -/
structure StartEnv where
  attempts : List AttemptRow
  pwrgd    : Bool
  vaonKept : Bool
  copyA    : FirmwareCopy
  copyB    : FirmwareCopy
  keys     : KeyRecords
  flashMiB : Nat
  stair    : List (Nat × Nat)
  phases   : List (Nat × Int)
  deriving DecidableEq, Repr

/-- Who makes a register access (R531, R533): a port or firmware. -/
inductive Requester where
  | port (p : DieId)
  | firmware
  deriving DecidableEq, Repr

/-- A unit set and who accesses it (R533, R539). -/
structure UnitSetAccess where
  w   : Requester
  num : Fin 64
  deriving DecidableEq, Repr

/-- Where a read starts, and of how many bytes it is (R529). -/
structure ReadAt where
  off  : BitVec 31
  size : Nat
  deriving DecidableEq, Repr

/-- A base address register of a function (R527, R528). -/
inductive Bar where
  | bar0 | bar2
  deriving DecidableEq, Repr

/-- The source of a service-network packet (R333): a tile, an edge die with its edge tag, or what replies for a floor: its
combiner or a bridge into it (R342, R345, R356). -/
inductive Src where
  | tile (t : TileId)
  | die (d : DieId) (etag : BitVec 16)
  | floor (f : FloorId)
  deriving DecidableEq, Repr

/-- The multicast target form of R335. -/
structure Multicast where
  ax   : BitVec 2
  fi   : BitVec 4
  fm   : BitVec 4
  rm   : BitVec 16
  clo  : BitVec 6
  chi  : BitVec 6
  rlo  : BitVec 5
  rhi  : BitVec 5
  line : BitVec 11
  half : Bool
  deriving DecidableEq, Repr

/-- A unicast target of R334. -/
structure Unicast where
  dtile : BitVec 19
  cellar : Bool
  line  : BitVec 13
  half  : Bool
  cnt   : BitVec 16
  deriving DecidableEq, Repr

/-- Where a packet goes: a target of R334 or R335, the source of the request that it answers, or for a target's answer to a
multicast from `dst` the combiner of its floor (R356). -/
inductive Target where
  | uni (u : Unicast)
  | multi (m : Multicast)
  | reply (dst : Src)
  | combiner (f : FloorId) (dst : Src)
  deriving DecidableEq, Repr

/-- The packet kinds of R336, and a KIND code that names none. -/
inductive PktKind where
  | write | read | zero | deliver
  | ack | data | bounce | refused | fenced | branchDropped | zeroDone
  | unassigned (code : BitVec 4)
  deriving DecidableEq, Repr

/-- R564: an origin of poison: source code, location and time. -/
structure Origin where
  code : Nat
  loc  : Nat
  time : Nat
  deriving DecidableEq, Repr

/-- A service-network packet: the header fields of R333 to R335 and its payload with poison marks of
its 64-bit words. `hdrGood` is false where a header word fails its parity or a reserved bit of the header is set (R337). `org` is
the origin that its poison carries (R565), `struck` the header words that an upset has changed, each with the bits it inverted. -/
structure Packet where
  kind : PktKind
  flg  : Bool
  esc  : Bool
  str  : BitVec 4
  len  : Nat
  tf   : BitVec 4
  tag  : BitVec 6
  sub  : BitVec 4
  src  : Src
  tgt  : Target
  payload : List Byte
  poison  : List Nat
  hdrGood : Bool
  org : Option Origin
  struck : List (Nat × Nat) := []
  deriving DecidableEq, Repr

/-- A crate set that is loading: an inventory entry, or a bank of an adapter slot. -/
inductive SetRef where
  | model (e : Fin 16)
  | bank (slot : Fin 64) (b : Fin 2)
  deriving DecidableEq, Repr

/-- The header of a flit (R598). -/
structure FlitHdr where
  lseq : Byte
  ackv : Bool
  lack : Byte
  nak  : Bool
  crd  : BitVec 11
  pseq : BitVec 16
  deriving DecidableEq, Repr

/-- How a flit arrived (R596, R599): whether its CRC-32C matches, whether its KIND is legal, and which of the 512 codewords
of its group carry an uncorrectable mark. -/
structure FlitRx where
  crc   : Bool
  legal : Bool
  marks : List (Fin 512)
  deriving DecidableEq, Repr

/-- A sync frame (R617). -/
structure SyncFrame where
  bar   : BitVec 5
  round : Byte
  op    : BitVec 3
  hasVal : Bool
  poison : Bool
  count : BitVec 16
  modn  : BitVec 16
  value : Word
  x     : BitVec 16
  y     : BitVec 16
  z     : BitVec 16
  ichk  : Word
  deriving DecidableEq, Repr

/-- The payload of a train flit (R609), with the flit's own goodness. -/
structure TrainInfo where
  serial : DWord
  code   : Byte
  link   : Byte
  vmaj   : Byte
  vlo    : Byte
  vhi    : Byte
  reason : Byte
  deriving DecidableEq, Repr

/-- How a ring of a port is named in a size write (R544, R545). -/
inductive RingRef where
  | submission (i : Fin 8)
  | completion (i : Fin 8)
  | notice
  | output (i : Fin 16)
  deriving DecidableEq, Repr

/-- The fields of a class's block that host software writes (R540). -/
inductive GoalField where
  | goal | ttft | tbt | spec
  deriving DecidableEq, Repr

/-- What causes a port reset (R652). -/
inductive PortResetCause where
  | perst | functionLevel | hot | linkDown
  deriving DecidableEq, Repr

/-- A sensor reading: floor, sensor and value in 1/16 °C (R395, R548). -/
structure Reading where
  floor  : FloorId
  sensor : Fin 64
  value  : BitVec 16
  deriving DecidableEq, Repr

/-- The identity of the command that a header heads. -/
def CmdHdr.id (h : CmdHdr) : CmdId := ⟨h.port, h.ring, h.tag⟩

/-- The commands of the block: the rows of the table of operations and events, in its order. -/
inductive Instr where
  | commandFetch (port : DieId) (ring : Fin 8) (pkt : BitVec 512)
  | negotiate (h : CmdHdr) (r0 r1 r2 : VerRange)
  | query (h : CmdHdr) (item : Byte) (index : Word) (qaddr : DWord) (qlen : Word)
  | imageLoad (h : CmdHdr) (iaddr ilen : DWord) (p1 p2 p3 p4 p5 : Word) (raddr : DWord) (data : HostRead)
  | imageStart (h : CmdHdr) (taddr : DWord) (npipe : BitVec 16) (data : HostRead)
  | imageStop (h : CmdHdr)
  | crateLoad (h : CmdHdr) (caddr : DWord) (clen : Word) (data : HostRead)
  | reside (h : CmdHdr) (model : Byte)
  | evict (h : CmdHdr) (entry : Byte)
  | evictionComplete (entry : Fin 16)
  | adapterLoad (h : CmdHdr) (slot : Byte) (version : BitVec 16) (ident : DWord)
  | bankZeroingDone (slot : Fin 64) (bank : Fin 2)
  | sessionOpen (h : CmdHdr) (cls urg aslot oring : Byte) (route : Word) (seed : DWord)
  | feed (h : CmdHdr) (handle : Word) (rows bytes : BitVec 16) (daddr : DWord) (data : HostRead)
  | mark (h : CmdHdr) (handle : Word) (rows : BitVec 16)
  | sessionClose (h : CmdHdr) (handle : Word)
  | ordinaryCancellation (h : CmdHdr) (handle : Word)
  | urgentCancellation (h : CmdHdr) (handle : Word)
  | stopSet (h : CmdHdr)
  | stopClear (h : CmdHdr)
  | abort (h : CmdHdr)
  | fence (h : CmdHdr)
  | floorReset (h : CmdHdr) (env : StartEnv)
  | floorRejoin (f : FloorId)
  | moduleReset (h : CmdHdr) (env : StartEnv)
  | gear (h : CmdHdr) (target : Byte)
  | gearConfirmation
  | journalCopy (h : CmdHdr) (jaddr : DWord) (jlen : Word)
  | journalClear (h : CmdHdr)
  | peerFenced (h : CmdHdr)
  | peerRestored (h : CmdHdr)
  | clockPeriod (r : RoomId) (margin : Margin) (cal : List CalResult) (upsets : List Upset)
  | nop (t : TileId) (g : Guard)
  | halt (t : TileId) (g : Guard)
  | trap (t : TileId) (g : Guard) (code : BitVec 16)
  | add (t : TileId) (g : Guard) (rd ra rb : BitVec 5)
  | sub (t : TileId) (g : Guard) (rd ra rb : BitVec 5)
  | and (t : TileId) (g : Guard) (rd ra rb : BitVec 5)
  | or (t : TileId) (g : Guard) (rd ra rb : BitVec 5)
  | xor (t : TileId) (g : Guard) (rd ra rb : BitVec 5)
  | shl (t : TileId) (g : Guard) (rd ra rb : BitVec 5)
  | shr (t : TileId) (g : Guard) (rd ra rb : BitVec 5)
  | sra (t : TileId) (g : Guard) (rd ra rb : BitVec 5)
  | min (t : TileId) (g : Guard) (rd ra rb : BitVec 5)
  | max (t : TileId) (g : Guard) (rd ra rb : BitVec 5)
  | minu (t : TileId) (g : Guard) (rd ra rb : BitVec 5)
  | maxu (t : TileId) (g : Guard) (rd ra rb : BitVec 5)
  | mul (t : TileId) (g : Guard) (rd ra rb : BitVec 5)
  | addi (t : TileId) (g : Guard) (rd ra : BitVec 5) (imm : Word)
  | andi (t : TileId) (g : Guard) (rd ra : BitVec 5) (imm : Word)
  | ori (t : TileId) (g : Guard) (rd ra : BitVec 5) (imm : Word)
  | xori (t : TileId) (g : Guard) (rd ra : BitVec 5) (imm : Word)
  | shli (t : TileId) (g : Guard) (rd ra : BitVec 5) (imm : BitVec 5)
  | shri (t : TileId) (g : Guard) (rd ra : BitVec 5) (imm : BitVec 5)
  | srai (t : TileId) (g : Guard) (rd ra : BitVec 5) (imm : BitVec 5)
  | li (t : TileId) (g : Guard) (rd : BitVec 5) (imm : Word)
  | cmp (t : TileId) (g : Guard) (pd : BitVec 3) (ra rb : BitVec 5) (cc : BitVec 4)
  | cmpi (t : TileId) (g : Guard) (pd : BitVec 3) (ra : BitVec 5) (imm : Word) (cc : BitVec 4)
  | plog (t : TileId) (g : Guard) (pd pa pb : BitVec 3) (fn : BitVec 4)
  | ld (t : TileId) (g : Guard) (rd ra : BitVec 5) (imm : Word)
  | st (t : TileId) (g : Guard) (ra rb : BitVec 5) (imm : Word)
  | dsw (t : TileId) (g : Guard) (rb : BitVec 5) (hn : BitVec 6) (w : BitVec 3)
  | dsr (t : TileId) (g : Guard) (rd : BitVec 5) (hn : BitVec 6) (w : BitVec 3)
  | setf (t : TileId) (g : Guard) (f : BitVec 4)
  | clrf (t : TileId) (g : Guard) (f : BitVec 4)
  | waitf (t : TileId) (g : Guard) (f : BitVec 4) (keep : Bool)
  | bara (t : TileId) (g : Guard) (b : BitVec 5) (f : BitVec 4)
  | reds (t : TileId) (g : Guard) (rd ra : BitVec 5) (op : BitVec 4) (b : BitVec 5) (f : BitVec 4)
  | br (t : TileId) (g : Guard) (target : BitVec 10)
  | call (t : TileId) (g : Guard) (target : BitVec 10)
  | ret (t : TileId) (g : Guard)
  | loop (t : TileId) (ra : BitVec 5) (endA : BitVec 10)
  | loopi (t : TileId) (count : BitVec 16) (endA : BitVec 10)
  | pmul (t : TileId) (h : EngHdr) (param : DWord)
  | pdrn (t : TileId) (h : EngHdr) (param : DWord)
  | dload (t : TileId) (h : EngHdr) (param : DWord)
  | dmul (t : TileId) (h : EngHdr) (param : DWord)
  | ddrn (t : TileId) (h : EngHdr) (param : DWord)
  | dkv (t : TileId) (h : EngHdr) (param : DWord)
  | vmap (t : TileId) (h : EngHdr) (param : DWord)
  | vred (t : TileId) (h : EngHdr) (param : DWord)
  | vtopk (t : TileId) (h : EngHdr) (param : DWord)
  | vqnt (t : TileId) (h : EngHdr) (param : DWord)
  | hmov (t : TileId) (h : EngHdr) (param : DWord)
  | hfill (t : TileId) (h : EngHdr) (param : DWord)
  | hzero (t : TileId) (h : EngHdr) (param : DWord)
  | hrel (t : TileId) (h : EngHdr) (param : DWord)
  | engineInstructionStart (t : TileId) (q : Fin 4)
  | engineInstructionComplete (t : TileId) (q : Fin 4)
  | correctionPulse
  | allowanceTick
  | holdLimit (r : RoomId)
  | hangWatchdog (r : RoomId)
  | replyLimit (t : TileId) (e : Fin 64)
  | quietLimit (c : CmdId)
  | quietReport (c : CmdId) (r : RoomId)
  | requestResend (t : TileId) (e : Fin 64)
  | firmwareWatchdog (d : DieId) (pc : Word)
  | crateArrivalTimeout (c : SetRef)
  | regulatorAcknowledgement
  | regulatorTimeout
  | thermalPoll (readings : List Reading)
  | thermalTrip (r : Reading)
  | start (env : StartEnv)
  | startStepTimeout
  | pwrgdInRise (env : StartEnv)
  | mresetNAssert
  | powerRemoval
  | portReset (p : DieId) (cause : PortResetCause)
  | d3hotEntry (p : DieId)
  | d0Return (p : DieId)
  | referenceLoss
  | referenceReturn (env : StartEnv)
  | pllUnlock (f : FloorId)
  | roomClockAbsent (r : RoomId)
  | edgeDieFailure (d : DieId) (sub : Fin 5) (addr : Word)
  | leadTakeover
  | testModeEntry
  | roomRestart (r : RoomId)
  | scrubRead (t : TileId) (cellar : Bool) (line : BitVec 13)
  | smbusIdentityRead
  | smbusStatusRead
  | smbusTemperatureRead
  | messageFragment (fb : Byte) (body : List Byte) (pecGood : Bool)
  | messageReplyRead
  | deviceKeyRead
  | ownerClaim (key : BitVec 768)
  | ownerSet (slot : Byte) (nonce : Word) (key sig : BitVec 768)
  | ownerClear (slot : Byte) (nonce : Word) (sig : BitVec 768)
  | crateKeySet (slot signer : Byte) (nonce : Word) (e : BitVec 768) (iv : BitVec 96) (wrapped : BitVec 256) (gtag : BitVec 128) (sig : BitVec 768)
  | crateKeyClear (slot signer : Byte) (nonce : Word) (sig : BitVec 768)
  | statusWordWrite (w : Requester) (unit : Word) (value : Word)
  | setAliasWrite (w : Requester) (bar : Bar) (off : BitVec 31) (value : Word)
  | clearAliasWrite (w : Requester) (bar : Bar) (off : BitVec 31) (value : Word)
  | invertAliasWrite (w : Requester) (bar : Bar) (off : BitVec 31) (value : Word)
  | doorbellWrite (p : DieId) (ring : Fin 8) (value : Word)
  | completionHeadWrite (p : DieId) (ring : Fin 9) (value : Word)
  | outputHeadWrite (p : DieId) (ring : Fin 16) (value : Word)
  | ringSizeWrite (p : DieId) (ring : RingRef) (value : Word)
  | flogrWrite (value : Word)
  | holdlimWrite (value : Word)
  | wdogWrite (value : Word)
  | unitSetEntryWrite (set : UnitSetAccess) (entry : Fin 64) (value : Word)
  | ctrlStopWrite (unit : Word) (value : Word)
  | classGoalWrite (cls : Fin 8) (field : GoalField) (value : Word)
  | eventCounterWrite (w : Requester) (bar : Bar) (off : BitVec 31) (value : Word)
  | lowWordRead (w : Requester) (bar : Bar) (off : ReadAt)
  | highWordWrite (w : Requester) (bar : Bar) (off : BitVec 31) (value : Word)
  | peerselWrite (value : Word)
  | registerWrite (w : Requester) (bar : Bar) (off : BitVec 31) (size : Nat) (value : DWord)
  | servicePacketRoute (t : TileId) (inp : Fin 5) (chan : Fin 4)
  | writeRequest (t : TileId) (p : Packet)
  | readRequest (t : TileId) (p : Packet)
  | remoteCellarRead (t : TileId) (p : Packet)
  | zeroRequest (t : TileId) (p : Packet)
  | cellarZeroingComplete (t : TileId)
  | deliver (t : TileId) (p : Packet)
  | ack (p : Packet)
  | dataReply (p : Packet)
  | bounce (p : Packet)
  | refused (p : Packet)
  | fencedReply (p : Packet)
  | branchDropped (p : Packet)
  | zeroDone (p : Packet)
  | floorCombinerReply (f : FloorId) (p : Packet)
  | barrierCompletion (b : BitVec 5)
  | reductionResult (b : BitVec 5)
  | gearAnnouncement (r : RoomId) (low : BitVec 16) (gear : BitVec 2)
  | stopAnnouncement (r : RoomId) (unit : Word) (set : Bool)
  | abortAnnouncement (r : RoomId) (unit : Word)
  | voidAnnouncement (r : RoomId) (pipe : Byte) (mask : Byte)
  | voidAcknowledgement (d : DieId) (pipe : Byte)
  | stepReportRead (pipe : Byte)
  | slotTableResend (pipe : Byte) (f : FloorId)
  | outputRingRead (pipe : Byte)
  | inputRecordResend (pipe : Byte)
  | sendRingRead (d : DieId) (ring : BitVec 12)
  | linkRecordWrite (d : DieId) (port : Fin 16)
  | linkTraining (d : DieId) (l : LinkId) (peer : TrainInfo)
  | linkTrainingTimeout (d : DieId) (l : LinkId)
  | dataFlit (d : DieId) (l : LinkId) (rx : FlitRx) (h : FlitHdr) (payload : List Byte)
  | idleFlit (d : DieId) (l : LinkId) (rx : FlitRx) (h : FlitHdr)
  | trainFlit (d : DieId) (l : LinkId) (rx : FlitRx) (info : TrainInfo)
  | hello (d : DieId) (l : LinkId) (h : FlitHdr) (f : SyncFrame)
  | arrive (d : DieId) (l : LinkId) (h : FlitHdr) (f : SyncFrame)
  | complete (d : DieId) (l : LinkId) (h : FlitHdr) (f : SyncFrame)
  | linkRetryTimeout (d : DieId) (l : LinkId)
  | laneSignalLoss (d : DieId) (l : LinkId) (lane : Fin 4)
  | linkSilenceEnd (d : DieId) (l : LinkId)
  | perstNDeassert (p : DieId) (env : StartEnv)
  | journalFlashWrite
  | vsramBelowRange
  deriving DecidableEq, Repr

end Sys2Proof
end

