-- ==== Sys2Proof/WellFormed.lean ====
section
/-! DEFINITION. Well-formedness of the instructions of a tile's program (R88–R93 and the field tables of
the engine chapters) and of the commands of the block. -/

namespace Sys2Proof

/-- R91: a guard that is off names no predicate. -/
def Guard.wf (g : Guard) : Bool := g.en || (!g.neg && g.p == 0)

/-- The field of `len` bits at `lo`. -/
def fld {n : Nat} (w : BitVec n) (lo len : Nat) : Nat := (w.toNat / 2 ^ lo) % 2 ^ len

/-- R239: the operations of a chain: opcode known; how many operands it takes. -/
def vecOpArity (op : Nat) : Option Nat :=
  if op = 4 ∨ op = 12 ∨ op = 13 then some 2
  else if op = 7 ∨ op = 8 ∨ (16 ≤ op ∧ op ≤ 23) then some 0
  else if op ≤ 14 ∨ (24 ≤ op ∧ op ≤ 26) then some 1
  else none

/-- R233, R91: an operation slot: assigned opcode, reserved bits and unused operand fields zero. -/
def vecSlotWf (s : Nat) : Bool :=
  s / 1024 == 0 &&
  match vecOpArity (s % 64) with
  | none => false
  | some 0 => s / 64 == 0
  | some 1 => s / 256 == 0
  | some _ => true

/-- R232: the slots below CN are legal, the others zero. -/
def vecSlotsWf (param : DWord) (cn slots : Nat) : Bool :=
  (List.range slots).all (fun i =>
    let s := fld param (16 * i) 16
    if i < cn then vecSlotWf s else s == 0)

/-- R91: the fields of an engine instruction that it does not use are zero and its codes are assigned. The
CTRL field of a haul instruction is judged when it enters its queue (R278). -/
def engineWf (op : EngOp) (h : EngHdr) (param : DWord) : Bool :=
  h.g.wf && (h.wen || (!h.wkeep && h.wf == 0)) && (h.den || h.df == 0) &&
  match op with
  | .pmul => fld param 44 20 == 0 && fld h.ctrl 2 14 == 0 && h.hc == 0 && (h.ctrl.getLsbD 1 || h.hd == 0)
  | .pdrn => fld param 44 20 == 0 && fld param 12 12 == 0 && h.ctrl == 0 &&
      h.ha == 0 && h.hb == 0 && h.hc == 0
  | .dload => fld param 10 54 == 0 && fld h.ctrl 0 8 == 0 && h.hb == 0 && h.hc == 0 && h.hd == 0
  | .dmul => fld param 38 26 == 0 && fld h.ctrl 4 4 == 0 && fld h.ctrl 2 2 != 3 && h.ha == 0 && h.hc == 0 &&
      (h.ctrl.getLsbD 1 || h.hd == 0)
  | .ddrn => fld param 38 26 == 0 && fld param 0 10 == 0 && fld param 19 10 == 0 && fld h.ctrl 0 8 == 0 &&
      h.ha == 0 && h.hb == 0 && h.hc == 0
  | .dkv => param == 0 && fld h.ctrl 0 8 == 0 && h.hb == 0 && h.hc == 0
  | .vmap => fld h.ctrl 13 3 == 0 && fld h.ctrl 0 3 < 6 && vecSlotsWf param (fld h.ctrl 5 3) 4
  | .vred => fld h.ctrl 14 2 == 0 && fld h.ctrl 0 3 < 6 && vecSlotsWf param (fld h.ctrl 5 3) 3 &&
      fld param 48 4 < 8 && fld param 62 2 == 0 && (h.ctrl.getLsbD 13 || fld param 52 5 == 0)
  | .vtopk => fld h.ctrl 13 3 == 0 && fld h.ctrl 0 3 < 6 && vecSlotsWf param (fld h.ctrl 5 3) 3 &&
      fld param 52 5 == 0 && fld param 62 2 == 0
  | .vqnt => fld h.ctrl 13 3 == 0 && fld h.ctrl 0 3 < 6 && vecSlotsWf param (fld h.ctrl 5 3) 3 &&
      fld param 48 16 == 0
  | .hmov => param == 0 && h.hb == 0 && h.hc == 0
  | .hfill => fld param 32 32 == 0 && h.ha == 0 && h.hb == 0 && h.hc == 0
  | .hzero => param == 0 && h.ha == 0 && h.hb == 0 && h.hc == 0
  | .hrel => param == 0 && h.ha == 0 && h.hb == 0 && h.hc == 0

/-- R93, R97, R112: the operands of a scalar instruction are assigned codes; an immediate shift has a
5-bit amount. -/
def TileInstr.wf : TileInstr → Bool
  | .alui .shli _ _ imm => imm.ult 32
  | .alui .shri _ _ imm => imm.ult 32
  | .alui .srai _ _ imm => imm.ult 32
  | .cmp _ _ _ cc => cc.ult 6
  | .cmpi _ _ _ cc => cc.ult 6
  | .plog _ _ pb fn => fn.ult 6 && (fn.ult 4 || pb == 0)
  | .reds _ _ op _ _ => op.ult 5
  | .engine op h param => engineWf op h param
  | _ => true

/-- R90: LOOP and LOOPI carry GEN = 0; other guards are well formed. -/
def progWf (g : Guard) : TileInstr → Bool
  | .loop _ _ => g == ⟨false, false, 0⟩
  | .loopi _ _ => g == ⟨false, false, 0⟩
  | .engine op h param => g == h.g && engineWf op h param
  | i => g.wf && i.wf

/-- R333, R336: whether a packet's payload is what the table gives its kind, and as long as LEN says. -/
def Packet.payloadOk (p : Packet) : Bool :=
  p.len ≤ 16 &&
  match p.kind with
  | .read => p.payload.isEmpty
  | .zero => p.len == 1 && p.payload.length == 16
  | .write | .data | .deliver => p.payload.length == 16 * p.len
  | .ack => p.payload.length == 16 * p.len && p.len ≤ 1
  | .bounce | .refused | .fenced | .branchDropped | .zeroDone => p.len == 0 && p.payload.isEmpty
  | .unassigned _ => true

/-- A packet of a command: its payload as its kind has it, its poison marks within it, and a KIND code that names no kind one of
those that R336 leaves out. -/
def Packet.wf (p : Packet) : Bool :=
  p.payloadOk && p.payload.length ≤ 256 && p.poison.all (fun i => i < 32) &&
  match p.kind with
  | .unassigned k => [0x4, 0x5, 0x6, 0x7, 0xF].contains k.toNat
  | _ => true

/-- The operands of a command lie within what its row allows. -/
def Instr.wf : Instr → Bool
  | .nop _ g | .halt _ g | .trap _ g _ | .ret _ g | .setf _ g _ | .clrf _ g _ => g.wf
  | .waitf _ g _ _ | .bara _ g _ _ | .br _ g _ | .call _ g _ | .li _ g _ _ => g.wf
  | .dsw _ g _ _ _ | .dsr _ g _ _ _ | .ld _ g _ _ _ | .st _ g _ _ _ | .mul _ g _ _ _ => g.wf
  | .add _ g _ _ _ | .sub _ g _ _ _ | .and _ g _ _ _ | .or _ g _ _ _ | .xor _ g _ _ _ => g.wf
  | .shl _ g _ _ _ | .shr _ g _ _ _ | .sra _ g _ _ _ => g.wf
  | .min _ g _ _ _ | .max _ g _ _ _ | .minu _ g _ _ _ | .maxu _ g _ _ _ => g.wf
  | .addi _ g _ _ _ | .andi _ g _ _ _ | .ori _ g _ _ _ | .xori _ g _ _ _ => g.wf
  | .shli _ g _ _ _ | .shri _ g _ _ _ | .srai _ g _ _ _ => g.wf
  | .cmp _ g pd ra rb cc => g.wf && (TileInstr.cmp pd ra rb cc).wf
  | .cmpi _ g pd ra imm cc => g.wf && (TileInstr.cmpi pd ra imm cc).wf
  | .plog _ g pd pa pb fn => g.wf && (TileInstr.plog pd pa pb fn).wf
  | .reds _ g rd ra op b f => g.wf && (TileInstr.reds rd ra op b f).wf
  | .pmul _ h p => engineWf .pmul h p
  | .pdrn _ h p => engineWf .pdrn h p
  | .dload _ h p => engineWf .dload h p
  | .dmul _ h p => engineWf .dmul h p
  | .ddrn _ h p => engineWf .ddrn h p
  | .dkv _ h p => engineWf .dkv h p
  | .vmap _ h p => engineWf .vmap h p
  | .vred _ h p => engineWf .vred h p
  | .vtopk _ h p => engineWf .vtopk h p
  | .vqnt _ h p => engineWf .vqnt h p
  | .hmov _ h p => engineWf .hmov h p
  | .hfill _ h p => engineWf .hfill h p
  | .hzero _ h p => engineWf .hzero h p
  | .hrel _ h p => engineWf .hrel h p
  | .writeRequest _ p | .readRequest _ p | .remoteCellarRead _ p | .zeroRequest _ p | .deliver _ p => p.wf
  | .ack p | .dataReply p | .bounce p | .refused p | .fencedReply p => p.wf
  | .branchDropped p | .zeroDone p => p.wf
  | .floorCombinerReply _ p => p.wf
  | .registerWrite _ _ _ size _ => size != 0
  | .lowWordRead _ _ at_ => at_.size != 0
  | .messageFragment _ body _ => body.length ≤ 254
  | .commandFetch .. | .negotiate .. | .query .. | .imageLoad .. | .imageStart .. | .imageStop ..
  | .crateLoad .. | .reside .. | .evict .. | .evictionComplete .. | .adapterLoad .. | .bankZeroingDone ..
  | .sessionOpen .. | .feed .. | .mark .. | .sessionClose .. | .ordinaryCancellation ..
  | .urgentCancellation .. | .stopSet .. | .stopClear .. | .abort .. | .fence .. | .floorReset ..
  | .floorRejoin .. | .moduleReset .. | .gear .. | .gearConfirmation | .journalCopy .. | .journalClear ..
  | .peerFenced .. | .peerRestored .. | .clockPeriod .. | .loop .. | .loopi ..
  | .engineInstructionStart .. | .engineInstructionComplete .. | .correctionPulse | .allowanceTick
  | .holdLimit .. | .hangWatchdog .. | .replyLimit .. | .quietLimit .. | .quietReport .. | .requestResend ..
  | .firmwareWatchdog .. | .crateArrivalTimeout .. | .regulatorAcknowledgement | .regulatorTimeout
  | .thermalPoll .. | .thermalTrip .. | .start .. | .startStepTimeout | .pwrgdInRise .. | .mresetNAssert
  | .powerRemoval | .portReset .. | .d3hotEntry .. | .d0Return .. | .referenceLoss | .referenceReturn ..
  | .pllUnlock .. | .roomClockAbsent .. | .edgeDieFailure .. | .leadTakeover | .testModeEntry
  | .roomRestart .. | .scrubRead .. | .smbusIdentityRead | .smbusStatusRead | .smbusTemperatureRead
  | .messageReplyRead | .deviceKeyRead | .ownerClaim .. | .ownerSet .. | .ownerClear .. | .crateKeySet ..
  | .crateKeyClear .. | .statusWordWrite .. | .setAliasWrite .. | .clearAliasWrite .. | .invertAliasWrite ..
  | .doorbellWrite .. | .completionHeadWrite .. | .outputHeadWrite .. | .ringSizeWrite .. | .flogrWrite ..
  | .holdlimWrite .. | .wdogWrite .. | .unitSetEntryWrite .. | .ctrlStopWrite .. | .classGoalWrite ..
  | .eventCounterWrite .. | .highWordWrite .. | .peerselWrite .. | .servicePacketRoute ..
  | .cellarZeroingComplete .. | .barrierCompletion .. | .reductionResult .. | .gearAnnouncement ..
  | .stopAnnouncement .. | .abortAnnouncement .. | .voidAnnouncement .. | .voidAcknowledgement ..
  | .stepReportRead .. | .slotTableResend .. | .outputRingRead .. | .inputRecordResend .. | .sendRingRead ..
  | .linkRecordWrite .. | .linkTraining .. | .linkTrainingTimeout .. | .dataFlit .. | .idleFlit ..
  | .trainFlit .. | .hello .. | .arrive .. | .complete .. | .linkRetryTimeout .. | .laneSignalLoss ..
  | .linkSilenceEnd .. | .perstNDeassert .. | .journalFlashWrite | .vsramBelowRange => true

end Sys2Proof
end

