-- ==== Sys2Proof/Decode.lean ====
section
/-! DEFINITION. The words of a tile's program (R88, R89, R92 and the opcode tables of the engine chapters):
decoder and encoder; and the answer to the rows of the table, which gives its commands no bits. -/

namespace Sys2Proof

/-- The table of operations and events gives no command any bits, so no word spells one. -/
def decodeTableWord (_nbits _w : Nat) : Option Instr := none

/-- R88: a scalar word from its fields. -/
def scalarWord (opc : BitVec 8) (g : Guard) (rd ra rb : BitVec 5) (sub : BitVec 4) (imm : Word) : DWord :=
  opc ++ BitVec.ofBool g.en ++ BitVec.ofBool g.neg ++ g.p ++ rd ++ ra ++ rb ++ sub ++ imm

/-- R89: an engine header from its fields. -/
def engineWord (opc : BitVec 8) (h : EngHdr) : DWord :=
  opc ++ BitVec.ofBool h.g.en ++ BitVec.ofBool h.g.neg ++ h.g.p ++ BitVec.ofBool h.wen ++
    BitVec.ofBool h.wkeep ++ h.wf ++ BitVec.ofBool h.den ++ h.df ++ h.hd ++ h.ha ++ h.hb ++ h.hc ++ h.ctrl

/-- R88: the opcode field. -/
def opcOf (w : DWord) : BitVec 8 := w.extractLsb' 56 8
/-- R88: the guard fields. -/
def guardOf (w : DWord) : Guard := ⟨w.getLsbD 55, w.getLsbD 54, w.extractLsb' 51 3⟩
/-- R88: RD. -/
def rdOf (w : DWord) : BitVec 5 := w.extractLsb' 46 5
/-- R88: RA. -/
def raOf (w : DWord) : BitVec 5 := w.extractLsb' 41 5
/-- R88: RB. -/
def rbOf (w : DWord) : BitVec 5 := w.extractLsb' 36 5
/-- R88: SUB. -/
def subOf (w : DWord) : BitVec 4 := w.extractLsb' 32 4
/-- R88: IMM. -/
def immOf (w : DWord) : Word := w.extractLsb' 0 32

/-- R89: the header fields of an engine instruction. -/
def hdrOf (w : DWord) : EngHdr :=
  { g := guardOf w, wen := w.getLsbD 50, wkeep := w.getLsbD 49, wf := w.extractLsb' 45 4,
    den := w.getLsbD 44, df := w.extractLsb' 40 4, hd := w.extractLsb' 34 6, ha := w.extractLsb' 28 6,
    hb := w.extractLsb' 22 6, hc := w.extractLsb' 16 6, ctrl := w.extractLsb' 0 16 }

/-- R92: the opcode of a two-register operation. -/
def AluOp.opc : AluOp → BitVec 8
  | .add => 0x10 | .sub => 0x11 | .and => 0x12 | .or => 0x13 | .xor => 0x14 | .shl => 0x15 | .shr => 0x16
  | .sra => 0x17 | .min => 0x18 | .max => 0x19 | .minu => 0x1A | .maxu => 0x1B

/-- R92: the opcode of an immediate operation. -/
def AluImmOp.opc : AluImmOp → BitVec 8
  | .addi => 0x20 | .andi => 0x22 | .ori => 0x23 | .xori => 0x24 | .shli => 0x25 | .shri => 0x26
  | .srai => 0x27

/-- R174, R201, R230, R277: the engine opcodes. -/
def EngOp.opc : EngOp → BitVec 8
  | .pmul => 0x80 | .pdrn => 0x81 | .dload => 0xA0 | .dmul => 0xA1 | .ddrn => 0xA2 | .dkv => 0xA3
  | .vmap => 0xC0 | .vred => 0xC1 | .vtopk => 0xC2 | .vqnt => 0xC3
  | .hmov => 0xE0 | .hfill => 0xE1 | .hzero => 0xE2 | .hrel => 0xE3

/-- R174, R201, R230, R277: the engine instruction an opcode selects. -/
def engOfOpc (o : BitVec 8) : Option EngOp :=
  if o = 0x80 then some .pmul else if o = 0x81 then some .pdrn
  else if o = 0xA0 then some .dload else if o = 0xA1 then some .dmul
  else if o = 0xA2 then some .ddrn else if o = 0xA3 then some .dkv
  else if o = 0xC0 then some .vmap else if o = 0xC1 then some .vred
  else if o = 0xC2 then some .vtopk else if o = 0xC3 then some .vqnt
  else if o = 0xE0 then some .hmov else if o = 0xE1 then some .hfill
  else if o = 0xE2 then some .hzero else if o = 0xE3 then some .hrel
  else none

/-- R92: the two-register operation an opcode selects. -/
def aluOfOpc (o : BitVec 8) : Option AluOp :=
  if o = 0x10 then some .add else if o = 0x11 then some .sub else if o = 0x12 then some .and
  else if o = 0x13 then some .or else if o = 0x14 then some .xor else if o = 0x15 then some .shl
  else if o = 0x16 then some .shr else if o = 0x17 then some .sra else if o = 0x18 then some .min
  else if o = 0x19 then some .max else if o = 0x1A then some .minu else if o = 0x1B then some .maxu
  else none

/-- R92: the immediate operation an opcode selects. -/
def aluImmOfOpc (o : BitVec 8) : Option AluImmOp :=
  if o = 0x20 then some .addi else if o = 0x22 then some .andi else if o = 0x23 then some .ori
  else if o = 0x24 then some .xori else if o = 0x25 then some .shli else if o = 0x26 then some .shri
  else if o = 0x27 then some .srai else none

/-- R89: whether a word is the header of an engine instruction, of two words. -/
def isEngineWord (w : DWord) : Bool := w.getLsbD 63

/-- R92: the scalar instruction that a word's fields select, before the check that unused fields are zero. -/
def scalarOf (w : DWord) : Option TileInstr :=
  let o := opcOf w
  let imm := immOf w
  match aluOfOpc o with
  | some op => some (.alu op (rdOf w) (raOf w) (rbOf w))
  | none =>
  match aluImmOfOpc o with
  | some op => some (.alui op (rdOf w) (raOf w) imm)
  | none =>
    if o = 0x00 then some .nop
    else if o = 0x01 then some .halt
    else if o = 0x02 then some (.trap (imm.extractLsb' 0 16))
    else if o = 0x1C then some (.mul (rdOf w) (raOf w) (rbOf w))
    else if o = 0x28 then some (.li (rdOf w) imm)
    else if o = 0x30 then some (.cmp ((rdOf w).extractLsb' 0 3) (raOf w) (rbOf w) (subOf w))
    else if o = 0x31 then some (.cmpi ((rdOf w).extractLsb' 0 3) (raOf w) imm (subOf w))
    else if o = 0x34 then
      some (.plog ((rdOf w).extractLsb' 0 3) ((raOf w).extractLsb' 0 3) ((rbOf w).extractLsb' 0 3) (subOf w))
    else if o = 0x40 then some (.ld (rdOf w) (raOf w) imm)
    else if o = 0x41 then some (.st (raOf w) (rbOf w) imm)
    else if o = 0x48 then some (.dsw (rbOf w) (imm.extractLsb' 0 6) (imm.extractLsb' 8 3))
    else if o = 0x49 then some (.dsr (rdOf w) (imm.extractLsb' 0 6) (imm.extractLsb' 8 3))
    else if o = 0x50 then some (.setf (imm.extractLsb' 0 4))
    else if o = 0x51 then some (.clrf (imm.extractLsb' 0 4))
    else if o = 0x52 then some (.waitf (imm.extractLsb' 0 4) (imm.getLsbD 4))
    else if o = 0x58 then some (.bara (imm.extractLsb' 0 5) (imm.extractLsb' 8 4))
    else if o = 0x59 then
      some (.reds (rdOf w) (raOf w) (subOf w) (imm.extractLsb' 0 5) (imm.extractLsb' 8 4))
    else if o = 0x60 then some (.br (imm.extractLsb' 0 10))
    else if o = 0x64 then some (.call (imm.extractLsb' 0 10))
    else if o = 0x65 then some .ret
    else if o = 0x68 then some (.loop (raOf w) (imm.extractLsb' 0 10))
    else if o = 0x69 then some (.loopi (imm.extractLsb' 16 16) (imm.extractLsb' 0 10))
    else none

/-- R88, R92: the word of a scalar instruction. -/
def encodeScalar (g : Guard) : TileInstr → DWord
  | .nop => scalarWord 0x00 g 0 0 0 0 0
  | .halt => scalarWord 0x01 g 0 0 0 0 0
  | .trap c => scalarWord 0x02 g 0 0 0 0 ((0 : BitVec 16) ++ c)
  | .alu op rd ra rb => scalarWord op.opc g rd ra rb 0 0
  | .mul rd ra rb => scalarWord 0x1C g rd ra rb 0 0
  | .alui op rd ra imm => scalarWord op.opc g rd ra 0 0 imm
  | .li rd imm => scalarWord 0x28 g rd 0 0 0 imm
  | .cmp pd ra rb cc => scalarWord 0x30 g ((0 : BitVec 2) ++ pd) ra rb cc 0
  | .cmpi pd ra imm cc => scalarWord 0x31 g ((0 : BitVec 2) ++ pd) ra 0 cc imm
  | .plog pd pa pb fn =>
    scalarWord 0x34 g ((0 : BitVec 2) ++ pd) ((0 : BitVec 2) ++ pa) ((0 : BitVec 2) ++ pb) fn 0
  | .ld rd ra imm => scalarWord 0x40 g rd ra 0 0 imm
  | .st ra rb imm => scalarWord 0x41 g 0 ra rb 0 imm
  | .dsw rb h w => scalarWord 0x48 g 0 0 rb 0 ((0 : BitVec 21) ++ w ++ (0 : BitVec 2) ++ h)
  | .dsr rd h w => scalarWord 0x49 g rd 0 0 0 ((0 : BitVec 21) ++ w ++ (0 : BitVec 2) ++ h)
  | .setf f => scalarWord 0x50 g 0 0 0 0 ((0 : BitVec 28) ++ f)
  | .clrf f => scalarWord 0x51 g 0 0 0 0 ((0 : BitVec 28) ++ f)
  | .waitf f keep => scalarWord 0x52 g 0 0 0 0 ((0 : BitVec 27) ++ BitVec.ofBool keep ++ f)
  | .bara b f => scalarWord 0x58 g 0 0 0 0 ((0 : BitVec 20) ++ f ++ (0 : BitVec 3) ++ b)
  | .reds rd ra op b f => scalarWord 0x59 g rd ra 0 op ((0 : BitVec 20) ++ f ++ (0 : BitVec 3) ++ b)
  | .br t => scalarWord 0x60 g 0 0 0 0 ((0 : BitVec 22) ++ t)
  | .call t => scalarWord 0x64 g 0 0 0 0 ((0 : BitVec 22) ++ t)
  | .ret => scalarWord 0x65 g 0 0 0 0 0
  | .loop ra e => scalarWord 0x68 g 0 ra 0 0 ((0 : BitVec 22) ++ e)
  | .loopi c e => scalarWord 0x69 g 0 0 0 0 (c ++ (0 : BitVec 6) ++ e)
  | .engine op h _ => engineWord op.opc h

/-- R88, R89: the words of an instruction, the first at the lower address. -/
def encodeInstr (g : Guard) (i : TileInstr) : List DWord :=
  match i with
  | .engine _ _ param => [encodeScalar g i, param]
  | _ => [encodeScalar g i]

/-- R88–R92: the instruction at a program address, from its word and the word above it. R91: `none` where
the opcode is not assigned, an unused field is not zero or an operand code is illegal. -/
def decodeInstr (w0 w1 : DWord) : Option (Guard × TileInstr) :=
  if isEngineWord w0 then
    match engOfOpc (opcOf w0) with
    | none => none
    | some op => if engineWf op (hdrOf w0) w1 then some (guardOf w0, .engine op (hdrOf w0) w1) else none
  else
    match scalarOf w0 with
    | none => none
    | some i =>
      if encodeScalar (guardOf w0) i = w0 ∧ progWf (guardOf w0) i then some (guardOf w0, i) else none

/-- The number of program words of an instruction (R85). -/
def TileInstr.words : TileInstr → Nat
  | .engine _ _ _ => 2
  | _ => 1

end Sys2Proof
end

