-- ==== Sys2Proof/Config.lean ====
section
/-! DEFINITION. What the part fixes: the quotas of each grade, the figures of each gear, and the values the manual
leaves to secrets of the device. -/

namespace Sys2Proof.Config

/-- R21: the live-row quota of room row `j` for a grade. -/
def quota (grade : Fin 3) (j : Nat) : Nat :=
  if grade.val = 0 then (if j % 2 = 0 then 30 else 29) else if grade.val = 1 then 29 else 28

/-- R21: the live rows of a floor. -/
def liveRows (grade : Fin 3) : Nat :=
  if grade.val = 0 then 118 else if grade.val = 1 then 116 else 112

/-- R43: the nominal period of a gear in half-cycles of 125 ps; 0 at G0. -/
def period (g : Nat) : Nat := if g = 1 then 32 else if g = 2 then 16 else if g = 3 then 10 else 0

/-- R43, R394: the nominal VCORE of a gear in mV: 520, 600 and 720 at G1, G2 and G3 (R375). -/
def vcoreNominal (g : Nat) : Nat := if g = 1 then 520 else if g = 2 then 600 else if g = 3 then 720 else 0

/-- R378: the budget C_g in fJ per tile-tread; 0 where none applies. -/
def budget (g : Nat) : Nat := if g = 2 then 8496 else if g = 3 then 4510 else 0

/-- R384: the ceiling of a room's allowance in half milliamperes. -/
def ceiling (g : Nat) : Nat := if g = 1 then 12100 else if g = 2 then 16992 else if g = 3 then 12020 else 0

/-- R387: a spine event in mA. -/
def spineStep (g : Nat) : Nat := if g = 1 then 423 else if g = 2 then 977 else if g = 3 then 1875 else 0

/-- R391: always-on ticks between two restarts. -/
def restartGap (g : Nat) : Nat := if g = 1 then 2 else if g = 2 then 3 else 6

/-- R375: k_g as a fraction: 15/26, 1 and 4/3. -/
def kNum (g : Nat) : Nat := if g = 1 then 15 else if g = 3 then 4 else 1
/-- The denominator of k_g. -/
def kDen (g : Nat) : Nat := if g = 1 then 26 else if g = 3 then 3 else 1

/-- R645: the public half of the device key pair, x then y, derived from DSECRET, which no manual gives. A free
value. -/
opaque devicePublic : BitVec 768

/-- R646: the x-coordinate of ECDH between the device private key and a point. The private key is derived from
DSECRET, so this is a free value of the point. -/
opaque deviceShared : BitVec 768 → BitVec 384

/-- A value the manual leaves open: the n-th one taken since reset. -/
opaque freeValue : Nat → BitVec 64

end Sys2Proof.Config
end

