-- ==== Sys2Proof/Machine/Formats.lean ====
section
/-! DEFINITION. Number formats (chapter 05): the exact value of every encoding, rounding and conversion,
array integers, block quantisation, and binary32 addition. -/

namespace Sys2Proof.Machine

/-- The exact value an encoding stands for: `fin neg num den e` is (-1)^neg × num / den × 2^e, and keeps
the sign of a zero. -/
inductive Num where
  | nan
  | inf (neg : Bool)
  | fin (neg : Bool) (num den : Nat) (e : Int)
  deriving DecidableEq, Repr

/-- +0. -/
def Num.zero : Num := .fin false 0 1 0
/-- An integer as an exact value. -/
def Num.ofInt (i : Int) : Num := .fin (decide (i < 0)) i.natAbs 1 0
/-- A sign, an integer mantissa and a power of two. -/
def Num.dyadic (neg : Bool) (m : Nat) (e : Int) : Num := .fin neg m 1 e

/-- 2^k as a natural number, 1 for a negative k. -/
def pow2 (k : Int) : Nat := 2 ^ k.toNat

/-- R126: the width in bits of an element format; 0 for a reserved code. -/
def fmtWidth : Nat → Nat
  | 0 => 4 | 1 => 8 | 2 => 8 | 3 => 4 | 4 => 8 | 5 => 8 | 6 => 8 | 7 => 16 | 8 => 16 | 9 => 32
  | 10 => 16 | 11 => 32 | 12 => 32 | 13 => 8 | _ => 0

/-- R126: a format that carries block scales. -/
def fmtScaled (f : Nat) : Bool := decide (f ≤ 4)
/-- R129, R130: the scale's format, E8M0 for an MX format and FP16 for a scaled integer. -/
def scaleFmt (f : Nat) : Nat := if f ≤ 2 then 13 else 8

/-- A floating-point layout: exponent bits, mantissa bits, bias, and the largest finite code (R150). -/
structure FloatFmt where
  eb : Nat
  mb : Nat
  bias : Int
  maxFin : Nat
  deriving DecidableEq, Repr

/-- R150: the floating-point layout of a format. -/
def floatFmt : Nat → Option FloatFmt
  | 0 => some ⟨2, 1, 1, 0x7⟩
  | 1 => some ⟨4, 3, 7, 0x7E⟩
  | 5 => some ⟨4, 3, 7, 0x7E⟩
  | 2 => some ⟨5, 2, 15, 0x7B⟩
  | 7 => some ⟨8, 7, 127, 0x7F7F⟩
  | 8 => some ⟨5, 10, 15, 0x7BFF⟩
  | 9 => some ⟨8, 23, 127, 0x7F7FFFFF⟩
  | _ => none

/-- R150, R152: the value of a floating-point code, subnormals included. -/
def decFloat (f : FloatFmt) (bits : Nat) : Num :=
  let n := 1 + f.eb + f.mb
  let neg := bits.testBit (n - 1)
  let mag := bits % 2 ^ (n - 1)
  if mag > f.maxFin then
    if mag = f.maxFin + 1 ∧ 4 < f.eb then .inf neg else .nan
  else
    let ef := mag / 2 ^ f.mb
    let m := mag % 2 ^ f.mb
    if ef = 0 then .dyadic neg m (1 - f.bias - f.mb)
    else .dyadic neg (2 ^ f.mb + m) (ef - f.bias - f.mb)

/-- A two's-complement number of `w` bits. -/
def signedOf (w bits : Nat) : Int :=
  let b := bits % 2 ^ w
  if 2 * b < 2 ^ w then b else (b : Int) - 2 ^ w

/-- R150: the value of an element's encoding. -/
def decodeFmt (f bits : Nat) : Num :=
  match f with
  | 3 => .ofInt (signedOf 4 bits)
  | 4 => .ofInt (signedOf 8 bits)
  | 6 => .ofInt (signedOf 8 bits)
  | 10 => .ofInt (bits % 65536)
  | 11 => .ofInt (bits % 4294967296)
  | 12 => .ofInt (signedOf 32 bits)
  | 13 => if bits % 256 = 255 then .nan else .dyadic false 1 ((bits % 256 : Nat) - 127)
  | f => match floatFmt f with
    | some ff => decFloat ff bits
    | none => .nan

/-- R162: whether the rounding mode rounds the magnitude q + r/den up. -/
def roundsUp (mode : Nat) (neg : Bool) (q r den : Nat) : Bool :=
  match mode with
  | 0 => decide (den < 2 * r) || (decide (2 * r = den) && decide (q % 2 = 1))
  | 1 => false
  | 2 => neg && decide (r ≠ 0)
  | _ => !neg && decide (r ≠ 0)

/-- num / den × 2^k rounded to an integer magnitude. -/
def roundMag (mode : Nat) (neg : Bool) (num den : Nat) (k : Int) : Nat :=
  let a := num * pow2 k
  let d := den * pow2 (-k)
  if d = 0 then 0 else
  let q := a / d
  if roundsUp mode neg q (a % d) d then q + 1 else q

/-- floor(log2 (num / den)) for num, den > 0. -/
def ratLog2 (num den : Nat) : Int :=
  let a : Int := (Nat.log2 num : Int) - Nat.log2 den
  if den * pow2 a ≤ num * pow2 (-a) then a else a - 1

/-- R162, R163: the magnitude code of a finite value in a floating-point format, before the check against
the largest finite code. -/
def encMag (f : FloatFmt) (mode : Nat) (neg : Bool) (num den : Nat) (e : Int) : Nat :=
  if num = 0 then 0 else
  let ex := ratLog2 num den + e
  let lo : Int := 1 - f.bias
  let q := (if ex < lo then lo else ex) - f.mb
  let n := roundMag mode neg num den (e - q)
  ((q + f.mb + f.bias - 1).toNat) * 2 ^ f.mb + n

/-- R163: the code of an infinity of a format: saturating for FP4 and E4M3. -/
def infCode (fmt : Nat) (f : FloatFmt) : Nat :=
  if fmt = 0 ∨ fmt = 1 ∨ fmt = 5 then f.maxFin else f.maxFin + 1

/-- R163: the magnitude code of a finite value beyond the largest. -/
def overflowCode (fmt : Nat) (f : FloatFmt) (mode : Nat) (neg : Bool) : Nat :=
  if fmt = 7 ∨ fmt = 8 ∨ fmt = 9 then
    if mode = 0 ∨ (mode = 2 ∧ neg) ∨ (mode = 3 ∧ !neg) then f.maxFin + 1 else f.maxFin
  else f.maxFin

/-- R163: the canonical NaN code of a format. -/
def nanCode : Nat → Nat
  | 9 => 0x7FC00000 | 7 => 0x7FC0 | 8 => 0x7E00 | 1 => 0x7F | 5 => 0x7F | 2 => 0x7E | 13 => 0xFF
  | _ => 0

/-- R163: an integer destination: rounded, then clamped to lo … hi; kept as a `w`-bit pattern. -/
def encInt (mode w : Nat) (lo hi : Int) : Num → Nat
  | .nan => 0
  | .inf neg => ((if neg then lo else hi) % (2 ^ w : Nat)).toNat
  | .fin neg num den e =>
    let m : Int := roundMag mode neg num den e
    let v := if neg then -m else m
    ((if v < lo then lo else if hi < v then hi else v) % (2 ^ w : Nat)).toNat

/-- R162, R163: conversion of an exact value to a format. -/
def encodeFmt (fmt mode : Nat) (v : Num) : Nat :=
  match fmt with
  | 3 => encInt mode 4 (-8) 7 v
  | 4 => encInt mode 8 (-128) 127 v
  | 6 => encInt mode 8 (-128) 127 v
  | 10 => encInt mode 16 0 65535 v
  | 11 => encInt mode 32 0 4294967295 v
  | 12 => encInt mode 32 (-2147483648) 2147483647 v
  | fmt =>
    match floatFmt fmt with
    | none => nanCode fmt
    | some f =>
      let s (neg : Bool) : Nat := if neg then 2 ^ (f.eb + f.mb) else 0
      match v with
      | .nan => nanCode fmt
      | .inf neg => s neg + infCode fmt f
      | .fin neg num den e =>
        let m := encMag f mode neg num den e
        s neg + (if m > f.maxFin then overflowCode fmt f mode neg else m)

/-- The value after rounding to a format. -/
def roundTo (fmt mode : Nat) (v : Num) : Num := decodeFmt fmt (encodeFmt fmt mode v)

/-- The signed numerator of a finite value. -/
def sgn (neg : Bool) (n : Nat) : Int := if neg then -(n : Int) else n

/-- R160, R240: exact addition, with the IEEE 754 rules for zeros, infinities and NaN. -/
def Num.add (mode : Nat) (a b : Num) : Num :=
  match a, b with
  | .nan, _ => .nan
  | _, .nan => .nan
  | .inf x, .inf y => if x = y then .inf x else .nan
  | .inf x, _ => .inf x
  | _, .inf y => .inf y
  | .fin n1 a1 d1 e1, .fin n2 a2 d2 e2 =>
    let e := if e1 ≤ e2 then e1 else e2
    let x := sgn n1 (a1 * d2 * pow2 (e1 - e)) + sgn n2 (a2 * d1 * pow2 (e2 - e))
    if x = 0 then
      .fin (if n1 = n2 ∧ a1 = 0 ∧ a2 = 0 then n1 else mode == 2) 0 1 0
    else .fin (decide (x < 0)) x.natAbs (d1 * d2) e

/-- Exact negation. -/
def Num.neg : Num → Num
  | .nan => .nan
  | .inf s => .inf (!s)
  | .fin s n d e => .fin (!s) n d e

/-- Exact magnitude. -/
def Num.abs : Num → Num
  | .nan => .nan
  | .inf _ => .inf false
  | .fin _ n d e => .fin false n d e

/-- Exact multiplication. -/
def Num.mul (a b : Num) : Num :=
  match a, b with
  | .nan, _ => .nan
  | _, .nan => .nan
  | .inf x, .inf y => .inf (x != y)
  | .inf x, .fin n m _ _ => if m = 0 then .nan else .inf (x != n)
  | .fin n m _ _, .inf y => if m = 0 then .nan else .inf (n != y)
  | .fin n1 a1 d1 e1, .fin n2 a2 d2 e2 => .fin (n1 != n2) (a1 * a2) (d1 * d2) (e1 + e2)

/-- Whether a finite value is zero. -/
def Num.isZero : Num → Bool
  | .fin _ n _ _ => n == 0
  | _ => false

/-- a < b for values that are not NaN; −0 and +0 are equal. -/
def Num.lt (a b : Num) : Bool :=
  match a, b with
  | .nan, _ => false
  | _, .nan => false
  | .inf x, .inf y => x && !y
  | .inf x, _ => x
  | _, .inf y => !y
  | .fin n1 a1 d1 e1, .fin n2 a2 d2 e2 =>
    let e := if e1 ≤ e2 then e1 else e2
    decide (sgn n1 (a1 * d2 * pow2 (e1 - e)) < sgn n2 (a2 * d1 * pow2 (e2 - e)))

/-- a = b for values that are not NaN. -/
def Num.eqv (a b : Num) : Bool :=
  match a, b with
  | .nan, _ => false
  | _, .nan => false
  | a, b => !(a.lt b) && !(b.lt a)

/-- The sign bit of a value; false for a NaN. -/
def Num.isNeg : Num → Bool
  | .nan => false
  | .inf s => s
  | .fin s _ _ _ => s

/-- R240, R250: a < b with −0 below +0. -/
def Num.below (a b : Num) : Bool :=
  a.lt b || (a.isZero && b.isZero && a.isNeg && !b.isNeg)

/-- A value with its poison tag (R294): the bits of its format. -/
structure Elem where
  bits : Nat
  poi  : Bool
  deriving DecidableEq, Repr

/-- +0, not poisoned. -/
def Elem.zero : Elem := ⟨0, false⟩

/-- The value of binary32 bits. -/
def f32 (b : Nat) : Num := decodeFmt 9 b
/-- binary32 bits of a value, rounded to nearest even. -/
def toF32 (v : Num) : Nat := encodeFmt 9 0 v

/-- R160: the binary32 addition of a bench; every NaN result is 0x7FC0_0000. -/
def benchAdd (c v : Elem) : Elem := ⟨toF32 ((f32 c.bits).add 0 (f32 v.bits)), c.poi || v.poi⟩

/-- R153: the array integer of an element; 0 for an infinity or NaN, whose effect R159 gives.
BF16 elements use the block exponent `a` of R154, clamped as R186 states. -/
def arrayInt (fmt : Nat) (a : Int) (bits : Nat) : Int :=
  match decodeFmt fmt bits with
  | .fin neg num den e =>
    if fmt = 7 then
      let m := roundMag 0 neg num den (e - (a - 30))
      sgn neg (if 2147483647 < m then 2147483647 else m)
    else
      let q : Int := if fmt = 0 then -1 else if fmt = 1 ∨ fmt = 5 then -9 else if fmt = 2 then -16 else 0
      sgn neg (num * pow2 (e - q))
  | _ => 0

/-- R153: the power of two q of a format's array integer. -/
def arrayExp (fmt : Nat) (a : Int) : Int :=
  if fmt = 0 then -1 else if fmt = 1 ∨ fmt = 5 then -9 else if fmt = 2 then -16
  else if fmt = 7 then a - 30 else 0

/-- R154: the unbiased exponent a finite BF16 element counts with; a subnormal counts with −126. -/
def bf16Exp (bits : Nat) : Option Int :=
  let mag := bits % 32768
  if mag = 0 ∨ 0x7F80 ≤ mag then none
  else if mag < 128 then some (-126) else some (((mag / 128 : Nat) : Int) - 127)

/-- R154: the block exponent A of a list of BF16 elements; 0 where every finite element is zero. -/
def bf16BlockExp (l : List Nat) : Int :=
  ((l.filterMap bf16Exp).foldl (fun (o : Option Int) x => match o with
    | none => some x
    | some y => some (if y < x then x else y)) none).getD 0

/-- R155: the number of passes of a weight and activation format pair; 0 where it is not accepted. -/
def passes (w a : Nat) : Nat :=
  let e4 := a = 1 ∨ a = 5
  let i8 := a = 4 ∨ a = 6
  if w = 0 ∨ w = 3 ∨ w = 4 ∨ w = 6 then (if e4 ∨ i8 then 1 else if a = 7 then 4 else 0)
  else if w = 1 ∨ w = 5 then (if e4 then 2 else if i8 then 1 else if a = 7 then 4 else 0)
  else if w = 2 then (if e4 ∨ i8 then 2 else 0)
  else 0

/-- R156: the shift k of pass p, highest first. -/
def passShift (w a p : Nat) : Nat :=
  if passes w a = 4 then 24 - 8 * p
  else if passes w a = 2 then (if p = 0 then (if w = 2 then 16 else 9) else 0)
  else 0

/-- R156: the slice of an array integer that pass p uses: floor part for the first pass, the residue for
later ones. -/
def sliceOf (bits total : Nat) (p : Nat) (n : Int) : Int :=
  -- `total` passes of `bits` bits each, pass 0 the signed highest
  let k := bits * (total - 1 - p)
  let hi := n / (2 ^ k : Nat)
  if p = 0 then hi else hi % (2 ^ bits : Nat)

/-- R156: the weight value that pass p multiplies. -/
def weightSlice (w a p : Nat) (n : Int) : Int :=
  if passes w a = 2 ∧ w = 2 then sliceOf 16 2 p n else n
/-- R156: the activation value that pass p multiplies. -/
def actSlice (w a p : Nat) (n : Int) : Int :=
  if passes w a = 4 then sliceOf 8 4 p n
  else if passes w a = 2 ∧ w ≠ 2 then sliceOf 9 2 p n else n

/-- R192: r(x): x modulo 7, from 0 to 6. -/
def res7 (x : Int) : Nat := (x % 7).toNat

/-- R171, R192: a weight as an array holds it: its element, its array integer and the residue of that integer. -/
structure WReg where
  e : Elem
  n : Int
  r : Nat
  deriving DecidableEq, Repr

/-- R171, R219: a weight's array integer and residue, formed as it leaves the ECC-checked read. -/
def wregOf (fmt : Nat) (e : Elem) : WReg := ⟨e, arrayInt fmt 0 e.bits, res7 (arrayInt fmt 0 e.bits)⟩

/-- R192: the residue of the slice of a weight that pass p multiplies. A half's is formed from the register's residue and the other
half, 2¹⁶ being 2 modulo 7 and its inverse 4, so that a register that was struck fails in either pass (DEDUCED, log entry 86: the
rule names no slices of weights). -/
def weightRes (w a p : Nat) (x : WReg) : Nat :=
  if passes w a = 2 ∧ w = 2 then
    if p = 0 then (x.r + 7 - res7 (sliceOf 16 2 1 x.n)) * 4 % 7 else (x.r + 14 - 2 * res7 (sliceOf 16 2 0 x.n)) % 7
  else x.r

/-- R157, R192: a column's or group's exact sum in a pass, with its predicted residue. -/
structure ColSum where
  sum  : Int
  pred : Nat
  deriving DecidableEq, Repr

/-- R157, R188, R192, R212: the sum of weights times activations in pass p. -/
def colSum (w a : Nat) (exA : Int) (p : Nat) (l : List (WReg × Elem)) : ColSum :=
  l.foldl (fun c x =>
    let na := actSlice w a p (arrayInt a exA x.2.bits)
    ⟨c.sum + weightSlice w a p x.1.n * na, (c.pred + weightRes w a p x.1 * res7 na) % 7⟩) ⟨0, 0⟩

/-- R157: a value of `w` bits in two's complement with some of its bits inverted. -/
def flipBits (w : Nat) (mask : Nat) (v : Int) : Int :=
  if mask = 0 then v else signedOf w ((v % (2 ^ w : Nat)).toNat ^^^ (mask % 2 ^ w))

/-- The exact partial sums of a block in progress: one sum per pass with its residue (R192), the passes whose word fails its
parity (R173), and what R159 needs of its special values (R173, R188, R212). -/
structure Lat where
  sums : List Int
  res  : List Nat
  bad  : List Nat
  nan  : Bool
  infZero : Bool
  pinf : Bool
  ninf : Bool
  poi  : Bool
  deriving DecidableEq, Repr

/-- An empty block. -/
def Lat.zero : Lat := ⟨[0, 0, 0, 0], [0, 0, 0, 0], [], false, false, false, false, false⟩

/-- R159: what the special values of one product leave in a block. -/
def Lat.special (l : Lat) (w a : Nat) (we ae : Elem) : Lat :=
  let wv := decodeFmt w we.bits
  let av := decodeFmt a ae.bits
  let pr := wv.mul av
  { l with
    nan := l.nan || wv == .nan || av == .nan
    infZero := l.infZero || (pr == .nan && wv != .nan && av != .nan)
    pinf := l.pinf || pr == .inf false
    ninf := l.ninf || pr == .inf true
    poi := l.poi || we.poi || ae.poi }

/-- R173, R292: reads the words of passes: those whose parity fails are delivered poisoned, and what they hold is taken as it
stands, so that their residue follows it (R195: parity covers them). -/
def Lat.readWords (l : Lat) (ps : List Nat) : Lat :=
  let hit := ps.filter l.bad.contains
  if hit.isEmpty then l
  else { l with poi := true, bad := l.bad.filter (fun p => !(hit.contains p))
                res := (List.range l.res.length).map (fun p => if hit.contains p then res7 (l.sums.getD p 0) else l.res.getD p 0) }

/-- R188, R192: the word of pass p takes a sum, with its residue; `mask` inverts bits of what the latch adder writes. -/
def Lat.addSum (l : Lat) (p : Nat) (c : ColSum) (mask : Nat) : Lat :=
  { l with sums := l.sums.set p (flipBits 40 mask (l.sums.getD p 0 + c.sum)), res := l.res.set p ((l.res.getD p 0 + c.pred) % 7) }

/-- Σ_p T_p × 2^(k_p). -/
def combinePasses (w a : Nat) (sums : List Int) : Int :=
  ((List.range (passes w a)).map (fun p => (sums.getD p 0) * (2 ^ passShift w a p : Nat))).foldl (· + ·) 0

/-- R192: a block's predicted residue. -/
def blockRes (w a : Nat) (res : List Nat) : Nat :=
  ((List.range (passes w a)).map (fun p => res.getD p 0 * 2 ^ (passShift w a p % 3))).foldl (· + ·) 0 % 7

/-- R193, R194: a check of an array that fails: the check (0 column or group, 1 latch, 2 block, 3 converter), the pass, and the
predicted and seen residues or the two results. -/
structure ResBad where
  check : Nat
  pass  : Nat
  x     : Nat
  y     : Nat
  deriving DecidableEq, Repr

/-- R193, R196, R225: the two values of a failed check as detail: residues in a byte each, results in four. -/
def ResBad.bytes (b : ResBad) : Nat := if b.check = 3 then 4 else 1

/-- R157, R188, R192, R193, R212: pass p of one column or group: the latch after it, and the column or latch check that fails. The
block's `first` sum of a pass overwrites the word, whatever it holds. `m0` and `m1` invert bits of the tree's sum and of the latch adder's. -/
def Lat.pass (l : Lat) (w a : Nat) (exA : Int) (p : Nat) (first : Bool) (xs : List (WReg × Elem)) (m0 m1 : Nat) :
    Lat × Option ResBad :=
  let c := colSum w a exA p xs
  let seen := flipBits 40 m0 c.sum
  let l := if first then { l with sums := l.sums.set p 0, res := l.res.set p 0, bad := l.bad.filter (· != p) } else l.readWords [p]
  let l := xs.foldl (fun (l : Lat) x => l.special w a x.1.e x.2) l
  let l := l.addSum p ⟨seen, c.pred⟩ m1
  (l, if res7 seen ≠ c.pred then some ⟨0, p, c.pred, res7 seen⟩
      else if res7 (l.sums.getD p 0) ≠ l.res.getD p 0 then some ⟨1, p, l.res.getD p 0, res7 (l.sums.getD p 0)⟩
      else none)

/-- R158, R159: the block value of a finished block, with the weight's and the activation's scales. -/
def Lat.value (l : Lat) (w a : Nat) (exA : Int) (sw sa : Num) (spoi : Bool) (t : Int) : Elem :=
  let exact : Num := .fin (decide (t < 0)) t.natAbs 1 (arrayExp w 0 + arrayExp a exA)
  let sc := sw.mul sa
  let v : Num :=
    if l.nan || sw == .nan || sa == .nan then .nan
    else if l.infZero then .nan
    else if l.pinf && l.ninf then .nan
    else if l.pinf then (if sw.isZero || sa.isZero then .nan else .inf sc.isNeg)
    else if l.ninf then (if sw.isZero || sa.isZero then .nan else .inf (!sc.isNeg))
    else if sc == .nan then .nan
    else match sc with
      | .inf s => if t = 0 then .nan else .inf (s != decide (t < 0))
      | _ => if exact.isZero || sc.isZero then .zero else exact.mul sc
  ⟨toF32 v, l.poi || spoi⟩

/-- R158, R193, R194: a finished block: its value, and the block or converter check that fails. `m2` inverts bits of what the
pass combiner forms, `m3` bits of what one of the two converters does. The block and converter checks come after all passes, and
their records give pass 0 (DESIGN CHOICE, log entry 102: R196 says no pass for them). -/
def Lat.finish (l : Lat) (w a : Nat) (exA : Int) (sw sa : Num) (spoi : Bool) (m2 m3 : Nat) : Elem × Option ResBad :=
  let t := flipBits 80 m2 (combinePasses w a l.sums)
  let v := l.value w a exA sw sa spoi t
  let v2 := v.bits ^^^ (m3 % 2 ^ 32)
  (v, if res7 t ≠ blockRes w a l.res then some ⟨2, 0, blockRes w a l.res, res7 t⟩
      else if v.bits ≠ v2 then some ⟨3, 0, v.bits, v2⟩ else none)

/-- R194: the two results of a bench addition, where `mask` inverts bits of one of them; the check that fails. Its record calls it
a converter check, with pass 0 (DESIGN CHOICE, log entry 102: R196 lists no check of the adder). -/
def addCheck (old v : Elem) (mask : Nat) : Option ResBad :=
  let x := (benchAdd old v).bits
  if mask % 2 ^ 32 = 0 then none else some ⟨3, 0, x, x ^^^ (mask % 2 ^ 32)⟩

/-- The largest magnitude of a list of values. -/
def maxMag (l : List Num) : Num :=
  l.foldl (fun m v => if m.lt v.abs then v.abs else m) .zero

/-- R164: e_max of an MX format. -/
def emax (f : Nat) : Int := if f = 0 then 2 else if f = 1 then 8 else 15

/-- Exact division by a finite value that is not zero. -/
def Num.divFin (a : Num) (num den : Nat) (e : Int) : Num :=
  a.mul (.fin false den num (-e))

/-- R164, R165: quantises one 32-element block to a scaled format: the scale code and the element codes. -/
def quantBlock (fmt mode : Nat) (l : List Num) : Nat × List Nat :=
  let special := l.any (fun v => match v with
    | .fin _ _ _ _ => false
    | _ => true)
  let a := maxMag l
  if fmt ≤ 2 then
    if special then (0xFF, l.map (fun _ => 0))
    else match a with
      | .fin _ num den e =>
        if num = 0 then (0, l.map (fun v => encodeFmt fmt mode v))
        else
          let x0 := ratLog2 num den + e - emax fmt
          let x := if x0 < -127 then -127 else if 127 < x0 then 127 else x0
          ((x + 127).toNat, l.map (fun v => encodeFmt fmt mode (v.mul (.fin false 1 1 (-x)))))
      | _ => (0, [])
  else
    if special then (0x7E00, l.map (fun _ => 0))
    else match a with
      | .fin _ num den e =>
        if num = 0 then (0, l.map (fun _ => 0))
        else
          let q : Nat := if fmt = 3 then 7 else 127
          let s0 := encodeFmt 8 0 (.fin false num (den * q) e)
          let s := if s0 = 0 then 1 else if 0x7BFF < s0 then 0x7BFF else s0
          match decodeFmt 8 s with
          | .fin _ sn sd se => (s, l.map (fun v => encodeFmt fmt mode (v.divFin sn sd se)))
          | _ => (s, [])
      | _ => (0, [])

end Sys2Proof.Machine
end

