-- ==== Sys2Proof/Machine/State.lean ====
section
/-! DEFINITION. The machine state of the BN-1620: every register, memory, queue, counter, mode and pin the
manual gives the module, as plain data, and the state after reset. -/

namespace Sys2Proof.Machine

/-! ### One sequencer (R78, R82) -/

/-- R99: a loop-stack entry: first and last address of the body, and the count remaining. -/
structure LoopEnt where
  first : Nat
  last  : Nat
  left  : Nat
  deriving DecidableEq, Repr

/-- R82: the state of one sequencer. `progMark` lists the program words with an error: 1 single-bit,
2 double-bit. `linkLoops` is the depth of the loop stack at the CALL in force (R101). -/
structure Seq where
  regs  : Tbl Word
  pend  : BitVec 32
  preds : BitVec 8
  flags : BitVec 16
  pc    : Nat
  link  : Option (BitVec 10)
  linkLoops : Nat
  loops : List LoopEnt
  prog  : Tbl DWord
  progMark : Tbl Nat
  desc  : Tbl Word
  deriving DecidableEq, Repr

/-- R78–R80: what the trailer follows: the leader at the issue of a tread, with the flags of its phase 1, and after the tread,
and whether it issued an instruction in it. -/
structure Past where
  before : Seq
  after : Seq
  issued : Bool
  deriving DecidableEq, Repr

/-- A sequencer with no program. -/
def Seq.reset : Seq :=
  { regs := [], pend := 0, preds := 0, flags := 0, pc := 0, link := none, linkLoops := 0, loops := [],
    prog := [], progMark := [], desc := [] }

/-- R80, R104: a dispatch word: the instruction, its program address and issue tread, and the values of K
and IB read at issue (R248). -/
structure Dispatch where
  op    : EngOp
  hdr   : EngHdr
  param : DWord
  pc    : Nat
  tread : Nat
  k     : Word
  ib    : Word
  deriving DecidableEq, Repr

/-- R81, R92: an effect of an issued instruction that falls in a later tread. -/
inductive Fx where
  | reg (rd : Nat) (v : Word)
  | ldAcc (rd : Nat) (addr : Word) (pc : Nat)
  | ldPoi (rd : Nat) (pc : Nat)
  | stAcc (addr v : Word) (pc : Nat)
  | setf (f : Nat) (pc : Nat)
  | clrf (f : Nat)
  | dsw (h w : Nat) (v : Word)
  | bara (b f : Nat) (pc : Nat)
  | reds (rd : Nat) (v : Word) (op b f : Nat) (pc : Nat)
  | enter (d : Dispatch)
  deriving DecidableEq, Repr

/-- R122: a descriptor latched for a handle field, with its scale and index descriptors. `role` is 0 HD,
1 HA, 2 HB, 3 HC. -/
structure Latched where
  role  : Nat
  h     : Nat
  data  : List Word
  scale : Option (Nat × List Word)
  index : Option (Nat × List Word)
  deriving DecidableEq, Repr

/-- A write of phase 4, with the 64-bit words among it that hold a poisoned value, and the draw slot whose
generation governs it (R221). -/
structure MemWr where
  agent : Nat
  cellar : Bool
  addr  : Nat
  bytes : List Byte
  poi   : List Nat
  slot  : Option Nat
  deriving DecidableEq, Repr

/-- R59, R567: a hold source: the tile, its kind (1 flag, 2 shelf read, 3 shelf write), the flag or line, and
the waiter (queue 0–3, or 4 for the sequencer). -/
structure HoldSrc where
  tile : Nat
  kind : Nat
  what : Nat
  waiter : Nat
  deriving DecidableEq, Repr

/-- A write on its way through an engine: to a press bench (array, entry), a draw bench (slot, entry), a
scalar register, or a memory; `fresh` starts a bench entry at +0 (R176). -/
inductive Post where
  | press (array entry : Nat) (v : Elem) (fresh : Bool)
  | draw (slot entry : Nat) (v : Elem) (fresh : Bool)
  | reg (rd : Nat) (v : Elem)
  | mem (w : MemWr)
  deriving DecidableEq, Repr

/-- R282, R283: what the haul engine hands to the service network: lines of a push with their poisoned words,
or the request for one line of a pull into attic line `dst`. -/
structure HaulSend where
  pull  : Bool
  dtile : Nat
  cellar : Bool
  line  : Nat
  bytes : List Byte
  poi   : List Nat
  str   : Nat
  flag  : Bool
  tf    : Nat
  dst   : Nat
  pc    : Nat
  deriving DecidableEq, Repr

/-- What an engine holds of the instruction it executes: captured index values, elements and scales, the
block latches, and the writes under way with the tread in which each is made. `wint` and `wres` are the array integers in the
weight registers and their residues (R171), `par` the staging-window words whose parity fails, as window and word (R229), `send`
a packet that waits to learn whether it is the last (R282). -/
structure Run where
  idx  : Tbl Nat
  cap  : Tbl Elem
  wint : Tbl Int
  wres : Tbl Nat
  par  : List (Nat × Nat)
  send : Option HaulSend
  sc   : Tbl Elem
  lat  : Tbl Lat
  post : List (Nat × Post)
  acc  : List Elem
  cnt  : Nat
  flag : Bool
  deriving DecidableEq, Repr

/-- Nothing captured. -/
def Run.zero : Run :=
  { idx := [], cap := [], wint := [], wres := [], par := [], send := none, sc := [], lat := [], post := [], acc := [], cnt := 0, flag := false }

/-- R104–R106: an instruction in an engine queue: its dispatch word, latched descriptors, entry tread,
duration, start tread once started, and what its engine holds of it. `bad` tells that its word in the queue fails its parity, and
`poi` that it was delivered poisoned (R292). -/
structure QEntry where
  d     : Dispatch
  ops   : List Latched
  entry : Nat
  dur   : Nat
  start : Option Nat
  bad   : Bool
  poi   : Bool
  run   : Run
  deriving DecidableEq, Repr

/-- R266: a shelf range of attic lines. -/
structure Shelf where
  first : Nat
  last  : Nat
  inbound : Bool
  full  : Bool
  deriving DecidableEq, Repr

/-- R302: a word of the scheduled mesh. -/
structure MeshWord where
  data  : BitVec 128
  stamp : Byte
  v     : Bool
  p     : Bool
  par   : BitVec 5
  deriving DecidableEq, Repr

/-- A void word, whose parity is that of zeros. -/
def MeshWord.void : MeshWord := ⟨0, 0, false, false, 0⟩

/-- R312: the route sequencer. `step` is the STEP in force, `left` the treads of it that remain; `loops`
holds (first address, END, passes left). -/
structure RouteSeq where
  addr : Nat
  stepAddr : Nat
  step : Option DWord
  left : Nat
  loops : List (Nat × Nat × Nat)
  stopped : Bool
  rx : Nat
  ry : Nat
  wx : Nat
  wy : Nat
  deriving DecidableEq, Repr

/-- R312: at program tread 0. -/
def RouteSeq.reset : RouteSeq :=
  { addr := 0, stepAddr := 0, step := none, left := 0, loops := [], stopped := false,
    rx := 0, ry := 0, wx := 0, wy := 0 }

/-- R284, R344: an entry of a tile's request table: the packet, whether it is a pull, its first sending in
package time, the resends so far, whether a bounce awaits its resend, the periods that remain until then, and whether R347 holds
it back. `dst` is the attic line of the first line of a pull. -/
structure Req where
  pkt   : Packet
  pull  : Bool
  dst   : Nat
  sent  : Nat
  bounces : Nat
  waiting : Bool
  left : Nat
  heldBack : Bool
  deriving DecidableEq, Repr

/-- R347: what a source keeps of an ordered stream: destination and count of the epoch, whether the
flagged packet's ACK is awaited, and the request-table entries of the packets held back until then, in their order. -/
structure SrcStream where
  dest  : Nat
  count : Nat
  await : Bool
  queue : List Nat
  deriving DecidableEq, Repr

/-- R348: an entry of a tile's stream table. -/
structure StreamEnt where
  src   : Src
  str   : Nat
  count : Nat
  deriving DecidableEq, Repr

/-- R290: a zero request being served: the byte address reached, the bytes left, and its request. -/
structure ZeroJob where
  addr : Nat
  left : Nat
  pkt  : Packet
  deriving DecidableEq, Repr

/-- R288: a remote cellar read being served: its request and the bytes still to be read. -/
structure CellJob where
  pkt  : Packet
  left : Nat
  deriving DecidableEq, Repr

/-- R97: a value of the sync network held for a register until a wait on its flag proceeds. -/
structure HeldVal where
  flag : Nat
  rd   : Nat
  v    : Word
  poi  : Bool
  deriving DecidableEq, Repr

/-- What a tile is doing (R33, R107, R36). -/
inductive Phase where
  | idle | running | complete | aborted
  deriving DecidableEq, Repr

/-- One tile. Memories list the bytes that are not zero; `atticMark` and `cellarMark` list the 64-bit words
that are not good: 1 a single-bit error, 2 a double-bit error, 3 stored poisoned (R291, R294); `pressMark`, `drawMark` and
`slotMark` do the same for the benches and the slot stores, where `corrB` counts the corrections, with those of the program stores
(no register shows it). `tags` lists
the attic lines whose tag is set (R108, R266). `stairAdj` is the stair's timing setting less its trained
value (R276); `ovf` holds the overflow bits of R550. `past` holds the leader's last two treads, the newest first, for the
trailer (R78). `slotEvs` are the slot assignments (with the generation) and voids that have arrived since the last tread, in order
(R220), and `slotPar` marks the slot registers whose parity fails (R198). `begun` is the leader as it stood before an instruction that a command has issued in the tread under way. `behind` counts the
rested treads through which the route sequencer has not yet been taken (R318). `portFree` is for how many
periods the service port has made no access, 16 at most, or less 0 how many it is spoken for (R265); `stairFree` how many 16-byte
transfers of free stair bytes the last periods' other users have left to the scrub, 2 at most (R275); `banksUsed` the attic banks
that the room's last period used (R296). -/
structure Tile where
  phase   : Phase
  member  : BitVec 32
  pipe    : Byte
  lead    : Seq
  trail   : Seq
  past    : List Past
  begun   : Option Seq
  arrMask : BitVec 16
  fx      : List (Nat × Fx)
  nextIssue : Nat
  halted  : Bool
  arrivals : List (BitVec 4)
  slotEvs : List (Nat × Option Byte)
  held    : List HeldVal
  consume : BitVec 16
  queues  : Tbl (List QEntry)
  attic   : List Host.Cell
  atticMark : Tbl Nat
  tags    : Tbl Bool
  shelves : List Shelf
  pressBench : Tbl Elem
  pressMark : Tbl Nat
  slotStore : Tbl Nat
  slotMark : Tbl Nat
  slotBlock : Tbl Nat
  slotValid : BitVec 8
  slotPar : BitVec 8
  slotFmt : Tbl Nat
  slotLen : Tbl Nat
  drawBench : Tbl Elem
  drawMark : Tbl Nat
  genE    : Tbl Nat
  genG    : Tbl Nat
  suppressed : Nat
  cellar  : List Host.Cell
  cellarMark : Tbl Nat
  kinds   : Tbl Nat
  stairAdj : Int
  stairCorr : Nat
  stairClean : Nat
  reqs    : Tbl (Option Req)
  bounces : Nat
  bounceSent : Nat
  windows : Tbl DWord
  streams : List StreamEnt
  deferred : List Packet
  srcStreams : Tbl SrcStream
  eject   : List Packet
  portFree : Int
  cellJobs : List CellJob
  zero    : List ZeroJob
  stairFree : Nat
  banksUsed : BitVec 4
  origins : List Origin
  originCount : Nat
  corrA : Nat
  corrC : Nat
  corrB : Nat
  ovf : BitVec 7
  choice  : Nat
  scrubWeight : Nat
  scrubWhole : Nat
  scrubAttic : Nat
  routes  : Tbl DWord
  routeMark : Tbl Nat
  rseq    : RouteSeq
  behind  : Nat
  out     : Tbl MeshWord
  deriving DecidableEq, Repr

/-- R299, R512: a tile without a program, its memories as built-in test and zeroing leave them. -/
def Tile.reset : Tile :=
  { phase := .idle, member := 0, pipe := 0xFF, lead := .reset, trail := .reset, past := [], begun := none, arrMask := 0,
    fx := [], nextIssue := 0, halted := false, arrivals := [], slotEvs := [], held := [],
    consume := 0, queues := [], attic := [], atticMark := [], tags := [], shelves := [], pressBench := [], pressMark := [],
    slotStore := [], slotMark := [], slotBlock := [], slotValid := 0, slotPar := 0, slotFmt := [], slotLen := [],
    drawBench := [], drawMark := [], genE := [], genG := [], suppressed := 0, cellar := [], cellarMark := [], kinds := [],
    stairAdj := 0, stairCorr := 0, stairClean := 0, reqs := [], bounces := 0,
    bounceSent := 0, windows := [], streams := [], deferred := [], srcStreams := [], eject := [],
    portFree := 16, cellJobs := [], zero := [], stairFree := 0, banksUsed := 0, origins := [],
    originCount := 0, corrA := 0, corrC := 0, corrB := 0, ovf := 0, choice := 0, scrubWeight := 0, scrubWhole := 0, scrubAttic := 0, routes := [], routeMark := [], rseq := .reset, behind := 0, out := [] }

/-! ### Units (R32–R41) -/

/-- R32, R34, R35, R535: the registers of a unit's control face. -/
structure UnitRegs where
  seq    : BitVec 16
  events : BitVec 10
  stop   : Bool
  faults : Word
  ovf    : Bool
  deriving DecidableEq, Repr

/-- A unit at reset. -/
def UnitRegs.reset : UnitRegs := { seq := 0, events := 0, stop := false, faults := 0, ovf := false }

/-! ### Rooms and room keepers -/

/-- R71: a correction record. -/
structure CorrRec where
  tick  : Nat
  tread : Nat
  stretched : Nat
  idle  : Nat
  gear  : Nat
  fallback : Bool
  deriving DecidableEq, Repr

/-- R408: a rest of a room as the room keeper holds it: first rested program tread, length, ramp length and
the targets at G1, G2 and G3 in sixteenths of an ampere. -/
structure Rest where
  first : Nat
  len   : Nat
  ramp  : Nat
  t1 : Nat
  t2 : Nat
  t3 : Nat
  deriving DecidableEq, Repr

/-- R371: what the room keeper has recorded at G0, in the order received. -/
inductive KeepEv where
  | void (pipe mask : Byte)
  | abort (unit : Word)
  | stop (unit : Word) (set : Bool)
  deriving DecidableEq, Repr

/-- One room with its room keeper. Energies are in fJ and currents in half milliamperes. `debit` is how far the
credit of R378 stands below full. `win` holds the metered work and the ballast of the last 64 periods, newest
first. `gear` is the gear of the room where it differs from the module's (R65). `pulses` are the correction
pulses whose record is not yet written (R71). `rejoinHeld` is set once the rejoin stop of R586 holds the room.
`margins` are the margins that the last phase check left on the room's receiving lanes, and `taps` the caution and warning
taps of its sensor sites (R76). -/
structure Room where
  tread  : Nat
  recv   : Tbl Nat
  stretchC : Nat
  holdC  : Nat
  pauseC : Nat
  ivStretch : Bool
  ivIdle : Bool
  ivPause : Bool
  stretchNext : Margin
  gear   : Option (BitVec 2)
  pendGear : Option (Nat × BitVec 2)
  clockOff : Bool
  spineOff : Bool
  rests  : List Rest
  start  : Option Nat
  stops  : List Word
  rejoinHeld : Bool
  keeper : List KeepEv
  holdSrcs : List HoldSrc
  holdTicks : Nat
  wdogTicks : Nat
  holdFired : Bool
  debit  : Nat
  allow  : Nat
  /-- R390: the higher copy of the allowance, from which ballast fills a fall while the copies differ. -/
  fill   : Nat
  win    : List (Nat × Nat)
  refused : Bool
  fall   : Option Nat
  corr   : List CorrRec
  corrN  : BitVec 16
  strP   : Nat
  idleP  : Nat
  allP   : Nat
  fellBack : Bool
  pulses : List Nat
  margins : Tbl Int
  taps : Tbl (Int × Int)
  deriving DecidableEq, Repr

/-- R549: a room's registers at reset. -/
def Room.reset : Room :=
  { tread := 0, recv := [], stretchC := 0, holdC := 0, pauseC := 0, ivStretch := false, ivIdle := false,
    ivPause := false, stretchNext := .quiet, gear := none, pendGear := none, clockOff := false,
    spineOff := false, rests := [], start := none, stops := [], rejoinHeld := false, keeper := [], holdSrcs := [], holdTicks := 0,
    wdogTicks := 0, holdFired := false, debit := 0, allow := 0, fill := 0, win := [], refused := false, fall := none,
    corr := [], corrN := 0, strP := 0, idleP := 0, allP := 0, fellBack := false, pulses := [],
    margins := [], taps := [] }

/-! ### Floors -/

/-- R575, R584, R33: how a floor stands. -/
inductive FloorMode where
  | up | fenced | resetting | benched
  deriving DecidableEq, Repr

/-- R356: an entry of a floor combiner: the multicast's source, the packet's targets, replies and
refusals so far. -/
structure CombEnt where
  src : Src
  targets : Nat
  replies : Nat
  refusals : Nat
  deriving DecidableEq, Repr

/-- One floor. `atRejoin` is set when a floor reset stands at the rejoin stop of R586; `vsramLow` when VSRAM
fell below its range since the fence (R583). `pllBand` is the band in use, `pllAlt` whether it is the
alternate one (R548). `due` is set while the steps of a floor reset wait for the ramp-down of its rooms (R582), with what the
command's event says of their attempts; a reset that no command asked for has none. `closed`
names the outstanding multicasts whose ACK the combiner has sent (R356). -/
structure Floor where
  mode   : FloorMode
  atRejoin : Bool
  vsramLow : Bool
  pllLock : Bool
  pllAlt : Bool
  pllBand : BitVec 3
  therm  : Tbl (BitVec 16)
  comb   : List CombEnt
  waiting : List Packet
  due : Option (Option (List AttemptRow))
  closed : List Src
  deriving DecidableEq, Repr

/-- A floor at reset. -/
def Floor.reset : Floor :=
  { mode := .up, atRejoin := false, vsramLow := false, pllLock := false, pllAlt := false, pllBand := 0, therm := [],
    comb := [], waiting := [], due := none, closed := [] }

/-! ### Edge dies: rings (R499–R505, R544, R545) -/

/-- A submission ring; `fetched` are the commands fetched and not yet decoded, `open_` the number fetched and
not yet answered, `avail` the number made visible and not fetched, `mute` how many of those fetched a port reset found there, whose
replies are not written (R652). -/
structure SubRing where
  base : DWord
  size : Nat
  tail : Nat
  head : Nat
  fetched : List (BitVec 512)
  open_ : Nat
  avail : Nat
  mute : Nat
  deriving DecidableEq, Repr

/-- A completion or notice ring; `used` counts the entries written and not freed. -/
structure CompRing where
  base : DWord
  size : Nat
  head : Nat
  tail : Nat
  phase : Bool
  used : Nat
  deriving DecidableEq, Repr

/-- A host output ring; `used` counts the bytes written and not freed. -/
structure OutRing where
  base : DWord
  size : Nat
  head : Nat
  tail : Nat
  shadow : DWord
  used : Nat
  deriving DecidableEq, Repr

/-- A disabled submission ring. -/
def SubRing.reset : SubRing := ⟨0, 0, 0, 0, [], 0, 0, 0⟩
/-- A disabled completion ring: its phase resets to 1. -/
def CompRing.reset : CompRing := ⟨0, 0, 0, 0, true, 0⟩
/-- A disabled host output ring. -/
def OutRing.reset : OutRing := ⟨0, 0, 0, 0, 0, 0⟩

/-- R650, R651: what the module issues on a port, in order: a write of bytes at a host address, or a vector. -/
inductive HostOp where
  | write (addr : DWord) (bytes : List Byte)
  | vector (v : Fin 32)
  deriving DecidableEq, Repr

/-- R504, R507: a notice: its code and detail. -/
structure Notice where
  code : Nat
  time : Nat
  detail : List Byte
  deriving DecidableEq, Repr

/-- R616: a destination line of a record that a port lost: the tile's path, the line, its bytes and the link-receive origin. -/
structure LostLine where
  dpath : Word
  line : Nat
  bytes : List Byte
  org : Origin
  deriving DecidableEq, Repr

/-- R543–R545: an edge die: its role and negotiation, its port, its rings, the notices that wait, and its
counters. -/
structure Die where
  /-- R616: the poisoned lines of records that a port lost, still to be written. -/
  lost : List LostLine
  failed : Bool
  took   : Bool
  neg    : Option (Nat × Nat × Nat)
  portUp : Bool
  perst  : Bool
  d3     : Bool
  deferred : List HostOp
  sub    : Tbl SubRing
  comp   : Tbl CompRing
  outp   : Tbl OutRing
  /-- R652: the negotiation under which the commands run that a port reset found fetched. -/
  negWas : Option (Nat × Nat × Nat)
  msix   : Tbl Word
  pba    : Word
  noticeQ : List Notice
  lostSince : Nat
  ringErr : Word
  regErr : Word
  nLost  : Word
  dropRec : Word
  fwdDrop : Word
  choice : Word
  ovf    : BitVec 5
  pollNext : Nat
  deriving DecidableEq, Repr

/-- R543, R544: an edge die at reset. -/
def Die.reset : Die :=
  { lost := [], failed := false, took := false, neg := none, portUp := false, perst := false, d3 := false, deferred := [],
    sub := [], comp := [], outp := [], negWas := none, msix := [], pba := 0, noticeQ := [], lostSince := 0,
    ringErr := 0, regErr := 0, nLost := 0, dropRec := 0, fwdDrop := 0, choice := 0,
    ovf := 0, pollNext := 0 }

/-! ### Images (chapter "Kreoz images and the loader's verifier") -/

/-- R412, R581: the image the loader last accepted, with its fix-ups applied: its bytes, the live-row variant
chosen, its header fields, its model list (identifier, slices), the tiles that have a pattern, the kept blocks
(tile, block, resolved region) and weight blocks (tile, block, model, resolved slice) in logical row-major order,
and its image check. -/
structure Image where
  bytes : List Byte
  live : Nat
  nmod : Nat
  gbar : Word
  period : Nat
  pspan : Nat
  models : List (DWord × Nat)
  tiles : List Nat
  kept : List (Nat × Nat × Nat)
  weights : List (Nat × Nat × Nat × Nat)
  ichk : Word
  deriving DecidableEq, Repr

/-! ### Commands in progress (R510–R512) -/

/-- R35, R37: a unit of a STOP in progress: whether the command's own request is the one whose effect sets STOPPED in it, and its
rooms that have not yet stopped, or that its request still holds. -/
structure StopWait where
  unit : Word
  own : Bool
  rooms : List Nat
  deriving DecidableEq, Repr

/-- What a command in progress waits for: rooms to stop or resume, quiet reports, a floor's rejoin, a gear
change, an inventory entry, a bank, an input record, a session's closing, a cancellation, or the rest of a crate: its length, the
bytes that have come, and once its header has been checked the set that its IDENT names, an inventory entry or for an adapter the
number of its bank (R428, R673); or the tiles being written from a verified image, with its parameters (R412, R512). `own` are
the units of an ABORT that no earlier abort was already ending (R37). -/
inductive Work where
  | stopSet (units : List StopWait)
  | stopClear (units : List StopWait)
  | abort (units own : List Word) (rooms : List Nat) (fencedMask : BitVec 16) (lastQuiet : Nat)
  | floorReset (f : Nat)
  | gear (target : Nat)
  | reside (entry : Nat)
  | evict (entry : Nat)
  | adapter (slot bank : Nat)
  | record (handle : Word) (id : Nat)
  | close (handle : Word)
  | cancel (handle : Word) (urgent : Bool)
  | crate (clen : Nat) (got : List Byte) (set : Option (Bool × Nat))
  | load (im : Image) (params : List Word)
  deriving DecidableEq, Repr

/-- A command that has been decoded and not yet completed. `mute` is set when a port reset has taken its reply
(R652). -/
structure Cmd where
  h    : CmdHdr
  opc  : Byte
  tick : Nat
  work : Work
  mute : Bool
  deriving DecidableEq, Repr

/-! ### Crates, inventory and adapters (chapter "Weights, residency and adapters") -/

/-- R420: an accepted manifest: BLEN and SHA-256 digest of each data crate, the CRC-64 of each slice. -/
structure Manifest where
  crates : List (Nat × BitVec 256)
  slices : List DWord
  deriving DecidableEq, Repr

/-- R431, R432: the loading of one crate set: its manifest once accepted, the crates accepted, each crate's
re-requests, last failure code and the tick of its last re-request, the tick of the last accepted crate, the slices verified, the
crates asked for in a repair, and the crate that wrote each slice (0 where none did, R425). -/
structure CrateSet where
  manifest : Option Manifest
  accepted : List Nat
  tries : Tbl Nat
  last  : Tbl Nat
  asked : Tbl Nat
  since : Nat
  verified : List Nat
  need  : List Nat
  wrote : Tbl Nat
  deriving DecidableEq, Repr

/-- A set of which nothing has arrived. -/
def CrateSet.reset : CrateSet :=
  { manifest := none, accepted := [], tries := [], last := [], asked := [], since := 0, verified := [], need := [],
    wrote := [] }

/-- R433: an inventory entry, with the placement of its model: (tile, block, slice). -/
structure Inv where
  ident : DWord
  state : Nat
  slices : Nat
  crates : Nat
  use   : Word
  useOvf : Bool
  last  : Nat
  refs  : Nat
  bad   : Nat
  place : List (Nat × Nat × Nat)
  set   : CrateSet
  deriving DecidableEq, Repr

/-- R434: an empty entry. -/
def Inv.reset : Inv :=
  { ident := 0, state := 0, slices := 0, crates := 0, use := 0, useOvf := false, last := 0, refs := 0,
    bad := 0, place := [], set := .reset }

/-- R444: an adapter bank, with whether it is current and its blocks in slice order. -/
structure Bank where
  state : Nat
  ident : DWord
  version : BitVec 16
  refs  : Nat
  current : Bool
  place : List (Nat × Nat)
  bad   : Nat
  set   : CrateSet
  deriving DecidableEq, Repr

/-- R442: a free bank. -/
def Bank.reset : Bank :=
  { state := 0, ident := 0, version := 0, refs := 0, current := false, place := [], bad := 0, set := .reset }

/-- R440: a digest store entry. -/
structure Digest where
  crc : DWord
  slice : Nat
  owner : Nat
  ownerKind : Nat
  bank : Nat
  v : Bool
  deriving DecidableEq, Repr

/-- An entry of no verified slice. -/
def Digest.reset : Digest := ⟨0, 0, 0, 0, 0, false⟩

/-- R447: a change of a slot's current bank: its tick, the bank that was current before it, and that bank's record and digest store
entries. -/
structure BankEdge where
  slot : Nat
  at_ : Nat
  before : Option Nat
  old : Option (Bank × List (Nat × Digest))
  deriving DecidableEq, Repr

/-! ### Serving (chapter "Sessions, slots and latency goals") -/

/-- R496: an acceptance tracker. -/
structure Tracker where
  on : Bool
  low : Nat
  wait : Nat
  deriving DecidableEq, Repr

/-- R453: one route position of a ledger entry: pipeline, seat, WANT, PEND, ROWPOS, POS, its tracker, the values
of POS and ROWPOS at admission of the turn and of the next turn's request (R579), and the arrival ticks of its pending input records with the rows still
pending of each (R467). -/
structure RoutePos where
  pipe : Byte
  seat : BitVec 16
  want : Bool
  pend : Nat
  rowpos : Nat
  pos : Word
  trk : Tracker
  admPos : Word
  admRow : Nat
  nextPos : Word
  nextRow : Nat
  arrivals : List (Nat × Nat)
  deriving DecidableEq, Repr

/-- A route position of an entry never used. -/
def RoutePos.reset : RoutePos :=
  { pipe := 0, seat := 0, want := false, pend := 0, rowpos := 0, pos := 0, trk := ⟨false, 0, 0⟩, admPos := 0,
    admRow := 0, nextPos := 0, nextRow := 0, arrivals := [] }

/-- R453, R496: a position past the end of the route of an open session: pipeline 0xFF ends the route, and its tracker is On. -/
def RoutePos.unused : RoutePos := { RoutePos.reset with pipe := 0xFF, trk := ⟨true, 0, 0⟩ }

/-- R454: the states of a ledger entry. -/
inductive SessState where
  | free | opened | listening | thinking | speaking | ending | closing
  deriving DecidableEq, Repr

/-- R453: a ledger entry. `routeLen` is the number of route positions used; `fedNext` whether a FEED arrived
during the turn; `markNext` the tick of a MARK that waits for its turn; `pinNext` the bank that the next turn's request has pinned
(R459); `zeroLeft` the ZERO DONE replies a
closing session awaits; `entries` the inventory entries whose reference counts the session holds (R436). -/
structure Sess where
  seq : BitVec 16
  state : SessState
  cls : Nat
  urg : Bool
  gen : Byte
  seed : DWord
  routeLen : Nat
  route : List RoutePos
  aslot : Nat
  oring : Nat
  pin : Option Nat
  pinNext : Option Nat
  markq : Bool
  tMark : Nat
  tOut : Nat
  outb : Nat
  leadt : Bool
  choice : Nat
  fedNext : Bool
  markNext : Nat
  zeroLeft : Nat
  lastTtft : Nat
  lastTbt : Nat
  worstTbt : Nat
  entries : List Nat
  deriving DecidableEq, Repr

/-- R453: a ledger entry never used. -/
def Sess.reset : Sess :=
  { seq := 0, state := .free, cls := 0, urg := false, gen := 0, seed := 0, routeLen := 0, route := [],
    aslot := 0, oring := 0, pin := none, pinNext := none, markq := false, tMark := 0, tOut := 0, outb := 0, leadt := false,
    choice := 0, fedNext := false, markNext := 0, zeroLeft := 0, lastTtft := 0, lastTbt := 0,
    worstTbt := 0, entries := [] }

/-- R449: a pipeline record of the started image. -/
structure PipeRec where
  pipe : Nat
  home : Nat
  spec : Bool
  seats : Nat
  seat0 : Nat
  tline : Nat
  rline : Nat
  rpath : Word
  ipath : Word
  iline : Nat
  ilen : Nat
  opath : Word
  oline : Nat
  olen : Nat
  prows : Nat
  model : Nat
  dmodel : Nat
  resv : Nat
  cover : List Multicast
  deriving DecidableEq, Repr

/-- A slot of a delivered table: session number (die × 2,048 + entry), route position, seat, generation, group
width where it is the first of its group (0 otherwise), its 16 bytes, and whether a void has been sent for it
in this step. -/
structure SlotEnt where
  sess : Nat
  rpos : Nat
  seat : Nat
  gen : Byte
  width : Nat
  bytes : List Byte
  voided : Bool
  deriving DecidableEq, Repr

/-- A press entry of a delivered table. -/
structure PressEnt where
  sess : Nat
  rpos : Nat
  seat : Nat
  gen : Byte
  rows : Nat
  row : Nat
  deriving DecidableEq, Repr

/-- R464: the delivery of a slot table to one floor: sends so far, whether its ACK without refusals has come,
whether a resend is due, and whether it is abandoned. -/
structure FloorSend where
  floor : Nat
  cover : Nat
  sends : Nat
  acked : Bool
  due : Bool
  abandoned : Bool
  deriving DecidableEq, Repr

/-- R457: an input record for a pipeline's ring: its lines still to be written, the words of them that are poisoned, counted
from the first, and the command it belongs to. -/
structure InRec where
  id : Nat
  lines : List (List Byte)
  poi : List Nat
  sess : Nat
  gen : Byte
  deriving DecidableEq, Repr

/-- R447, R487, R489: a void formed and not yet fully acknowledged: the die, the pipeline, its slot mask, whether it is
held for a delivery, the rooms that have not acknowledged, and the session's generation, which tells its cancellation. -/
structure VoidOut where
  die : Nat
  pipe : Byte
  mask : Byte
  sess : Nat
  held : Bool
  rooms : List Nat
  gen : Byte
  deriving DecidableEq, Repr

/-- What the home edge die keeps of a pipeline. -/
structure Pipe where
  step : Word
  slots : List (Option SlotEnt)
  press : List (Option PressEnt)
  sends : List FloorSend
  lastReport : Option Nat
  intervals : List Nat
  inRecs : List InRec
  inLine : Nat
  outLine : Nat
  outPart : List Byte
  outHeld : Bool
  waitFault : Bool
  verif : Word
  offered : Word
  accepted : Word
  turnoff : Word
  retry : Word
  ovf : BitVec 5
  /-- R546: the edge die whose block holds the pipeline's counters, from the first IMAGE START that lists it. -/
  home : Option Nat
  deriving DecidableEq, Repr

/-- A pipeline before its first step. -/
def Pipe.reset : Pipe :=
  { step := 0, slots := [], press := [], sends := [], lastReport := none, intervals := [], inRecs := [],
    inLine := 0, outLine := 0, outPart := [], outHeld := false, waitFault := false, verif := 0, offered := 0,
    accepted := 0, turnoff := 0, retry := 0, ovf := 0, home := none }

/-- R470, R474, R475, R493: the goals, counters and histograms of a latency class. -/
structure Class where
  kind : Nat
  lead : Nat
  ttft : Word
  tbt : Word
  depth : Nat
  athr : Nat
  vTtft : Word
  vTbt : Word
  hist : Tbl Word
  hovf : Word
  vovf : BitVec 2
  deriving DecidableEq, Repr

/-- R540: a class at reset. -/
def Class.reset : Class :=
  { kind := 0, lead := 1, ttft := 0, tbt := 0, depth := 0, athr := 0, vTtft := 0, vTbt := 0, hist := [],
    hovf := 0, vovf := 0 }

/-! ### Service-network requests of the edge dies -/

/-- What an edge die's outstanding request is for. -/
inductive Purpose where
  | table (pipe cover : Nat)
  | zero (sess : Nat)
  | freed
  | link (port : Nat)
  | other
  deriving DecidableEq, Repr

/-- R358, R671: an outstanding request of an edge die: its edge tag, packet and purpose; for a multicast the
floors still to answer, whether any reply made it partial, and the root chosen for it; `held` while its floor is fenced (R587). -/
structure EdgeReq where
  die : DieId
  etag : BitVec 16
  pkt : Packet
  purpose : Purpose
  floors : List Nat
  partial_ : Bool
  root : Option Nat
  held : Bool
  deriving DecidableEq, Repr

/-! ### Links (chapter "Yogan links") -/

/-- R603, R608, R611: how a link stands: dark, training in a phase, trained and live, held, or silent after
failing. -/
inductive LinkMode where
  | dark | training (phase : Nat) | live | held | silent
  deriving DecidableEq, Repr

/-- R598: a data or sync flit that a link has sent and whose acknowledgement it awaits; the first 64 stand in its
retry buffer, and sync flits beyond them await their turn. `at_` is the tick of its last sending. -/
structure SentFlit where
  lseq : Byte
  sync : Option SyncFrame
  pseq : BitVec 16
  crd : Nat
  payload : List Byte
  at_ : Nat
  deriving DecidableEq, Repr

/-- One fabric link. `tries` and `nakTries` count the attempts of its sending and its receiving side (R602);
`retrying` and `nakking` say that one is in progress. -/
structure Link where
  mode : LinkMode
  alt : Bool
  attempts : Nat
  peer : Option TrainInfo
  minor : Nat
  nextSeq : Byte
  expect : Byte
  retry : List SentFlit
  tries : Nat
  retrying : Bool
  nakTries : Nat
  lastNak : Nat
  nakking : Bool
  reason : Byte
  lanesDown : BitVec 4
  /-- R596: the flit of its group of 1,285, carried in 512 codewords, that arrives next. -/
  rxFlit : Nat
  /-- R603: the tick of its failure, for a link that is silent. -/
  since : Nat
  deriving DecidableEq, Repr

/-- A link without signal. -/
def Link.reset : Link :=
  { mode := .dark, alt := false, attempts := 0, peer := none, minor := 0, nextSeq := 0,
    expect := 0, retry := [], tries := 0, retrying := false, nakTries := 0, lastNak := 0, nakking := false, reason := 0,
    lanesDown := 0xF, rxFlit := 0, since := 0 }

/-- R613: a link record as its wire form gives it; `poi` lists the words of its payload that fail their parity in the receive
buffer (R292). -/
structure LinkRec where
  dmod : Nat
  ring : Nat
  flg : Bool
  str : BitVec 4
  tf : BitVec 4
  dpath : Word
  dline : Nat
  payload : List Byte
  poi : List Nat := []
  deriving DecidableEq, Repr

/-- One logical port. `rxBuf` holds data flits received ahead of PSEQ order, `rxBytes` the bytes of the wire form
under reception, `waiting` the records received and not yet written, `inFlight` the record whose WRITE awaits its
acknowledgement, `txQ` the wire bytes not yet sent, `rxFlits` the unconsumed payload bytes of each flit handed on whose
credit has not been returned, and `toReturn` the credits that the next flit carries. -/
structure Port where
  serial : DWord
  members : List Nat
  spares : List Nat
  width : Nat
  minor : Nat
  live : Bool
  helloSent : Bool
  helloGot : Option SyncFrame
  credits : Nat
  txPseq : BitVec 16
  rxPseq : BitVec 16
  lastUsed : Nat
  rxBuf : List (BitVec 16 × List Byte)
  rxBytes : List Byte
  waiting : List LinkRec
  inFlight : Option LinkRec
  /-- R615: the tick of a bounce of that WRITE, until it is sent again. -/
  bounced : Option Nat
  txQ : List Byte
  rxFlits : List Nat
  toReturn : Nat
  deriving DecidableEq, Repr

/-- No port. -/
def Port.reset : Port :=
  { serial := 0, members := [], spares := [], width := 0, minor := 0, live := false, helloSent := false,
    helloGot := none, credits := 512, txPseq := 0, rxPseq := 0, lastUsed := 7, rxBuf := [], rxBytes := [],
    waiting := [], inFlight := none, bounced := none, txQ := [], rxFlits := [], toReturn := 0 }

/-- R542: the local record of a peer module. -/
structure Peer where
  state : Nat
  port : Option Nat
  chg : Nat
  deriving DecidableEq, Repr

/-- A peer that was never met. -/
def Peer.reset : Peer := ⟨0, none, 0⟩

/-- R347, R615: an ordered stream that an edge die keeps toward tiles, keyed by edge tag and stream. -/
structure EdgeStream where
  die : Nat
  etag : BitVec 16
  str : Nat
  dest : Word
  count : Nat
  await : Bool
  deriving DecidableEq, Repr

/-- R612, R614: the read position of a send ring, with the lines read of the record in progress, and the tick from which it is
read: 0.2 µs after a bounce. -/
structure SendRing where
  die : Nat
  num : Nat
  line : Nat
  part : List Byte
  after : Nat
  deriving DecidableEq, Repr

/-! ### Sync network -/

/-- R363–R367: a tile's arrival at a barrier: its flag, for REDS the register, value and operation, and the room tread and package
time at which it came. -/
structure Arrival where
  tile : Nat
  flag : Nat
  red : Option (Nat × Word × Nat)
  tread : Nat
  time : Nat
  deriving DecidableEq, Repr

/-- R617–R619: what the module holds of a gang barrier round: whether its own arrival has been made, the ports that sent
an ARRIVE, the frames that await the way up (at the root, their combination), and the completion that has come for
the round before with its value and poison. -/
structure Gang where
  round : Byte
  local_ : Bool
  from_ : List Nat
  held : List SyncFrame
  done : Option (Option Word × Bool)
  deriving DecidableEq, Repr

/-- Round 0, nothing arrived. -/
def Gang.reset : Gang := { round := 0, local_ := false, from_ := [], held := [], done := none }

/-! ### Faults, journal, keys, start-up, sideband -/

/-- R562: a fault record. -/
structure FaultRec where
  code : Nat
  sub : Nat
  act : Nat
  rec_ : Nat
  edge : Nat
  path : Word
  logpos : Word
  paddr : Option Nat
  raddr : Option Nat
  pkt : Nat
  rtread : Option Nat
  ptread : Option Nat
  detail : List Byte
  deriving DecidableEq, Repr

/-- R573: a hang report that waits for recovery to end: the tiles to abort and the floors to fence. -/
structure Deferred where
  room : Nat
  tiles : List Nat
  floors : List Nat
  deriving DecidableEq, Repr

/-- R634: a journal entry without its CRC. -/
structure JEnt where
  start : BitVec 16
  step : Nat
  kind : Nat
  alt : Bool
  result : Nat
  fr : Bool
  unit : Nat
  attempts : Nat
  fail : BitVec 16
  time : Word
  deriving DecidableEq, Repr

/-- R628, R652: how a start or module reset stands while it waits. `hung` names the step, unit and attempt whose outcome
has not come; attempt 0 is a port's step 10 that its PERST_N holds. `kind` is 0 for a start, 1 for a module reset, and 2
for a module reset whose event carries no environment. -/
structure Boot where
  step : Nat
  hung : Option (Nat × BootUnit × Nat)
  env : StartEnv
  kind : Nat
  deriving DecidableEq, Repr

/-- R64, R388: a gear change in progress: the gears still to go through (the last is the gear commanded), the
target tread once announced, and whether the regulator's acknowledgement is awaited. `was` is the set point before the change
(R393), `tail` the target before this one, whose window may not have passed (R388). -/
structure GearChange where
  chain : List Nat
  target : Option Nat
  awaiting : Bool
  since : Nat
  thermal : Bool
  was : Nat := 0
  tail : Option Nat := none
  deriving DecidableEq, Repr

/-- R640: the fuses. -/
structure Fuses where
  grade : Fin 3
  disabled : List Nat
  serial : DWord
  vkey : BitVec 384
  svn : Nat
  okey0 : BitVec 384
  stepping : Byte
  deriving DecidableEq, Repr

/-- R656: the provisioning message under reception and the reply that waits. -/
structure Message where
  parts : List Byte
  next : Nat
  reply : List Byte
  deriving DecidableEq, Repr

/-! ### The module -/

/-- Why a run stops. The block has no such state: every command has its effect, and the manual's faults are
records in the fault log (R562), so no command raises one of these. -/
inductive Fault where
  /-- Raised by no command; kept because a machine's faults are a closed list of names. Safe. -/
  | none_
  deriving DecidableEq, Repr

/-- Why a command is not run. -/
inductive Refusal where
  /-- The command is in the table and has no meaning in this model yet. Safe: nothing is claimed of it. -/
  | notModelled (mnemonic : String)
  deriving DecidableEq, Repr

/-- The whole module. Tables keyed by tile, room, floor or edge die list what differs from the reset record.

`lands` holds the landings of the hatch lanes, by sending tile, direction and tread modulo 6, each with the tread in which it
was written (R50); a landing whose tread is not the one read delivers a void. `hatchPhase` holds the sampling phase of each
receiving lane (R55, R76). `instant` lists the rooms whose clock edges fall at the present instant, with their tread counts
before it (R48). `net` holds
the input buffers of the service routers, by tile, port and channel (R338), `netWait` the packets that wait for room in one where
they are injected, among them the reply queues (R341), `rrobin` the input that each router output serves next (R340), `mcLeft`
the outputs by which copies of the packet at a buffer's head have left (R355), and `mcOutcome` how the last multicast of each edge
die ended: 1 complete, 2 partial (R358); `inbox` the packets that have
reached an edge die. `hostOut` is what each port has issued to its host,
oldest first, `readOut` the words that answered register reads, and `smbOut` the answers over SMBus. `spineEvs` are the
spine events of the last 10 µs with their current. `trims` are the trims of G1 to G3 in steps of 2.5 mV.
`overSince` and `underSince` are the ticks since which the highest reading has stood above 100 °C, or at or below 95 °C
(R395). `throttled` is the gear to which the module was last throttled. `shadow` and `low` are the 64-bit shadows and held low words of R533. `free` numbers the free values
taken so far (the model's own field). -/
structure State where
  pending : List Instr
  -- time
  pkt     : Nat
  fallback : Bool
  refLost : Bool
  free    : Nat
  -- fabric of tiles
  tiles   : Tbl Tile
  rooms   : Tbl Room
  floors  : Tbl Floor
  lands   : Tbl (Nat × MeshWord)
  hatchPhase : Tbl Int
  instant : List (Nat × Nat)
  rejoinStop : List Nat
  holdAll : Bool
  -- control face
  units   : Tbl UnitRegs
  unitSets : Tbl Word
  -- service network
  net     : Tbl (List Packet)
  netWait : Tbl (List Packet)
  rrobin  : Tbl Nat
  mcLeft  : Tbl (List Nat)
  mcOutcome : Tbl Nat
  inbox   : List (DieId × Packet)
  edgeReqs : List EdgeReq
  nextTag : BitVec 16
  -- sync network
  barriers : Tbl (List Arrival)
  gangs   : Tbl Gang
  aborting : List (Nat × Word)
  -- power
  gear    : BitVec 2
  cgear   : BitVec 2
  change  : Option GearChange
  lastTarget : Option Nat
  spineEvs : List (Nat × Nat)
  trims   : Tbl Int
  lowRuns : Nat
  /-- R394: a gear change was pending at some time since the last correction pulse. -/
  gearPended : Bool
  vcore   : Nat
  vsram   : Nat
  throttled : Option Nat
  overSince : Option Nat
  underSince : Option Nat
  restart : Option (Nat × Nat)
  tripped : Bool
  -- registers of the module block
  holdLim : Nat
  wdog    : Nat
  /-- R531: HOLDLIM, WDOG and the classes' goals as they stood when this tick began, by which the module decides in it. -/
  limsIn  : Nat × Nat
  goalsIn : Tbl Class
  flogW   : BitVec 16
  flogR   : BitVec 16
  flogLost : Word
  flog    : Tbl FaultRec
  modOvf  : BitVec 2
  peerSel : BitVec 14
  shadow  : Tbl Word
  low     : Tbl (Option Word)
  -- hosts and commands
  dies    : Tbl Die
  lead    : DieId
  cmds    : List Cmd
  /-- R652: the command being decoded whose reply a port reset has taken; none between commands. -/
  silent  : Option CmdId
  hostOut : List (DieId × HostOp)
  readOut : List (Requester × Word)
  smbOut : List (List Byte)
  -- images and weights
  image   : Option Image
  started : Option Nat
  runEnded : Bool
  moduleNo : Nat
  coords  : Nat × Nat × Nat
  params  : List Word
  inv     : Tbl Inv
  banks   : Tbl Bank
  bankEdges : List BankEdge
  digests : Tbl Digest
  mirrors : Tbl Digest
  -- serving
  ledger  : Tbl Sess
  pipes   : List PipeRec
  pstate  : Tbl Pipe
  classes : Tbl Class
  voids   : List VoidOut
  recIds  : Nat
  -- links
  links   : Tbl Link
  ports   : Tbl Port
  peers   : Tbl Peer
  edgeStreams : List EdgeStream
  sendRings : List SendRing
  -- faults and recovery
  hangWait : List Deferred
  benchedDies : BitVec 4
  dieFailures : Nat
  testMode : Bool
  -- start-up
  fuses   : Fuses
  powered : Bool
  mreset  : Bool
  pwrgd   : Bool
  ready   : Bool
  resetting : Bool
  boot    : Option Boot
  /-- R625: the deassertion of MRESET_N that came before the ramp-down ended, with what stands at the pins then. -/
  startWait : Option StartEnv
  startNo : BitVec 16
  failStep : Nat
  failCode : BitVec 16
  failedLead : Option DieId
  degraded : Bool
  linksDown : Word
  portsDown : BitVec 4
  jAon    : List JEnt
  jFlash  : List JEnt
  jQueue  : List JEnt
  stairTrained : Tbl Nat
  firmware : Byte × Byte
  ownerKeys : Tbl (Option (BitVec 768))
  crateKeys : Tbl (Option (BitVec 256))
  nonce   : Word
  msg     : Message
  alertDegraded : Bool
  alertFailed : Bool
  alertThrottle : Bool
  /-- R655: the module has been throttled since the last status read. -/
  throttleSeen : Bool
  deriving DecidableEq, Repr

/-- A grade A part whose two rows beyond the quota are the last rows of room rows 1 and 3 of each floor (R21,
R22), with blank serial number, keys and stepping. DESIGN CHOICE (log entry 3): the fuses of a part are its own. -/
def Fuses.reset : Fuses :=
  { grade := 0, disabled := (List.range 16).flatMap (fun f => [120 * f + 59, 120 * f + 119]), serial := 0,
    vkey := 0, svn := 0, okey0 := 0, stepping := 0 }

/-- The module with its supplies in range and MRESET_N asserted, before its first start: every register at its
Reset column (R536), every ring disabled, no image, an empty inventory, no command waiting. A START (or
PWRGD_IN_RISE) brings it to ready (R624, R627). -/
def State.reset : State :=
  { pending := [], pkt := 0, fallback := false, refLost := false, free := 0, tiles := [], rooms := [],
    floors := [], lands := [], hatchPhase := [], instant := [], rejoinStop := [], holdAll := true, units := [],
    unitSets := [], net := [], netWait := [], rrobin := [], mcLeft := [], mcOutcome := [],
    inbox := [], edgeReqs := [], nextTag := 0, barriers := [], gangs := [], aborting := [], gear := 0,
    cgear := 0, change := none, lastTarget := none, spineEvs := [], trims := [], lowRuns := 0, gearPended := false, vcore := 0,
    vsram := 0, throttled := none, overSince := none, underSince := none, restart := none, tripped := false,
    holdLim := 12500, wdog := 50000, limsIn := (12500, 50000), goalsIn := [], flogW := 0, flogR := 0, flogLost := 0, flog := [], modOvf := 0,
    peerSel := 0, shadow := [], low := [], dies := [], lead := 0, cmds := [], silent := none, hostOut := [],
    readOut := [], smbOut := [], image := none, started := none, runEnded := false, moduleNo := 0, coords := (0, 0, 0),
    params := [], inv := [], banks := [], bankEdges := [], digests := [], mirrors := [], ledger := [], pipes := [], pstate := [],
    classes := [], voids := [], recIds := 0, links := [], ports := [], peers := [], edgeStreams := [], sendRings := [], hangWait := [],
    benchedDies := 0, dieFailures := 0, testMode := false, fuses := .reset, powered := true, mreset := true,
    pwrgd := false, ready := false, resetting := true, boot := none, startWait := none, startNo := 0, failStep := 0,
    failCode := 0, failedLead := none, degraded := false, linksDown := 0, portsDown := 0, jAon := [], jFlash := [],
    jQueue := [], stairTrained := [], firmware := (0, 0), ownerKeys := [], crateKeys := [], nonce := 0,
    msg := ⟨[], 0, []⟩, alertDegraded := false, alertFailed := false, alertThrottle := false, throttleSeen := false }

end Sys2Proof.Machine
end

