-- ==== Sys2Proof/Machine/Operands.lean ====
section
/-! DEFINITION. Tensor descriptors (chapter 04): the words' fields, element addresses, sliding windows,
bounds, and the checks made when an instruction enters its queue. -/

namespace Sys2Proof.Machine

/-- R124: a descriptor by its fields; `dims` are words 2 to 6. -/
structure Desc where
  base : Nat
  loc  : Nat
  fmt  : Nat
  ndim : Nat
  idim : Nat
  wp   : Nat
  rtile : Nat
  blo  : Nat
  dims : List Word
  bhi  : Nat
  sh   : Nat
  ih   : Nat
  iskip : Bool
  rsv  : Nat
  deriving DecidableEq, Repr

/-- R124: the fields of eight descriptor words. -/
def Desc.ofWords (w : List Word) : Desc :=
  let w0 := w.getD 0 0
  let w1 := w.getD 1 0
  let w7 := w.getD 7 0
  { base := fld w0 0 18, loc := fld w0 18 2, fmt := fld w0 20 4, ndim := fld w0 24 3, idim := fld w0 27 3,
    wp := fld w0 30 2, rtile := fld w1 0 19, blo := fld w1 19 13,
    dims := [w.getD 2 0, w.getD 3 0, w.getD 4 0, w.getD 5 0, w.getD 6 0],
    bhi := fld w7 0 13, sh := fld w7 13 6, ih := fld w7 19 6, iskip := fld w7 25 1 == 1, rsv := fld w7 26 6 }

/-- Word 2 + j of the descriptor. -/
def Desc.dim (d : Desc) (j : Nat) : Word := d.dims.getD j 0

/-- R133: whether dimension j is the tap dimension of a window pair. -/
def Desc.isTap (d : Desc) (j : Nat) : Bool := (j == 1 && decide (1 ≤ d.wp)) || (j == 3 && d.wp == 2)
/-- R133: whether dimension j is the position dimension of a window pair. -/
def Desc.isPos (d : Desc) (j : Nat) : Bool := (j == 2 && decide (1 ≤ d.wp)) || (j == 4 && d.wp == 2)

/-- R124, R134: the size of dimension j, 1 at or above NDIM. -/
def Desc.size (d : Desc) (j : Nat) : Nat :=
  if d.ndim ≤ j then 1
  else if d.isTap j then fld (d.dim j) 0 5 + 1
  else fld (d.dim j) 0 13 + 1

/-- R124: the signed stride of dimension j in elements. -/
def Desc.stride (d : Desc) (j : Nat) : Int := if d.ndim ≤ j then 0 else signedOf 19 (fld (d.dim j) 13 19)

/-- The element's width in bits. -/
def Desc.width (d : Desc) : Nat := fmtWidth d.fmt

/-- The sizes of the five dimensions. -/
def Desc.sizes (d : Desc) : List Nat := [d.size 0, d.size 1, d.size 2, d.size 3, d.size 4]
/-- The number of elements of dimensions 1 to 4 together. -/
def Desc.rows (d : Desc) : Nat := d.size 1 * d.size 2 * d.size 3 * d.size 4
/-- The number of elements. -/
def Desc.count (d : Desc) : Nat := d.size 0 * d.rows

/-- R134: the fields of a tap dimension. -/
structure Tap where
  taps : Nat
  padv : Nat
  s    : Nat
  dil  : Nat
  plo  : Nat
  phi  : Nat
  tr   : Bool
  rsv  : Nat
  deriving DecidableEq, Repr

/-- R134: the fields of the tap word of dimension j. -/
def Desc.tap (d : Desc) (j : Nat) : Tap :=
  let w := d.dim j
  { taps := fld w 0 5 + 1, padv := fld w 5 8, s := fld w 13 3 + 1, dil := fld w 16 4 + 1, plo := fld w 20 4,
    phi := fld w 24 4, tr := fld w 28 1 == 1, rsv := fld w 29 3 }

/-- The tile that an RTILE or DTILE field names (R124, R334), where its Tile field is legal. -/
def dtileOf (v : Nat) : Option Nat := if v % 2048 < 1200 then some (v / 2048 * 1200 + v % 2048) else none

/-- R134: the encoding that a pad value stands for in the descriptor's format. For a 32-bit format, which the rule does not name,
it is the top byte with zeros below (DESIGN CHOICE, log entry 85). -/
def padBits (fmt padv : Nat) : Nat :=
  match fmtWidth fmt with
  | 4 => padv % 16
  | 8 => padv
  | 16 => padv * 256
  | _ => padv * 16777216

/-- R135: the input length L of an ordinary pair with O positions. -/
def Tap.inLen (t : Tap) (o : Nat) : Int :=
  ((o : Int) - 1) * t.s + ((t.taps : Int) - 1) * t.dil + 1 - t.plo - t.phi

/-- R136: z_max of a transposed pair with O positions. -/
def Tap.zMax (t : Tap) (o : Nat) : Int := ((o : Int) - 1) + ((t.taps : Int) - 1) * t.dil - t.plo

/-- R135, R136: the contribution of a window pair at tap k and position o of O, with the position's stride;
`none` where the element is padding. -/
def Tap.contrib (t : Tap) (stridePos : Int) (size k o : Nat) : Option Int :=
  if t.tr then
    let z : Int := (o : Int) + k * t.dil - t.plo
    if 0 ≤ z ∧ z ≤ t.zMax size - t.phi ∧ z % t.s = 0 then some (z / t.s * stridePos) else none
  else
    let q : Int := (o : Int) * t.s + k * t.dil - t.plo
    if 0 ≤ q ∧ q < t.inLen size then some (q * (stridePos / t.s)) else none

/-- Where an element lies: a padding value, or the byte address and, for a 4-bit format, the nibble. -/
inductive ERef where
  | pad (bits : Nat)
  | at (addr : Int) (odd : Bool)
  deriving DecidableEq, Repr

/-- R127, R139: the contribution of an ordinary or indirect dimension. -/
def Desc.plain (d : Desc) (i : List Nat) (v j : Nat) : Int :=
  if d.isTap j || d.isPos j then 0
  else (if d.idim = j then (v : Int) else (i.getD j 0 : Nat)) * d.stride j

/-- R127, R135–R139: where the element with indices `i` lies; `v` is the index value of the indirect
dimension, if there is one. -/
def Desc.elem (d : Desc) (i : List Nat) (v : Nat) : ERef :=
  let p1 := if 1 ≤ d.wp then (d.tap 1).contrib (d.stride 2) (d.size 2) (i.getD 1 0) (i.getD 2 0) else some 0
  let p2 := if d.wp = 2 then (d.tap 3).contrib (d.stride 4) (d.size 4) (i.getD 3 0) (i.getD 4 0) else some 0
  match p1, p2 with
  | none, _ => .pad (padBits d.fmt (d.tap 1).padv)
  | _, none => .pad (padBits d.fmt (d.tap 3).padv)
  | some a, some b =>
    let e : Int := d.plain i v 0 + d.plain i v 1 + d.plain i v 2 + d.plain i v 3 + d.plain i v 4 + a + b
    .at ((d.base : Int) + e * d.width / 8) (e % 2 == 1)

/-- The bytes an element occupies. -/
def Desc.elemBytes (d : Desc) : Nat := (d.width + 7) / 8

/-- R131: whether bytes a … a + n − 1 lie within the bounds. -/
def Desc.inBounds (d : Desc) (a : Int) (n : Nat) : Bool :=
  decide ((d.blo * 32 : Nat) ≤ a) && decide (a + n ≤ (d.bhi * 32 + 32 : Nat))

/-- R143: whether an index value marks an empty entry. -/
def Desc.emptyIdx (d : Desc) (idxFmt v : Nat) : Bool :=
  d.iskip && (v == if idxFmt = 10 then 0xFFFF else 0xFFFFFFFF)

/-- R140: the bytes of index element i of an index descriptor. -/
def Desc.idxAddr (x : Desc) (i : Nat) : Int :=
  (x.base : Int) + (i : Int) * x.stride 0 * x.width / 8

/-- The range of contributions of one tap of a pair over all positions; `none` where all are padding. -/
def Tap.range (t : Tap) (stridePos : Int) (size k : Nat) : Option (Int × Int) :=
  if t.tr then
    let lo : Int := k * t.dil - t.plo
    let a : Int := if lo < 0 then 0 else lo
    let top : Int := t.zMax size - t.phi
    let end0 : Int := lo + (size - 1 : Nat)
    let b : Int := if top < end0 then top else end0
    let za : Int := (a + t.s - 1) / t.s
    let zb : Int := b / t.s
    if za ≤ zb then some (za * stridePos, zb * stridePos) else none
  else
    let off : Int := k * t.dil - t.plo
    let a : Int := if off < 0 then (-off + t.s - 1) / t.s else 0
    let b0 : Int := (t.inLen size - 1 - off) / t.s
    let b : Int := if b0 < (size : Int) - 1 then b0 else (size : Int) - 1
    let u := stridePos / t.s
    if a ≤ b then some ((a * t.s + off) * u, (b * t.s + off) * u) else none

/-- The least and greatest of two bounds of a range. -/
def spanMerge (o : Option (Int × Int)) (r : Option (Int × Int)) : Option (Int × Int) :=
  match r with
  | none => o
  | some (x, y) =>
    let lo := if x ≤ y then x else y
    let hi := if x ≤ y then y else x
    match o with
    | none => some (lo, hi)
    | some (a, b) => some (if lo < a then lo else a, if b < hi then hi else b)

/-- The least and greatest contribution of a window pair. -/
def Desc.pairSpan (d : Desc) (j : Nat) : Option (Int × Int) :=
  ((List.range (d.tap j).taps).map (fun k => (d.tap j).range (d.stride (j + 1)) (d.size (j + 1)) k)).foldl
    spanMerge none

/-- The least and greatest contribution of an ordinary dimension. -/
def Desc.dimSpan (d : Desc) (j : Nat) : Int × Int :=
  if d.isTap j || d.isPos j then (0, 0)
  else
    let x := ((d.size j : Int) - 1) * d.stride j
    if x < 0 then (x, 0) else (0, x)

/-- R132: the least and greatest byte address of the whole tensor, padding excluded. -/
def Desc.extent (d : Desc) : Option (Int × Int) :=
  let s := [0, 1, 2, 3, 4].map d.dimSpan
  let lo := (s.map (·.1)).foldl (· + ·) 0
  let hi := (s.map (·.2)).foldl (· + ·) 0
  let p1 := if 1 ≤ d.wp then d.pairSpan 1 else some (0, 0)
  let p2 := if d.wp = 2 then d.pairSpan 3 else some (0, 0)
  match p1, p2 with
  | some (a, b), some (c, e) =>
    some ((d.base : Int) + (lo + a + c) * d.width / 8,
      (d.base : Int) + (hi + b + e) * d.width / 8 + d.elemBytes - 1)
  | _, _ => none

/-- R132: whether the whole tensor lies within its bounds; an indirect descriptor is checked as it walks. -/
def Desc.staticOk (d : Desc) : Bool :=
  d.idim != 7 ||
  match d.extent with
  | none => true
  | some (a, b) => decide ((d.blo * 32 : Nat) ≤ a) && decide (b < (d.bhi * 32 + 32 : Nat))

/-- R125: the last line of a location. -/
def lastLine (loc : Nat) : Nat := if loc % 2 = 0 then 2047 else 8191

/-- R13, R124, R134: the reserved fields of a descriptor and of its tap words are zero. -/
def Desc.rsvOk (d : Desc) : Bool :=
  d.rsv == 0 && (!(decide (1 ≤ d.wp)) || (d.tap 1).rsv == 0) && (d.wp != 2 || (d.tap 3).rsv == 0)

/-- Subcode 2: LOC, FMT, IDIM, WP, reserved fields, unused dimension words, SH and IH. -/
def Desc.fieldsOk (d : Desc) : Bool :=
  decide (d.fmt ≤ 13) && (d.idim == 7 || decide (d.idim ≤ 4)) && d.wp != 3 && d.rsvOk &&
  ([0, 1, 2, 3, 4].all fun j => decide (j < d.ndim) || d.dim j == 0) &&
  (fmtScaled d.fmt || d.sh == 0) && (d.idim != 7 || d.ih == 0)

/-- R128, R129: alignment. -/
def Desc.aligned (d : Desc) : Bool :=
  (d.width ≤ 8 || d.base % (d.width / 8) == 0) &&
  (!(fmtScaled d.fmt) ||
    (d.stride 0 == 1 && d.size 0 % 32 == 0 &&
      ([1, 2, 3, 4].all fun j => d.isTap j || d.stride j % 32 == 0) &&
      d.base % (if d.width = 4 then 16 else 32) == 0))

/-- R133–R136, R138: one window pair. -/
def Desc.pairOk (d : Desc) (j : Nat) : Bool :=
  d.idim != j && d.idim != j + 1 &&
  (d.width != 4 || (d.tap j).padv < 16) &&
  ((d.tap j).tr ||
    (d.stride (j + 1) % (d.tap j).s == 0 && decide (1 ≤ (d.tap j).inLen (d.size (j + 1)))))

/-- R146 subcode 6. -/
def Desc.windowsOk (d : Desc) : Bool :=
  d.wp == 0 ||
  (!(fmtScaled d.fmt) && decide (3 ≤ d.ndim) && d.pairOk 1 && (d.wp != 2 || (decide (5 ≤ d.ndim) && d.pairOk 3)))

/-- R146 subcode 4: RTILE is zero for an own location; for a remote one it names a tile for which `live` answers. -/
def Desc.rtileOk (d : Desc) (live : Nat → Bool) : Bool :=
  if d.loc < 2 then d.rtile == 0
  else match dtileOf d.rtile with
    | some t => live t
    | none => false

/-- R146: the first of subcodes 1 to 6 that fails. -/
def Desc.check16 (d : Desc) (live : Nat → Bool) : Option Nat :=
  if d.ndim < 1 ∨ 5 < d.ndim then some 1
  else if !d.fieldsOk then some 2
  else if !(decide (d.blo ≤ d.bhi) && decide (d.bhi ≤ lastLine d.loc)) then some 3
  else if !(d.rtileOk live) then some 4
  else if !d.aligned then some 5
  else if !d.windowsOk then some 6
  else none

/-- R130: a scale descriptor `s` of `d`. -/
def Desc.scaleOk (d s : Desc) : Bool :=
  s.fmt == scaleFmt d.fmt && s.ndim == d.ndim && s.size 0 == d.size 0 / 32 &&
  ([1, 2, 3, 4].all fun j => s.size j == d.size j) &&
  s.idim == 7 && s.wp == 0 && s.sh == 0 && s.ih == 0

/-- R140: an index descriptor `x` of `d`. -/
def Desc.indexOk (d x : Desc) : Bool :=
  x.loc == 0 && (x.fmt == 10 || x.fmt == 11) && x.ndim == 1 && x.idim == 7 && x.wp == 0 && x.sh == 0 &&
  x.ih == 0 && !x.iskip && decide (d.size d.idim ≤ x.size 0)

/-- The data descriptor of a latched operand. -/
def Latched.desc (l : Latched) : Desc := .ofWords l.data
/-- The scale descriptor of a latched operand, if its format carries block scales. -/
def Latched.sdesc (l : Latched) : Option Desc := l.scale.map (fun p => .ofWords p.2)
/-- The index descriptor of a latched operand, if a dimension is indirect. -/
def Latched.idesc (l : Latched) : Option Desc := l.index.map (fun p => .ofWords p.2)

/-- R146: the first failing check of one handle field: role 0 data, 1 scale, 2 index, with its subcode. -/
def Latched.check (l : Latched) (live : Nat → Bool) : Option (Nat × Nat) :=
  let d := l.desc
  match d.check16 live with
  | some c => some (0, c)
  | none =>
    match l.sdesc, l.idesc with
    | s, x =>
      let s7 := match s with
        | some s => d.scaleOk s
        | none => true
      let x8 := match x with
        | some x => d.indexOk x
        | none => true
      if !s7 then some (0, 7)
      else if !x8 then some (0, 8)
      else match s.bind (fun s => s.check16 live) with
        | some c => some (1, c)
        | none => (x.bind (fun x => x.check16 live)).map (fun c => (2, c))

/-- R132: the first operand of a field whose extent leaves its bounds: role and extent. -/
def Latched.static (l : Latched) : Option (Nat × Desc) :=
  if !l.desc.staticOk then some (0, l.desc)
  else match l.sdesc with
    | some s => if l.desc.idim = 7 && !s.staticOk then some (1, s) else none
    | none => none

/-- The descriptor words of handle h in a descriptor table. -/
def descWords (t : Tbl Word) (h : Nat) : List Word :=
  (List.range 8).map (fun w => Tbl.get 0 t (h * 8 + w))

/-- R122: latches the descriptors of handle h for a handle field. -/
def latch (t : Tbl Word) (role h : Nat) : Latched :=
  let w := descWords t h
  let d := Desc.ofWords w
  { role := role, h := h, data := w
    scale := if fmtScaled d.fmt then some (d.sh, descWords t d.sh) else none
    index := if d.idim ≤ 4 then some (d.ih, descWords t d.ih) else none }

/-- R122 and the handle tables R177, R204, R234, R277: the handle fields an instruction uses, in the order
HD, HA, HB, HC. -/
def usedHandles (op : EngOp) (h : EngHdr) : List (Nat × Nat) :=
  let out := h.ctrl.getLsbD 1
  let opt (r : Nat) (x : BitVec 6) : List (Nat × Nat) := if x = 0 then [] else [(r, x.toNat)]
  match op with
  | .pmul => (if out then [(0, h.hd.toNat)] else []) ++ [(1, h.ha.toNat), (2, h.hb.toNat)]
  | .pdrn => [(0, h.hd.toNat)]
  | .dload => [(1, h.ha.toNat)]
  | .dmul => (if out then [(0, h.hd.toNat)] else []) ++ [(2, h.hb.toNat)]
  | .ddrn => [(0, h.hd.toNat)]
  | .dkv => [(0, h.hd.toNat), (1, h.ha.toNat)]
  | .vmap => [(0, h.hd.toNat), (1, h.ha.toNat)] ++ opt 2 h.hb ++ opt 3 h.hc
  | .vred => opt 0 h.hd ++ [(1, h.ha.toNat)] ++ opt 2 h.hb ++ opt 3 h.hc
  | .vtopk => [(0, h.hd.toNat), (1, h.ha.toNat)] ++ opt 2 h.hb ++ [(3, h.hc.toNat)]
  | .vqnt => [(0, h.hd.toNat), (1, h.ha.toNat)] ++ opt 2 h.hb ++ opt 3 h.hc
  | .hmov => [(0, h.hd.toNat), (1, h.ha.toNat)]
  | .hfill => [(0, h.hd.toNat)]
  | .hzero => [(0, h.hd.toNat)]
  | .hrel => [(0, h.hd.toNat)]

/-- The operand latched for a handle field. -/
def findOp (ops : List Latched) (role : Nat) : Option Latched := ops.find? (fun l => l.role == role)

/-- The indices of element number n of the dimensions with the given sizes, first fastest. -/
def unflatten : List Nat → Nat → List Nat
  | [], _ => []
  | s :: l, n => (if s = 0 then 0 else n % s) :: unflatten l (if s = 0 then 0 else n / s)

end Sys2Proof.Machine
end

