-- ==== Sys2Proof/Machine/Ops.lean ====
section
/-! DEFINITION. The named operations over a tile's memories and registers: byte reads and writes with their
error and poison marks, tags, accesses and their checks (chapters 03 and 09), and tile faults. -/

namespace Sys2Proof.Machine

/-- R92, R93: which of two words a minimum or maximum keeps: rb where `less` puts it first (minimum) or last (maximum). -/
def keepOf (less : Word → Word → Bool) (least : Bool) (ra rb : Word) : Word :=
  bif (if least then less rb ra else less ra rb) then rb else ra

/-- `n` bytes of a value, little-endian (R12). -/
def leBytes : Nat → Nat → List Byte
  | 0, _ => []
  | n + 1, v => BitVec.ofNat 8 v :: leBytes n (v / 256)

/-- The value of little-endian bytes. -/
def leNat : List Byte → Nat
  | [] => 0
  | b :: l => b.toNat + 256 * leNat l

/-- The canonical form of a memory: addresses strictly rising and no byte listed that reads as an unlisted one
does, which is zero (R299, R512: memories are zeroed before use). -/
def Memory.wf (m : List Host.Cell) : Bool := Tbl.wf (0 : Byte) m

/-- `n` bytes of a memory from address `a`; a byte nothing lists reads as zero. -/
def memRead (m : List Host.Cell) (a n : Nat) : List Byte :=
  (List.range n).map (fun i => Tbl.get (0 : Byte) m (a + i))

/-- Writes bytes from address `a`. -/
def memWrite (m : List Host.Cell) (a : Nat) (l : List Byte) : List Host.Cell :=
  (l.zipIdx a).foldl (fun m x => Tbl.set (0 : Byte) m x.2 x.1) m

/-- A fault of a tile: code, subcode, detail bytes (R562), program address and route store address. -/
structure TFault where
  code : Nat
  sub  : Nat
  det  : List Byte
  pc   : Option Nat
  ra   : Option Nat
  deriving DecidableEq, Repr

/-- A fault of an instruction at program address `pc`. -/
def TFault.mkI (code sub pc : Nat) (det : List Byte) : TFault := ⟨code, sub, det, some pc, none⟩

/-- R300: the earliest origin that the tile holds, and its origin count, as a poison fault carries them. -/
def originDetail (t : Tile) : List Byte :=
  let o := t.origins.head?.getD ⟨0, 0, 0⟩
  leBytes 1 o.code ++ leBytes 4 o.loc ++ leBytes 8 o.time ++ leBytes 4 t.originCount
/-- R564, R300: the detail of a poison fault: observable point, location, earliest origin held, count. -/
def poisonDetail (t : Tile) (point loc : Nat) : List Byte :=
  leBytes 1 point ++ leBytes 4 loc ++ originDetail t
/-- R293, R295: a poison fault names the earliest origin held once the reads of its own tread are counted. -/
def TFault.withOrigins (t : Tile) (f : TFault) : TFault :=
  if f.code = 0x60 then { f with det := f.det.take 5 ++ originDetail t } else f

/-- R534: an event counter advanced by one; it sticks at its maximum. -/
def stick (n : Nat) : Nat := if n < 4294967295 then n + 1 else n
/-- R535: the overflow bits once a counter with bit b has advanced. -/
def fillBit (b n : Nat) (o : BitVec 7) : BitVec 7 :=
  if 4294967294 ≤ n then o ||| BitVec.ofNat 7 (2 ^ b) else o

/-- R293: records an origin: the first two are kept and all are counted. -/
def Tile.addOrigin (t : Tile) (o : Origin) : Tile :=
  { t with
    origins := if t.origins.length < 2 then t.origins ++ [o] else t.origins
    originCount := stick t.originCount, ovf := fillBit 4 t.originCount t.ovf }

/-- The marks of a memory's 64-bit words. -/
def Tile.marks (t : Tile) (cellar : Bool) : Tbl Nat := if cellar then t.cellarMark else t.atticMark
/-- The bytes of a memory. -/
def Tile.mem (t : Tile) (cellar : Bool) : List Host.Cell := if cellar then t.cellar else t.attic

/-- The 64-bit words that bytes a … a + n − 1 touch. -/
def wordsOf (a n : Nat) : List Nat :=
  if n = 0 then [] else (List.range ((a + n - 1) / 8 + 1 - a / 8)).map (· + a / 8)
/-- The 32-byte lines that bytes a … a + n − 1 touch. -/
def linesOf (a n : Nat) : List Nat :=
  if n = 0 then [] else (List.range ((a + n - 1) / 32 + 1 - a / 32)).map (· + a / 32)

/-- R291, R294: whether a word is delivered poisoned. -/
def poisonMark (m : Nat) : Bool := m == 2 || m == 3
/-- R291, R294: whether any word under the bytes is delivered poisoned. -/
def Tile.poisonAt (t : Tile) (cellar : Bool) (a n : Nat) : Bool :=
  (wordsOf a n).any (fun w => poisonMark (Tbl.get 0 (t.marks cellar) w))

/-- R266: the shelf range that holds an attic line. -/
def Tile.shelfOf (t : Tile) (line : Nat) : Option Shelf :=
  t.shelves.find? (fun s => decide (s.first ≤ line) && decide (line ≤ s.last))
/-- The tag of an attic line: pending for an ordinary line, full for a shelf line. -/
def Tile.tag (t : Tile) (line : Nat) : Bool := Tbl.get false t.tags line
/-- Sets the tag of an attic line. -/
def Tile.setTag (t : Tile) (line : Nat) (v : Bool) : Tile := { t with tags := Tbl.set false t.tags line v }
/-- R108: an ordinary line whose pending mark is set. -/
def Tile.pending (t : Tile) (line : Nat) : Bool := t.tag line && (t.shelfOf line).isNone

/-- R108: sets the pending mark of every line of a range that is not a shelf line. -/
def Tile.markRange (t : Tile) (first last : Nat) : Tile :=
  ((List.range (last + 1 - first)).map (· + first)).foldl
    (fun t l => if (t.shelfOf l).isNone then t.setTag l true else t) t
/-- R108: clears every pending mark of a range. -/
def Tile.unmarkRange (t : Tile) (first last : Nat) : Tile :=
  ((List.range (last + 1 - first)).map (· + first)).foldl
    (fun t l => if (t.shelfOf l).isNone then t.setTag l false else t) t

/-- R272: the kind of a cellar block: 0 unallocated, 1 weight, 2 kept, 3 loading. -/
def Tile.kind (t : Tile) (block : Nat) : Nat := Tbl.get 0 t.kinds block

/-- The agents of tread-driven accesses, as the details of chapter 09's faults code them. -/
def agSeq : Nat := 0
/-- The press activation port. -/
def agPressAct : Nat := 1
/-- The press weight port. -/
def agPressW : Nat := 2
/-- The press drain port. -/
def agPressDrain : Nat := 3
/-- The draw core's DLOAD reads. -/
def agDrawLoad : Nat := 4
/-- The draw core's DKV source reads and cellar writes. -/
def agDkv : Nat := 5
/-- The draw core's drain writes. -/
def agDrawDrain : Nat := 6
/-- The draw core's stair reads. -/
def agDrawStair : Nat := 7
/-- The vector engine's read port. -/
def agVecRead : Nat := 8
/-- The vector engine's write port. -/
def agVecWrite : Nat := 9
/-- The vector engine's side port. -/
def agVecSide : Nat := 10
/-- The haul engine. -/
def agHaul : Nat := 11
/-- HZERO's writes, which shelf tags never hold (R267). -/
def agHzero : Nat := 12

/-- The queue of an agent, or 4 for the sequencer. -/
def agentQueue (a : Nat) : Nat :=
  if a = 0 then 4 else if a ≤ 3 then 0 else if a ≤ 7 then 1 else if a ≤ 10 then 2 else 3

/-- R262: one access of a tread-driven agent: `len` bytes from `addr` of the attic or the cellar. -/
structure Acc where
  agent : Nat
  wr    : Bool
  cellar : Bool
  addr  : Nat
  len   : Nat
  deriving DecidableEq, Repr

/-- R294: the mark of a word after a write that covers it whole or in part. -/
def newMark (old : Nat) (whole poi : Bool) : Nat :=
  if poi then 3 else if whole then 0 else if poisonMark old then 3 else 0

/-- The marks after a write of n bytes from a. -/
def writeMarks (m : Tbl Nat) (a n : Nat) (poi : List Nat) : Tbl Nat :=
  (wordsOf a n).foldl (fun m w =>
    Tbl.set 0 m w (newMark (Tbl.get 0 m w) (decide (a ≤ w * 8) && decide (w * 8 + 8 ≤ a + n)) (poi.contains w))) m

/-- R109, R270: the tag of an attic line after a write of agent `agent` that touches the line. -/
def Tile.retag (agent : Nat) (t : Tile) (l : Nat) : Tile :=
  match t.shelfOf l with
  | none => t.setTag l false
  | some s => if agent = agHzero then t.setTag l false else if s.inbound then t else t.setTag l true

/-- R109, R267, R270, R294: makes a write: bytes, marks, and the tags of the attic lines it touches. -/
def Tile.store (t : Tile) (w : MemWr) : Tile :=
  if w.cellar then
    { t with
      cellar := memWrite t.cellar w.addr w.bytes
      cellarMark := writeMarks t.cellarMark w.addr w.bytes.length w.poi }
  else
    let t := { t with
      attic := memWrite t.attic w.addr w.bytes
      atticMark := writeMarks t.atticMark w.addr w.bytes.length w.poi }
    (linesOf w.addr w.bytes.length).foldl (Tile.retag w.agent) t

/-- R221: makes a write unless the slot's generations differ. -/
def Tile.storeGen (t : Tile) (w : MemWr) : Tile :=
  match w.slot with
  | some s =>
    if Tbl.get 0 t.genE s = Tbl.get 0 t.genG s then t.store w
    else t
  | none => t.store w

/-- R221: whether a write is suppressed. -/
def Tile.suppresses (t : Tile) (w : MemWr) : Bool :=
  match w.slot with
  | some s => Tbl.get 0 t.genE s != Tbl.get 0 t.genG s
  | none => false

/-- R221: counts the suppressed writes of an engine's tread: the pieces of one drained row chunk are one write. -/
def Tile.countSuppressed (t : Tile) (l : List MemWr) : Tile :=
  let sup := l.filter t.suppresses
  let drains := sup.filter (fun w => w.agent == agDrawDrain)
  ((List.range ((sup.length - drains.length) + min 1 drains.length)).foldl (fun (t : Tile) _ =>
    { t with suppressed := stick t.suppressed, ovf := fillBit 3 t.suppressed t.ovf }) t)

/-- The access that a write makes. -/
def MemWr.acc (w : MemWr) : Acc := ⟨w.agent, true, w.cellar, w.addr, w.bytes.length⟩

/-- R264: whether a write covers a 64-bit word of line x only in part. -/
def Acc.merges (a : Acc) (x : Nat) : Bool :=
  a.wr && (max a.addr (32 * x) % 8 != 0 || min (a.addr + a.len) (32 * x + 32) % 8 != 0)

/-- R262, R264: the (agent, line) pairs that use read slots. -/
def readSlots (l : List Acc) : List (Nat × Nat) :=
  ((l.filter (fun a => !a.cellar)).flatMap
    (fun a => ((linesOf a.addr a.len).filter (fun x => !a.wr || a.merges x)).map (fun x => (a.agent, x)))).eraseDups
/-- R262: the (agent, line) pairs that use write slots. -/
def writeSlots (l : List Acc) : List (Nat × Nat) :=
  ((l.filter (fun a => !a.cellar && a.wr)).flatMap
    (fun a => (linesOf a.addr a.len).map (fun x => (a.agent, x)))).eraseDups

/-- R263: two of the pairs that need the same slot of one bank; reads of one line share it. -/
def slotClash (reads : Bool) : List (Nat × Nat) → Option ((Nat × Nat) × (Nat × Nat))
  | [] => none
  | p :: l =>
    match l.find? (fun q => p.2 % 4 == q.2 % 4 && !(reads && p.2 == q.2)) with
    | some q => some (p, q)
    | none => slotClash reads l

/-- R263, R300: the bank-collision fault of a tread's accesses. -/
def bankFault (l : List Acc) : Option TFault :=
  match slotClash true (readSlots l) with
  | some (p, q) => some ⟨0x5A, 0, leBytes 1 (p.2 % 4) ++ leBytes 1 0 ++ leBytes 1 p.1 ++ leBytes 1 q.1, none, none⟩
  | none =>
    match slotClash false (writeSlots l) with
    | some (p, q) => some ⟨0x5A, 0, leBytes 1 (p.2 % 4) ++ leBytes 1 1 ++ leBytes 1 p.1 ++ leBytes 1 q.1, none, none⟩
    | none => none

/-- R267, R269: the hold that an access meets against the tags before the tread. -/
def Tile.accHold (t : Tile) (tid : Nat) (a : Acc) : Option HoldSrc :=
  if a.cellar || a.agent == agHzero then none else
  (linesOf a.addr a.len).findSome? (fun l =>
    match t.shelfOf l with
    | none => none
    | some s =>
      if !a.wr && s.inbound && !t.tag l then some ⟨tid, 2, l, agentQueue a.agent⟩
      else if a.wr && !s.inbound && t.tag l then some ⟨tid, 3, l, agentQueue a.agent⟩
      else none)

/-- R109, R272: the fault that a read meets: pending line, or a block that is neither weight nor kept. -/
def Tile.readFault (t : Tile) (a : Acc) : Option TFault :=
  if a.wr then none
  else if a.cellar then
    (linesOf a.addr a.len).findSome? (fun l =>
      let k := t.kind (l / 128)
      if k = 1 ∨ k = 2 then none
      else some ⟨0x64, 0, leBytes 1 (l / 128) ++ leBytes 1 k ++ leBytes 1 0 ++ leBytes 1 a.agent, none, none⟩)
  else
    (linesOf a.addr a.len).findSome? (fun l =>
      if t.pending l then some ⟨0x20, 0, leBytes 2 l ++ leBytes 1 (agentQueue a.agent), none, none⟩ else none)

/-- R109, R267, R268, R272, R295: the fault that a write meets. -/
def Tile.writeFault (t : Tile) (w : MemWr) : Option TFault :=
  if t.suppresses w then none else
  if w.cellar then
    match (linesOf w.addr w.bytes.length).find? (fun l => t.kind (l / 128) != 2) with
    | some l =>
      some ⟨0x64, 0, leBytes 1 (l / 128) ++ leBytes 1 (t.kind (l / 128)) ++ leBytes 1 1 ++ leBytes 1 w.agent, none, none⟩
    | none => match w.poi with
      | [] => none
      | p :: _ => some ⟨0x60, 0, poisonDetail t 2 (p / 4), none, none⟩
  else if w.agent = agHzero then none
  else
    (linesOf w.addr w.bytes.length).findSome? (fun l =>
      match t.shelfOf l with
      | none =>
        if w.agent = agSeq && t.tag l then some ⟨0x22, 0, leBytes 2 l, none, none⟩ else none
      | some s =>
        if s.inbound then some ⟨0x5B, 1, leBytes 2 l, none, none⟩
        else if !(decide (w.addr ≤ l * 32) && decide (l * 32 + 32 ≤ w.addr + w.bytes.length)) then
          some ⟨0x5B, 2, leBytes 2 l, none, none⟩
        else if w.poi.any (fun p => p / 4 == l) then some ⟨0x60, 0, poisonDetail t 2 l, none, none⟩
        else none)

/-- R291, R293: what the reads of an access do to the error counts: a double-bit error records an origin,
a single-bit error is counted. -/
def Tile.noteRead (tread : Nat) (t : Tile) (a : Acc) : Tile :=
  if a.wr then t else
  (wordsOf a.addr a.len).foldl (fun t w =>
    let m := Tbl.get 0 (t.marks a.cellar) w
    if m = 2 then t.addOrigin ⟨if a.cellar then 2 else 1, w / 4 + (w % 4) * 65536, tread⟩
    else if m = 1 then
      if a.cellar then
        { t with corrC := stick t.corrC, ovf := fillBit 6 t.corrC t.ovf, stairCorr := t.stairCorr + 1 }
      else { t with corrA := stick t.corrA, ovf := fillBit 5 t.corrA t.ovf }
    else t) t

/-- R291: a bench or slot store word that is read, by its source code and location: a single-bit error is counted, a double-bit
error records an origin. -/
def Tile.noteStore (tread : Nat) (t : Tile) (q : Nat × Nat) : Tile :=
  let m := if q.1 = 3 then Tbl.get 0 t.pressMark (q.2 % 16 * 4096 + q.2 / 16)
    else if q.1 = 4 then Tbl.get 0 t.drawMark (q.2 % 16 * 512 + q.2 / 16)
    else Tbl.get 0 t.slotMark (q.2 % 16 * 264 + q.2 / 16)
  if m = 2 then t.addOrigin ⟨q.1, q.2, tread⟩ else if m = 1 then { t with corrB := stick t.corrB } else t

/-- What an engine does in one tread: its accesses, its new working state, the writes and postings that
fall in phase 4, faults with their phase, the energy it spends (R374), requests it hands to the service
network, the shelf lines it empties and those it fills with zeros, the origins of poison that it creates (R292), and the words of benches and
slot stores that it reads, each with its source code and location (R291, R564). -/
structure StepOut where
  accs  : List Acc
  run   : Run
  writes : List MemWr
  posts : List Post
  faults : List (Nat × TFault)
  mac   : Nat
  stairDraw : Nat
  stairHaul : Nat
  slots : List (Nat × Nat × Elem)
  slotBlocks : List (Nat × Nat × Elem)
  slotDone : List (Nat × Nat × Nat)
  empties : List Nat
  fills : List Nat
  origins : List Origin
  stores : List (Nat × Nat)
  sends : List HaulSend

/-- An engine that does nothing in a tread. -/
def StepOut.idle (r : Run) : StepOut :=
  { accs := [], run := r, writes := [], posts := [], faults := [], mac := 0, stairDraw := 0, stairHaul := 0,
    slots := [], slotBlocks := [], slotDone := [], empties := [], fills := [], origins := [], stores := [], sends := [] }

/-- What reading one element, scale or index gives: the value, the accesses, the faults. -/
structure ERd where
  e    : Elem
  accs : List Acc
  fs   : List TFault

/-- The little-endian bits of an element at a byte address. -/
def Tile.elemBits (t : Tile) (cellar : Bool) (width : Nat) (a : Nat) (odd : Bool) : Nat :=
  if width = 4 then
    let b := (Tbl.get (0 : Byte) (t.mem cellar) a).toNat
    if odd then b / 16 else b % 16
  else leNat (memRead (t.mem cellar) a (width / 8))

/-- Reads the element of descriptor `d` at a reference (R127, R137). -/
def Tile.readRef (t : Tile) (d : Desc) (agent : Nat) (r : ERef) (bad : Int → TFault) : ERd :=
  match r with
  | .pad b => ⟨⟨b, false⟩, [], []⟩
  | .at a odd =>
    if !(d.inBounds a d.elemBytes) then ⟨.zero, [], [bad a]⟩
    else
      let c := d.loc == 1
      ⟨⟨t.elemBits c d.width a.toNat odd, t.poisonAt c a.toNat d.elemBytes⟩,
        [⟨agent, false, c, a.toNat, d.elemBytes⟩], []⟩

/-- The five indices of an element as detail bytes. -/
def idxBytes (i : List Nat) : List Byte :=
  (List.range 5).flatMap (fun j => leBytes 2 (i.getD j 0))
/-- The indices of a scale as detail bytes; two each, an index value that stands among them as well (log entry 15). -/
def scaleIdxBytes (i : List Nat) : List Byte :=
  (List.range 5).flatMap (fun j => leBytes 2 (i.getD j 0))
/-- An address as four detail bytes. -/
def addrBytes (a : Int) : List Byte := leBytes 4 (a % 4294967296).toNat

/-- R137, R142, R143: reads element `i` of a latched operand; `v` is the value of its indirect dimension. An element that lies at an
empty entry and is padding as well reads +0 (DESIGN CHOICE, log entry 102: no rule puts R137 before R143). -/
def Tile.readElem (t : Tile) (l : Latched) (pc agent : Nat) (i : List Nat) (v : Nat) : ERd :=
  let d := l.desc
  let empty := match l.idesc with
    | some x => d.emptyIdx x.fmt v
    | none => false
  if empty then ⟨.zero, [], []⟩
  else t.readRef d agent (d.elem i v) (fun a =>
    .mkI 0x32 0 pc (leBytes 1 l.h ++ idxBytes i ++ leBytes 4 v ++ addrBytes a ++ leBytes 2 d.blo ++ leBytes 2 d.bhi))

/-- The neutral scale of an empty entry, 1.0 (R208). -/
def oneScale (fmt : Nat) : Nat := if fmt ≤ 2 then 0x7F else 0x3C00

/-- R129, R142: reads the block scale of element `i` of a latched operand with a scaled format. -/
def Tile.readScale (t : Tile) (l : Latched) (pc agent : Nat) (i : List Nat) (v : Nat) : ERd :=
  let d := l.desc
  match l.scale with
  | none => ⟨⟨oneScale d.fmt, false⟩, [], []⟩
  | some (sh, w) =>
    let s := Desc.ofWords w
    let empty := match l.idesc with
      | some x => d.emptyIdx x.fmt v
      | none => false
    if empty then ⟨⟨oneScale d.fmt, false⟩, [], []⟩
    else
      let i0 := (i.getD 0 0 / 32) :: i.drop 1
      let i' := if d.idim ≤ 4 then i0.set d.idim v else i0
      t.readRef s agent (s.elem i' 0) (fun a =>
        .mkI (if d.idim ≤ 4 then 0x34 else 0x31) 0 pc (leBytes 1 l.h ++ leBytes 1 sh ++ scaleIdxBytes i' ++
          addrBytes a ++ leBytes 2 s.blo ++ leBytes 2 s.bhi))

/-- R141, R142, R295: reads index element i of a latched operand. -/
def Tile.readIndex (t : Tile) (l : Latched) (pc agent i : Nat) : ERd :=
  match l.index with
  | none => ⟨.zero, [], []⟩
  | some (ih, w) =>
    let x := Desc.ofWords w
    let a := x.idxAddr i
    let r := t.readRef x agent (.at a false) (fun a =>
      .mkI 0x33 0 pc (leBytes 1 l.h ++ leBytes 1 ih ++ leBytes 2 i ++ addrBytes a ++ leBytes 2 x.blo ++ leBytes 2 x.bhi))
    if r.e.poi then { r with fs := r.fs ++ [.mkI 0x60 0 pc (poisonDetail t 5 (a.toNat / 32))] } else r

/-- The exact value of a block scale; 1 for a format without. -/
def scaleNum (fmt : Nat) (e : Elem) : Num :=
  if fmtScaled fmt then decodeFmt (scaleFmt fmt) e.bits else .dyadic false 1 0

/-- Joins writes of adjacent bytes, so that a row or beat counts as one access. -/
def coalesce : List MemWr → List MemWr
  | [] => []
  | w :: l =>
    match coalesce l with
    | [] => [w]
    | x :: r =>
      if w.addr + w.bytes.length = x.addr ∧ w.cellar = x.cellar ∧ w.slot = x.slot then
        { w with bytes := w.bytes ++ x.bytes, poi := w.poi ++ x.poi } :: r
      else w :: x :: r

/-- Joins reads of adjacent bytes. -/
def coalesceAcc : List Acc → List Acc
  | [] => []
  | a :: l =>
    match coalesceAcc l with
    | [] => [a]
    | x :: r =>
      if a.addr + a.len = x.addr ∧ a.cellar = x.cellar ∧ a.agent = x.agent ∧ a.wr = x.wr then
        { a with len := a.len + x.len } :: r
      else a :: x :: r

/-- The write of one element to a latched destination; none for an empty index entry, a fault where an
indirect address leaves the bounds. -/
def writeElem (l : Latched) (pc agent : Nat) (slot : Option Nat) (i : List Nat) (v : Nat) (e : Elem) :
    List MemWr × List TFault :=
  let d := l.desc
  let empty := match l.idesc with
    | some x => d.emptyIdx x.fmt v
    | none => false
  if empty then ([], []) else
  match d.elem i v with
  | .pad _ => ([], [])
  | .at a _ =>
    if !(d.inBounds a d.elemBytes) then
      ([], [.mkI 0x32 0 pc (leBytes 1 l.h ++ idxBytes i ++ leBytes 4 v ++ addrBytes a ++ leBytes 2 d.blo ++ leBytes 2 d.bhi)])
    else
      ([⟨agent, d.loc == 1, a.toNat, leBytes d.elemBytes e.bits,
        if e.poi then wordsOf a.toNat d.elemBytes else [], slot⟩], [])

end Sys2Proof.Machine
end

