-- ==== Sys2Proof/Machine/Queue.lean ====
section
/-! DEFINITION. Entry of an engine instruction into its queue (R104–R106, R146, R147) and what each engine
chapter fixes there: accepted operands, shapes, bench ranges, operand classes and durations. -/

namespace Sys2Proof.Machine

/-- The queue of an engine instruction: 0 press, 1 draw, 2 vector, 3 haul (R89). -/
def engQueue : EngOp → Nat
  | .pmul => 0 | .pdrn => 0
  | .dload => 1 | .dmul => 1 | .ddrn => 1 | .dkv => 1
  | .vmap => 2 | .vred => 2 | .vtopk => 2 | .vqnt => 2
  | .hmov => 3 | .hfill => 3 | .hzero => 3 | .hrel => 3

/-- ceil(a / b). -/
def ceilDiv (a b : Nat) : Nat := (a + b - 1) / b

/-! ### Fields -/

/-- R175: M. -/
def pM (p : DWord) : Nat := fld p 0 12 + 1
/-- R175: K. -/
def pK (p : DWord) : Nat := fld p 12 12 + 1
/-- R175: N. -/
def pN (p : DWord) : Nat := fld p 24 8 + 1
/-- R175: BB. -/
def pBB (p : DWord) : Nat := fld p 32 12
/-- R176: ACC. -/
def cACC (h : EngHdr) : Bool := h.ctrl.getLsbD 0
/-- R176: OUT. -/
def cOUT (h : EngHdr) : Bool := h.ctrl.getLsbD 1
/-- R203: K of a draw instruction. -/
def dK (p : DWord) : Nat := fld p 0 10 + 1
/-- R203: N of a draw instruction. -/
def dN (p : DWord) : Nat := fld p 10 9 + 1
/-- R203: KO. -/
def dKO (p : DWord) : Nat := fld p 19 10
/-- R203: BB. -/
def dBB (p : DWord) : Nat := fld p 29 9
/-- R202: AF. -/
def dAF (h : EngHdr) : Nat := fld h.ctrl 2 2
/-- R202: the slots of SM, counting upward. -/
def dSlots (h : EngHdr) : List Nat := (List.range 8).filter (fun s => h.ctrl.getLsbD (8 + s))
/-- R202: J. -/
def dJ (h : EngHdr) : Nat := (dSlots h).length
/-- The activation format that a slot format stands for (R155, R202). -/
def afFmt (af : Nat) : Nat := if af = 0 then 5 else if af = 1 then 6 else 7
/-- R231: CF. -/
def vCF (h : EngHdr) : Nat := fld h.ctrl 0 3
/-- R231: RM. -/
def vRM (h : EngHdr) : Nat := fld h.ctrl 3 2
/-- R231: CN. -/
def vCN (h : EngHdr) : Nat := fld h.ctrl 5 3
/-- R231: KS. -/
def vKS (h : EngHdr) : Nat := fld h.ctrl 8 5
/-- R231: SW. -/
def vSW (h : EngHdr) : Bool := h.ctrl.getLsbD 13
/-- R232: operation slot i. -/
def vSlot (p : DWord) (i : Nat) : Nat := fld p (16 * i) 16
/-- R232: ROP. -/
def vROP (p : DWord) : Nat := fld p 48 4
/-- R232: k of VTOPK. -/
def vTop (p : DWord) : Nat := fld p 48 4 + 1
/-- R232: RD. -/
def vRD (p : DWord) : Nat := fld p 52 5
/-- R232: IB. -/
def vIB (p : DWord) : Nat := fld p 57 5
/-- R278: HP. -/
def hHP (h : EngHdr) : Nat := fld h.ctrl 0 2
/-- R278: FL. -/
def hFL (h : EngHdr) : Bool := h.ctrl.getLsbD 2
/-- R278: ST. -/
def hST (h : EngHdr) : Nat := fld h.ctrl 3 4
/-- R278: TF. -/
def hTF (h : EngHdr) : Nat := fld h.ctrl 7 4

/-- R226: the lanes of a chain format. -/
def lanes (cf : Nat) : Nat := if cf = 0 ∨ cf = 5 then 16 else if cf = 1 ∨ cf = 2 then 32 else 64
/-- R226: the format of the running value. -/
def chainFmt (cf : Nat) : Nat :=
  if cf = 0 then 9 else if cf = 1 then 8 else if cf = 2 then 7 else if cf = 3 then 5 else if cf = 4 then 2 else 12

/-! ### Press shapes (R178, R179) -/

/-- R178: the K dimensions of an activation descriptor, fastest first; `none` for a form not in the table. -/
def kDims (d : Desc) : Option (List Nat) :=
  if d.wp = 0 then some (if d.ndim ≤ 1 then [0] else List.range (d.ndim - 1))
  else if d.wp = 1 ∧ d.ndim = 3 then some [0, 1]
  else if d.wp = 2 ∧ d.ndim = 5 then some [0, 1, 3]
  else none
/-- R178: the M dimensions. -/
def mDims (d : Desc) : List Nat :=
  if d.wp = 0 then (if d.ndim ≤ 1 then [] else [d.ndim - 1]) else if d.wp = 1 then [2] else [2, 4]
/-- The product of the sizes of dimensions. -/
def dimProd (d : Desc) (l : List Nat) : Nat := l.foldl (fun a j => a * d.size j) 1
/-- Puts the flattened index n of dimensions `l` into an index list. -/
def spread (d : Desc) (l : List Nat) (n : Nat) (i : List Nat) : List Nat :=
  (l.zip (unflatten (l.map d.size) n)).foldl (fun i p => i.set p.1 p.2) i
/-- R178: the indices of the activation at K position k and row m. -/
def actIdx (d : Desc) (k m : Nat) : List Nat :=
  spread d (mDims d) m (spread d ((kDims d).getD [0]) k [0, 0, 0, 0, 0])

/-- R179: the first shape condition of a press instruction that fails: subcode and handle. -/
def pressShape (op : EngOp) (h : EngHdr) (p : DWord) (ops : List Latched) : Option (Nat × Nat) :=
  let m := pM p
  let n := pN p
  let out := if op == .pdrn || cOUT h then findOp ops 0 else none
  let outBad (l : Latched) : Option (Nat × Nat) :=
    let d := l.desc
    if !(d.ndim == 2 && d.wp == 0) then some (4, l.h)
    else if d.size 0 != n then some (3, l.h)
    else if d.size 1 != m then some (2, l.h)
    else none
  let indirectBad (l : Latched) (ok : Bool) : Option (Nat × Nat) :=
    if l.desc.idim == 7 || ok then none else some (4, l.h)
  let last (l : Latched) : Option (Nat × Nat) := indirectBad l (l.desc.idim == 1)
  match op with
  | .pmul =>
    let a := (findOp ops 1).bind (fun l =>
      let d := l.desc
      match kDims d with
      | none => some (4, l.h)
      | some ks =>
        if dimProd d ks != pK p then some (1, l.h)
        else if dimProd d (mDims d) != m then some (2, l.h)
        else none)
    let b := (findOp ops 2).bind (fun l =>
      let d := l.desc
      if !(d.ndim == 2 && d.wp == 0) then some (4, l.h)
      else if d.size 0 != pK p then some (1, l.h)
      else if d.size 1 != n then some (3, l.h)
      else none)
    let ia := (findOp ops 1).bind (fun l =>
      let d := l.desc
      indirectBad l (d.wp == 0 && decide (2 ≤ d.ndim) && d.idim == d.ndim - 1))
    a.or (b.or ((out.bind outBad).or (ia.or (((findOp ops 2).bind last).or (out.bind last)))))
  | _ => (out.bind outBad).or (out.bind last)

/-- R180: the last bench entry that a press instruction uses. -/
def pressLast (p : DWord) : Nat := pBB p + 4 * ceilDiv (pN p) 16 * pM p - 1

/-- R184: W. -/
def pressW (wf : Nat) : Nat := (if fmtWidth wf = 4 then 2 else 4) + (if fmtScaled wf then 1 else 0)

/-- The formats of PMUL's operands. -/
def opFmt (ops : List Latched) (role : Nat) : Nat := ((findOp ops role).map (fun l => l.desc.fmt)).getD 14

/-- R185: the treads of one segment of R rows before its folds. -/
def segScan (aBf : Bool) (w r f : Nat) (first : Bool) : Nat :=
  let scan := if aBf then r * f else 0
  if first then (if scan < w then w else scan) else scan
/-- R185: the treads of one fold. -/
def foldLen (r p w : Nat) : Nat := if r * p < w then w else r * p
/-- R185: the treads of segments s0 … of a PMUL with `n` segments left. -/
def segTreads (aBf : Bool) (w f g p m : Nat) : Nat → Nat → Nat
  | 0, _ => 0
  | n + 1, s =>
    let r := if m - 64 * s < 64 then m - 64 * s else 64
    segScan aBf w r f (s == 0) + g * f * foldLen r p w + segTreads aBf w f g p m n (s + 1)

/-- R185: T of a PMUL, before its drain. -/
def pmulT (e : Dispatch) (ops : List Latched) : Nat :=
  let wf := opFmt ops 2
  let af := opFmt ops 1
  segTreads (af == 7) (pressW wf) (ceilDiv (pK e.param) 8) (ceilDiv (pN e.param) 16) (passes wf af)
    (pM e.param) (ceilDiv (pM e.param) 64) 0 + 12

/-! ### Draw shapes (R205) -/

/-- R205, R206: the first draw shape condition that fails: subcode and handle. -/
def drawShape (op : EngOp) (h : EngHdr) (p : DWord) (ops : List Latched) : Option (Nat × Nat) :=
  let j := dJ h
  let byteStrides (d : Desc) : Bool :=
    d.base % 16 == 0 && ([1, 2, 3, 4].all fun k => (d.stride k * d.width) % 128 == 0)
  if j = 0 then some (3, 0) else
  let outBad (l : Latched) : Option (Nat × Nat) :=
    let d := l.desc
    if !(d.ndim == 2 && d.wp == 0 && d.idim == 7) then some (4, l.h)
    else if d.size 0 != dN p then some (2, l.h)
    else if d.size 1 != j then some (3, l.h)
    else none
  match op with
  | .dload => (findOp ops 1).bind (fun l =>
      let d := l.desc
      if !(d.ndim == 2 && d.wp == 0 && d.stride 0 == 1 && (d.idim == 7 || d.idim == 1)) then some (4, l.h)
      else if d.size 0 != dK p then some (1, l.h)
      else if d.size 1 != j then some (3, l.h)
      else none)
  | .dmul =>
    let o := if cOUT h then (findOp ops 0).bind outBad else none
    let w := (findOp ops 2).bind (fun l =>
      let d := l.desc
      if !((d.ndim == 2 || d.ndim == 3) && d.wp == 0 && d.stride 0 == 1 &&
          (d.idim == 7 || d.idim == d.ndim - 1) && byteStrides d) then some (4, l.h)
      else if d.size 0 != dK p then some (1, l.h)
      else if d.size 1 * d.size 2 != dN p then some (2, l.h)
      else none)
    w.or (o.or (if dKO p % 32 != 0 || decide (1024 < dKO p + dK p) then some (5, ((findOp ops 2).map (·.h)).getD 0) else none))
  | .ddrn => (findOp ops 0).bind outBad
  | .dkv =>
    let row (dst : Bool) (l : Latched) : Option (Nat × Nat) :=
      let d := l.desc
      if !(d.ndim == 2 && d.wp == 0 && d.stride 0 == 1 && (d.idim == 7 || (dst && d.idim == 1)) &&
          byteStrides d && (d.size 0 * d.width) % 128 == 0) then some (4, l.h)
      else if d.size 1 != j then some (3, l.h)
      else none
    match findOp ops 0, findOp ops 1 with
    | some x, some y =>
      ((row false y).or (row true x)).or
        (if x.desc.fmt != y.desc.fmt then some (6, x.h)
         else if x.desc.size 0 != y.desc.size 0 then some (1, x.h) else none)
    | _, _ => none
  | _ => none

/-- R210: Z. -/
def drawZ (wf p k : Nat) : Nat :=
  if (wf = 1 ∨ wf = 4) ∧ p = 1 then ceilDiv (ceilDiv k 32 * (if wf = 1 then 1 else 2)) 16 else 0
/-- R213: C of a DMUL. -/
def dmulC (e : Dispatch) (ops : List Latched) : Nat :=
  let wf := opFmt ops 2
  let p := passes wf (afFmt (dAF e.hdr))
  drawZ wf p (dK e.param) + ceilDiv (dK e.param) 16 * p
/-- R213: T of a DMUL. -/
def dmulT (e : Dispatch) (ops : List Latched) : Nat := 1 + dN e.param * dmulC e ops + 12

/-! ### Vector classes (R235–R237, R245) -/

/-- R235: the class of a source. -/
inductive VClass where
  | streamed | resident | rowConst | key
  deriving DecidableEq, Repr

/-- Whether a source has the sizes of the iteration space. -/
def sameSizes (a d : Desc) : Bool := a.sizes == d.sizes
/-- R235: the streamed conditions. -/
def isStreamed (a d : Desc) : Bool := sameSizes a d && d.stride 0 == 1
/-- R235: the windows a resident operand occupies. -/
def windowsOf (a d : Desc) : Nat := ceilDiv (a.size 0 * d.width) 512
/-- R235: the resident conditions. A source with window pairs is not resident: its tap words hold no stride that could be 0 (DEDUCED,
log entry 102). -/
def isResident (a d : Desc) : Bool :=
  sameSizes a d && d.stride 0 == 1 && ([1, 2, 3, 4].all fun j => d.stride j == 0) && d.wp == 0 &&
  !(fmtScaled d.fmt) && d.idim == 7
/-- R235: the row-constant conditions. -/
def isRowConst (a d : Desc) : Bool := sameSizes a d && d.stride 0 == 0 && !(fmtScaled d.fmt)
/-- R235: the key conditions. -/
def isKey (a d : Desc) : Bool :=
  d.fmt == 11 && d.size 0 == 4 && d.stride 0 == 1 && ([1, 2, 3, 4].all fun j => d.size j == a.size j)

/-- The operand codes that GUMB operations name as X: 1 for B, 2 for C. -/
def gumbKeys (h : EngHdr) (p : DWord) : List Nat :=
  (((List.range (vCN h)).map (vSlot p)).filter (fun s => s % 64 == 14)).map (fun s => (s / 64) % 4)
/-- R235: whether a GUMB operation names the source of a handle role as X. -/
def gumbNames (h : EngHdr) (p : DWord) (role : Nat) : Bool := (gumbKeys h p).any (fun c => c + 1 == role && c != 0)

/-- The chain's sources B and C: handle roles 2 and 3 where they are sources. -/
def srcOp (op : EngOp) (ops : List Latched) (role : Nat) : Option Latched :=
  if role = 3 && (op == .vred || op == .vtopk) then none else findOp ops role

/-- R235: the class of source B (role 2) or C (role 3); `none` where no class admits it. -/
def srcClass (op : EngOp) (h : EngHdr) (p : DWord) (ops : List Latched) (role : Nat) : Option VClass :=
  match findOp ops 1, srcOp op ops role with
  | some la, some l =>
    let a := la.desc
    let d := l.desc
    if gumbNames h p role then (if isKey a d then some .key else none)
    else
      let used := if role = 3 then
          match srcOp op ops 2 with
          | some b => if !(gumbNames h p 2) && isResident a b.desc && decide (windowsOf a b.desc ≤ 16)
              then windowsOf a b.desc else 0
          | none => 0
        else 0
      if isResident a d && decide (used + windowsOf a d ≤ 16) then some .resident
      else if isStreamed a d then some .streamed
      else if isRowConst a d then some .rowConst
      else none
  | _, _ => none

/-- R239, R240: whether an operation is allowed for a chain format. -/
def opAllowed (op cf : Nat) : Bool :=
  if op = 14 then cf == 0
  else if op = 13 ∨ (16 ≤ op ∧ op ≤ 23) then decide (cf ≤ 4)
  else if 24 ≤ op then cf == 5
  else true

/-- R233, R234: whether the operand codes of a slot name operands that the instruction has. -/
def codesOk (op : EngOp) (ops : List Latched) (s : Nat) : Bool :=
  let ok (c : Nat) : Bool :=
    if c = 1 then (srcOp op ops 2).isSome else if c = 2 then (srcOp op ops 3).isSome else true
  match vecOpArity (s % 64) with
  | some 0 => true
  | some 1 => ok ((s / 64) % 4)
  | _ => ok ((s / 64) % 4) && ok ((s / 256) % 4)

/-- R235–R239, R251, R255, R260: the first vector condition that fails: subcode and the handle or slot. -/
def vecShape (op : EngOp) (h : EngHdr) (p : DWord) (ops : List Latched) : Option (Nat × Nat) :=
  match findOp ops 1 with
  | none => some (1, 0)
  | some la =>
    let a := la.desc
    let cn := vCN h
    let cf := vCF h
    let lim := if op == .vmap then 4 else 3
    let slots := (List.range cn).map (fun i => (i, vSlot p i))
    let hOf (r : Nat) : Nat := ((findOp ops r).map (·.h)).getD 0
    let badSlot := slots.find? (fun q => !(opAllowed (q.2 % 64) cf && codesOk op ops q.2))
    let cls (r : Nat) : Option (Nat × Nat) :=
      match srcOp op ops r with
      | none => none
      | some l =>
        match srcClass op h p ops r with
        | some _ => none
        | none => if sameSizes a l.desc || gumbNames h p r then some (2, l.h) else some (1, l.h)
    let dst (r : Nat) (size0 : Nat) : Option (Nat × Nat) :=
      match findOp ops r with
      | none => none
      | some l =>
        let d := l.desc
        if d.stride 0 == 1 && d.size 0 == size0 && ([1, 2, 3, 4].all fun j => d.size j == a.size j) then none
        else some (1, l.h)
    let dsts :=
      match op with
      | .vred => (dst 0 (a.size 0)).or (dst 3 1)
      | .vtopk => (dst 0 (vTop p)).or (dst 3 (vTop p))
      | _ => dst 0 (a.size 0)
    let indirect := ops.filter (fun l => l.desc.idim != 7)
    let gumbBad := slots.find? (fun q => q.2 % 64 == 14 && ((q.2 / 64) % 4 == 0 || (q.2 / 64) % 4 == 3))
    let hasRot := slots.any (fun q => q.2 % 64 == 13)
    if lim < cn then some (5, cn)
    else match badSlot with
    | some q => some (4, q.1)
    | none =>
    if op == .vqnt && decide (2 < cf) then some (4, 0)
    else if !(isStreamed a a) then some (2, la.h)
    else match gumbBad with
    | some q => some (2, q.1)
    | none =>
    match (cls 2).or ((cls 3).or dsts) with
    | some x => some x
    | none =>
    if decide (1 < indirect.length) then some (2, ((indirect.drop 1).head?.map (·.h)).getD 0)
    else if indirect.any (fun l => l.desc.idim == 0) then some (2, (indirect.head?.map (·.h)).getD 0)
    else if hasRot && a.size 0 % 2 != 0 then some (6, la.h)
    else if op == .vqnt && a.size 0 % 32 != 0 then some (6, la.h)
    else if op == .vred && vSW h && (vRD p == 0 || ((vROP p == 4 || vROP p == 5) && vRD p == 31)) then some (7, vRD p)
    else if op == .vred && (findOp ops 0).isNone && (findOp ops 3).isNone && !(vSW h) then some (8, hOf 0)
    else none

/-- R245: the quantities of a vector instruction: Π, ρ, β, τ and the number of rows. -/
structure VTime where
  pre  : Nat
  rho  : Nat
  beta : Nat
  tau  : Nat
  rows : Nat
  deriving DecidableEq, Repr

/-- R245: the quantities that the latched descriptors fix. -/
def vecTime (op : EngOp) (h : EngHdr) (p : DWord) (ops : List Latched) : VTime :=
  match findOp ops 1 with
  | none => ⟨0, 0, 1, 1, 0⟩
  | some la =>
    let a := la.desc
    let e := lanes (vCF h)
    let cl (r : Nat) : Option VClass := srcClass op h p ops r
    let w (r : Nat) : Nat := ((srcOp op ops r).map (fun l => l.desc.width)).getD 0
    let bytes (r : Nat) : Nat := if cl r == some .streamed then e * w r / 8 else 0
    let rb := e * a.width / 8 + bytes 2 + bytes 3
    let wb := match op, findOp ops 0 with
      | .vmap, some l => e * l.desc.width / 8
      | .vred, some l => e * l.desc.width / 8
      | .vqnt, some l => ceilDiv e 32 * (32 * l.desc.width / 8 + (if l.desc.fmt ≤ 2 then 1 else 2))
      | _, _ => 0
    let t := max 1 (max (ceilDiv rb 64) (ceilDiv wb 64))
    let special (r : Nat) : Bool := cl r == some .rowConst || cl r == some .key
    let rho := if special 2 || special 3 || ops.any (fun l => l.desc.idim != 7) then 1 else 0
    let win (r : Nat) : Nat := if cl r == some .resident then
        ((srcOp op ops r).map (fun l => windowsOf a l.desc)).getD 0 else 0
    ⟨win 2 + win 3, rho, ceilDiv (a.size 0) e, t, a.rows⟩

/-- R246: the treads of one row. -/
def VTime.row (v : VTime) : Nat := v.rho + v.beta * v.tau
/-- R246: T0. -/
def VTime.t0 (v : VTime) : Nat := v.pre + v.rows * v.row

/-! ### Haul conditions (R278–R281) -/

/-- R279: the kind of a haul move. -/
inductive HKind where
  | copy | stage | store | push | pull
  deriving DecidableEq, Repr

/-- R279: the location pairs that HMOV accepts. -/
def hmovKind (src dst : Nat) : Option HKind :=
  if src = 0 ∧ dst = 0 then some .copy
  else if src = 1 ∧ dst = 0 then some .stage
  else if src = 0 ∧ dst = 1 then some .store
  else if src ≤ 1 ∧ dst = 2 then some .push
  else if 2 ≤ src ∧ dst = 0 then some .pull
  else none

/-- The move kind of a latched haul instruction; a fill, zero or release counts as a copy or a store. -/
def haulKind (op : EngOp) (ops : List Latched) : HKind :=
  match op, findOp ops 1, findOp ops 0 with
  | .hmov, some s, some d => (hmovKind s.desc.loc d.desc.loc).getD .copy
  | _, _, some d => if d.desc.loc = 1 then .store else .copy
  | _, _, none => .copy

/-- R278: c_s. -/
def stairCycle (h : EngHdr) : Nat := if hHP h = 0 then 1 else if hHP h = 1 then 2 else 4
/-- R279: the cycle c. -/
def haulCycle (op : EngOp) (h : EngHdr) (ops : List Latched) : Nat :=
  let cs := stairCycle h
  match haulKind op ops with
  | .copy => 1
  | .stage => cs
  | .store => cs
  | .push => if opFmt ops 1 ≤ 13 ∧ ((findOp ops 1).map (fun l => l.desc.loc)) = some 1 then max 2 cs else 2
  | .pull => 2

/-- The bytes of one row of a haul operand. -/
def rowBytes (d : Desc) : Nat := d.size 0 * d.width / 8

/-- R278, R280: the first haul condition that fails: subcode and handle. -/
def haulShape (op : EngOp) (h : EngHdr) (ops : List Latched) : Option (Nat × Nat) :=
  let kind := haulKind op ops
  let cellar := ops.any (fun l => l.desc.loc == 1)
  let bad1 (l : Latched) : Bool :=
    let d := l.desc
    !(d.wp == 0 && d.stride 0 == 1 && d.base % 32 == 0 && (d.size 0 * d.width) % 256 == 0 &&
      ([1, 2, 3, 4].all fun j => (d.stride j * d.width) % 256 == 0))
  let hd := (findOp ops 0).map (·.h)
  let ctrlBad :=
    hHP h == 3 || (hHP h != 0 && !cellar) ||
    ((hFL h || hTF h != 0) && kind != .push) || (hTF h != 0 && !(hFL h)) ||
    (hST h != 0 && !(kind == .push || kind == .pull)) || fld h.ctrl 11 5 != 0
  if ctrlBad then some (4, hd.getD 0)
  else match ops.find? bad1 with
  | some l => some (1, l.h)
  | none =>
    match op, findOp ops 1, findOp ops 0 with
    | .hmov, some s, some d =>
      if s.desc.fmt != d.desc.fmt || s.desc.size 0 != d.desc.size 0 || s.desc.rows != d.desc.rows then some (2, d.h)
      else if s.desc.idim != 7 && d.desc.idim != 7 then some (3, d.h)
      else if s.desc.idim == 0 then some (3, s.h)
      else if d.desc.idim == 0 then some (3, d.h)
      else none
    | _, _, some d => if d.desc.idim == 0 then some (3, d.h) else none
    | _, _, none => none

/-- R281: the number of destination lines. -/
def haulLines (ops : List Latched) : Nat :=
  ((findOp ops 0).map (fun l => l.desc.rows * (rowBytes l.desc / 32))).getD 0

/-! ### Locations (R147) -/

/-- R147, R177, R204, R234: whether an engine that uses an operand's block scales accepts where they lie: where the operand
itself lies (DEDUCED, log entry 85: the tables of operands give one location). The haul engine moves no scales. -/
def scaleLocOk (op : EngOp) (l : Latched) : Bool :=
  engQueue op == 3 || l.sdesc.all (fun s => s.loc == l.desc.loc)

/-- R177, R204, R234, R277, R279: whether an operand's location, format and windows are accepted. Of a pair of formats that R155
does not accept a PMUL's activation is the operand refused, and a DMUL's weights, since a DMUL has no activation operand (DESIGN
CHOICE, log entry 102). A window descriptor as a destination is refused here, by R147, and not as R146's subcode 6, which sees no
role (DEDUCED, log entry 102). -/
def accepts (op : EngOp) (h : EngHdr) (ops : List Latched) (l : Latched) : Bool :=
  let d := l.desc
  let attic := d.loc == 0
  let nowin := d.wp == 0
  match op, l.role with
  | .pmul, 1 => attic && [1, 4, 5, 6, 7].contains d.fmt && passes (opFmt ops 2) d.fmt != 0
  | .pmul, 2 => attic && decide (d.fmt ≤ 6)
  | .pmul, _ => attic && d.fmt == 9 && nowin
  | .pdrn, _ => attic && d.fmt == 9 && nowin
  | .dload, _ => attic && [1, 4, 5, 6, 7].contains d.fmt
  | .dmul, 2 => d.loc == 1 && decide (d.fmt ≤ 6) && passes d.fmt (afFmt (dAF h)) != 0
  | .dmul, _ => attic && d.fmt == 9 && nowin
  | .ddrn, _ => attic && d.fmt == 9 && nowin
  | .dkv, 1 => attic && [5, 6, 7, 8].contains d.fmt
  | .dkv, _ => d.loc == 1 && [5, 6, 7, 8].contains d.fmt && nowin
  | .vmap, 0 => attic && decide (5 ≤ d.fmt) && decide (d.fmt ≤ 12) && nowin
  | .vmap, _ => attic && decide (d.fmt ≤ 12)
  | .vred, 0 => attic && decide (5 ≤ d.fmt) && decide (d.fmt ≤ 12) && nowin
  | .vred, 3 => attic && decide (5 ≤ d.fmt) && decide (d.fmt ≤ 12) && nowin
  | .vred, _ => attic && decide (d.fmt ≤ 12)
  | .vtopk, 0 => attic && ((decide (5 ≤ d.fmt) && decide (d.fmt ≤ 9)) || d.fmt == 12) && nowin
  | .vtopk, 3 => attic && d.fmt == 11 && nowin
  | .vtopk, _ => attic && decide (d.fmt ≤ 12)
  | .vqnt, 0 => attic && decide (d.fmt ≤ 4) && nowin
  | .vqnt, _ => attic && decide (d.fmt ≤ 12)
  | .hmov, 0 => d.loc != 3 && nowin &&
      (match findOp ops 1 with
       | some s => (hmovKind s.desc.loc d.loc).isSome
       | none => false)
  | .hmov, _ => true
  | .hrel, _ => attic && nowin
  | .hfill, _ => decide (d.loc ≤ 1) && nowin
  | .hzero, _ => decide (d.loc ≤ 1) && nowin

/-- Whether a handle field of an instruction is a destination (R108, R248). -/
def isDest (op : EngOp) (role : Nat) : Bool :=
  role == 0 || (role == 3 && (op == .vred || op == .vtopk))

/-- R147: a destination in the own cellar without an indirect dimension whose bounds cover a weight block. -/
def weightDest (t : Tile) (op : EngOp) (l : Latched) : Bool :=
  let d := l.desc
  isDest op l.role && d.loc == 1 && d.idim == 7 &&
  (List.range (d.bhi / 128 + 1 - d.blo / 128)).any (fun i => t.kind (d.blo / 128 + i) == 1)

/-- R108, R248: the attic line ranges an instruction marks pending: its destinations in the own attic and the
scale descriptor of a VQNT destination. A push marks nothing (R282). -/
def destRanges (op : EngOp) (ops : List Latched) : List (Nat × Nat) :=
  (ops.filter (fun l => isDest op l.role && l.desc.loc == 0)).flatMap (fun l =>
    (l.desc.blo, l.desc.bhi) ::
      (if op == .vqnt then
        match l.sdesc with
        | some s => if s.loc = 0 then [(s.blo, s.bhi)] else []
        | none => []
       else []))

/-- R268: a destination whose bounds include an inbound line; HZERO, HREL and a pull are exempt. -/
def inboundDest (t : Tile) (op : EngOp) (ops : List Latched) : Option Nat :=
  if op == .hzero || op == .hrel || haulKind op ops == .pull then none
  else (destRanges op ops).findSome? (fun r =>
    (t.shelves.find? (fun s => s.inbound && decide (s.first ≤ r.2) && decide (r.1 ≤ s.last))).map
      (fun s => max s.first r.1))

/-- The duration that the engine chapters give (R185, R190, R207, R213–R215, R246, R281). -/
def durationOf (d : Dispatch) (ops : List Latched) : Nat :=
  let h := d.hdr
  let p := d.param
  match d.op with
  | .pmul => pmulT d ops + (if cOUT h then pM p * ceilDiv (pN p) 16 else 0)
  | .pdrn => pM p * ceilDiv (pN p) 16 + 2
  | .dload => 2 + dJ h * ceilDiv (dK p * (if opFmt ops 1 = 7 then 16 else 8)) 128
  | .dmul => dmulT d ops + (if cOUT h then dJ h * ceilDiv (dN p) 16 else 0)
  | .ddrn => 2 + dJ h * ceilDiv (dN p) 16
  | .dkv => 2 + dJ h * (((findOp ops 1).map (fun l => l.desc.size 0 * l.desc.width / 128)).getD 0)
  | .vmap => (vecTime d.op h p ops).t0 + 9
  | .vred => (vecTime d.op h p ops).t0 + 14
  | .vtopk => (vecTime d.op h p ops).t0 + 14
  | .vqnt => (vecTime d.op h p ops).t0 + 11
  | .hmov => 3 + haulLines ops * haulCycle d.op h ops
  | .hfill => 3 + haulLines ops * haulCycle d.op h ops
  | .hzero => 3 + haulLines ops * haulCycle d.op h ops
  | .hrel => 3 + haulLines ops * haulCycle d.op h ops

/-- R119, R148, R196, R225, R260, R300: the first fault of phase 5 of an instruction's entry tread, in the
order R181, R206 and R237 state: descriptors, locations, shapes, bench range, static bounds. The handle of a descriptor or
static-bounds record is that of the operand's data descriptor, whichever of its descriptors the role says has failed (DESIGN CHOICE,
log entry 102: R148 says "Handle" alone). -/
def entryFault (t : Tile) (live : Nat → Bool) (d : Dispatch) (ops : List Latched) : Option TFault :=
  let pc := d.pc
  match ops.findSome? (fun l => (l.check live).map (fun c => (l, c))) with
  | some (l, r, c) => some (.mkI 0x30 c pc (leBytes 1 l.h ++ leBytes 1 r))
  | none =>
  match ops.find? (fun l => !(accepts d.op d.hdr ops l && scaleLocOk d.op l) || weightDest t d.op l) with
  | some l => some (.mkI 0x35 0 pc (leBytes 1 l.h ++ leBytes 1 l.role ++ leBytes 1 l.desc.loc ++
      leBytes 1 l.desc.fmt ++ leBytes 1 l.desc.wp))
  | none =>
  let shape : Option (Nat × Nat × Nat) :=
    match d.op with
    | .pmul => (pressShape d.op d.hdr d.param ops).map (fun x => (0x40, x))
    | .pdrn => (pressShape d.op d.hdr d.param ops).map (fun x => (0x40, x))
    | .dload => (drawShape d.op d.hdr d.param ops).map (fun x => (0x48, x))
    | .dmul => (drawShape d.op d.hdr d.param ops).map (fun x => (0x48, x))
    | .ddrn => (drawShape d.op d.hdr d.param ops).map (fun x => (0x48, x))
    | .dkv => (drawShape d.op d.hdr d.param ops).map (fun x => (0x48, x))
    | .vmap => (vecShape d.op d.hdr d.param ops).map (fun x => (0x50, x))
    | .vred => (vecShape d.op d.hdr d.param ops).map (fun x => (0x50, x))
    | .vtopk => (vecShape d.op d.hdr d.param ops).map (fun x => (0x50, x))
    | .vqnt => (vecShape d.op d.hdr d.param ops).map (fun x => (0x50, x))
    | .hmov => (haulShape d.op d.hdr ops).map (fun x => (0x58, x))
    | .hfill => (haulShape d.op d.hdr ops).map (fun x => (0x58, x))
    | .hzero => (haulShape d.op d.hdr ops).map (fun x => (0x58, x))
    | .hrel => (haulShape d.op d.hdr ops).map (fun x => (0x58, x))
  match shape with
  | some (code, sub, hn) => some (.mkI code sub pc (leBytes 1 hn))
  | none =>
  let bench : Option TFault :=
    match d.op with
    | .pmul => if 4095 < pressLast d.param then some (.mkI 0x41 0 pc (leBytes 2 (pBB d.param) ++
        leBytes 2 (pM d.param) ++ leBytes 1 (ceilDiv (pN d.param) 16) ++ leBytes 4 (pressLast d.param))) else none
    | .pdrn => if 4095 < pressLast d.param then some (.mkI 0x41 0 pc (leBytes 2 (pBB d.param) ++
        leBytes 2 (pM d.param) ++ leBytes 1 (ceilDiv (pN d.param) 16) ++ leBytes 4 (pressLast d.param))) else none
    | .dmul => if 512 < dBB d.param + dN d.param then
        some (.mkI 0x49 0 pc (leBytes 2 (dBB d.param) ++ leBytes 2 (dN d.param))) else none
    | .ddrn => if 512 < dBB d.param + dN d.param then
        some (.mkI 0x49 0 pc (leBytes 2 (dBB d.param) ++ leBytes 2 (dN d.param))) else none
    | _ => none
  match bench with
  | some f => some f
  | none =>
  match ops.findSome? (fun l => l.static.map (fun x => (l, x))) with
  | some (l, r, dd) =>
    let ex := dd.extent.getD (0, 0)
    some (.mkI 0x31 0 pc (leBytes 1 l.h ++ leBytes 1 r ++ addrBytes ex.1 ++ addrBytes ex.2 ++
      leBytes 2 dd.blo ++ leBytes 2 dd.bhi))
  | none => (inboundDest t d.op ops).map (fun l => .mkI 0x5B 3 pc (leBytes 2 l))

/-- The scalar registers that an engine instruction writes (R110, R251). -/
def writtenRegs (d : Dispatch) : List Nat :=
  if d.op == .vred && vSW d.hdr then
    (if vROP d.param = 4 ∨ vROP d.param = 5 then [vRD d.param, vRD d.param + 1] else [vRD d.param])
  else []

/-- The instructions in queue q. -/
def Tile.queue (t : Tile) (q : Nat) : List QEntry := Tbl.get [] t.queues q
/-- Replaces queue q. -/
def Tile.setQueue (t : Tile) (q : Nat) (l : List QEntry) : Tile := { t with queues := Tbl.set [] t.queues q l }

/-- Sets or clears a register's pending bit. -/
def setBit {n : Nat} (m : BitVec n) (i : Nat) (v : Bool) : BitVec n :=
  let bit := BitVec.ofNat n (2 ^ i)
  if v then m ||| bit else m &&& ~~~bit

/-- R78, R79: the trailer's copy `mine` of a table of n words once the leader's has gone from `old` to `new`: a word that the leader's
step changed follows it, every other word is the trailer's own. -/
def carried (n : Nat) (old new mine : Tbl Word) : Tbl Word :=
  if mine = old then new
  else (List.range n).foldl (fun (m : Tbl Word) k =>
    Tbl.set 0 m k (if Tbl.get 0 new k = Tbl.get 0 old k then Tbl.get 0 mine k else Tbl.get 0 new k)) []

/-- R80, R81: the trailer's descriptors as a dispatch that enters in this tread latches them: those that it has, with the writes of
the leader's last two treads, which the trailer still has before it. -/
def Tile.trailDesc (t : Tile) : Tbl Word :=
  match t.past with
  | [_, q] => carried 512 q.before.desc t.lead.desc t.trail.desc
  | _ => t.lead.desc

/-- R80, R104, R105, R108, R110: phase 5 of the entry tread `n`: the queue takes the instruction, latches its
descriptors and sets its pending marks; or a fault, of the lockstep where the descriptors that the trailer latches differ. -/
def Tile.enter (t : Tile) (live : Nat → Bool) (n : Nat) (d : Dispatch) : Tile × Option TFault :=
  let q := engQueue d.op
  let ops := (usedHandles d.op d.hdr).map (fun x => latch t.lead.desc x.1 x.2)
  if ops ≠ (usedHandles d.op d.hdr).map (fun x => latch t.trailDesc x.1 x.2) then (t, some (.mkI 0x29 0 d.pc (leBytes 1 3)))
  else if 8 ≤ (t.queue q).length then (t, some (.mkI 0x25 0 d.pc (leBytes 1 q)))
  else
    match entryFault t live d ops with
    | some f => (t, some f)
    | none =>
      let e : QEntry := { d := d, ops := ops, entry := n, dur := durationOf d ops, start := none, bad := false, poi := false, run := .zero }
      let t := (destRanges d.op ops).foldl (fun t r => t.markRange r.1 r.2) t
      let t := { t with lead := { t.lead with pend := (writtenRegs d).foldl (fun m r => setBit m r true) t.lead.pend } }
      (t.setQueue q (t.queue q ++ [e]), none)

/-- R106, R108, R110: completion: done flag aside, the instruction leaves its queue and every mark of its
range still set is cleared. -/
def Tile.retire (t : Tile) (q : Nat) : Tile :=
  match t.queue q with
  | [] => t
  | e :: l =>
    let t := (destRanges e.d.op e.ops).foldl (fun t r => t.unmarkRange r.1 r.2) t
    t.setQueue q l

/-- R106: S is the later of the entry tread plus one and the tread in which the queue's previous instruction
completes; the head of a queue is due to start in tread n once it has entered before n. -/
def QEntry.dueStart (e : QEntry) (n : Nat) : Bool := e.start.isNone && decide (e.entry + 1 ≤ n)
/-- R106: the instruction completes in tread S + D. -/
def QEntry.dueDone (e : QEntry) (n : Nat) : Bool :=
  match e.start with
  | some s => decide (s + e.dur ≤ n)
  | none => false

end Sys2Proof.Machine
end

