-- ==== Sys2Proof/Machine/Draw.lean ====
section
/-! DEFINITION. The draw core (chapter 07): what a DLOAD, DMUL, DDRN or DKV does in each tread after its
start, and the stair reads that R217 moves out of a calibration slot. -/

namespace Sys2Proof.Machine

/-- The slot of row j: the j-th set bit of SM (R205). -/
def rowSlot (h : EngHdr) (j : Nat) : Nat := (dSlots h).getD j 0

/-- R199: element i of slot s with its poison. -/
def Tile.slotElem (t : Tile) (s i : Nat) : Elem :=
  ⟨Tbl.get 0 t.slotStore (s * 1024 + i), poisonMark (Tbl.get 0 t.slotMark (s * 264 + i / 4))⟩
/-- R199: block word b of slot s with its poison. -/
def Tile.slotBlk (t : Tile) (s b : Nat) : Elem :=
  ⟨Tbl.get 0 t.slotBlock (s * 32 + b), poisonMark (Tbl.get 0 t.slotMark (s * 264 + 256 + b / 4))⟩

/-- R208: writes an element of a slot. -/
def Tile.setSlotElem (t : Tile) (s i : Nat) (e : Elem) : Tile :=
  { t with slotStore := Tbl.set 0 t.slotStore (s * 1024 + i) (e.bits % 65536)
           slotMark := Tbl.set 0 t.slotMark (s * 264 + i / 4)
             (if e.poi then 3 else if i % 4 = 0 then 0 else Tbl.get 0 t.slotMark (s * 264 + i / 4)) }
/-- R208: writes a block word of a slot. -/
def Tile.setSlotBlk (t : Tile) (s b : Nat) (e : Elem) : Tile :=
  { t with slotBlock := Tbl.set 0 t.slotBlock (s * 32 + b) (e.bits % 65536)
           slotMark := Tbl.set 0 t.slotMark (s * 264 + 256 + b / 4)
             (if e.poi then 3 else if b % 4 = 0 then 0 else Tbl.get 0 t.slotMark (s * 264 + 256 + b / 4)) }

/-- R208: at the end of a DLOAD a slot is valid with its format and length; a BF16 slot's block words hold
the exponents of R154. The recorded format also says, by 4, that the block words are scales (DEDUCED,
log entry 86: R161 tells a scale code of zero from a source without scales). -/
def Tile.finishSlot (t : Tile) (s fmt k : Nat) : Tile :=
  let af := (if fmt = 1 ∨ fmt = 5 then 0 else if fmt = 4 ∨ fmt = 6 then 1 else 2) + (if fmtScaled fmt then 4 else 0)
  let t := { t with slotValid := setBit t.slotValid s true, slotPar := setBit t.slotPar s false
                    slotFmt := Tbl.set 0 t.slotFmt s af
                    slotLen := Tbl.set 0 t.slotLen s k }
  (List.range (ceilDiv k 32)).foldl (fun t b =>
    if fmt = 7 then
      let l := ((List.range 32).filter (fun i => 32 * b + i < k)).map (fun i => (t.slotElem s (32 * b + i)).bits)
      t.setSlotBlk s b ⟨((bf16BlockExp l) % 65536).toNat, false⟩
    else if fmtScaled fmt then t
    else t.setSlotBlk s b .zero) t

/-- R291: what a read of draw bench entry (slot, entry) delivers. -/
def Tile.drawEntry (t : Tile) (s e : Nat) : Elem :=
  let x := Tbl.get .zero t.drawBench (s * 512 + e)
  { x with poi := x.poi || Tbl.get 0 t.drawMark (s * 512 + e) == 2 }
/-- R212: adds a block value to a draw bench entry. -/
def Tile.drawAdd (t : Tile) (s e : Nat) (v : Elem) (fresh : Bool) : Tile :=
  { t with drawMark := Tbl.set 0 t.drawMark (s * 512 + e) 0
           drawBench := Tbl.set .zero t.drawBench (s * 512 + e) (benchAdd (if fresh then .zero else t.drawEntry s e) v) }

/-- Adds what a read gives to the accesses and faults of a tread. -/
def StepOut.read (o : StepOut) (r : ERd) : StepOut :=
  { o with accs := o.accs ++ r.accs, faults := o.faults ++ r.fs.map (fun x => (3, x)) }

/-- R207, R208: a DLOAD in the tread at offset x. -/
def dloadStep (t : Tile) (e : QEntry) (x : Nat) (o : StepOut) : StepOut :=
  match findOp e.ops 1 with
  | none => o
  | some l =>
    let k := dK e.d.param
    let fmt := l.desc.fmt
    let per := if fmt = 7 then 8 else 16
    let u := ceilDiv (k * (if fmt = 7 then 16 else 8)) 128
    let jn := dJ e.d.hdr
    let o :=
      if l.desc.idim = 1 ∧ x % u = 0 ∧ x / u < jn then
        let r := t.readIndex l e.d.pc agDrawLoad (x / u)
        let o := o.read r
        { o with run := { o.run with idx := Tbl.set 0 o.run.idx (x / u) r.e.bits } }
      else o
    let o :=
      if 1 ≤ x ∧ (x - 1) / u < jn then
        let j := (x - 1) / u
        let c := (x - 1) % u
        let s := rowSlot e.d.hdr j
        -- the index element is read in the tread before the row's first, so a later tread holds it
        let v := if l.desc.idim = 1 then Tbl.get 0 e.run.idx j else j
        ((List.range per).filter (fun i => c * per + i < k)).foldl (fun o i =>
          let kk := c * per + i
          let r := t.readElem l e.d.pc agDrawLoad [kk, j, 0, 0, 0] v
          let o := o.read r
          let o := { o with slots := o.slots ++ [(s, kk, r.e)] }
          if fmtScaled fmt ∧ kk % 32 = 0 then
            let q := t.readScale l e.d.pc agDrawLoad [kk, j, 0, 0, 0] v
            let o := o.read q
            { o with slotBlocks := o.slotBlocks ++ [(s, kk / 32, q.e)] }
          else o) o
      else o
    if x + 1 = e.dur then
      { o with slotDone := (List.range jn).map (fun j => (rowSlot e.d.hdr j, fmt, k)) }
    else o

/-- R209: the slot-state fault of a DMUL's start tread. -/
def slotStateFault (t : Tile) (e : QEntry) : Option TFault :=
  (dSlots e.d.hdr).findSome? (fun s =>
    if !(t.slotValid.getLsbD s) then some (.mkI 0x4B 1 e.d.pc (leBytes 1 s))
    else if Tbl.get 0 t.slotFmt s % 4 != dAF e.d.hdr then some (.mkI 0x4B 2 e.d.pc (leBytes 1 s))
    else if Tbl.get 0 t.slotLen s < dKO e.d.param + dK e.d.param then some (.mkI 0x4B 3 e.d.pc (leBytes 1 s))
    else none)

/-- The constants of a DMUL. -/
structure DmulDims where
  k : Nat
  n : Nat
  wf : Nat
  af : Nat
  p : Nat
  z : Nat
  q : Nat
  c : Nat

/-- R210: the constants of a DMUL. -/
def dmulDims (e : QEntry) : DmulDims :=
  let wf := opFmt e.ops 2
  let af := afFmt (dAF e.d.hdr)
  let p := passes wf af
  let k := dK e.d.param
  { k := k, n := dN e.d.param, wf := wf, af := af, p := p, z := drawZ wf p k, q := ceilDiv k 16,
    c := drawZ wf p k + ceilDiv k 16 * p }

/-- The indices of a DMUL weight at K position k and column n, dimension 1 fastest (R205). -/
def weightIdx (d : Desc) (k n : Nat) : List Nat := [k, n % d.size 1, n / d.size 1, 0, 0]
/-- The value that stands for the indirect dimension's index of column n. -/
def weightDirect (d : Desc) (n : Nat) : Nat := if d.ndim = 2 then n else n / d.size 1

/-- R211: the stair reads of the tread at offset x of a DMUL: captured elements and scales with their keys
(scale keys from 4,096), the accesses, faults and stair bytes. `v` is the column's index value. -/
def dmulReads (t : Tile) (e : QEntry) (c : DmulDims) (x v : Nat) : List (Nat × Elem) × List Acc × List TFault × Nat :=
  match findOp e.ops 2 with
  | none => ([], [], [], 0)
  | some l =>
    if x = 0 ∨ c.n ≤ (x - 1) / c.c then ([], [], [], 0) else
    let n := (x - 1) / c.c
    let y := (x - 1) % c.c
    let blocks := ceilDiv c.k 32
    let sb := if c.wf ≤ 2 then 1 else 2
    let scale (b : Nat) : ERd := t.readScale l e.d.pc agDrawStair (weightIdx l.desc (32 * b) n) v
    if y < c.z then
      let per := 16 / sb
      let bs := ((List.range per).map (· + y * per)).filter (· < blocks)
      let rs := bs.map (fun b => (b, scale b))
      (rs.map (fun r => (4096 + r.1, r.2.e)), rs.flatMap (·.2.accs), rs.flatMap (·.2.fs), bs.length * sb)
    else
      let g := (y - c.z) / c.p
      let p := (y - c.z) % c.p
      let ws := if p = 0 then ((List.range 16).filter (fun i => 16 * g + i < c.k)).map (fun i =>
          (i, t.readElem l e.d.pc agDrawStair (weightIdx l.desc (16 * g + i) n) v)) else []
      let wantScale := fmtScaled c.wf && c.z == 0 && g % 2 == 0 &&
        (if fmtWidth c.wf = 4 ∨ c.p = 1 then p == 0 else p == 1)
      let ss := if wantScale then [(4096 + g / 2, scale (g / 2))] else []
      let rs := ws ++ ss
      (rs.map (fun r => (r.1, r.2.e)), rs.flatMap (·.2.accs), rs.flatMap (·.2.fs),
        (if p = 0 then (if fmtWidth c.wf = 4 then 8 else 16) else 0) + (if wantScale then sb else 0))

/-- R219: the bits that faults invert in a value of a slot's tree, latch or converters: `part` as `Upset.drawLogic` has it. -/
def drawFlip (us : List Upset) (part s : Nat) : Nat :=
  us.foldl (fun m u => match u with
    | .drawLogic _ k x b => if k.val = part ∧ x.val = s then m ^^^ b.toNat else m
    | _ => m) 0

/-- R225: the draw arithmetic residue fault of slot s, column n, block b. -/
def drawBad (pc s n b : Nat) (x : ResBad) : TFault :=
  .mkI 0x4A 0 pc (leBytes 1 x.check ++ leBytes 1 s ++ leBytes 2 n ++ leBytes 1 b ++ leBytes 1 x.pass ++
    leBytes x.bytes x.x ++ leBytes x.bytes x.y)

/-- R212, R219: one pass tread for slot s: its sum and latch word with their checks, and the block value posted when the block
ends. A slot whose register fails its parity has its values delivered poisoned (DESIGN CHOICE, log entry 86). -/
def dmulSlot (t : Tile) (e : QEntry) (c : DmulDims) (us : List Upset) (n col g p : Nat) (o : StepOut) (s : Nat) : StepOut :=
  let b := g / 2
  let sb := dKO e.d.param / 32 + b
  let blk := t.slotBlk s sb
  let exA : Int := if c.af = 7 then signedOf 16 blk.bits else 0
  let start := if g % 2 = 0 ∧ p = 0 then Lat.zero else Tbl.get Lat.zero o.run.lat s
  let af := if c.af = 7 then 7 else c.af
  let xs := ((List.range 16).filter (fun i => 16 * g + i < c.k)).map (fun i =>
    (wregOf c.wf (Tbl.get .zero o.run.cap i), t.slotElem s (dKO e.d.param + 16 * g + i)))
  let ends := p + 1 == c.p && (g % 2 == 1 || g + 1 == c.q)
  let read := (if g % 2 = 0 then [] else [p]) ++ (if ends then List.range c.p else [])
  let q := start.pass c.wf af exA p (g % 2 == 0) xs (drawFlip us 0 s) (drawFlip us 1 s)
  let lat := if ends then q.1.readWords (List.range c.p) else q.1
  let bad (x : Option ResBad) : List (Nat × TFault) := x.toList.map (fun y => (3, drawBad e.d.pc s col b y))
  let o := { o with run := { o.run with lat := Tbl.set Lat.zero o.run.lat s lat }, faults := o.faults ++ bad q.2
                    origins := o.origins ++ (read.eraseDups.filter start.bad.contains).map (fun w => ⟨0x13, s + 8 * w, n⟩)
                    stores := o.stores ++ ((List.range 4).map (fun w => (5, s + 16 * ((dKO e.d.param + 16 * g) / 4 + w)))) ++
                      [(5, s + 16 * (256 + sb / 4))] }
  if ends then
    let sw := Tbl.get .zero o.run.sc b
    -- 4 in the recorded format marks a source with block scales
    let sa : Num := if Tbl.get 0 t.slotFmt s < 4 then .dyadic false 1 0
      else if c.af = 5 then decodeFmt 13 blk.bits else decodeFmt 8 blk.bits
    let v := lat.finish c.wf af exA (scaleNum c.wf sw) sa ((fmtScaled c.wf && sw.poi) || blk.poi || t.slotPar.getLsbD s)
      (drawFlip us 2 s) (drawFlip us 3 s)
    { o with faults := o.faults ++ bad v.2
             run := { o.run with post := o.run.post ++ [(n + 12, .draw s (dBB e.d.param + col) v.1 (b == 0 && !(cACC e.d.hdr)))] } }
  else o

/-- R194, R219: the checks of the bench additions that fall in the tread at offset x. -/
def drawAdds (t : Tile) (e : QEntry) (c : DmulDims) (us : List Upset) (x : Nat) (due : List Post) : List (Nat × TFault) :=
  due.filterMap (fun q => match q with
    | .draw s entry v fresh =>
      let b := ((x - 13) % c.c - c.z) / c.p / 2
      (addCheck (if fresh then .zero else t.drawEntry s entry) v (drawFlip us 4 s)).map (fun y =>
        (4, drawBad e.d.pc s (entry - dBB e.d.param) b y))
    | _ => none)

/-- R213, R214: the drain writes of row j, chunk h. -/
def drawDrain (t : Tile) (e : QEntry) (i : Nat) (o : StepOut) : StepOut :=
  match findOp e.ops 0 with
  | none => o
  | some l =>
    let hh := ceilDiv (dN e.d.param) 16
    let j := i / hh
    let h := i % hh
    let s := rowSlot e.d.hdr j
    let ws := ((List.range 16).filter (fun c => 16 * h + c < dN e.d.param)).map (fun c =>
      writeElem l e.d.pc agDrawDrain (some s) [16 * h + c, j, 0, 0, 0] j (t.drawEntry s (dBB e.d.param + 16 * h + c)))
    { o with writes := o.writes ++ coalesce (ws.flatMap (·.1))
             stores := o.stores ++ ((List.range 16).filter (fun c => 16 * h + c < dN e.d.param)).map (fun c =>
               (4, s + 16 * (dBB e.d.param + 16 * h + c)))
             faults := o.faults ++ (ws.flatMap (·.2)).map (fun y => (3, y)) }

/-- The last tread before a calibration slot (R217). -/
def isPrefetch (n : Nat) : Bool := n % 4096 == 4094
/-- A calibration slot (R73). -/
def isSlot (n : Nat) : Bool := n % 4096 == 4095

/-- The index value of the column whose group falls in the tread at offset x. -/
def dmulColIdx (e : QEntry) (c : DmulDims) (d : Desc) (x : Nat) : Nat :=
  let n := (x - 1) / c.c
  if d.idim ≤ 4 then Tbl.get 0 e.run.idx n else weightDirect d n

/-- A DMUL in the tread at offset x (R209–R213, R217). -/
def dmulStep (t : Tile) (us : List Upset) (e : QEntry) (x n : Nat) (o : StepOut) : StepOut :=
  match findOp e.ops 2 with
  | none => o
  | some l =>
    let c := dmulDims e
    let hh := ceilDiv c.n 16
    let tt := dmulT e.d e.ops
    let o := if x = 0 then
        match slotStateFault t e with
        | some f => { o with faults := o.faults ++ [(2, f)] }
        | none => o
      else o
    -- index elements, read one tread before their column starts
    let o := if l.desc.idim ≤ 4 ∧ x % c.c = 0 ∧ x / c.c < c.n then
        let col := x / c.c
        let r := t.readIndex l e.d.pc agDrawStair (weightDirect l.desc col)
        let o := o.read r
        { o with run := { o.run with idx := Tbl.set 0 o.run.idx col r.e.bits } }
      else o
    let idxNow (y : Nat) : Nat := if l.desc.idim ≤ 4 then Tbl.get 0 o.run.idx ((y - 1) / c.c) else weightDirect l.desc ((y - 1) / c.c)
    let put (o : StepOut) (es : List (Nat × Elem)) (held : Nat) : StepOut :=
      es.foldl (fun o q =>
        if q.1 < 4096 then { o with run := { o.run with cap := Tbl.set .zero o.run.cap (held + q.1) q.2 } }
        else { o with run := { o.run with sc := Tbl.set .zero o.run.sc (held + q.1 - 4096) q.2 } }) o
    let o := if isSlot n then
        -- the reads of this tread were made in the prefetch tread
        { o with run := { o.run with
            cap := o.run.cap.foldl (fun m q => if 65536 ≤ q.1 then Tbl.set .zero m (q.1 - 65536) q.2 else m)
              (o.run.cap.filter (fun q => q.1 < 65536))
            sc := o.run.sc.foldl (fun m q => if 65536 ≤ q.1 then Tbl.set .zero m (q.1 - 65536) q.2 else m)
              (o.run.sc.filter (fun q => q.1 < 65536)) } }
      else
        let (es, accs, fs, bytes) := dmulReads t e c x (idxNow x)
        let o := put { o with accs := o.accs ++ accs, faults := o.faults ++ fs.map (fun y => (3, y)),
                              stairDraw := o.stairDraw + bytes } es 0
        if isPrefetch n then
          let (es, accs, fs, bytes) := dmulReads t e c (x + 1) (idxNow (x + 1))
          put { o with accs := o.accs ++ accs, faults := o.faults ++ fs.map (fun y => (3, y)),
                       stairDraw := o.stairDraw + bytes } es 65536
        else o
    let o := if 1 ≤ x ∧ (x - 1) / c.c < c.n ∧ c.z ≤ (x - 1) % c.c then
        let y := (x - 1) % c.c - c.z
        let o := (dSlots e.d.hdr).foldl (dmulSlot t e c us n ((x - 1) / c.c) (y / c.p) (y % c.p)) o
        { o with mac := 16 * dJ e.d.hdr }
      else o
    if cOUT e.d.hdr && decide (tt ≤ x) && decide (x < tt + dJ e.d.hdr * hh) then drawDrain t e (x - tt) o else o

/-- A DKV in the tread at offset x (R215, R217). -/
def dkvStep (t : Tile) (e : QEntry) (x n : Nat) (o : StepOut) : StepOut :=
  match findOp e.ops 0, findOp e.ops 1 with
  | some dst, some src =>
    let w := src.desc.width
    let v : Nat := src.desc.size 0 * w / 128
    let jn := dJ e.d.hdr
    let per := 128 / w
    let o := if dst.desc.idim = 1 ∧ x % v = 0 ∧ x / v < jn then
        let r := t.readIndex dst e.d.pc agDkv (x / v)
        let o := o.read r
        { o with run := { o.run with idx := Tbl.set 0 o.run.idx (x / v) r.e.bits } }
      else o
    -- writes held over a calibration slot
    let held : List (Nat × Post) := e.run.post.filter (fun p => p.1 == n)
    let o := { o with
      writes := o.writes ++ held.filterMap (fun p => match p.2 with
        | .mem w => some w
        | _ => none)
      stairDraw := o.stairDraw + 16 * held.length
      run := { o.run with post := o.run.post.filter (fun p => p.1 != n) } }
    if 1 ≤ x ∧ (x - 1) / v < jn then
      let j := (x - 1) / v
      let ch := (x - 1) % v
      let s := rowSlot e.d.hdr j
      let iv := if dst.desc.idim = 1 then Tbl.get 0 o.run.idx j else j
      let rs : List ERd := (List.range per).map (fun i => t.readElem src e.d.pc agDkv [ch * per + i, j, 0, 0, 0] j)
      let o := { o with accs := o.accs ++ coalesceAcc (rs.flatMap ERd.accs)
                        faults := o.faults ++ (rs.flatMap ERd.fs).map (fun y => (3, y)) }
      let ws : List (List MemWr × List TFault) := (rs.zip (List.range per)).map (fun q =>
        writeElem dst e.d.pc agDkv (some s) [ch * per + q.2, j, 0, 0, 0] iv q.1.e)
      let wf : List TFault := ws.flatMap Prod.snd
      let o := { o with faults := o.faults ++ wf.map (fun y => (3, y)) }
      let cw : List MemWr := coalesce (ws.flatMap Prod.fst)
      if isSlot n then
        { o with run := { o.run with post := o.run.post ++ cw.map (fun q => (n + 1, Post.mem q)) } }
      else { o with writes := o.writes ++ cw, stairDraw := o.stairDraw + 16 }
    else o
  | _, _ => o

/-- The draw core in tread n, at offset x from the start tread of its instruction. -/
def drawStep (t : Tile) (us : List Upset) (e : QEntry) (x n : Nat) : StepOut :=
  let o := StepOut.idle e.run
  match e.d.op with
  | .dload => dloadStep t e x o
  | .dkv => dkvStep t e x n o
  | .ddrn =>
    if 2 ≤ x ∧ x < 2 + dJ e.d.hdr * ceilDiv (dN e.d.param) 16 then drawDrain t e (x - 2) o else o
  | _ =>
    let due := e.run.post.filter (fun p => p.1 == n)
    dmulStep t us e x n { o with
      posts := due.map (·.2)
      faults := drawAdds t e (dmulDims e) us x (due.map (·.2))
      run := { o.run with post := e.run.post.filter (fun p => p.1 != n) } }

end Sys2Proof.Machine
end

