-- ==== Sys2Proof/Machine/Haul.lean ====
section
/-! DEFINITION. The haul engine (chapter 09): what an HMOV, HFILL, HZERO or HREL does in each tread after its
start. -/

namespace Sys2Proof.Machine

/-- The row, and the line within the row, of line i. -/
def haulRow (l : Latched) (i : Nat) : Nat × Nat :=
  let per := rowBytes l.desc / 32
  if per = 0 then (0, 0) else (i / per, i % per)

/-- The byte address of line i of an operand, with the captured index value of its row; `none` for an empty
index entry. -/
def haulAddr (l : Latched) (run : Run) (i : Nat) : Option Int :=
  let d := l.desc
  let (r, off) := haulRow l i
  let v := Tbl.get 0 run.idx r
  let empty := match l.idesc with
    | some x => d.emptyIdx x.fmt v
    | none => false
  if empty then none
  else match d.elem (0 :: unflatten [d.size 1, d.size 2, d.size 3, d.size 4] r) v with
    | .at a _ => some (a + 32 * off)
    | .pad _ => none

/-- R142: the bounds fault of a line reached through an indirect dimension. -/
def haulBounds (l : Latched) (run : Run) (pc i : Nat) (a : Int) : Option TFault :=
  let d := l.desc
  if d.inBounds a 32 then none
  else
    let (r, off) := haulRow l i
    some (.mkI 0x32 0 pc (leBytes 1 l.h ++ idxBytes (256 * off / d.width :: unflatten [d.size 1, d.size 2, d.size 3, d.size 4] r) ++
      leBytes 4 (Tbl.get 0 run.idx r) ++ addrBytes a ++ leBytes 2 d.blo ++ leBytes 2 d.bhi))

/-- Index elements: an indirect operand's row index is read in tread S + i_r × c, i_r its first line (R281). -/
def haulIndex (t : Tile) (e : QEntry) (c x : Nat) (o : StepOut) : StepOut :=
  e.ops.foldl (fun o l =>
    if l.desc.idim ≤ 4 ∧ x % c = 0 then
      let (r, off) := haulRow l (x / c)
      if off = 0 ∧ r < l.desc.rows then
        let i := (0 :: unflatten [l.desc.size 1, l.desc.size 2, l.desc.size 3, l.desc.size 4] r).getD l.desc.idim 0
        let q := t.readIndex l e.d.pc agHaul i
        { o with accs := o.accs ++ q.accs, faults := o.faults ++ q.fs.map (fun f => (3, f)),
                 run := { o.run with idx := Tbl.set 0 o.run.idx r q.e.bits } }
      else o
    else o) o

/-- Captures `n` bytes at `a` of a source line as bytes k … of line i. -/
def haulTake (t : Tile) (cellar : Bool) (i k a n : Nat) (o : StepOut) : StepOut :=
  let bs := memRead (t.mem cellar) a n
  { o with accs := o.accs ++ [⟨agHaul, false, cellar, a, n⟩]
           run := { o.run with cap := (List.range n).foldl (fun m j =>
             Tbl.set .zero m (i % 256 * 32 + k + j) ⟨(bs.getD j 0).toNat, t.poisonAt cellar (a + j) 1⟩) o.run.cap } }

/-- R281: the source side of the tread at offset x: an attic line in one tread, a cellar line over the c_s
treads of its cycle. -/
def haulSource (t : Tile) (e : QEntry) (c lines x : Nat) (o : StepOut) : StepOut :=
  match e.d.op, findOp e.ops 1 with
  | .hmov, some s =>
    if x = 0 ∨ 2 ≤ s.desc.loc then o else
    let i := (x - 1) / c
    let j := (x - 1) % c
    if lines ≤ i then o else
    let cs := stairCycle e.d.hdr
    match haulAddr s o.run i with
    | none =>
      let cap := (List.range 32).foldl (fun m q => Tbl.set .zero m (i % 256 * 32 + q) .zero) o.run.cap
      if j = 0 then { o with run := { o.run with cap := cap } } else o
    | some a =>
      match haulBounds s o.run e.d.pc i a with
      | some f =>
        let o := if s.desc.loc = 1 ∧ j < cs then { o with stairHaul := o.stairHaul + 32 / cs } else o
        if j = 0 then { o with faults := o.faults ++ [(3, f)] } else o
      | none =>
        if s.desc.loc = 0 then (if j = 0 then haulTake t false i 0 a.toNat 32 o else o)
        else if j < cs then
          let n := 32 / cs
          { haulTake t true i (j * n) (a.toNat + j * n) n o with stairHaul := o.stairHaul + n }
        else o
  | _, _ => o

/-- The bytes captured for line i. -/
def haulBytes (e : QEntry) (run : Run) (i : Nat) : List Elem :=
  (List.range 32).map (fun k =>
    match e.d.op with
    | .hmov => Tbl.get .zero run.cap (i % 256 * 32 + k)
    | .hfill => ⟨(e.d.param.toNat / 2 ^ (8 * (k % 4))) % 256, false⟩
    | _ => .zero)

/-- R282: the instruction's last packet carries the flag bit. -/
def HaulSend.final (h : HaulSend) : HaulSend := { h with flag := true }

/-- R143, R267, R283: a pull of an empty entry: its line reads as +0 without a request, and fills as a reply would fill it. -/
def haulFill (t : Tile) (e : QEntry) (a : Int) (o : StepOut) : StepOut :=
  let l := a.toNat / 32
  match t.shelfOf l with
  | some h =>
    if !h.inbound then { o with faults := o.faults ++ [(4, .mkI 0x5B 4 e.d.pc (leBytes 2 l))] }
    else if t.tag l then
      { o with faults := o.faults ++ [(4, .mkI 0x5C 0 e.d.pc (leBytes 2 l ++
        leBytes 4 (((findOp e.ops 1).map (fun s => s.desc.rtile * 512)).getD 0) ++ leBytes 1 (hST e.d.hdr)))] }
    else { o with fills := o.fills ++ [l] }
  | none => { o with faults := o.faults ++ [(4, .mkI 0x5B 4 e.d.pc (leBytes 2 l))] }

/-- R281–R283: the destination side of the tread at offset x. -/
def haulDest (t : Tile) (e : QEntry) (c lines x : Nat) (o : StepOut) : StepOut :=
  match findOp e.ops 0 with
  | none => o
  | some d =>
    let kind := haulKind e.d.op e.ops
    let cs := stairCycle e.d.hdr
    -- stair bytes of a cellar destination in treads S + 3 + i*c … S + 2 + (i + 1)*c
    let o := if d.desc.loc = 1 ∧ 3 ≤ x ∧ (x - 3) / c < lines ∧ e.d.op ≠ .hrel then
        { o with stairHaul := o.stairHaul + 32 / cs } else o
    if x < 2 + c ∨ (x - 2) % c ≠ 0 ∨ lines ≤ (x - 2) / c - 1 then o else
    let i := (x - 2) / c - 1
    let last := i + 1 == lines
    match haulAddr d o.run i with
    | none => if kind == .push && last then { o with run := { o.run with send := none }, sends := o.sends ++ (o.run.send.map HaulSend.final).toList } else o
    | some a =>
      match haulBounds d o.run e.d.pc i a with
      | some f => { o with faults := o.faults ++ [(3, f)] }
      | none =>
        let es := haulBytes e o.run i
        let poi := (List.range 4).filter (fun w => (es.drop (8 * w)).take 8 |>.any (·.poi))
        let bytes := es.map (fun q => BitVec.ofNat 8 q.bits)
        match kind with
        | .push =>
          let (_, off) := haulRow d i
          let per := rowBytes d.desc / 32
          let first := off - off % 8
          let run := { o.run with post := o.run.post ++
            [(0, Post.mem ⟨agHaul, false, 32 * (off % 8), bytes, poi.map (· + 4 * (off % 8)), none⟩)] }
          if off % 8 = 7 ∨ off + 1 = per then
            let parts : List MemWr := run.post.filterMap (fun p => match p.2 with
              | .mem w => some w
              | _ => none)
            let data := parts.flatMap (fun w => w.bytes)
            let marks := parts.flatMap (fun w => w.poi)
            let snd : HaulSend := {
              pull := false, dtile := d.desc.rtile, cellar := false,
              line := a.toNat / 32 - (off - first), bytes := data, poi := marks,
              str := hST e.d.hdr,
              flag := hFL e.d.hdr && last,
              tf := if hFL e.d.hdr then hTF e.d.hdr else 0,
              dst := 0,
              pc := e.d.pc }
            let fs : List (Nat × TFault) := if snd.poi.isEmpty then [] else
              [(4, .mkI 0x60 0 e.d.pc (poisonDetail t 4 snd.line))]
            -- where every later row may be empty, as far as the indices read tell, the flag bit waits until the last packet is known
            if hFL e.d.hdr && d.desc.iskip && !last && (haulAddr d o.run (i + 1)).isNone then
              { o with run := { run with post := [], send := some snd }, sends := o.sends ++ run.send.toList, faults := o.faults ++ fs }
            else { o with run := { run with post := [], send := none }, sends := o.sends ++ run.send.toList ++ [snd], faults := o.faults ++ fs }
          else { o with run := run }
        | .pull =>
          match (findOp e.ops 1).bind (fun s => (haulAddr s o.run i).map (fun sa => (s, sa))) with
          | some (s, sa) =>
            match haulBounds s o.run e.d.pc i sa with
            | some f => { o with faults := o.faults ++ [(3, f)] }
            | none =>
              let snd : HaulSend := {
                pull := true, dtile := s.desc.rtile, cellar := s.desc.loc == 3,
                line := sa.toNat / 32, bytes := [], poi := [], str := hST e.d.hdr, flag := false, tf := 0,
                dst := a.toNat / 32, pc := e.d.pc }
              { o with sends := o.sends ++ [snd] }
          | none => haulFill t e a o
        | _ =>
          if e.d.op = .hrel then { o with empties := o.empties ++ [a.toNat / 32] }
          else
            { o with writes := o.writes ++ [⟨if e.d.op = .hzero then agHzero else agHaul, d.desc.loc == 1, a.toNat,
                bytes, poi.map (· + a.toNat / 8), none⟩] }

/-- The haul engine in tread n, at offset x from the start tread of its instruction. -/
def haulStep (t : Tile) (e : QEntry) (x _n : Nat) : StepOut :=
  let c := haulCycle e.d.op e.d.hdr e.ops
  let lines := haulLines e.ops
  haulDest t e c lines x (haulSource t e c lines x (haulIndex t e c x (StepOut.idle e.run)))

end Sys2Proof.Machine
end

