-- ==== Sys2Proof/Machine/Mesh.lean ====
section
/-! DEFINITION. The scheduled mesh (chapter 10): route words, the route sequencer, and a router's work in one
tread. -/

namespace Sys2Proof.Machine

/-- R313: the source of output p (0 N, 1 E, 2 S, 3 W) of a STEP. -/
def rwOut (w : DWord) (p : Nat) : Nat := fld w (3 * p) 3
/-- R313: the source of mesh write X (0) or Y (1). -/
def rwDst (w : DWord) (k : Nat) : Nat := fld w (12 + 3 * k) 3
/-- R313: the age expected at mesh write X or Y. -/
def rwAge (w : DWord) (k : Nat) : Nat := fld w (18 + 8 * k) 8
/-- R313: the run of a STEP. -/
def rwRun (w : DWord) : Nat := fld w 34 12 + 1
/-- R313–R316: KIND. -/
def rwKind (w : DWord) : Nat := fld w 62 2

/-- R313: whether a STEP's fields are legal. -/
def stepLegal (w : DWord) : Bool :=
  ([0, 1, 2, 3].all fun p => rwOut w p != 7 && rwOut w p != p + 1) &&
  ([0, 1].all fun k => decide (rwDst w k ≤ 4) && ((rwDst w k == 0) == (rwAge w k == 0))) &&
  fld w 61 1 == 0 && (fld w 60 1 == 1 || fld w 46 14 == 0)

/-- The detail of a route fault: route store address and the word as fetched (R328). -/
def routeFault (sub a : Nat) (w : DWord) : TFault :=
  ⟨0x6A, sub, leBytes 2 a ++ leBytes 8 w.toNat, none, some a⟩

/-- R314: where the route sequencer goes after the last tread of the STEP at address a. -/
def routeNext : Nat → List (Nat × Nat × Nat) → Nat → Nat × List (Nat × Nat × Nat)
  | 0, l, a => (a + 1, l)
  | _ + 1, [], a => (a + 1, [])
  | n + 1, (f, e, left) :: l, a =>
    if e = a then (if 1 < left then (f, (f, e, left - 1) :: l) else routeNext n l a)
    else (a + 1, (f, e, left) :: l)

/-- R328: a route fault met while words are taken: its record names the word in force, the STEP whose last tread
it is, and where no STEP is in force yet the word taken. -/
def takeFault (q : RouteSeq) (sub a : Nat) (w : DWord) : TFault :=
  { routeFault sub a w with ra := some (if q.step.isSome then q.stepAddr else a) }

/-- R312–R317: takes words from the route store until a STEP or END is in force; `others` counts the words
other than a STEP since the last one; the fuel bounds what R317 allows. -/
def routeTake : Nat → Tile → Nat → Tile × Option TFault
  | 0, t, _ => (t, none)
  | n + 1, t, others =>
    let a := t.rseq.addr
    let w := Tbl.get 0 t.routes a
    if 511 < a then (t, some (takeFault t.rseq 8 (a % 1024) 0))
    else if Tbl.get 0 t.routeMark a = 2 then (t, some (takeFault t.rseq 2 a w))
    else match rwKind w with
    | 0 =>
      if !stepLegal w then (t, some (takeFault t.rseq 1 a w))
      else
        let v := fld w 46 12
        let q := { t.rseq with step := some w, stepAddr := a, left := rwRun w }
        let q := if fld w 60 1 = 0 then q else
          match fld w 58 2 with
          | 0 => { q with rx := v }
          | 1 => { q with ry := v }
          | 2 => { q with wx := v }
          | _ => { q with wy := v }
        ({ t with rseq := q }, none)
    | 3 =>
      if fld w 0 62 != 0 then (t, some (takeFault t.rseq 1 a w))
      else ({ t with rseq := { t.rseq with step := none, left := 0, stopped := true } }, none)
    | k =>
      if 1 ≤ others then (t, some (takeFault t.rseq 6 a w))
      else if k = 1 then
        if fld w 25 37 != 0 then (t, some (takeFault t.rseq 1 a w))
        else if 2 ≤ t.rseq.loops.length then (t, some (takeFault t.rseq 3 a w))
        else routeTake n { t with rseq := { t.rseq with
            addr := a + 1, loops := (a + 1, fld w 0 9, fld w 9 16 + 1) :: t.rseq.loops } } (others + 1)
      else
        if fld w 22 40 != 0 then (t, some (takeFault t.rseq 1 a w))
        else if 2047 < fld w 0 11 + fld w 11 11 then (t, some (takeFault t.rseq 7 a w))
        else routeTake n { t.markRange (fld w 0 11) (fld w 0 11 + fld w 11 11) with
            rseq := { t.rseq with addr := a + 1 } } (others + 1)

/-- The end of a tread for the route sequencer: the pointers used advance, and at the end of a run the next
words are taken (R305, R315, R317). -/
def routeEnd (t : Tile) : Tile × Option TFault :=
  match t.rseq.step with
  | none => (t, none)
  | some w =>
    let useX := [0, 1, 2, 3].any fun p => rwOut w p == 5
    let useY := [0, 1, 2, 3].any fun p => rwOut w p == 6
    let bump (u : Bool) (x : Nat) : Nat := if u then (x + 1) % 4096 else x
    let q := { t.rseq with
      rx := bump useX t.rseq.rx, ry := bump useY t.rseq.ry
      wx := bump (rwDst w 0 != 0) t.rseq.wx, wy := bump (rwDst w 1 != 0) t.rseq.wy, left := t.rseq.left - 1 }
    if 1 < t.rseq.left then ({ t with rseq := q }, none)
    else
      let (a, loops) := routeNext 3 q.loops q.stepAddr
      routeTake 8 { t with rseq := { q with addr := a, loops := loops } } 0

/-- What a router does in a tread: the words it drives, its attic writes and reads, faults with their phase, the
origins of words whose parity failed, and the valid words it drives. -/
structure MeshOut where
  out    : List MeshWord
  writes : List MemWr
  reads  : List Acc
  faults : List (Nat × TFault)
  origins : List Origin
  driven : Nat

/-- A router that drives void words. -/
def MeshOut.void : MeshOut := ⟨[.void, .void, .void, .void], [], [], [], [], 0⟩

/-- R328: the route store address of the word in force: that of the STEP, or of the END that stopped the sequencer. -/
def RouteSeq.inForce (q : RouteSeq) : Nat := if q.stopped then q.addr else q.stepAddr

/-- The detail of a schedule fault (R328). -/
def schedFault (t : Tile) (sub port xy expect seen age : Nat) : TFault :=
  ⟨0x68, sub, leBytes 1 port ++ leBytes 1 xy ++ leBytes 1 expect ++ leBytes 1 seen ++ leBytes 1 age, none,
    some t.rseq.inForce⟩

/-- The parity of the low n bits of a number, even parity giving 0. -/
def parityOf : Nat → Nat → Nat
  | 0, _ => 0
  | n + 1, x => (x % 2 + parityOf n (x / 2)) % 2

/-- R302: the parity bits of a word: one for each quarter of DATA and one for STAMP, V and P. That each makes the ones of its
part, itself included, even is the model's choice (DESIGN CHOICE, log entry 87). -/
def MeshWord.parity (w : MeshWord) : BitVec 5 :=
  let quarter (i : Nat) : Nat := parityOf 32 (w.data.toNat / 2 ^ (32 * i))
  let tags := (parityOf 8 w.stamp.toNat + w.v.toNat + w.p.toNat) % 2
  BitVec.ofNat 5 (quarter 0 + 2 * quarter 1 + 4 * quarter 2 + 8 * quarter 3 + 16 * tags)

/-- R320: whether a word passes its parity check. -/
def MeshWord.good (w : MeshWord) : Bool := w.par == w.parity

/-- A word with the parity bits that it sets out with. -/
def MeshWord.sealed (w : MeshWord) : MeshWord := { w with par := w.parity }

/-- R302, R553: a word with one of its 143 bits inverted. -/
def MeshWord.struck (w : MeshWord) (bit : Nat) : MeshWord :=
  if bit < 128 then { w with data := w.data ^^^ BitVec.ofNat 128 (2 ^ bit) }
  else if bit < 136 then { w with stamp := w.stamp ^^^ BitVec.ofNat 8 (2 ^ (bit - 128)) }
  else if bit = 136 then { w with v := !w.v }
  else if bit = 137 then { w with p := !w.p }
  else { w with par := w.par ^^^ BitVec.ofNat 5 (2 ^ (bit - 138)) }

/-- R320: a word as its input delivers it: one that fails its check has P set. -/
def MeshWord.checked (w : MeshWord) : MeshWord := if w.good then w else { w with p := true }

/-- R50: the lane of a tile at a boundary of its room: north–south lanes are numbered by the column, east–west lanes by the
physical row within the room (DESIGN CHOICE, log entry 84). -/
def laneOf (t d : Nat) : Nat := if d % 2 = 0 then t % 1200 % 40 else t % 1200 / 40

/-- R320, R293, R564: the origins of the input words of tile `tid` that fail their check in tread n: a router port or a hatch
landing with its lane. -/
def parityOrigins (tid n : Nat) (inp : List MeshWord) (hatch : List Bool) : List Origin :=
  ([0, 1, 2, 3].filter fun p => !(inp.getD p .void).good).map fun p =>
    if hatch.getD p false then ⟨0x11, p + 4 * laneOf tid p, n⟩ else ⟨0x10, p, n⟩

/-- R304, R306, R302, R320: mesh read X or Y: the word that sets out, and its fault. A read that faults
starts no word (DEDUCED, log entry 47, for the mesh-port fault; R320 says so of the poison fault). -/
def meshRead (t : Tile) (n ptr xy : Nat) : MeshWord × Option TFault :=
  let a := ptr * 16
  let line := a / 32
  let bs := memRead t.attic a 16
  let w := MeshWord.sealed ⟨BitVec.ofNat 128 (leNat bs), BitVec.ofNat 8 n, true, t.poisonAt false a 16, 0⟩
  if (t.shelfOf line).isSome then
    (.void, some ⟨0x69, 2, leBytes 2 line ++ leBytes 1 xy, none, some t.rseq.stepAddr⟩)
  else if t.tag line then
    (.void, some ⟨0x69, 1, leBytes 2 line ++ leBytes 1 xy, none, some t.rseq.stepAddr⟩)
  else if w.p then (.void, some ⟨0x60, 0, poisonDetail t 3 line, none, some t.rseq.stepAddr⟩)
  else (w, none)

/-- R302: the word with its data, poison and the write to the attic at a mesh pointer. -/
def meshWrite (ptr : Nat) (w : MeshWord) : MemWr :=
  ⟨13, false, ptr * 16, leBytes 16 w.data.toNat, if w.p then [ptr * 2, ptr * 2 + 1] else [], none⟩

/-- R306: the mesh-port fault of a write at mesh pointer `ptr` (2 for write X, 3 for write Y), where the tread's other mesh
write is `twin` and `others` are the tread-driven writes. -/
def meshWriteFault (t : Tile) (ptr : Nat) (m : MemWr) (twin : Option MemWr) (others : List MemWr) : Option TFault :=
  let line := m.addr / 32
  let fault (sub : Nat) (agent : List Byte) : TFault :=
    ⟨0x69, sub, leBytes 2 line ++ leBytes 1 ptr ++ agent, none, some t.rseq.stepAddr⟩
  if (t.shelfOf line).isSome then some (fault 2 [])
  else if twin.any (fun q => q.addr == m.addr) then some (fault 3 (leBytes 1 13))
  else (others.find? (fun q => !q.cellar && (wordsOf q.addr q.bytes.length).any (fun x => x / 2 == m.addr / 16))).map
    (fun q => fault 3 (leBytes 1 q.agent))

/-- R321, R322: a mesh write (0 X, 1 Y) of a STEP in tread n at pointer `ptr` from the inputs: the write, or the schedule fault. -/
def meshTake (t : Tile) (n : Nat) (w : DWord) (inw : Nat → MeshWord) (k ptr : Nat) : Option MemWr × Option TFault :=
  let s := rwDst w k
  if s = 0 then (none, none)
  else
    let x := inw (s - 1)
    let age := rwAge w k
    let want := (n + 4096 - age) % 256
    if !x.v then (none, some (schedFault t 1 (s - 1) k want 0 age))
    else if x.stamp.toNat != want then (none, some (schedFault t 2 (s - 1) k want x.stamp.toNat age))
    else (some (meshWrite ptr x), none)

/-- R323: the schedule faults of the valid words that nothing selects. -/
def unclaimedFaults (t : Tile) (inw : Nat → MeshWord) (selected : Nat → Bool) : List TFault :=
  ([0, 1, 2, 3].filter fun p => (inw p).v && !(selected p)).map fun p => schedFault t 3 p 255 0 (inw p).stamp.toNat 0

/-- R320–R326: the work of the router of tile `tid` in tread n. `inp` are the words at the inputs N, E, S, W; `edge` tells the
ports toward the package edge and `hatch` the ports that lead to a hatch lane; `others` are the tread-driven
writes of the tread. R316: where no STEP is in force, an END among the reasons, every input is still checked until the program
has ended. -/
def routerStep (t : Tile) (tid n : Nat) (inp : List MeshWord) (edge hatch : List Bool) (others : List MemWr) : MeshOut :=
  let inw (p : Nat) : MeshWord := (inp.getD p .void).checked
  let origins := parityOrigins tid n inp hatch
  match t.rseq.step with
  | none =>
    if t.phase = .running ∨ (t.phase = .complete ∧ !t.rseq.stopped) then
      { MeshOut.void with faults := (unclaimedFaults t inw (fun _ => false)).map fun f => (3, f), origins := origins }
    else .void
  | some w =>
    let useX := [0, 1, 2, 3].any fun p => rwOut w p == 5
    let useY := [0, 1, 2, 3].any fun p => rwOut w p == 6
    let rx := meshRead t n t.rseq.rx 0
    let ry := meshRead t n t.rseq.ry 1
    let readFaults := (if useX then rx.2.toList else []) ++ (if useY then ry.2.toList else [])
    let reads : List Acc := ([(useX, t.rseq.rx), (useY, t.rseq.ry)].filter fun p => p.1 &&
      !t.tag (p.2 / 2) && (t.shelfOf (p.2 / 2)).isNone).map fun p => ⟨13, false, false, p.2 * 16, 16⟩
    let src (k : Nat) : MeshWord :=
      if k = 0 then .void else if k ≤ 4 then inw (k - 1) else if k = 5 then rx.1 else ry.1
    let x := meshTake t n w inw 0 t.rseq.wx
    let y := meshTake t n w inw 1 t.rseq.wy
    let portFaults : List TFault := (x.1.bind fun m => meshWriteFault t 2 m y.1 others).toList ++
      (y.1.bind fun m => meshWriteFault t 3 m x.1 others).toList
    let unclaimed := unclaimedFaults t inw fun p =>
      ([0, 1, 2, 3].any fun q => rwOut w q == p + 1) || rwDst w 0 == p + 1 || rwDst w 1 == p + 1
    -- R325, R301, R295
    let edgeF : List TFault := [0, 1, 2, 3].filterMap fun p =>
      if rwOut w p != 0 && edge.getD p false then some (routeFault 4 t.rseq.stepAddr w)
      else if rwOut w p != 0 && hatch.getD p false && n % 4096 == 4095 then
        some (schedFault t 4 p 255 0 0 0)
      else none
    let poisoned : List TFault := [0, 1, 2, 3].filterMap fun p =>
      let k := rwOut w p
      if 1 ≤ k && k ≤ 4 && (inw (k - 1)).p then
        some ⟨0x60, 0, poisonDetail t 3 (k - 1), none, some t.rseq.stepAddr⟩ else none
    let out := [0, 1, 2, 3].map fun p =>
      let x := src (rwOut w p)
      if rwOut w p = 0 || edge.getD p false || (hatch.getD p false && n % 4096 == 4095) || x.p then MeshWord.void else x
    { out := out, writes := x.1.toList ++ y.1.toList, reads := reads
      faults := ((readFaults ++ x.2.toList ++ y.2.toList ++ unclaimed ++ edgeF ++ poisoned).map fun f => (3, f)) ++
        portFaults.map (fun f => (4, f))
      origins := origins, driven := (out.filter (·.v)).length }

/-- R318: the route sequencer is taken through `n` rested treads; the marks of the EXPECT words passed are set now, and a fault
met is raised now. -/
def routeCatchUp : Nat → Tile → Tile × Option TFault
  | 0, t => ({ t with behind := 0 }, none)
  | n + 1, t =>
    match routeEnd t with
    | (t, none) => routeCatchUp n t
    | (t, some f) => ({ t with behind := 0 }, some f)

end Sys2Proof.Machine
end

