-- ==== Sys2Proof/Machine/Press.lean ====
section
/-! DEFINITION. The press core (chapter 06): what a PMUL or PDRN does in each tread after its start. -/

namespace Sys2Proof.Machine

/-- R291: what a read of entry e of array a's bench delivers: a word with a double-bit error comes poisoned. -/
def Tile.pressEntry (t : Tile) (a e : Nat) : Elem :=
  let x := Tbl.get .zero t.pressBench (a * 4096 + e)
  { x with poi := x.poi || Tbl.get 0 t.pressMark (a * 4096 + e) == 2 }

/-- R160, R188: adds a block value to a bench entry; `fresh` starts the entry at +0 (R176). -/
def Tile.pressAdd (t : Tile) (a e : Nat) (v : Elem) (fresh : Bool) : Tile :=
  { t with pressMark := Tbl.set 0 t.pressMark (a * 4096 + e) 0
           pressBench := Tbl.set .zero t.pressBench (a * 4096 + e) (benchAdd (if fresh then .zero else t.pressEntry a e) v) }

/-- R193, R194: the bits that faults invert in a value of an array's column: `part` as `Upset.pressLogic` has it. -/
def pressFlip (us : List Upset) (part a col : Nat) : Nat :=
  us.foldl (fun m u => match u with
    | .pressLogic _ k x c b => if k.val = part ∧ x.val = a ∧ c.val = col then m ^^^ b.toNat else m
    | _ => m) 0

/-- R196: the arithmetic residue fault of array a, column col, row m, group g, block b. -/
def pressBad (pc a col m g b : Nat) (x : ResBad) : TFault :=
  .mkI 0x42 0 pc (leBytes 1 x.check ++ leBytes 1 a ++ leBytes 1 col ++ leBytes 2 m ++ leBytes 1 g ++ leBytes 1 b ++
    leBytes 1 x.pass ++ leBytes x.bytes x.x ++ leBytes x.bytes x.y)

/-- The constants of a PMUL under way. -/
structure PmulDims where
  m : Nat
  n : Nat
  k : Nat
  wf : Nat
  af : Nat
  p : Nat
  w : Nat
  f : Nat
  g : Nat
  segs : Nat

/-- The constants of a PMUL from its fields and latched descriptors. -/
def pmulDims (e : QEntry) : PmulDims :=
  let wf := opFmt e.ops 2
  let af := opFmt e.ops 1
  let p := e.d.param
  { m := pM p, n := pN p, k := pK p, wf := wf, af := af, p := passes wf af, w := pressW wf,
    f := ceilDiv (pK p) 8, g := ceilDiv (pN p) 16, segs := ceilDiv (pM p) 64 }

/-- R182: the rows of segment s. -/
def PmulDims.segRows (c : PmulDims) (s : Nat) : Nat := if c.m - 64 * s < 64 then c.m - 64 * s else 64

/-- What falls in one tread of a PMUL: a scan of (row, K-fold); a weight load of a fold (segment, group,
K-fold) at load tread j; a pass (segment, group, K-fold, row, pass). -/
structure PmulAt where
  scan : Option (Nat × Nat × Nat)
  load : Option (Nat × Nat × Nat × Nat)
  pass : Option (Nat × Nat × Nat × Nat × Nat)

/-- R184–R186: what falls in the tread at offset x of segment s and later, `n` segments left. -/
def PmulDims.at (c : PmulDims) : Nat → Nat → Nat → PmulAt
  | 0, _, _ => ⟨none, none, none⟩
  | n + 1, s, x =>
    let r := c.segRows s
    let pre := segScan (c.af == 7) c.w r c.f (s == 0)
    let len := foldLen r c.p c.w
    if x < pre then
      { scan := if c.af = 7 ∧ x < r * c.f then some (s, x / c.f, x % c.f) else none
        load := if s = 0 ∧ x < c.w then some (0, 0, 0, x) else none
        pass := none }
    else if x - pre < c.g * c.f * len then
      let y := x - pre
      let i := y / len
      let z := y % len
      { scan := none
        pass := if z < r * c.p then some (s, i / c.f, i % c.f, z / c.p, z % c.p) else none
        load :=
          if c.w ≤ z then none
          else if i + 1 < c.g * c.f then some (s, (i + 1) / c.f, (i + 1) % c.f, z)
          else if s + 1 < c.segs then some (s + 1, 0, 0, z)
          else none }
    else c.at n (s + 1) (x - pre - c.g * c.f * len)

/-- The parity of a fold's weight registers: shadow and active change places at each fold (R171). -/
def PmulDims.bank (c : PmulDims) (s g f : Nat) : Nat := ((s * c.g + g) * c.f + f) % 2

/-- Keys of captured values: weights and scales of a fold bank, the row's eight elements and scale. -/
def kW (bank col i : Nat) : Nat := bank * 4096 + col * 8 + i
/-- R171: a weight register. -/
def Run.weight (r : Run) (k : Nat) : WReg := ⟨Tbl.get .zero r.cap k, Tbl.get 0 r.wint k, Tbl.get 0 r.wres k⟩
/-- R171: a weight register takes a weight. -/
def Run.setWeight (r : Run) (k fmt : Nat) (e : Elem) : Run :=
  let w := wregOf fmt e
  { r with cap := Tbl.set .zero r.cap k e, wint := Tbl.set 0 r.wint k w.n, wres := Tbl.set 0 r.wres k w.r }
/-- Key of a weight column's scale or index value. -/
def kWs (bank col : Nat) : Nat := bank * 64 + col
/-- Key of the current row's element i. -/
def kA (i : Nat) : Nat := 16384 + i
/-- Key of the activation scale of row r. -/
def kAs (r : Nat) : Nat := 1024 + r
/-- Key of the block exponent of row r, block b (R186). -/
def kExp (r b : Nat) : Nat := 1048576 + r * 128 + b

/-- R183, R184: the reads of load tread j of a fold. The columns of a load tread are taken in order: eight
columns of a 4-bit format, four of an 8-bit format; the scales in the last tread. -/
def pmulLoad (t : Tile) (e : QEntry) (c : PmulDims) (q : Nat × Nat × Nat × Nat) (o : StepOut) : StepOut :=
  match findOp e.ops 2 with
  | none => o
  | some l =>
    let (s, g, f, j) := q
    let bank := c.bank s g f
    let per := if fmtWidth c.wf = 4 then 8 else 4
    let dataTreads := 16 / per
    if j < dataTreads then
      ((List.range per).map (· + j * per)).foldl (fun o col =>
        let n := 16 * g + col
        if c.n ≤ n then
          { o with run := (List.range 8).foldl (fun (r : Run) i => r.setWeight (kW bank col i) c.wf .zero) o.run }
        else
          let ix := if l.desc.idim = 1 then some (t.readIndex l e.d.pc agPressW n) else none
          let v := match ix with
            | some r => r.e.bits
            | none => n
          let o := match ix with
            | some r => { o with accs := o.accs ++ r.accs, faults := o.faults ++ r.fs.map (fun x => (3, x)),
                                 run := { o.run with idx := Tbl.set 0 o.run.idx (kWs bank col) v } }
            | none => o
          (List.range 8).foldl (fun o i =>
            let k := 8 * f + i
            let r := if c.k ≤ k then (⟨.zero, [], []⟩ : ERd) else t.readElem l e.d.pc agPressW [k, n, 0, 0, 0] v
            { o with accs := o.accs ++ r.accs, faults := o.faults ++ r.fs.map (fun x => (3, x)),
                     run := o.run.setWeight (kW bank col i) c.wf r.e }) o) o
    else
      (List.range 16).foldl (fun o col =>
        let n := 16 * g + col
        if c.n ≤ n then o
        else
          let r := t.readScale l e.d.pc agPressW [8 * f, n, 0, 0, 0] (Tbl.get 0 o.run.idx (kWs bank col))
          { o with accs := o.accs ++ r.accs, faults := o.faults ++ r.fs.map (fun x => (3, x)),
                   run := { o.run with sc := Tbl.set .zero o.run.sc (kWs bank col) r.e } }) o

/-- The index value of an activation's row, read with the row's elements (R187). -/
def pmulRowIdx (t : Tile) (e : QEntry) (l : Latched) (m : Nat) : Nat × List Acc × List TFault :=
  if l.desc.idim ≤ 4 then
    let r := t.readIndex l e.d.pc agPressAct m
    (r.e.bits, r.accs, r.fs)
  else (m, [], [])

/-- R186: a scan tread records the block exponent over the elements it reads. -/
def pmulScan (t : Tile) (e : QEntry) (c : PmulDims) (q : Nat × Nat × Nat) (o : StepOut) : StepOut :=
  match findOp e.ops 1 with
  | none => o
  | some l =>
    let (s, r, f) := q
    let m := 64 * s + r
    let (v, ia, fs) := pmulRowIdx t e l m
    let rs := ((List.range 8).filter (fun i => 8 * f + i < c.k)).map
      (fun i => t.readElem l e.d.pc agPressAct (actIdx l.desc (8 * f + i) m) v)
    let ex := (rs.filterMap (fun x => bf16Exp x.e.bits)).foldl (fun a b => max a (b + 1000).toNat) 0
    let old := if f % 4 = 0 then 0 else Tbl.get 0 o.run.idx (kExp r (f / 4))
    { o with accs := o.accs ++ ia ++ rs.flatMap (·.accs)
             faults := o.faults ++ (fs ++ rs.flatMap (·.fs)).map (fun x => (3, x))
             run := { o.run with idx := Tbl.set 0 o.run.idx (kExp r (f / 4)) (max old ex) } }

/-- R154: the block exponent recorded for a row and block; 0 where every finite element is zero. -/
def Run.expo (r : Run) (row b : Nat) : Int :=
  let x := Tbl.get 0 r.idx (kExp row b)
  if x = 0 then 0 else (x : Int) - 1000

/-- R183, R187: the reads of a row's first pass tread. -/
def pmulRowReads (t : Tile) (e : QEntry) (c : PmulDims) (l : Latched) (s f r : Nat) (o : StepOut) : StepOut :=
  let m := 64 * s + r
  let (v, ia, fs) := pmulRowIdx t e l m
  let o := { o with accs := o.accs ++ ia, faults := o.faults ++ fs.map (fun x => (3, x)) }
  let o := (List.range 8).foldl (fun o i =>
    let k := 8 * f + i
    let x := if c.k ≤ k then (⟨.zero, [], []⟩ : ERd) else t.readElem l e.d.pc agPressAct (actIdx l.desc k m) v
    { o with accs := o.accs ++ x.accs, faults := o.faults ++ x.fs.map (fun y => (3, y)),
             run := { o.run with cap := Tbl.set .zero o.run.cap (kA i) x.e } }) o
  if f % 4 = 0 ∧ fmtScaled c.af then
    let x := t.readScale l e.d.pc agPressAct (actIdx l.desc (8 * f) m) v
    { o with accs := o.accs ++ x.accs, faults := o.faults ++ x.fs.map (fun y => (3, y)),
             run := { o.run with sc := Tbl.set .zero o.run.sc (kAs r) x.e } }
  else o

/-- R564: the origin of a latch word of array a: the words are numbered by row, column and pass (DESIGN CHOICE, log entry 86). -/
def latchOrigin (a r col p n : Nat) : Origin := ⟨0x13, a + 8 * ((r * 4 + col) * 4 + p), n⟩

/-- R173, R183, R188, R192–R194: one pass tread for column `col`: its sum and latch word with their checks, and the block value
when the block ends, which is posted unless the column is N or above. -/
def pmulColumn (e : QEntry) (c : PmulDims) (us : List Upset) (n s g f r p : Nat) (o : StepOut) (col : Nat) : StepOut :=
  let bank := c.bank s g f
  let key := r * 16 + col
  let b := f / 4
  let exA := o.run.expo r b
  let flip (part : Nat) : Nat := pressFlip us part (col / 4) (col % 4)
  let start := if f % 4 = 0 ∧ p = 0 then Lat.zero else Tbl.get Lat.zero o.run.lat key
  let xs := ((List.range 8).filter (fun i => 8 * f + i < c.k)).map (fun i =>
    (o.run.weight (kW bank col i), Tbl.get .zero o.run.cap (kA i)))
  let ends := p + 1 == c.p && (f % 4 == 3 || f + 1 == c.f)
  let read := (if f % 4 = 0 then [] else [p]) ++ (if ends then List.range c.p else [])
  let q := start.pass c.wf c.af exA p (f % 4 == 0) xs (flip 0) (flip 1)
  let lat := if ends then q.1.readWords (List.range c.p) else q.1
  let bad (x : Option ResBad) : List (Nat × TFault) :=
    x.toList.map (fun y => (3, pressBad e.d.pc (col / 4) (col % 4) (64 * s + r) g b y))
  let o := { o with run := { o.run with lat := Tbl.set Lat.zero o.run.lat key lat }, faults := o.faults ++ bad q.2
                    origins := o.origins ++ (read.eraseDups.filter start.bad.contains).map (fun w => latchOrigin (col / 4) r (col % 4) w n) }
  if ends then
    let sw := Tbl.get .zero o.run.sc (kWs bank col)
    let sa := Tbl.get .zero o.run.sc (kAs r)
    let v := lat.finish c.wf c.af exA (scaleNum c.wf sw) (scaleNum c.af sa)
      ((fmtScaled c.wf && sw.poi) || (fmtScaled c.af && sa.poi)) (flip 2) (flip 3)
    let entry := pBB e.d.param + 4 * (g * c.m + 64 * s + r) + col % 4
    { o with faults := o.faults ++ bad v.2
             run := if c.n ≤ 16 * g + col then o.run
                    else { o.run with post := o.run.post ++ [(n + 12, .press (col / 4) entry v.1 (b == 0 && !(cACC e.d.hdr)))] } }
  else o

/-- R194: the checks of the bench additions that fall in the tread at offset x. -/
def pressAdds (t : Tile) (e : QEntry) (c : PmulDims) (us : List Upset) (x : Nat) (due : List Post) : List (Nat × TFault) :=
  due.filterMap (fun q => match q with
    | .press a entry v fresh =>
      let i := entry - pBB e.d.param
      let b := match (c.at c.segs 0 (x - 12)).pass with
        | some (_, _, f, _, _) => f / 4
        | none => 0
      (addCheck (if fresh then .zero else t.pressEntry a entry) v (pressFlip us 4 a (i % 4))).map (fun y =>
        (4, pressBad e.d.pc a (i % 4) (i / 4 % c.m) (i / 4 / c.m) b y))
    | _ => none)

/-- R189, R190: the writes of one drain tread: row m of group g. -/
def pressDrain (t : Tile) (e : QEntry) (bb m nn i : Nat) (o : StepOut) : StepOut :=
  match findOp e.ops 0 with
  | none => o
  | some l =>
    let g := i / m
    let row := i % m
    let ix := if l.desc.idim = 1 then some (t.readIndex l e.d.pc agPressDrain row) else none
    let v := match ix with
      | some r => r.e.bits
      | none => row
    let o := match ix with
      | some r => { o with accs := o.accs ++ r.accs, faults := o.faults ++ r.fs.map (fun x => (3, x)) }
      | none => o
    let ws := ((List.range 16).filter (fun c => 16 * g + c < nn)).map (fun c =>
      writeElem l e.d.pc agPressDrain none [16 * g + c, row, 0, 0, 0] v
        (t.pressEntry (c / 4) (bb + 4 * (g * m + row) + c % 4)))
    { o with writes := o.writes ++ coalesce (ws.flatMap (·.1))
             stores := o.stores ++ ((List.range 16).filter (fun c => 16 * g + c < nn)).map (fun c =>
               (3, c / 4 + 16 * (bb + 4 * (g * m + row) + c % 4)))
             faults := o.faults ++ (ws.flatMap (·.2)).map (fun x => (3, x)) }

/-- The press core in tread n, at offset x from the start tread of its instruction; `us` are the upsets that strike the tile. -/
def pressStep (t : Tile) (us : List Upset) (e : QEntry) (x n : Nat) : StepOut :=
  let o := StepOut.idle e.run
  let due := e.run.post.filter (fun p => p.1 == n)
  let o := { o with posts := due.map (·.2), run := { o.run with post := e.run.post.filter (fun p => p.1 != n) } }
  let mn := pM e.d.param
  let drains := mn * ceilDiv (pN e.d.param) 16
  match e.d.op with
  | .pdrn =>
    if 2 ≤ x ∧ x < 2 + drains then pressDrain t e (pBB e.d.param) mn (pN e.d.param) (x - 2) o else o
  | _ =>
    let c := pmulDims e
    let o := { o with faults := o.faults ++ pressAdds t e c us x (due.map (·.2)) }
    let tt := pmulT e.d e.ops
    let a := c.at c.segs 0 x
    let o := match a.scan with
      | some q => pmulScan t e c q o
      | none => o
    let o := match a.load with
      | some q => pmulLoad t e c q o
      | none => o
    let o := match a.pass, findOp e.ops 1 with
      | some (s, g, f, r, p), some l =>
        let o := if p = 0 then pmulRowReads t e c l s f r o else o
          let o := (List.range 16).foldl (pmulColumn e c us n s g f r p) o
        { o with mac := 128 }
      | _, _ => o
    if cOUT e.d.hdr && decide (tt ≤ x) && decide (x < tt + drains) then
      pressDrain t e (pBB e.d.param) mn (pN e.d.param) (x - tt) o
    else o

end Sys2Proof.Machine
end

