-- ==== Sys2Proof/Machine/Flags.lean ====
section
/-! DEFINITION. Predicates, comparison conditions and the flags between sequencer, queues and arrivals
(R92, R93, R112–R117). -/

namespace Sys2Proof.Machine

/-- R93: the conditions of CMP and CMPI; SUB values 6–15 are illegal. -/
def condHolds (cc : BitVec 4) (a b : Word) : Option Bool :=
  match cc.toNat with
  | 0 => some (a == b)
  | 1 => some (a != b)
  | 2 => some (a.slt b)
  | 3 => some (!(a.slt b))
  | 4 => some (a.ult b)
  | 5 => some (!(a.ult b))
  | _ => none

/-- R92: the functions of PLOG. -/
def plogFn (fn : BitVec 4) (a b : Bool) : Option Bool :=
  match fn.toNat with
  | 0 => some (a && b)
  | 1 => some (a || b)
  | 2 => some (a != b)
  | 3 => some (a && !b)
  | 4 => some a
  | 5 => some (!a)
  | _ => none

/-- R90: whether a guard lets its instruction execute. -/
def guardOn (preds : BitVec 8) (g : Guard) : Bool :=
  !g.en || (preds.getLsbD g.p.toNat != g.neg)

/-- R112: whether a flag is an arrival flag of the tile. -/
def Tile.isArrival (t : Tile) (f : Nat) : Bool := t.arrMask.getLsbD f

/-- The value of a flag. -/
def Tile.flag (t : Tile) (f : Nat) : Bool := t.lead.flags.getLsbD f

/-- Sets or clears a flag. -/
def Tile.setFlag (t : Tile) (f : Nat) (v : Bool) : Tile := { t with lead := { t.lead with flags := setBit t.lead.flags f v } }

/-- R119: the queue that holds an entered instruction whose done field names the flag; 0xFF for none. -/
def Tile.setterQueue (t : Tile) (f : Nat) : Nat :=
  ((List.range 4).find? (fun q => (t.queue q).any (fun e => e.d.hdr.den && e.d.hdr.df.toNat == f))).getD 255

/-- R115: what becomes of a wait. -/
inductive WaitRes where
  | proceeds | early | holds
  deriving DecidableEq, Repr

/-- R115: a wait on a flag, on the flags as phase 1 leaves them. -/
def Tile.waitOn (t : Tile) (f : Nat) : WaitRes :=
  if t.flag f then .proceeds else if t.isArrival f then .holds else .early

/-- Schedules an effect for a later tread, or for phase 4 of this one. -/
def Tile.later (t : Tile) (n : Nat) (f : Fx) : Tile := { t with fx := t.fx ++ [(n, f)] }

/-- R87, R97, R115, R116: a wait that proceeds in tread n: it consumes the flag unless `keep`, and values of the sync network
held for the flag reach their registers in phase 4, where their pending bits clear. -/
def Tile.proceed (t : Tile) (n f : Nat) (keep : Bool) : Tile :=
  { t with
    consume := if keep then t.consume else setBit t.consume f true
    held := t.held.filter (fun h => h.flag != f)
    fx := t.fx ++ (t.held.filter (fun h => h.flag == f)).map (fun h => (n, .reg h.rd h.v)) }

/-- R295, R367: a poisoned reduction result that a wait would write raises the poison fault. -/
def Tile.heldPoison (t : Tile) (f pc : Nat) : Option TFault :=
  if t.held.any (fun h => h.flag == f && h.poi) then
    some (.mkI 0x60 0 pc (poisonDetail t 1 ((t.held.find? (fun h => h.flag == f && h.poi)).map (·.rd) |>.getD 0)))
  else none

/-- R119: the early-wait fault; waiter 4 is the sequencer. -/
def earlyWait (t : Tile) (f waiter pc : Nat) : TFault :=
  .mkI 0x23 0 pc (leBytes 1 f ++ leBytes 1 waiter ++ leBytes 1 (t.setterQueue f))

/-- A set of a flag in phase 1: the flag, who sets it (bit 0–3 of a mask: the done field of that queue's head; 4 a SETF; 5 an
arrival), and the program address of its instruction. -/
structure FlagSet where
  flag : Nat
  who  : Nat
  pc   : Option Nat
  deriving DecidableEq, Repr

/-- R114: the sets of phase 1: the tile, and whether a flag overran. The record tells the setters as a mask (DESIGN CHOICE, log
entry 85), and the address of the last of them that is an instruction. -/
def Tile.applySets (t : Tile) (sets : List FlagSet) : Tile × Option TFault :=
  let past := (List.range 16).find? (fun f =>
    let n := (sets.filter (fun x => x.flag == f)).length
    (decide (1 ≤ n) && t.flag f) || decide (2 ≤ n))
  (sets.foldl (fun t x => t.setFlag x.flag true) t,
    past.map (fun f =>
      let by_ := sets.filter (fun x => x.flag == f)
      ⟨0x24, 0, leBytes 1 f ++ leBytes 1 ((by_.map (·.who)).eraseDups.foldl (fun m b => m + 2 ^ b) 0),
        (by_.filterMap (·.pc)).getLast?, none⟩))

end Sys2Proof.Machine
end

