-- ==== Sys2Proof/Machine/Scalar.lean ====
section
/-! DEFINITION. Issue by the leader (R85, R90–R102): scalar, flag and control instructions, one meaning each
over the tile, and the dispatch of engine instructions. -/

namespace Sys2Proof.Machine

/-- R82: reads a scalar register; s0 is zero. -/
def Seq.reg (s : Seq) (r : BitVec 5) : Word := if r = 0 then 0 else Tbl.get 0 s.regs r.toNat
/-- R82: writes a scalar register; a write to s0 is ignored. -/
def Seq.setReg (s : Seq) (r : Nat) (v : Word) : Seq := if r = 0 then s else { s with regs := Tbl.set 0 s.regs r v }
/-- R82: whether a register's pending bit is set; s0 has none. -/
def Seq.isPend (s : Seq) (r : BitVec 5) : Bool := r != 0 && s.pend.getLsbD r.toNat
/-- Sets or clears a register's pending bit; s0 has none. -/
def Seq.setPend (s : Seq) (r : Nat) (v : Bool) : Seq := if r = 0 then s else { s with pend := setBit s.pend r v }
/-- A predicate. -/
def Seq.pred (s : Seq) (p : BitVec 3) : Bool := s.preds.getLsbD p.toNat
/-- Writes a predicate. -/
def Seq.setPred (s : Seq) (p : BitVec 3) (v : Bool) : Seq := { s with preds := setBit s.preds p.toNat v }

/-- The result of an issue: the tile, the fault with which it aborts, or a wait that lets nothing issue (R115). -/
inductive Issue where
  | ok (t : Tile)
  | fault (f : TFault)
  | waits

/-- R92: the amount of a shift is rb[4:0]. -/
def shiftOf (rb : Word) : Nat := fld rb 0 5

/-- R92: the two-register operations, by the rows of the table: shifts, minima and maxima, then the rest. -/
def aluFn (op : AluOp) (ra rb : Word) : Word :=
  match op with
  | .shl => ra <<< shiftOf rb | .shr => ra >>> shiftOf rb | .sra => ra.sshiftRight (shiftOf rb)
  | .min => keepOf BitVec.slt true ra rb | .max => keepOf BitVec.slt false ra rb
  | .minu => keepOf BitVec.ult true ra rb | .maxu => keepOf BitVec.ult false ra rb
  | .add => ra + rb | .sub => ra - rb
  | .and => ra &&& rb | .or => ra ||| rb | .xor => ra ^^^ rb

/-- R92: the operation an immediate form performs. -/
def AluOfImm (op : AluImmOp) : AluOp :=
  match op with
  | .addi => .add | .andi => .and | .ori => .or | .xori => .xor | .shli => .shl | .shri => .shr | .srai => .sra

/-- R119: the early-read fault of a register. -/
def earlyReg (r : BitVec 5) (pc : Nat) : TFault := .mkI 0x21 0 pc (leBytes 1 r.toNat)
/-- R119: the pending-store fault of a register. -/
def pendReg (r : BitVec 5) (pc : Nat) : TFault := .mkI 0x22 0 pc (leBytes 2 r.toNat)

/-- R96, R109: checks the registers an instruction reads, then the one it writes. A MUL, LD or REDS whose register is already
pending raises the pending-store fault in its issue tread, in which R96 sets the bit (DESIGN CHOICE, log entry 85: R109 names no
tread). -/
def Tile.regCheck (t : Tile) (reads : List (BitVec 5)) (rd : BitVec 5) : Option TFault :=
  match reads.find? t.lead.isPend with
  | some r => some (earlyReg r t.lead.pc)
  | none => if t.lead.isPend rd then some (pendReg rd t.lead.pc) else none

/-- Where execution goes on after the instruction at `pc`, of `words` words, has issued (R99): the loop that
ends here repeats or is popped. -/
def loopNext : Nat → List LoopEnt → Nat → Nat → Nat × List LoopEnt
  | 0, l, _, next => (next, l)
  | _ + 1, [], _, next => (next, [])
  | n + 1, e :: l, pc, next =>
    if e.last = pc then
      if 1 < e.left then (e.first, { e with left := e.left - 1 } :: l) else loopNext n l pc next
    else (next, e :: l)

/-- R100, R101: how many loops were entered since the CALL in force, or at all where there is none. -/
def Seq.since (s : Seq) : Nat := if s.link.isSome then s.loops.length - s.linkLoops else s.loops.length

/-- R85, R99, R100: passes on to the next instruction; the leader may issue again `treads` later. A loop that was active at
the CALL in force stays on the stack, and its end address neither repeats nor pops it in called code (DESIGN CHOICE, log entry 101:
R99 lets the body's last instruction repeat or pop, R100 keeps the loop). -/
def Tile.advance (t : Tile) (n words treads : Nat) : Tile :=
  let k := t.lead.since
  let (pc, loops) := loopNext 2 (t.lead.loops.take k) t.lead.pc (t.lead.pc + words)
  { t with lead := { t.lead with pc := pc, loops := loops ++ t.lead.loops.drop k }, nextIssue := n + treads }

/-- R92, R93, R96: the two-register and immediate operations: rd is written in phase 4 of the issue tread. -/
def issueAlu (t : Tile) (n : Nat) (op : AluOp) (rd : BitVec 5) (reads : List (BitVec 5)) (a b : Word) : Issue :=
  match t.regCheck reads rd with
  | some f => .fault f
  | none => .ok ({ t with lead := t.lead.setReg rd.toNat (aluFn op a b) }.advance n 1 1)

/-- R92, R96: MUL: the low 32 bits of ra × rb, visible in t + 3. -/
def issueMul (t : Tile) (n : Nat) (rd ra rb : BitVec 5) : Issue :=
  match t.regCheck [ra, rb] rd with
  | some f => .fault f
  | none =>
    .ok (({ t with lead := t.lead.setPend rd.toNat true }.later (n + 2)
      (.reg rd.toNat (t.lead.reg ra * t.lead.reg rb))).advance n 1 1)

/-- R92, R94: LD: the attic access falls in t + 2, the register write in t + 3. -/
def issueLd (t : Tile) (n : Nat) (rd ra : BitVec 5) (imm : Word) : Issue :=
  match t.regCheck [ra] rd with
  | some f => .fault f
  | none =>
    .ok (({ t with lead := t.lead.setPend rd.toNat true }.later (n + 2)
      (.ldAcc rd.toNat (t.lead.reg ra + imm) t.lead.pc)).advance n 1 1)

/-- R92, R94: ST: the write falls in t + 2. -/
def issueSt (t : Tile) (n : Nat) (ra rb : BitVec 5) (imm : Word) : Issue :=
  match t.regCheck [ra, rb] 0 with
  | some f => .fault f
  | none => .ok ((t.later (n + 2) (.stAcc (t.lead.reg ra + imm) (t.lead.reg rb) t.lead.pc)).advance n 1 1)

/-- R92, R93: CMP and CMPI. -/
def issueCmp (t : Tile) (n : Nat) (pd : BitVec 3) (reads : List (BitVec 5)) (a b : Word) (cc : BitVec 4)
    (ill : TFault) : Issue :=
  match condHolds cc a b with
  | none => .fault ill
  | some v =>
    match t.regCheck reads 0 with
    | some f => .fault f
    | none => .ok ({ t with lead := t.lead.setPred pd v }.advance n 1 1)

/-- R92: PLOG. -/
def issuePlog (t : Tile) (n : Nat) (pd pa pb : BitVec 3) (fn : BitVec 4) (ill : TFault) : Issue :=
  match plogFn fn (t.lead.pred pa) (t.lead.pred pb) with
  | none => .fault ill
  | some v => .ok ({ t with lead := t.lead.setPred pd v }.advance n 1 1)

/-- R92, R95: DSW: the descriptor word is written in phase 4 of t + 2. -/
def issueDsw (t : Tile) (n : Nat) (rb : BitVec 5) (h : BitVec 6) (w : BitVec 3) : Issue :=
  match t.regCheck [rb] 0 with
  | some f => .fault f
  | none => .ok ((t.later (n + 2) (.dsw h.toNat w.toNat (t.lead.reg rb))).advance n 1 1)

/-- R92: DSR: the descriptor word as it stands in t. -/
def issueDsr (t : Tile) (n : Nat) (rd : BitVec 5) (h : BitVec 6) (w : BitVec 3) : Issue :=
  match t.regCheck [] rd with
  | some f => .fault f
  | none =>
    .ok ({ t with lead := t.lead.setReg rd.toNat (Tbl.get 0 t.lead.desc (h.toNat * 8 + w.toNat)) }.advance n 1 1)

/-- R92, R112: SETF of a local flag, set in phase 1 of t + 2; of an arrival flag it is illegal. -/
def issueSetf (t : Tile) (n : Nat) (f : BitVec 4) (ill : TFault) : Issue :=
  if t.isArrival f.toNat then .fault ill
  else .ok ((t.later (n + 2) (.setf f.toNat t.lead.pc)).advance n 1 1)

/-- R117: CLRF, in phase 2 of t + 2. -/
def issueClrf (t : Tile) (n : Nat) (f : BitVec 4) : Issue :=
  .ok ((t.later (n + 2) (.clrf f.toNat)).advance n 1 1)

/-- R97, R115: WAITF: proceeds on a set flag; an unset local flag is a fault; on an unset arrival flag the
room holds, so nothing issues. -/
def issueWaitf (t : Tile) (n : Nat) (f : BitVec 4) (keep : Bool) : Issue :=
  match t.waitOn f.toNat with
  | .holds => .waits
  | .early => .fault (earlyWait t f.toNat 4 t.lead.pc)
  | .proceeds =>
    match t.heldPoison f.toNat t.lead.pc with
    | some x => .fault x
    | none => .ok ((t.proceed n f.toNat keep).advance n 1 1)

/-- R92, R112: BARA: the arrival falls in t + 2; its flag is an arrival flag. -/
def issueBara (t : Tile) (n : Nat) (b : BitVec 5) (f : BitVec 4) (ill : TFault) : Issue :=
  if t.isArrival f.toNat then .ok ((t.later (n + 2) (.bara b.toNat f.toNat t.lead.pc)).advance n 1 1)
  else .fault ill

/-- R92, R93, R96, R112: REDS: the contribution falls in t + 2; rd is pending until R97 writes it. -/
def issueReds (t : Tile) (n : Nat) (rd ra : BitVec 5) (op : BitVec 4) (b : BitVec 5) (f : BitVec 4)
    (ill : TFault) : Issue :=
  if !t.isArrival f.toNat || decide (5 ≤ op.toNat) then .fault ill
  else match t.regCheck [ra] rd with
  | some x => .fault x
  | none =>
    .ok (({ t with lead := t.lead.setPend rd.toNat true }.later (n + 2)
      (.reds rd.toNat (t.lead.reg ra) op.toNat b.toNat f.toNat t.lead.pc)).advance n 1 1)

/-- R100: the loops that stay active after a branch to `target`: outermost first, up to the first whose body
the target leaves. -/
def loopsKept (target : Nat) (l : List LoopEnt) : List LoopEnt :=
  (l.reverse.takeWhile (fun e => decide (e.first ≤ target) && decide (target ≤ e.last))).reverse

/-- R100: the loop stack after a taken branch to `target`: of the loops entered since the CALL in force those that it leaves
are popped; a loop that was active at the CALL stays. -/
def Seq.branch (s : Seq) (target : Nat) : List LoopEnt :=
  loopsKept target (s.loops.take s.since) ++ s.loops.drop s.since

/-- R98, R100: a taken BR. -/
def issueBr (t : Tile) (n : Nat) (target : BitVec 10) : Issue :=
  .ok { t with lead := { t.lead with pc := target.toNat, loops := t.lead.branch target.toNat }
               nextIssue := n + 2 }

/-- R101: CALL; a control fault where the link register is valid. The address after 0x03FF that a CALL there would store
wraps to 0 in the 10 bits of the register (DESIGN CHOICE, log entry 85). -/
def issueCall (t : Tile) (n : Nat) (target : BitVec 10) : Issue :=
  if t.lead.link.isSome then .fault (.mkI 0x26 2 t.lead.pc [])
  else .ok { t with lead := { t.lead with
                      pc := target.toNat, link := some (BitVec.ofNat 10 (t.lead.pc + 1))
                      linkLoops := t.lead.loops.length }
                    nextIssue := n + 2 }

/-- R101: RET; a control fault where the link register is invalid or a loop entered after the CALL is
active. -/
def issueRet (t : Tile) (n : Nat) : Issue :=
  match t.lead.link with
  | none => .fault (.mkI 0x26 3 t.lead.pc [])
  | some a =>
    if t.lead.linkLoops < t.lead.loops.length then .fault (.mkI 0x26 5 t.lead.pc [])
    else .ok { t with lead := { t.lead with pc := a.toNat, link := none }, nextIssue := n + 2 }

/-- The words of the instruction stored at a program address (R89). -/
def Seq.wordsAt (s : Seq) (a : Nat) : Nat := if isEngineWord (Tbl.get 0 s.prog a) then 2 else 1

/-- R99, R100: LOOP and LOOPI with a count. -/
def issueLoop (t : Tile) (n : Nat) (count : Nat) (endA : BitVec 10) : Issue :=
  if count = 0 then
    .ok { t with lead := { t.lead with pc := endA.toNat + t.lead.wordsAt endA.toNat }, nextIssue := n + 2 }
  else if 2 ≤ t.lead.loops.length then .fault (.mkI 0x26 4 t.lead.pc [])
  else .ok { t with lead := { t.lead with
                      pc := t.lead.pc + 1, loops := ⟨t.lead.pc + 1, endA.toNat, count⟩ :: t.lead.loops }
                    nextIssue := n + 1 }

/-- R104, R112, R248: an engine instruction: dispatched to enter its queue in t + 2. -/
def issueEngine (t : Tile) (n : Nat) (op : EngOp) (h : EngHdr) (p : DWord) (ill : TFault) : Issue :=
  if !(engineWf op h p) || (h.den && t.isArrival h.df.toNat) then .fault ill
  else
    let vec := engQueue op == 2
    let ks : BitVec 5 := BitVec.ofNat 5 (vKS h)
    let ib : BitVec 5 := if op == .vred || op == .vtopk then BitVec.ofNat 5 (vIB p) else 0
    match t.regCheck (if vec then [ks, ib] else []) 0 with
    | some f => .fault f
    | none =>
      let d : Dispatch := { op := op, hdr := h, param := p, pc := t.lead.pc, tread := n,
                            k := if vec then t.lead.reg ks else 0, ib := if vec then t.lead.reg ib else 0 }
      .ok ((t.later (n + 2) (.enter d)).advance n 2 1)

/-- The illegal-instruction fault with both words as fetched (R119). -/
def illegal (t : Tile) (w0 w1 : DWord) : TFault :=
  .mkI 0x27 0 t.lead.pc (leBytes 8 w0.toNat ++ leBytes 8 w1.toNat)

/-- R85, R92: the leader issues an instruction in tread n. -/
def issueInstr (t : Tile) (n : Nat) (g : Guard) (i : TileInstr) : Issue :=
  let ws := encodeInstr g i
  let ill := illegal t (ws.getD 0 0) (ws.getD 1 (Tbl.get 0 t.lead.prog (t.lead.pc + 1)))
  if 0x3FF < t.lead.pc then .fault (.mkI 0x26 1 t.lead.pc [])
  else if !(guardOn t.lead.preds g) then
    match i with
    | .br _ => .ok (t.advance n 1 2)
    | .call _ => .ok (t.advance n 1 2)
    | .ret => .ok (t.advance n 1 2)
    | i => .ok (t.advance n i.words 1)
  else
    let r := t.lead.reg
    match i with
    | .nop => .ok (t.advance n 1 1)
    | .halt => .ok { t.advance n 1 1 with halted := true }
    | .trap c => .fault (.mkI 0x2B 0 t.lead.pc (leBytes 2 c.toNat))
    | .alu op rd ra rb => issueAlu t n op rd [ra, rb] (r ra) (r rb)
    | .mul rd ra rb => issueMul t n rd ra rb
    | .alui op rd ra imm => issueAlu t n (AluOfImm op) rd [ra] (r ra) imm
    | .li rd imm => issueAlu t n .or rd [] 0 imm
    | .cmp pd ra rb cc => issueCmp t n pd [ra, rb] (r ra) (r rb) cc ill
    | .cmpi pd ra imm cc => issueCmp t n pd [ra] (r ra) imm cc ill
    | .plog pd pa pb fn => issuePlog t n pd pa pb fn ill
    | .ld rd ra imm => issueLd t n rd ra imm
    | .st ra rb imm => issueSt t n ra rb imm
    | .dsw rb h w => issueDsw t n rb h w
    | .dsr rd h w => issueDsr t n rd h w
    | .setf f => issueSetf t n f ill
    | .clrf f => issueClrf t n f
    | .waitf f k => issueWaitf t n f k
    | .bara b f => issueBara t n b f ill
    | .reds rd ra op b f => issueReds t n rd ra op b f ill
    | .br target => issueBr t n target
    | .call target => issueCall t n target
    | .ret => issueRet t n
    | .loop ra e =>
      match t.regCheck [ra] 0 with
      | some f => .fault f
      | none => issueLoop t n (r ra).toNat e
    | .loopi c e => issueLoop t n c.toNat e
    | .engine op h p => issueEngine t n op h p ill

/-- R85: whether the leader issues in tread n. -/
def Tile.ready (t : Tile) (n : Nat) : Bool :=
  t.phase == .running && !t.halted && decide (t.nextIssue ≤ n)

/-- R85, R91, R101, R120: what a sequencer (0 leader, 1 trailer) fetches at its program counter: an instruction, or the fault
of the fetch. Log entry 85 tells what the manual leaves open here (DESIGN CHOICE): an illegal word faults though a guard that
is off stands in it; an engine header at an odd address executes; and an error in the word beside a scalar instruction,
which is fetched with it, raises no fault. -/
def Seq.fetch (s : Seq) (which : Nat) : Except TFault (Guard × TileInstr) :=
  let pc := s.pc
  let w0 := Tbl.get 0 s.prog pc
  let w1 := Tbl.get 0 s.prog (pc + 1)
  let bad := if Tbl.get 0 s.progMark pc = 2 then some pc
    else if isEngineWord w0 && Tbl.get 0 s.progMark (pc + 1) == 2 then some (pc + 1) else none
  if 0x3FF < pc then .error (.mkI 0x26 1 pc [])
  else match bad with
  | some a => .error (.mkI 0x2A 0 pc (leBytes 2 a ++ leBytes 1 which))
  | none =>
    match decodeInstr w0 w1 with
    | some x => .ok x
    | none => .error (.mkI 0x27 0 pc (leBytes 8 w0.toNat ++ leBytes 8 w1.toNat))

/-- What the leader fetches. -/
def Tile.fetch (t : Tile) : Except TFault (Guard × TileInstr) := t.lead.fetch 0

/-- R82, R291: the program words that a fetch at pc reads: those with a single-bit error are counted. -/
def Tile.noteFetch (t : Tile) (s : Seq) : Tile :=
  let ws := if isEngineWord (Tbl.get 0 s.prog s.pc) then [s.pc, s.pc + 1] else [s.pc]
  ws.foldl (fun t a => if Tbl.get 0 s.progMark a = 1 then { t with corrB := stick t.corrB } else t) t

/-! ### The trailer (R78–R80) -/

/-- R79, R80: what a sequencer makes of the instruction at its program counter: the words, the sequencer after the issue, and
the effects that it schedules. What a wait sees is captured, so a WAITF only passes on. -/
structure Issued where
  words : DWord × DWord
  seq   : Seq
  fx    : List Fx

/-- R78, R79: a sequencer issues, on values that are its own. -/
def Tile.reissue (t : Tile) (s : Seq) (g : Guard) (i : TileInstr) : Issued :=
  let v := { t with lead := s, fx := [], held := [], consume := 0, halted := false }
  let r : Issue := match i with
    | .waitf _ _ => .ok (v.advance 0 1 1)
    | _ => issueInstr v 0 g i
  let w := (Tbl.get 0 s.prog s.pc, if isEngineWord (Tbl.get 0 s.prog s.pc) then Tbl.get 0 s.prog (s.pc + 1) else 0)
  match r with
  | .ok u => ⟨w, u.lead, u.fx.map (·.2)⟩
  | _ => ⟨w, s, []⟩

/-- R80: the first item in which the trailer's results differ from the leader's: 0 the instruction word or its address, 1 a
write of a register, predicate or link register, 2 of a flag, 3 a dispatch or another effect that leaves the pair. -/
def lockstepItem (b s : Seq) (lead trail : Issued) : Option Nat :=
  let wrote (k : Nat) : Bool :=
    Tbl.get 0 lead.seq.regs k != Tbl.get 0 b.regs k || Tbl.get 0 trail.seq.regs k != Tbl.get 0 s.regs k
  let flagFx (x : Fx) : Bool := match x with
    | .setf _ _ => true
    | .clrf _ => true
    | .bara _ _ _ => true
    | _ => false
  if b.pc ≠ s.pc ∨ lead.words ≠ trail.words then some 0
  else if (List.range 32).any (fun k => wrote k && Tbl.get 0 lead.seq.regs k != Tbl.get 0 trail.seq.regs k) ∨
      lead.seq.preds ≠ trail.seq.preds ∨ lead.seq.link ≠ trail.seq.link then some 1
  else if lead.fx.filter flagFx ≠ trail.fx.filter flagFx then some 2
  else if lead.fx ≠ trail.fx then some 3
  else none

/-- R78–R80, R119, R120: the trailer follows the tread that the leader took two treads before: the trailer after it, and the
fault of its fetch or of the comparison. Its registers, where the leader's came from outside the pair, are captured, else they are
its own; so are its descriptors. `said` is a difference that a fault of the pair's logic makes. -/
def Tile.follow (t : Tile) (said : Option Nat) : Seq × Option TFault :=
  match t.past with
  | [_, q] =>
    let keep (lead mine : Tbl Word) : Seq :=
      { q.after with regs := carried 32 lead q.after.regs mine, desc := carried 512 q.before.desc q.after.desc t.trail.desc
                     prog := t.trail.prog, progMark := t.trail.progMark }
    if !q.issued then (keep q.before.regs t.trail.regs, none)
    else
      let s := { t.trail with flags := q.before.flags, pend := q.before.pend }
      match s.fetch 1, q.before.fetch 0 with
      | .ok x, .ok y =>
        let l := t.reissue q.before y.1 y.2
        let r := t.reissue s x.1 x.2
        match said.or (lockstepItem q.before s l r) with
        | some i => (t.trail, some (.mkI 0x29 0 q.before.pc (leBytes 1 i)))
        | none => (keep l.seq.regs r.seq.regs, none)
      | .error f, _ => (t.trail, some f)
      | _, .error _ => (t.trail, none)
  | _ => (t.trail, none)

end Sys2Proof.Machine
end

