-- ==== Sys2Proof/Machine/Tables.lean ====
section
/-! DEFINITION. The table functions of the vector stream engine (R243, R244): knots from high-precision
fixed-point arithmetic, exact interpolation, and the draw generator of R256. -/

namespace Sys2Proof.Machine

/-- Bits after the binary point of the fixed-point numbers from which knots are rounded. -/
def fxBits : Nat := 256
/-- 1 in fixed point. -/
def fxOne : Int := (2 ^ fxBits : Nat)
/-- The fixed-point product. -/
def fxMul (a b : Int) : Int := a * b / fxOne
/-- The fixed-point quotient. -/
def fxDiv (a b : Int) : Int := a * fxOne / b
/-- A rational in fixed point. -/
def fxRat (num : Int) (den : Nat) : Int := num * fxOne / den
/-- The exact value of a fixed-point number. -/
def fxNum (a : Int) : Num := .fin (decide (a < 0)) a.natAbs 1 (-(fxBits : Int))

/-- The Taylor sum of exp: `n` further terms from term `t` of index `k`. -/
def fxExpLoop : Nat → Int → Int → Int → Int → Int
  | 0, _, _, _, acc => acc
  | n + 1, k, x, t, acc =>
    let t' := fxMul t x / k
    fxExpLoop n (k + 1) x t' (acc + t')

/-- Squares `n` times. -/
def fxSquares : Nat → Int → Int
  | 0, x => x
  | n + 1, x => fxSquares n (fxMul x x)

/-- exp x. -/
def fxExp (x : Int) : Int := fxSquares 8 (fxExpLoop 60 1 (x / 256) fxOne fxOne)

/-- Σ z^(2k+1)/(2k+1): `alt` alternates the signs (arctangent), otherwise the inverse hyperbolic tangent. -/
def fxAtanLoop : Nat → Int → Int → Int → Bool → Bool → Int → Int
  | 0, _, _, _, _, _, acc => acc
  | n + 1, k, z2, t, alt, minus, acc =>
    let acc' := if minus then acc - t / k else acc + t / k
    fxAtanLoop n (k + 2) z2 (fxMul t z2) alt (alt && !minus) acc'

/-- Inverse hyperbolic tangent for |z| ≤ 1/3. -/
def fxAtanh (z : Int) : Int := fxAtanLoop 90 1 (fxMul z z) z false false 0
/-- Arctangent for |z| ≤ 1/5. -/
def fxAtan (z : Int) : Int := fxAtanLoop 130 1 (fxMul z z) z true false 0
/-- The natural logarithm of num / den in [1, 2]. -/
def fxLn (num den : Nat) : Int := 2 * fxAtanh (fxRat ((num : Int) - den) (num + den))
/-- ln 2. -/
def fxLn2 : Int := fxLn 2 1
/-- π. -/
def fxPi : Int := 16 * fxAtan (fxRat 1 5) - 4 * fxAtan (fxRat 1 239)

/-- Bitwise square root: the bits from `n` down. -/
def isqrtLoop : Nat → Nat → Nat → Nat
  | 0, _, r => r
  | n + 1, a, r =>
    let c := r + 2 ^ n
    isqrtLoop n a (if c * c ≤ a then c else r)
/-- floor(sqrt a). -/
def isqrt (a : Nat) : Nat := isqrtLoop (Nat.log2 a / 2 + 1) a 0

/-- The series of the normal distribution function. -/
def fxPhiLoop : Nat → Int → Int → Int → Int → Int
  | 0, _, _, _, acc => acc
  | n + 1, k, h, t, acc =>
    fxPhiLoop n (k + 1) h (-(fxMul t h / (k + 1))) (acc + t / (2 * k + 1))

/-- Φ(x). -/
def fxPhi (x : Int) : Int :=
  let h := fxMul x x / 2
  let root : Int := (isqrt ((2 * fxPi * fxOne).toNat) : Nat)
  fxOne / 2 + fxMul (fxDiv x root) (fxPhiLoop 240 0 h fxOne 0)

/-- σ(x) = 1 / (1 + exp(−x)). -/
def fxSigma (x : Int) : Int := fxDiv fxOne (fxOne + fxExp (-x))
/-- tanh x = 2 σ(2x) − 1. -/
def fxTanh (x : Int) : Int := 2 * fxSigma (2 * x) - fxOne

/-- R239: the table functions, opcodes 0x10–0x17. -/
inductive TableFn where
  | exp2 | log2 | rcp | rsqrt | tanh | sigm | gelu | silu
  deriving DecidableEq, Repr

/-- R244: the reduced interval [lo, hi) of each function. -/
def TableFn.lo : TableFn → Int
  | .exp2 => 0 | .log2 => 1 | .rcp => 1 | .rsqrt => 1 | .tanh => 0 | .sigm => 0 | .gelu => -8 | .silu => 0
/-- R244: the length hi − lo of the interval. -/
def TableFn.span : TableFn → Nat
  | .exp2 => 1 | .log2 => 1 | .rcp => 1 | .rsqrt => 3 | .tanh => 8 | .sigm => 16 | .gelu => 16 | .silu => 16

/-- R243: the tabulated function at lo + i × (hi − lo) / 1,024, exactly or to 256 bits. -/
def TableFn.at (f : TableFn) (i : Nat) : Num :=
  let num : Int := f.lo * 1024 + i * f.span
  match f with
  | .exp2 => fxNum (fxExp (fxMul (fxRat num 1024) fxLn2))
  | .log2 => fxNum (fxDiv (fxLn num.toNat 1024) fxLn2)
  | .rcp => .fin false 1024 num.toNat 0
  | .rsqrt =>
    let n := num.toNat
    let r := isqrt (1024 * n * 2 ^ 512)
    if r * r = 1024 * n * 2 ^ 512 then .fin false r n (-256) else .fin false (2 * r + 1) (2 * n) (-256)
  | .tanh => fxNum (fxTanh (fxRat num 1024))
  | .sigm => fxNum (fxSigma (fxRat num 1024))
  | .silu => fxNum (fxSigma (fxRat num 1024))
  | .gelu => fxNum (fxPhi (fxRat num 1024))

/-- R243: knot i, correctly rounded to FP32. -/
def TableFn.knot (f : TableFn) (i : Nat) : Num := f32 (toF32 (f.at i))

/-- R243: the value between knots at the reduced argument num / den × 2^e, formed exactly. -/
def TableFn.interp (f : TableFn) (x : Num) : Num :=
  match x with
  | .fin neg n d e =>
    -- u / v = (x − lo) × 1,024 / (hi − lo)
    let k : Nat := pow2 (-e)
    let u : Int := (sgn neg (n * pow2 e) - f.lo * (d * k)) * 1024
    let v : Nat := d * k * f.span
    let i := (u / v).toNat
    let fr : Num := .fin false ((u % v).toNat) v 0
    let a := f.knot i
    let b := f.knot (i + 1)
    a.add 0 ((b.add 0 a.neg).mul fr)
  | _ => .nan

/-- A finite value multiplied by 2^k. -/
def Num.shift (v : Num) (k : Int) : Num :=
  match v with
  | .fin s n d e => .fin s n d (e + k)
  | v => v

/-- floor of a finite value. -/
def Num.floor : Num → Int
  | .fin neg n d e => sgn neg (n * pow2 e) / (d * pow2 (-e) : Nat)
  | _ => 0

/-- |x| ≥ the integer k. -/
def Num.geAbs (v : Num) (k : Nat) : Bool := !(v.abs.lt (Num.ofInt k))

/-- R244: a table function of the exact value x, rounded once to FP32. -/
def TableFn.eval (f : TableFn) (x : Num) : Num :=
  let r : Num :=
    match f, x with
    | _, .nan => .nan
    | .exp2, .inf s => if s then .zero else .inf false
    | .exp2, x =>
      if !(x.lt (Num.ofInt 128)) then .inf false
      else if x.lt (Num.ofInt (-150)) then .zero
      else
        let n := x.floor
        (f.interp (x.add 0 (Num.ofInt (-n)))).shift n
    | .log2, .inf s => if s then .nan else .inf false
    | .log2, .fin s n d e =>
      if n = 0 then .inf true
      else if s then .nan
      else
        let k := ratLog2 n d
        (f.interp (.fin false n d (-k))).add 0 (Num.ofInt (k + e))
    | .rcp, .inf s => .fin s 0 1 0
    | .rcp, .fin s n d e =>
      if n = 0 then .inf s
      else
        let k := ratLog2 n d
        let m := (f.interp (.fin false n d (-k))).shift (-(k + e))
        if s then m.neg else m
    | .rsqrt, .inf s => if s then .nan else .zero
    | .rsqrt, .fin s n d e =>
      if n = 0 then .inf s
      else if s then .nan
      else
        let t := ratLog2 n d + e
        let k := t / 2
        (f.interp (.fin false n d (e - 2 * k))).shift (-k)
    | .tanh, .inf s => .fin s 1 1 0
    | .tanh, x =>
      if x.geAbs 8 then .fin x.isNeg 1 1 0
      else
        let m := f.interp x.abs
        if x.isNeg then m.neg else m
    | .sigm, .inf s => if s then .zero else Num.ofInt 1
    | .sigm, x =>
      if x.geAbs 16 then (if x.isNeg then .zero else Num.ofInt 1)
      else
        let m := f.interp x.abs
        if x.isNeg && !x.isZero then (Num.ofInt 1).add 0 m.neg else m
    | .gelu, .inf s => if s then .fin true 0 1 0 else .inf false
    | .gelu, x =>
      if x.geAbs 8 then (if x.isNeg then .fin true 0 1 0 else x)
      else x.mul (f.interp x)
    | .silu, .inf s => if s then .fin true 0 1 0 else .inf false
    | .silu, x =>
      if x.geAbs 16 then (if x.isNeg then .fin true 0 1 0 else x)
      else
        let m := f.interp x.abs
        x.mul (if x.isNeg && !x.isZero then (Num.ofInt 1).add 0 m.neg else m)
  match r with
  | .fin s n d e => if n = 0 then .fin s 0 1 0 else roundTo 9 0 (.fin s n d e)
  | r => r

/-- R256: one mixing step of the draw generator. -/
def gumbMix (z : BitVec 64) : BitVec 64 :=
  let a := (z ^^^ (z >>> 29)) * 0x8F3A61C5B2D74E19#64
  (a ^^^ (a >>> 32)) * 0x5B1EC93D0A7F62B3#64

/-- R256: the 23 random bits r of the key row k0 … k3 and the dimension-0 index j. -/
def gumbBits (k0 k1 k2 k3 : Word) (j : Nat) : Nat :=
  let c : Word := k3 + BitVec.ofNat 32 j
  let z := (k1 ++ k0 : BitVec 64) ^^^ (k2 ++ c : BitVec 64)
  let z := gumbMix (gumbMix z)
  let z := z ^^^ (z >>> 29)
  (z >>> 41).toNat

/-- R256: w = −log2(u) for u = (2r + 1) × 2⁻²⁴, correctly rounded to FP32. -/
def gumbW (r : Nat) : Num :=
  let n := 2 * r + 1
  let k := Nat.log2 n
  let l : Int := fxDiv (fxLn n (2 ^ k)) fxLn2 + ((k : Int) - 24) * fxOne
  f32 (toF32 (fxNum (-l)))

/-- R256: g = −LOG2(w). -/
def gumbG (k0 k1 k2 k3 : Word) (j : Nat) : Num :=
  (TableFn.log2.eval (gumbW (gumbBits k0 k1 k2 k3 j))).neg

end Sys2Proof.Machine
end

