-- ==== Sys2Proof/Machine/Vector.lean ====
section
/-! DEFINITION. The vector stream engine (chapter 08): chain operations, reductions, top-k, quantisation, and
what an instruction does in each tread after its start. -/

namespace Sys2Proof.Machine

/-- 1 in a chain format. -/
def chainOne (cf : Nat) : Num := if cf = 5 then Num.ofInt 1 else .dyadic false 1 0
/-- Wraps an integer to a 32-bit pattern (R240). -/
def wrap32 (i : Int) : Nat := (i % 4294967296).toNat
/-- A 32-bit pattern as a signed integer. -/
def s32 (b : Nat) : Int := signedOf 32 b
/-- A truth value in a chain (R240). -/
def chainBool (cf : Nat) (b : Bool) : Num := if b then chainOne cf else .zero

/-- R240: the lesser or greater of two values; NaN if either is NaN. -/
def numMin (a b : Num) : Num := if a == .nan || b == .nan then .nan else if b.below a then b else a
/-- R240: the greater of two values. -/
def numMax (a b : Num) : Num := if a == .nan || b == .nan then .nan else if a.below b then b else a
/-- R240: non-zero unless ±0; a NaN is non-zero. -/
def Num.nonZero (v : Num) : Bool := !v.isZero

/-- R239: the table function of an opcode. -/
def tableOf : Nat → Option TableFn
  | 16 => some .exp2 | 17 => some .log2 | 18 => some .rcp | 19 => some .rsqrt | 20 => some .tanh
  | 21 => some .sigm | 22 => some .gelu | 23 => some .silu | _ => none

/-- R239, R240: one operation of an INT32 chain on 32-bit patterns. -/
def intOp (op v x y : Nat) : Nat :=
  match op with
  | 0 => wrap32 (s32 v + s32 x)
  | 1 => wrap32 (s32 v - s32 x)
  | 2 => wrap32 (s32 x - s32 v)
  | 3 => wrap32 (s32 v * s32 x)
  | 4 => wrap32 (s32 v * s32 x + s32 y)
  | 5 => if s32 x < s32 v then x else v
  | 6 => if s32 v < s32 x then x else v
  | 7 => wrap32 (s32 v).natAbs
  | 8 => wrap32 (-(s32 v))
  | 9 => if v = x then 1 else 0
  | 10 => if s32 v < s32 x then 1 else 0
  | 11 => if s32 v ≤ s32 x then 1 else 0
  | 12 => if v ≠ 0 then x else y
  | 24 => v &&& x
  | 25 => v ||| x
  | 26 => v ^^^ x
  | _ => v

/-- R239, R240: the exact result of one operation of a float chain; ROT and GUMB aside. -/
def floatOp (rm op : Nat) (v x y : Num) : Num :=
  match op with
  | 0 => v.add rm x
  | 1 => v.add rm x.neg
  | 2 => x.add rm v.neg
  | 3 => v.mul x
  | 4 => (v.mul x).add rm y
  | 5 => numMin v x
  | 6 => numMax v x
  | 7 => v.abs
  | 8 => v.neg
  | 9 => chainBool 0 (v.eqv x)
  | 10 => chainBool 0 (v.lt x)
  | 11 => chainBool 0 (v.lt x || v.eqv x)
  | 12 => if v.nonZero then x else y
  | op => match tableOf op with
    | some f => f.eval v
    | none => v

/-- One lane of a beat: its dimension-0 index, the running value (exact, before its rounding), and the
values of B and C in the chain format. -/
structure Lane where
  i0 : Nat
  v  : Num
  b  : Num
  c  : Num
  poi : Bool
  bpoi : Bool
  cpoi : Bool

/-- The key row of GUMB (R256). -/
structure KeyRow where
  k0 : Word
  k1 : Word
  k2 : Word
  k3 : Word
  poi : Bool

/-- R233: the value of an operand code for a lane. -/
def Lane.opnd (l : Lane) (k : Num) (code : Nat) : Num :=
  if code = 0 then l.v else if code = 1 then l.b else if code = 2 then l.c else k
/-- Whether an operand code's value is poisoned for a lane. -/
def Lane.opPoi (l : Lane) (code : Nat) : Bool :=
  if code = 0 then l.poi else if code = 1 then l.bpoi else if code = 2 then l.cpoi else false

/-- The value of 32-bit patterns of an INT32 chain. -/
def Num.toPat (v : Num) : Nat := encodeFmt 12 1 v

/-- R242: the partner lane of a rotation. -/
def pairOf (ls : List Lane) (i0 : Nat) : Option Lane := ls.find? (fun l => l.i0 == i0)

/-- R239–R242, R256: one operation slot applied to every lane; `v` holds exact results. -/
def chainStep (cf rm : Nat) (k : Num) (key : Nat → Option KeyRow) (slot : Nat) (ls : List Lane) : List Lane :=
  let op := slot % 64
  let xc := (slot / 64) % 4
  let yc := (slot / 256) % 4
  let ar := (vecOpArity op).getD 0
  ls.map (fun l =>
    let poi := l.poi || (decide (1 ≤ ar) && l.opPoi xc) || (decide (2 ≤ ar) && l.opPoi yc)
    if op = 13 then
      match pairOf ls (l.i0 - l.i0 % 2), pairOf ls (l.i0 - l.i0 % 2 + 1) with
      | some a, some b =>
        let c := a.opnd k xc
        let s := a.opnd k yc
        let r := if l.i0 % 2 = 0 then (a.v.mul c).add rm ((b.v.mul s).neg) else (a.v.mul s).add rm (b.v.mul c)
        { l with v := r, poi := a.poi || b.poi || a.opPoi xc || a.opPoi yc }
      | _, _ => l
    else if op = 14 then
      match key xc with
      | some q => { l with v := f32 (toF32 (l.v.add 0 (gumbG q.k0 q.k1 q.k2 q.k3 l.i0))), poi := l.poi || q.poi }
      | none => l
    else if cf = 5 then
      { l with v := Num.ofInt (s32 (intOp op l.v.toPat (l.opnd k xc).toPat (l.opnd k yc).toPat)), poi := poi }
    else { l with v := floatOp rm op l.v (l.opnd k xc) (l.opnd k yc), poi := poi })

/-- Rounds every lane to the chain format (R241). -/
def roundLanes (cf rm : Nat) (ls : List Lane) : List Lane :=
  ls.map (fun l => { l with v := roundTo (chainFmt cf) rm l.v })

/-- R241: the chain: every result but the last is rounded to CF; the last is left exact. -/
def chainRun (cf rm : Nat) (k : Num) (key : Nat → Option KeyRow) : List Nat → List Lane → List Lane
  | [], ls => ls
  | [s], ls => chainStep cf rm k key s ls
  | s :: r, ls => chainRun cf rm k key r (roundLanes cf rm (chainStep cf rm k key s ls))

/-- R238: a source value converted to the chain format. -/
def toChain (cf rm fmt bits : Nat) (scale : Num) : Num :=
  if cf = 5 ∧ (fmt = 11 ∨ fmt = 12) then Num.ofInt (s32 bits)
  else roundTo (chainFmt cf) rm ((decodeFmt fmt bits).mul scale)

/-! ### Reductions -/

/-- R249: one level of the balanced tree: pairs positions (0, 1), (2, 3) and so on. -/
def pairUp (f : Elem → Elem → Elem) : List (Option Elem) → List (Option Elem)
  | a :: b :: l =>
    (match a, b with
      | some x, some y => some (f x y)
      | some x, none => some x
      | none, y => y) :: pairUp f l
  | l => l
/-- R249: the tree over the lane positions of a beat, `n` levels. -/
def treeSum (f : Elem → Elem → Elem) : Nat → List (Option Elem) → Option Elem
  | 0, l => (l.head?).join
  | n + 1, l => treeSum f n (pairUp f l)

/-- The addition of a reduction: binary32, or wrapping INT32. -/
def redAdd (cf : Nat) (a b : Elem) : Elem :=
  if cf = 5 then ⟨wrap32 (s32 a.bits + s32 b.bits), a.poi || b.poi⟩ else benchAdd a b
/-- R249: the entry of a chain value into SUM or SUMSQ. -/
def redEntry (cf rop : Nat) (v : Num) (poi : Bool) : Elem :=
  if cf = 5 then
    let p := v.toPat
    ⟨if rop = 1 then wrap32 (s32 p * s32 p) else p, poi⟩
  else
    let f := roundTo 9 0 v
    ⟨if rop = 1 then toF32 (f.mul f) else toF32 f, poi⟩

/-- R250: whether `a` orders above `b` for maxima (NaN above +∞, −0 below +0). -/
def aboveMax (a b : Num) : Bool :=
  if b == .nan then false else if a == .nan then true else b.below a
/-- R250: whether `a` orders below `b` for minima (NaN below −∞). -/
def belowMin (a b : Num) : Bool :=
  if b == .nan then false else if a == .nan then true else a.below b

/-- R250: the first extreme of a list of (index, value). -/
def firstExtreme (better : Num → Num → Bool) : List (Nat × Num) → Option (Nat × Num)
  | [] => none
  | x :: l =>
    match firstExtreme better l with
    | none => some x
    | some y => if better y.2 x.2 then some y else some x

/-- R250: the leading non-zero values. -/
def leadCount : List Num → Nat
  | [] => 0
  | v :: l => if v.nonZero then 1 + leadCount l else 0

/-- R249: the sum of a row's entries: each beat a balanced tree, the beats added in order. -/
def rowSum (cf e : Nat) (l : List Elem) : Nat → Option Elem → Elem
  | 0, acc => acc.getD .zero
  | n + 1, acc =>
    if l.length ≤ 0 then acc.getD .zero else
    let beat := (List.range e).map (fun i => l[i]?)
    let s := treeSum (redAdd cf) 6 beat
    let acc' := match acc, s with
      | some a, some x => some (redAdd cf a x)
      | none, x => x
      | a, none => a
    rowSum cf e (l.drop e) n acc'

/-- The bits of an extreme value as a reduction result: FP32, or INT32 in an INT32 chain. -/
def extremeBits (cf : Nat) (v : Num) : Nat := if cf = 5 then v.toPat else toF32 v

/-- R251: what one row contributes: value bits, index within the row, whether every element is non-zero. -/
structure RowRed where
  val : Nat
  idx : Nat
  all : Bool
  poi : Bool
  deriving DecidableEq, Repr

/-- R249–R251: the reduction of one row's chain values. -/
def reduceRow (cf e rop : Nat) (l : List (Num × Bool)) : RowRed :=
  let poi := l.any (·.2)
  let vs := l.map (·.1)
  let all := vs.all (·.nonZero)
  let pairs := (List.range vs.length).zip vs
  match rop with
  | 0 => ⟨(rowSum cf e (l.map (fun x => redEntry cf 0 x.1 x.2)) (l.length + 1) none).bits, 0, all, poi⟩
  | 1 => ⟨(rowSum cf e (l.map (fun x => redEntry cf 1 x.1 x.2)) (l.length + 1) none).bits, 0, all, poi⟩
  | 6 => ⟨leadCount vs, 0, all, poi⟩
  | 7 => ⟨(vs.filter (·.nonZero)).length, 0, all, poi⟩
  | rop =>
    let r := firstExtreme (if rop = 2 ∨ rop = 4 then aboveMax else belowMin) pairs
    match r with
    | some (i, v) => ⟨extremeBits cf v, i, all, poi⟩
    | none => ⟨0, 0, all, poi⟩

/-- The format of a row result or scalar result (R251). -/
def redFmt (cf rop : Nat) : Nat := if 4 ≤ rop then 11 else if cf = 5 then 12 else 9

/-- R253: the k largest of a row with their indices, ties to the lower index. -/
def topK : Nat → List (Nat × Num) → List (Nat × Num)
  | 0, _ => []
  | k + 1, l =>
    match firstExtreme aboveMax l with
    | none => []
    | some x => x :: topK k (l.filter (fun y => y.1 != x.1))

/-! ### One tread -/

/-- Keys: a resident element, a streamed lane, and a row's chain value. -/
def kRes (role i : Nat) : Nat := (role + 1) * 65536 + i
/-- Key of a streamed lane of source `role`. -/
def kLane (role lane : Nat) : Nat := role * 64 + lane
/-- Key of the chain value of dimension-0 index i. -/
def kChain (i : Nat) : Nat := 1048576 + i
/-- Key of the row constant of source `role`, or of key word w. -/
def kRow (role w : Nat) : Nat := 524288 + role * 8 + w

/-- The indices of dimension-0 index i0 in row r of the iteration space. -/
def rowIdx (a : Desc) (i0 r : Nat) : List Nat := i0 :: unflatten [a.size 1, a.size 2, a.size 3, a.size 4] r

/-- The value of an operand's indirect dimension in the current row. -/
def rowV (run : Run) (l : Latched) (role : Nat) : Nat := if l.desc.idim ≤ 4 then Tbl.get 0 run.idx role else 0

/-- Adds a read to a tread's accesses and captures its value. -/
def capRead (o : StepOut) (key : Nat) (r : ERd) : StepOut :=
  { o with accs := o.accs ++ r.accs, faults := o.faults ++ r.fs.map (fun x => (3, x)),
           run := { o.run with cap := Tbl.set .zero o.run.cap key r.e } }

/-- R235, R245: the windows that a resident source occupies. -/
def residentWindows (e : QEntry) (role : Nat) : Nat :=
  if srcClass e.d.op e.d.hdr e.d.param e.ops role == some .resident then
    match findOp e.ops 1, srcOp e.d.op e.ops role with
    | some a, some l => windowsOf a.desc l.desc
    | _, _ => 0
  else 0

/-- R229: window w takes new words: those that an upset strikes in the same tread fail their parity, no others. -/
def Run.freshWindow (r : Run) (us : List Upset) (w : Nat) : Run :=
  { r with par := r.par.filter (fun q => q.1 != w || us.any (fun u => match u with
      | .windowParity _ x i => x.val == w && i.val == q.2
      | _ => false)) }

/-- R246: the resident load of window w (from 0) of the preamble. -/
def vecResident (t : Tile) (us : List Upset) (e : QEntry) (w : Nat) (o : StepOut) : StepOut :=
  let op := e.d.op
  let win (role : Nat) : Nat := residentWindows e role
  let o := { o with run := o.run.freshWindow us (16 + w) }
  let role := if w < win 2 then 2 else 3
  let k := if w < win 2 then w else w - win 2
  match srcOp op e.ops role with
  | none => o
  | some l =>
    let per := 512 / l.desc.width
    ((List.range per).filter (fun i => k * per + i < l.desc.size 0)).foldl (fun o i =>
      capRead o (kRes role (k * per + i)) (t.readElem l e.d.pc agVecRead [k * per + i, 0, 0, 0, 0] 0)) o

/-- R246: the row tread: row constants, keys and index elements. -/
def vecRowTread (t : Tile) (e : QEntry) (a : Desc) (r : Nat) (o : StepOut) : StepOut :=
  let pc := e.d.pc
  let o := e.ops.foldl (fun o l =>
    if l.desc.idim ≤ 4 then
      let x := t.readIndex l pc agVecSide ((rowIdx a 0 r).getD l.desc.idim 0)
      { o with accs := o.accs ++ x.accs, faults := o.faults ++ x.fs.map (fun y => (3, y)),
               run := { o.run with idx := Tbl.set 0 o.run.idx l.role x.e.bits } }
    else o) o
  [2, 3].foldl (fun o role =>
    match srcOp e.d.op e.ops role, srcClass e.d.op e.d.hdr e.d.param e.ops role with
    | some l, some .rowConst =>
      capRead o (kRow role 0) (t.readElem l pc agVecSide (rowIdx a 0 r) (rowV o.run l role))
    | some l, some .key =>
      (List.range 4).foldl (fun o w =>
        capRead o (kRow role w) (t.readElem l pc agVecSide (rowIdx a w r) (rowV o.run l role))) o
    | _, _ => o) o

/-- The streamed source of a handle role. -/
def streamedOp (e : QEntry) (role : Nat) : Option Latched :=
  if role = 1 then findOp e.ops 1
  else if srcClass e.d.op e.d.hdr e.d.param e.ops role == some .streamed then srcOp e.d.op e.ops role else none

/-- Where the bytes of a streamed source begin among those of a beat. -/
def streamBase (e : QEntry) (role : Nat) : Nat :=
  let bytes (role : Nat) : Nat := ((streamedOp e role).map (fun l => lanes (vCF e.d.hdr) * l.desc.width / 8)).getD 0
  if role = 1 then 0 else if role = 2 then bytes 1 else bytes 1 + bytes 2

/-- R246: the reads of tread k of a beat: the bytes 64k to 64k + 63 of the beat's streamed sources laid end
to end, and the block scales in the beat's first read tread. They are staged in window k (DESIGN CHOICE, log entry 86). -/
def vecBeatReads (t : Tile) (us : List Upset) (e : QEntry) (a : Desc) (r beat k : Nat) (o : StepOut) : StepOut :=
  let lanesN := lanes (vCF e.d.hdr)
  let streamed := streamedOp e
  let base := streamBase e
  let o := { o with run := o.run.freshWindow us k }
  [1, 2, 3].foldl (fun o role =>
    match streamed role with
    | none => o
    | some l =>
      (List.range lanesN).foldl (fun o lane =>
        let i0 := beat * lanesN + lane
        if a.size 0 ≤ i0 then o
        else
          let v := rowV o.run l role
          let o := if (base role + lane * l.desc.width / 8) / 64 = k then
              capRead o (kLane role lane) (t.readElem l e.d.pc agVecRead (rowIdx a i0 r) v)
            else o
          if fmtScaled l.desc.fmt ∧ k = 0 ∧ i0 % 32 = 0 then
            let x := t.readScale l e.d.pc agVecSide (rowIdx a i0 r) v
            { o with accs := o.accs ++ x.accs, faults := o.faults ++ x.fs.map (fun y => (3, y)),
                     run := { o.run with sc := Tbl.set .zero o.run.sc (role * 512 + i0 / 32) x.e } }
          else o) o) o

/-- The lanes of a beat with their values converted to the chain format. -/
def vecLanes (e : QEntry) (a : Desc) (beat : Nat) (run : Run) : List Lane :=
  let cf := vCF e.d.hdr
  let rm := vRM e.d.hdr
  let n := lanes cf
  let src (role i0 lane : Nat) : Num × Bool :=
    match srcOp e.d.op e.ops role with
    | none => (.zero, false)
    | some l =>
      let f := l.desc.fmt
      match (if role = 1 then some VClass.streamed else srcClass e.d.op e.d.hdr e.d.param e.ops role) with
      | some .resident =>
        let x := Tbl.get .zero run.cap (kRes role i0)
        (toChain cf rm f x.bits (.dyadic false 1 0), x.poi)
      | some .rowConst =>
        let x := Tbl.get .zero run.cap (kRow role 0)
        (toChain cf rm f x.bits (.dyadic false 1 0), x.poi)
      | some .streamed =>
        let x := Tbl.get .zero run.cap (kLane role lane)
        let s := Tbl.get .zero run.sc (role * 512 + i0 / 32)
        (toChain cf rm f x.bits (scaleNum f s), x.poi || (fmtScaled f && s.poi))
      | _ => (.zero, false)
  ((List.range n).filter (fun l => beat * n + l < a.size 0)).map (fun l =>
    let i0 := beat * n + l
    let va := src 1 i0 l
    let vb := src 2 i0 l
    let vc := src 3 i0 l
    ⟨i0, va.1, vb.1, vc.1, va.2, vb.2, vc.2⟩)

/-- R229, R292: the chain reads the windows of a beat: the elements in a word whose parity fails are poisoned, and each such word
gives an origin. -/
def readWindows (e : QEntry) (a : Desc) (beat n : Nat) (run : Run) : Run × List Origin :=
  let ln := lanes (vCF e.d.hdr)
  let ls := (List.range ln).filter (fun l => beat * ln + l < a.size 0)
  let streams : List ((Nat × Nat) × Nat) := [1, 2, 3].flatMap (fun role => match streamedOp e role with
    | some d => ls.map (fun l =>
        let at_ := streamBase e role + l * d.desc.width / 8
        ((at_ / 64, at_ % 64 / 8), kLane role l))
    | none => [])
  let kept : List ((Nat × Nat) × Nat) := [2, 3].flatMap (fun role => match srcOp e.d.op e.ops role with
    | some d => if residentWindows e role = 0 then [] else ls.map (fun l =>
        let i := beat * ln + l
        let per := 512 / d.desc.width
        ((16 + (if role = 3 then residentWindows e 2 else 0) + i / per, i % per * d.desc.width / 64), kRes role i))
    | none => [])
  let hit := (streams ++ kept).filter (fun q => run.par.contains q.1)
  ({ run with par := run.par.filter (fun q => !(hit.any (fun x => x.1 == q)))
              cap := hit.foldl (fun m q => Tbl.set .zero m q.2 { Tbl.get .zero m q.2 with poi := true }) run.cap },
    ((hit.map (·.1)).eraseDups).map (fun q => ⟨0x12, q.1 + 32 * q.2, n⟩))

/-- R259, R260: the vector compare fault of a beat that a fault in one of two copies makes, where the stage forms a value of the
lane in the beat. -/
def vecCompare (e : QEntry) (a : Desc) (vt : VTime) (us : List Upset) (r beat : Nat) : List (Nat × TFault) :=
  let cf := vCF e.d.hdr
  let slots := (List.range (vCN e.d.hdr)).map (vSlot e.d.param)
  let rowEnd := beat + 1 == vt.beta
  let formed (stage : Nat) : Bool := match stage with
    | 4 => slots.any (fun s => (tableOf (s % 64)).isSome)
    | 5 => e.d.op == .vred
    | 6 => e.d.op == .vtopk && rowEnd
    | 7 => e.d.op == .vqnt && (beat + 1) * lanes cf % 32 == 0
    | 8 => slots.any (fun s => s % 64 == 14)
    | i => decide (i < slots.length)
  us.filterMap (fun u => match u with
    | .vectorCopy _ stage lane =>
      if formed stage.val && decide (lane.val < lanes cf) && decide (beat * lanes cf + lane.val < a.size 0) then
        some (3, .mkI 0x51 0 e.d.pc (leBytes 1 stage.val ++ leBytes 4 r ++ leBytes 2 beat ++ leBytes 1 lane.val))
      else none
    | _ => none)

/-- R241: with CN = 0 the exact value of A. -/
def vecDirect (e : QEntry) (a : Desc) (run : Run) (l : Lane) : Num :=
  let x := Tbl.get .zero run.cap (kLane 1 (l.i0 % lanes (vCF e.d.hdr)))
  (decodeFmt a.fmt x.bits).mul (scaleNum a.fmt (Tbl.get .zero run.sc (512 + l.i0 / 32)))

/-- The key row of a GUMB operation that names operand g as X (R256). -/
def vecKey (run : Run) (g : Nat) : Option KeyRow :=
  if g = 0 then none else
    let w (i : Nat) : Elem := Tbl.get .zero run.cap (kRow (g + 1) i)
    some ⟨BitVec.ofNat 32 (w 0).bits, BitVec.ofNat 32 (w 1).bits, BitVec.ofNat 32 (w 2).bits,
      BitVec.ofNat 32 (w 3).bits, (w 0).poi || (w 1).poi || (w 2).poi || (w 3).poi⟩

/-- The constant K in the chain format (R238). -/
def vecK (e : QEntry) : Num :=
  if vCF e.d.hdr = 5 then Num.ofInt (s32 e.d.k.toNat)
  else roundTo (chainFmt (vCF e.d.hdr)) (vRM e.d.hdr) (f32 e.d.k.toNat)

/-- R247: the posted writes of a beat or block whose last read tread is `n`: chunks of 64 bytes in the τ treads ending at `last`,
from the first of them on which comes after n (DESIGN CHOICE, log entry 86: for a τ of 9 or more the first of the τ treads come
before the beat's last read). -/
def vecPosts (ws : List (Nat × MemWr)) (tau last n : Nat) : List (Nat × Post) :=
  (List.range tau).flatMap (fun k =>
    (coalesce ((ws.filter (fun w => w.1 == k)).map (·.2))).map (fun w => (max (last + 1 - tau) (n + 1) + k, Post.mem w)))

/-- R247: elementwise writes of a beat to HD. -/
def vecBeatWrites (e : QEntry) (a : Desc) (r n tau : Nat) (run : Run) (ls : List (Lane × Num)) : List (Nat × Post) × List TFault :=
  match findOp e.ops 0 with
  | none => ([], [])
  | some l =>
    let v := rowV run l 0
    let rs := ls.map (fun q =>
      let lane := q.1.i0 % lanes (vCF e.d.hdr)
      let w := writeElem l e.d.pc agVecWrite none (rowIdx a q.1.i0 r) v
        ⟨encodeFmt l.desc.fmt (vRM e.d.hdr) q.2, q.1.poi⟩
      (w.1.map (fun x => (lane * l.desc.width / 8 / 64, x)), w.2))
    (vecPosts (rs.flatMap (·.1)) tau (n + 8) n, rs.flatMap (·.2))

/-- R129, R142: the write of a block scale through a destination's scale descriptor; outside its bounds, the scale-bounds fault. -/
def writeScale (l : Latched) (pc agent : Nat) (i : List Nat) (v bits : Nat) (poi : Bool) : List MemWr × List TFault :=
  match l.scale.map (fun p => (p.1, Desc.ofWords p.2)) with
  | none => ([], [])
  | some (sh, s) =>
    let i0 := (i.getD 0 0 / 32) :: i.drop 1
    let i' := if l.desc.idim ≤ 4 then i0.set l.desc.idim v else i0
    let empty := match l.idesc with
      | some x => l.desc.emptyIdx x.fmt v
      | none => false
    if empty then ([], []) else
    match s.elem i' 0 with
    | .at a _ =>
      if s.inBounds a s.elemBytes then
        ([⟨agent, s.loc == 1, a.toNat, leBytes s.elemBytes bits, if poi then wordsOf a.toNat s.elemBytes else [], none⟩], [])
      else ([], [.mkI 0x34 0 pc (leBytes 1 l.h ++ leBytes 1 sh ++ scaleIdxBytes i' ++ addrBytes a ++ leBytes 2 s.blo ++
        leBytes 2 s.bhi)])
    | .pad _ => ([], [])

/-- Pairs of nibbles as bytes: the codes of a 4-bit block. -/
def packNibbles : List Nat → List Nat
  | a :: b :: l => (a + 16 * b) :: packNibbles l
  | [a] => [a]
  | [] => []

/-- R255: the block that ends in a beat: codes through HD and the scale through HD's scale descriptor. -/
def vecQuant (e : QEntry) (a : Desc) (r n tau blk : Nat) (run : Run) : List (Nat × Post) × List TFault :=
  match findOp e.ops 0 with
  | none => ([], [])
  | some l =>
    let d := l.desc
    let v := rowV run l 0
    let xs := (List.range 32).map (fun i => Tbl.get .zero run.cap (kChain (32 * blk + i)))
    let q := quantBlock d.fmt (vRM e.d.hdr) (xs.map (fun x => decodeFmt (chainFmt (vCF e.d.hdr)) x.bits))
    let poi := xs.any (·.poi)
    let bytes := if d.width = 4 then packNibbles q.2 else q.2
    let empty := match l.idesc with
      | some x => d.emptyIdx x.fmt v
      | none => false
    if empty then ([], []) else
    match d.elem (rowIdx a (32 * blk) r) v with
    | .pad _ => ([], [])
    | .at ad _ =>
      if d.inBounds ad bytes.length then
        let w : MemWr := ⟨agVecWrite, d.loc == 1, ad.toNat, bytes.map (BitVec.ofNat 8),
          if poi then wordsOf ad.toNat bytes.length else [], none⟩
        let sc := writeScale l e.d.pc agVecWrite (rowIdx a (32 * blk) r) v q.1 poi
        (vecPosts ((w :: sc.1).map (fun x => (0, x))) tau (n + 10) n, sc.2)
      else ([], [.mkI 0x32 0 e.d.pc (leBytes 1 l.h ++ idxBytes (rowIdx a (32 * blk) r) ++ leBytes 4 v ++
        addrBytes ad ++ leBytes 2 d.blo ++ leBytes 2 d.bhi)])

/-- The chain values of a row with their poison. -/
def vecRowVals (e : QEntry) (a : Desc) (run : Run) : List (Num × Bool) :=
  (List.range (a.size 0)).map (fun i =>
    let x := Tbl.get .zero run.cap (kChain i)
    (if vCF e.d.hdr = 5 then Num.ofInt (s32 x.bits) else decodeFmt (chainFmt (vCF e.d.hdr)) x.bits, x.poi))

/-- R252: the whole-tensor result so far: value, flattened index, and in `all` whether every element so far
is non-zero. -/
def combineRows (cf rop : Nat) (len r : Nat) (t : Option RowRed) (x : RowRed) : RowRed :=
  let flat := { x with idx := r * len + x.idx }
  match t with
  | none => flat
  | some t =>
    let poi := t.poi || x.poi
    let all := t.all && x.all
    let num (b : Nat) : Num := if cf = 5 then Num.ofInt (s32 b) else f32 b
    match rop with
    | 0 => ⟨(redAdd cf ⟨t.val, false⟩ ⟨x.val, false⟩).bits, 0, all, poi⟩
    | 1 => ⟨(redAdd cf ⟨t.val, false⟩ ⟨x.val, false⟩).bits, 0, all, poi⟩
    | 6 => ⟨if t.all then t.val + x.val else t.val, 0, all, poi⟩
    | 7 => ⟨(t.val + x.val) % 4294967296, 0, all, poi⟩
    | rop =>
      let better := if rop = 2 ∨ rop = 4 then aboveMax (num x.val) (num t.val) else belowMin (num x.val) (num t.val)
      if better then { flat with all := all, poi := poi } else { t with all := all, poi := poi }

/-- The total kept in a run: four elements (value, index, all, present). -/
def runTotal (run : Run) : Option RowRed :=
  match run.acc with
  | [v, i, a, _] => some ⟨v.bits, i.bits, a.bits == 1, v.poi⟩
  | _ => none
/-- Keeps a total in a run. -/
def setTotal (run : Run) (t : RowRed) : Run :=
  { run with acc := [⟨t.val, t.poi⟩, ⟨t.idx, false⟩, ⟨if t.all then 1 else 0, false⟩, .zero] }

/-- R247–R252: the end of a row of a VRED in read tread n. -/
def vredRow (e : QEntry) (a : Desc) (r n : Nat) (last : Bool) (o : StepOut) : StepOut :=
  let cf := vCF e.d.hdr
  let rop := vROP e.d.param
  let x := reduceRow cf (lanes cf) rop (vecRowVals e a o.run)
  let ib := e.d.ib.toNat
  let rowBits := if rop = 4 ∨ rop = 5 then (ib + x.idx) % 4294967296 else x.val
  let o := match findOp e.ops 3 with
    | none => o
    | some l =>
      let w := writeElem l e.d.pc agVecWrite none (rowIdx a 0 r) (rowV o.run l 3)
        ⟨encodeFmt l.desc.fmt (vRM e.d.hdr) (decodeFmt (redFmt cf rop) rowBits), x.poi⟩
      { o with faults := o.faults ++ w.2.map (fun f => (3, f))
               run := { o.run with post := o.run.post ++ w.1.map (fun m => (n + 12, Post.mem m)) } }
  let tot := combineRows cf rop (a.size 0) r (runTotal o.run) x
  let o := { o with run := setTotal o.run tot }
  if last && vSW e.d.hdr then
    let rd := vRD e.d.param
    let ps := if rop = 4 ∨ rop = 5 then
        [Post.reg rd ⟨(ib + tot.idx) % 4294967296, tot.poi⟩, Post.reg (rd + 1) ⟨tot.val, tot.poi⟩]
      else [Post.reg rd ⟨tot.val, tot.poi⟩]
    { o with run := { o.run with post := o.run.post ++ ps.map (fun p => (n + 13, p)) } }
  else o

/-- R247, R253: the end of a row of a VTOPK in read tread n. -/
def vtopkRow (e : QEntry) (a : Desc) (r n : Nat) (o : StepOut) : StepOut :=
  let cf := vCF e.d.hdr
  let k := vTop e.d.param
  let vals := vecRowVals e a o.run
  let poi := vals.any (·.2)
  let best := topK k ((List.range vals.length).zip (vals.map (·.1)))
  let fill : Num := if cf = 5 then Num.ofInt (-2147483648) else .inf true
  let ent (i : Nat) : Nat × Num := best.getD i (0xFFFFFFFF, fill)
  let write (role : Nat) (bits : Latched → Nat → Nat) (tread : Nat) (o : StepOut) : StepOut :=
    match findOp e.ops role with
    | none => o
    | some l =>
      let ws : List (List MemWr × List TFault) := (List.range k).map (fun i =>
        writeElem l e.d.pc agVecWrite none (rowIdx a i r) (rowV o.run l role) ⟨bits l i, poi⟩)
      { o with faults := o.faults ++ (ws.flatMap Prod.snd).map (fun f => (3, f))
               run := { o.run with post := o.run.post ++
                 (coalesce (ws.flatMap Prod.fst)).map (fun m => (tread, Post.mem m)) } }
  let o := write 0 (fun l i => encodeFmt l.desc.fmt (vRM e.d.hdr) (ent i).2) (n + 12) o
  write 3 (fun _ i => if best.length ≤ i then 0xFFFFFFFF else (e.d.ib.toNat + (ent i).1) % 4294967296) (n + 13) o

/-- R238–R247: the last read tread n of a beat, in which the chain reads the staged words (DESIGN CHOICE, log entry 102: R229 and
R246 give no tread), and what follows from it. -/
def vecBeatEnd (e : QEntry) (a : Desc) (vt : VTime) (us : List Upset) (r beat n : Nat) (o : StepOut) : StepOut :=
  let win := readWindows e a beat n o.run
  let o := { o with run := win.1, origins := o.origins ++ win.2, faults := o.faults ++ vecCompare e a vt us r beat }
  let cf := vCF e.d.hdr
  let rm := vRM e.d.hdr
  let cn := vCN e.d.hdr
  let slots := (List.range cn).map (vSlot e.d.param)
  let ls := chainRun cf rm (vecK e) (vecKey o.run) slots (vecLanes e a beat o.run)
  let exact := ls.map (fun l => (l, if cn = 0 then vecDirect e a o.run l else l.v))
  let o := if e.d.op == .vmap || e.d.op == .vred then
      let w := vecBeatWrites e a r n vt.tau o.run exact
      { o with faults := o.faults ++ w.2.map (fun f => (3, f))
               run := { o.run with post := o.run.post ++ w.1 } }
    else o
  -- what a reduction, top-k or quantiser sees is rounded to CF
  let o := { o with run := { o.run with cap := ls.foldl (fun m l =>
    Tbl.set .zero m (kChain l.i0) ⟨if cf = 5 then l.v.toPat else encodeFmt (chainFmt cf) rm l.v, l.poi⟩) o.run.cap } }
  let rowEnd := beat + 1 == vt.beta
  match e.d.op with
  | .vred => if rowEnd then vredRow e a r n (r + 1 == vt.rows) o else o
  | .vtopk => if rowEnd then vtopkRow e a r n o else o
  | .vqnt =>
    let last := (beat + 1) * lanes cf
    if last % 32 = 0 then
      let q := vecQuant e a r n vt.tau (last / 32 - 1) o.run
      { o with faults := o.faults ++ q.2.map (fun f => (3, f)), run := { o.run with post := o.run.post ++ q.1 } }
    else o
  | _ => o

/-- The vector stream engine in tread n, at offset x from the start tread of its instruction. -/
def vecStep (t : Tile) (us : List Upset) (e : QEntry) (x n : Nat) : StepOut :=
  match findOp e.ops 1 with
  | none => StepOut.idle e.run
  | some la =>
    let a := la.desc
    let vt := vecTime e.d.op e.d.hdr e.d.param e.ops
    let due : List Post := (e.run.post.filter (fun p => p.1 == n)).map (·.2)
    let o := { StepOut.idle { e.run with post := e.run.post.filter (fun p => p.1 != n) } with
      posts := due.filter (fun p => match p with
        | .mem _ => false
        | _ => true)
      writes := due.filterMap (fun p => match p with
        | .mem w => some w
        | _ => none) }
    if x = 0 then o
    else if x ≤ vt.pre then vecResident t us e (x - 1) o
    else if vt.t0 < x then o
    else
      let y := x - 1 - vt.pre
      let r := y / vt.row
      let z := y % vt.row
      if z < vt.rho then vecRowTread t e a r o
      else
        let b := (z - vt.rho) / vt.tau
        let k := (z - vt.rho) % vt.tau
        let o := vecBeatReads t us e a r b k o
        if k + 1 = vt.tau then vecBeatEnd e a vt us r b n o else o

end Sys2Proof.Machine
end

