-- ==== Sys2Proof/Machine/Tread.lean ====
section
/-! DEFINITION. One tread of one tile (R86): flag sets, waits and starts, reads with their checks, writes, and
queue entries; holds against the tags and flags before the tread; abort of a tile. -/

namespace Sys2Proof

/-- The tile of an upset that names one. -/
def Upset.tile : Upset → Option Nat
  | .pressLogic t _ _ _ _ | .drawLogic t _ _ _ | .vectorCopy t _ _ => some t.val
  | .pressWeight t _ _ _ _ _ | .pressLatch t _ _ _ | .drawLatch t _ _ _ => some t.val
  | .slotRegister t _ | .windowParity t _ _ | .queueWord t _ _ => some t.val
  | .lockstep t _ | .seqRegister t _ _ _ | .routeCompare t | .generation t _ _ _ => some t.val
  | .programStore t _ _ _ | .routeStore t _ | .atticBits t _ _ | .cellarBits t _ _ => some t.val
  | .benchBits t _ _ _ | .drawBenchBits t _ _ _ | .slotBits t _ _ _ => some t.val
  | .meshParity t _ _ | .hatchSlip t _ _ | .serviceFlit t _ _ _ _ => some t.val
  | .syncWire _ _ _ _ | .treadCounter | .governor _ _ | .dieBuffer _ _ _ => none

end Sys2Proof

namespace Sys2Proof.Machine

/-- R36, R107, R111, R222, R319, R348: abort of a tile's program: queues, engines and delayed effects end,
their pending marks and register bits clear, slots are no longer valid, the stream table and deferral store
empty, and the router drives void words from the next tread. -/
def Tile.abort (t : Tile) : Tile :=
  if t.phase == .idle || t.phase == .aborted then t else
  let es := [0, 1, 2, 3].flatMap t.queue
  let t := es.foldl (fun t e => (destRanges e.d.op e.ops).foldl (fun t r => t.unmarkRange r.1 r.2) t) t
  let pend := es.foldl (fun p e => (writtenRegs e.d).foldl (fun p r => setBit p r false) p) t.lead.pend
  { t with phase := .aborted, queues := [], fx := [], consume := 0, held := [], arrivals := []
           past := [], begun := none, lead := { t.lead with pend := pend }, slotValid := 0, streams := [], deferred := []
           rseq := { t.rseq with step := none, left := 0, stopped := true }, halted := true }

/-- The delayed effects due in tread n that satisfy `p`, and the tile without them. -/
def Tile.dueFx (t : Tile) (n : Nat) (p : Fx → Bool) : List Fx := (t.fx.filter (fun x => decide (x.1 ≤ n) && p x.2)).map (·.2)
/-- The tile without the delayed effects due in tread n that satisfy `p`. -/
def Tile.dropFx (t : Tile) (n : Nat) (p : Fx → Bool) : Tile :=
  { t with fx := t.fx.filter (fun x => !(decide (x.1 ≤ n) && p x.2)) }

/-- Flag sets by SETF. -/
def Fx.isSet : Fx → Bool
  | .setf _ _ => true
  | _ => false
/-- Flag clears by CLRF. -/
def Fx.isClr : Fx → Bool
  | .clrf _ => true
  | _ => false

/-- R220: the slot assignments and voids delivered since the previous tread, in their order. -/
def Tile.takeSlots (t : Tile) : Tile :=
  let t := t.slotEvs.foldl (fun t (p : Nat × Option Byte) => match p.2 with
    | some g => { t with genE := Tbl.set 0 t.genE p.1 g.toNat, genG := Tbl.set 0 t.genG p.1 g.toNat }
    | none => { t with genG := Tbl.set 0 t.genG p.1 ((Tbl.get 0 t.genG p.1 + 1) % 256) }) t
  { t with slotEvs := [] }

/-- R106: the queues whose head completes in tread n. -/
def Tile.completing (t : Tile) (n : Nat) : List Nat :=
  [0, 1, 2, 3].filter (fun q => match t.queue q with
    | e :: _ => e.dueDone n
    | [] => false)

/-- The flags that the heads of queues set as they complete. -/
def Tile.doneFlags (t : Tile) (qs : List Nat) : List FlagSet :=
  qs.filterMap (fun q => match t.queue q with
    | e :: _ => if e.d.hdr.den then some ⟨e.d.hdr.df.toNat, q, some e.d.pc⟩ else none
    | [] => none)

/-- R86 phase 1, R106, R113, R114, R220: flag sets, completions and slot deliveries take effect. -/
def Tile.phase1 (t : Tile) (n : Nat) : Tile × List TFault :=
  let qs := t.completing n
  let sets := t.doneFlags qs ++
    (t.dueFx n Fx.isSet).filterMap (fun f => match f with
      | .setf f pc => some ⟨f, 4, some pc⟩
      | _ => none) ++ t.arrivals.map (fun f => ⟨f.toNat, 5, none⟩)
  let t := qs.foldl Tile.retire t
  let t := ({ t with arrivals := [] }.dropFx n Fx.isSet).takeSlots
  let (t, f) := t.applySets sets
  (t, f.toList)

/-- R106, R115: the start of queue q's head in tread n, on the flags of phase 1. R292: its queue word is read then, and delivered
poisoned where its parity fails. -/
def Tile.startQ (t : Tile) (n q : Nat) : Tile × Option TFault × Bool :=
  match t.queue q with
  | [] => (t, none, false)
  | e :: l =>
    if !(e.dueStart n) then (t, none, false)
    else
      let go (t : Tile) : Tile :=
        let t := t.setQueue q ({ e with start := some n, bad := false, poi := e.bad } :: l)
        if e.bad then t.addOrigin ⟨0x14, q, n⟩ else t
      if e.d.hdr.wen then
        let f := e.d.hdr.wf.toNat
        match t.waitOn f with
        | .holds => (t, none, true)
        | .early => (t, some (earlyWait t f q e.d.pc), false)
        | .proceeds =>
          match t.heldPoison f e.d.pc with
          | some x => (t, some x, false)
          | none => (go (t.proceed n f e.d.hdr.wkeep), none, false)
      else (go t, none, false)

/-- A tile on other flag values. -/
def Tile.withFlags (t : Tile) (fl : BitVec 16) : Tile := { t with lead := { t.lead with flags := fl } }

/-- R86, R115: the start of queue q's head by itself, on the flags that phase 1 of tread n leaves. -/
def Tile.startRow (t : Tile) (n q : Nat) : Tile × Option TFault :=
  let x := (t.withFlags (t.phase1 n).1.lead.flags).startQ n q
  (x.1.withFlags t.lead.flags, x.2.1)

/-- The instruction due at a queue's head. -/
def Tile.headFlag (t : Tile) (q : Nat) : Nat :=
  match t.queue q with
  | e :: _ => e.d.hdr.wf.toNat
  | [] => 0

/-- R86 phase 2: the starts of all queues. -/
def Tile.starts (t : Tile) (n : Nat) : Tile × List TFault :=
  [0, 1, 2, 3].foldl (fun (a : Tile × List TFault) q =>
    let (t, f, _) := a.1.startQ n q
    (t, a.2 ++ f.toList)) (t, [])

/-- R115, R116, R117: the end of phase 2: consumed flags and then CLRF clears take effect. -/
def Tile.endPhase2 (t : Tile) (n : Nat) : Tile :=
  let clr := (t.dueFx n Fx.isClr).filterMap (fun f => match f with
    | .clrf f => some f
    | _ => none)
  let t := { t with lead := { t.lead with flags := t.lead.flags &&& ~~~t.consume }, consume := 0 }
  (clr.foldl (fun t f => t.setFlag f false) t).dropFx n Fx.isClr

/-- A written value that is poisoned whole. -/
def MemWr.poisoned (w : MemWr) : MemWr := { w with poi := wordsOf w.addr w.bytes.length }

/-- R294: a posted value that is poisoned. -/
def Post.poisoned (p : Post) : Post :=
  match p with
  | .press a e v fresh => .press a e { v with poi := true } fresh
  | .draw s e v fresh => .draw s e { v with poi := true } fresh
  | .reg rd v => .reg rd { v with poi := true }
  | .mem w => .mem w.poisoned

/-- R292, R294, R295: what an instruction whose queue word came poisoned does in a tread: it acts as its word says, and every
value that it forms is poisoned (DESIGN CHOICE, log entry 86). -/
def StepOut.poisoned (t : Tile) (pc : Nat) (o : StepOut) : StepOut :=
  { o with
    posts := o.posts.map Post.poisoned
    writes := o.writes.map MemWr.poisoned
    slots := o.slots.map (fun x => (x.1, x.2.1, { x.2.2 with poi := true }))
    slotBlocks := o.slotBlocks.map (fun x => (x.1, x.2.1, { x.2.2 with poi := true }))
    faults := o.faults ++ o.sends.map (fun h => (4, .mkI 0x60 0 pc (poisonDetail t 4 h.line))) }

/-- The engine of queue q in tread n, where its head has started and not completed; `us` are the upsets that strike the tile. -/
def Tile.engineOut (t : Tile) (us : List Upset) (n q : Nat) : Option StepOut :=
  match t.queue q with
  | [] => none
  | e :: _ =>
    match e.start with
    | none => none
    | some s =>
      if s ≤ n ∧ n < s + e.dur then
        let o := match q with
          | 0 => pressStep t us e (n - s) n
          | 1 => drawStep t us e (n - s) n
          | 2 => vecStep t us e (n - s) n
          | _ => haulStep t e (n - s) n
        some (if e.poi then o.poisoned t e.d.pc else o)
      else none

/-- The outputs of the four engines in tread n, with their queues. -/
def Tile.engineOuts (t : Tile) (us : List Upset) (n : Nat) : List (Nat × StepOut) :=
  [0, 1, 2, 3].filterMap (fun q => (t.engineOut us n q).map (fun o => (q, o)))

/-- R94: whether a scalar access address is legal. -/
def scalarAddrOk (a : Word) : Bool := a.toNat % 4 == 0 && decide (a.toNat < 65536)

/-- R94: the attic access of a load or store due in tread n. -/
def Tile.seqAccs (t : Tile) (n : Nat) : List Acc :=
  (t.dueFx n (fun _ => true)).filterMap (fun f => match f with
    | .ldAcc _ a _ => if scalarAddrOk a then some ⟨agSeq, false, false, a.toNat, 4⟩ else none
    | _ => none)
/-- R94: the stores due in tread n. -/
def Tile.seqWrites (t : Tile) (n : Nat) : List MemWr :=
  (t.dueFx n (fun _ => true)).filterMap (fun f => match f with
    | .stAcc a v _ => if scalarAddrOk a then some ⟨agSeq, false, a.toNat, leBytes 4 v.toNat, [], none⟩ else none
    | _ => none)
/-- R94: the scalar-address faults due in tread n. -/
def Tile.seqFaults (t : Tile) (n : Nat) : List TFault :=
  (t.dueFx n (fun _ => true)).filterMap (fun f => match f with
    | .ldAcc _ a pc => if scalarAddrOk a then none else some (.mkI 0x28 0 pc (leBytes 4 a.toNat))
    | .stAcc a _ pc => if scalarAddrOk a then none else some (.mkI 0x28 0 pc (leBytes 4 a.toNat))
    | _ => none)

/-- R295: the poison faults of loads whose poisoned word would reach its scalar register in tread n. -/
def Tile.loadPoison (t : Tile) (n : Nat) : List TFault :=
  (t.dueFx n (fun _ => true)).filterMap (fun f => match f with
    | .ldPoi rd pc => some (.mkI 0x60 0 pc (poisonDetail t 1 rd))
    | _ => none)

/-- R59, R269, R115: the hold sources that tread n would meet: waits on unset arrival flags and shelf
accesses against the tags before the tread. -/
def Tile.holds (t : Tile) (tid n : Nat) : List HoldSrc :=
  if t.phase != .running then [] else
  let t1 := (t.phase1 n).1
  let seqWait : List HoldSrc :=
    if t1.ready n then
      match t1.fetch with
      | .ok (g, .waitf f _) => if guardOn t1.lead.preds g && t1.waitOn f.toNat == .holds then [⟨tid, 1, f.toNat, 4⟩] else []
      | _ => []
    else []
  let qWait := [0, 1, 2, 3].filterMap (fun q => if (t1.startQ n q).2.2 then some ⟨tid, 1, t1.headFlag q, q⟩ else none)
  let t2 := (t1.starts n).1
  let accs := t2.seqAccs n ++ (t2.seqWrites n).map MemWr.acc ++
    (t2.engineOuts [] n).flatMap (fun p => p.2.accs ++ p.2.writes.map MemWr.acc)
  seqWait ++ qWait ++ accs.filterMap (fun a => t.accHold tid a)

/-- A barrier arrival or reduction contribution that leaves the tile (R81, R363, R366). -/
structure SyncReq where
  bar  : Nat
  flag : Nat
  red  : Option (Nat × Word × Nat)
  pc   : Nat
  deriving DecidableEq, Repr

/-- What a tread of a tile gives: the tile, its faults, the words it drives, what it hands to the service and
sync networks, and the activity that is metered (R374). -/
structure TileTread where
  t      : Tile
  faults : List TFault
  out    : List MeshWord
  sends  : List HaulSend
  syncs  : List SyncReq
  press  : Nat
  draw   : Nat
  stairDraw : Nat
  stairHaul : Nat
  banks  : BitVec 4
  vec    : Bool
  driven : Nat

/-- R86 phase 4: a posted bench or register write takes effect. -/
def Tile.applyPost (t : Tile) (p : Post) : Tile :=
  match p with
  | .press a e v fresh => t.pressAdd a e v fresh
  | .draw s e v fresh => t.drawAdd s e v fresh
  | .reg rd v => { t with lead := (t.lead.setReg rd (BitVec.ofNat 32 v.bits)).setPend rd false }
  | .mem w => t.storeGen w

/-- R160, R291: the bench word that a posted addition reads. -/
def Post.reads : Post → Option (Nat × Nat)
  | .press a e _ fresh => if fresh then none else some (3, a + 16 * e)
  | .draw s e _ fresh => if fresh then none else some (4, s + 16 * e)
  | _ => none

/-- R254, R295: a poisoned scalar result raises the poison fault instead of being written. -/
def postFault (t : Tile) (pc : Nat) (p : Post) : Option TFault :=
  match p with
  | .reg rd v => if v.poi then some (.mkI 0x60 0 pc (poisonDetail t 1 rd)) else none
  | _ => none

/-- R267: HREL empties a shelf line; other lines are unchanged. -/
def Tile.emptyLine (t : Tile) (l : Nat) : Tile := if (t.shelfOf l).isSome then t.setTag l false else t

/-- R143, R283: an attic line filled with +0 as a pull's reply would fill it. -/
def Tile.fillLine (t : Tile) (l : Nat) : Tile :=
  let t := t.store ⟨agHaul, false, 32 * l, leBytes 32 0, [], none⟩
  if (t.shelfOf l).isSome then t.setTag l true else t

/-- Installs the working state an engine leaves at the head of its queue. -/
def Tile.setRun (t : Tile) (q : Nat) (r : Run) : Tile :=
  match t.queue q with
  | e :: l => t.setQueue q ({ e with run := r } :: l)
  | [] => t

/-- R86 phase 4: everything an engine does besides its reads. -/
def Tile.applyOut (t : Tile) (p : Nat × StepOut) : Tile :=
  let o := p.2
  let t := t.setRun p.1 o.run
  let t := o.posts.foldl Tile.applyPost t
  let t := (o.writes.foldl Tile.storeGen t).countSuppressed o.writes
  let t := o.slots.foldl (fun t (x : Nat × Nat × Elem) => t.setSlotElem x.1 x.2.1 x.2.2) t
  let t := o.slotBlocks.foldl (fun t (x : Nat × Nat × Elem) => t.setSlotBlk x.1 x.2.1 x.2.2) t
  let t := o.slotDone.foldl (fun t (x : Nat × Nat × Nat) => t.finishSlot x.1 x.2.1 x.2.2) t
  o.fills.foldl Tile.fillLine (o.empties.foldl Tile.emptyLine t)

/-- R92, R94, R95, R294: the delayed effects of the sequencer that fall in phase 4 of tread n; the value a
load reads, and its poison, were taken in phase 3 of `before`. -/
def Tile.applyFx (before : Tile) (n : Nat) (t : Tile) (f : Fx) : Tile :=
  match f with
  | .reg rd v => { t with lead := (t.lead.setReg rd v).setPend rd false }
  | .ldAcc rd a pc =>
    t.later (n + 1) (if before.poisonAt false a.toNat 4 then .ldPoi rd pc
      else .reg rd (BitVec.ofNat 32 (leNat (memRead before.attic a.toNat 4))))
  | .stAcc a v _ => t.store ⟨agSeq, false, a.toNat, leBytes 4 v.toNat, [], none⟩
  | .dsw h w v => { t with lead := { t.lead with desc := Tbl.set 0 t.lead.desc (h * 8 + w) v } }
  | _ => t

/-- Effects of phase 4. -/
def Fx.isWrite : Fx → Bool
  | .reg _ _ => true
  | .ldAcc _ _ _ => true
  | .ldPoi _ _ => true
  | .stAcc _ _ _ => true
  | .dsw _ _ _ => true
  | _ => false
/-- Sync-network requests. -/
def Fx.isSync : Fx → Bool
  | .bara _ _ _ => true
  | .reds _ _ _ _ _ _ => true
  | _ => false
/-- Queue entries. -/
def Fx.isEnter : Fx → Bool
  | .enter _ => true
  | _ => false

/-- R363, R366: what a due sync request asks. -/
def Fx.sync : Fx → Option SyncReq
  | .bara b f pc => some ⟨b, f, none, pc⟩
  | .reds rd v op b f pc => some ⟨b, f, some (rd, v, op), pc⟩
  | _ => none

/-- R86 phase 5: the entries due in tread n. -/
def Tile.enters (t : Tile) (live : Nat → Bool) (n : Nat) : Tile × List TFault :=
  let due := (t.dueFx n Fx.isEnter).filterMap (fun f => match f with
    | .enter d => some d
    | _ => none)
  due.foldl (fun (a : Tile × List TFault) d =>
    let (t, f) := a.1.enter live n d
    (t, a.2 ++ f.toList)) (t.dropFx n Fx.isEnter, [])

/-- R216, R273, R274: the stair faults of a tread. In a prefetch tread the haul engine too has what the draw core leaves of the 32
bytes, and no fault stands against a transfer there (DESIGN CHOICE, log entry 102: R217 gives it no access there and no fault, and
the verifier keeps images from asking for one). -/
def stairFault (n draw haul : Nat) : Option TFault :=
  let det := leBytes 8 n ++ leBytes 1 draw ++ leBytes 1 haul
  if isSlot n && decide (0 < haul) then some ⟨0x59, 2, det, none, none⟩
  else if 32 < draw + haul then some ⟨0x59, 1, det, none, none⟩
  else none

/-- R85, R92: the leader's issue of tread n. -/
def Tile.issueNow (t : Tile) (n : Nat) : Tile × Option TFault :=
  if t.ready n then
    match t.fetch with
    | .error f => (t, some f)
    | .ok (g, i) =>
      match issueInstr t n g i with
      | .ok t' => (t', none)
      | .fault f => (t, some f)
      | .waits => (t, none)
  else (t, none)

/-- R85, R86, R92: the issue of one instruction by itself; a WAITF sees the flags that phase 1 of tread n leaves. -/
def Tile.issueAt (t : Tile) (n : Nat) (g : Guard) (i : TileInstr) : Issue :=
  match i with
  | .waitf _ _ =>
    match issueInstr (t.withFlags (t.phase1 n).1.lead.flags) n g i with
    | .ok u => .ok (u.withFlags t.lead.flags)
    | r => r
  | _ => issueInstr t n g i

/-- R107: a program is complete once HALT has issued and all queues are empty; effects that are still on their way, a dispatch
among them, are waited for as well (DESIGN CHOICE, log entry 85: the rule does not speak of them). -/
def Tile.checkDone (t : Tile) : Tile :=
  if t.phase == .running && t.halted && t.queues.isEmpty && t.fx.isEmpty then { t with phase := .complete } else t

/-- R78: what the tread of a tile leaves for the trailer: `before` is the leader as it stood at its issue, `flags` those of
phase 1, `trail` the trailer after its own tread. -/
def Tile.keepPast (t : Tile) (before : Seq) (flags : BitVec 16) (issued : Bool) (trail : Seq) : Tile :=
  { t with past := ⟨{ before with flags := flags }, t.lead, issued⟩ :: t.past.take 1, begun := none, trail := trail }

/-- R119: the program address of the instruction that an agent's access in tread n belongs to. -/
def Tile.agentPc (t : Tile) (n a : Nat) : Option Nat :=
  if agentQueue a = 4 then
    (t.dueFx n (fun _ => true)).findSome? (fun f => match f with
      | .ldAcc _ _ pc => some pc
      | .stAcc _ _ pc => some pc
      | _ => none)
  else (t.queue (agentQueue a)).head?.map (fun e => e.d.pc)

/-- R80, R562: the item of a difference that a fault of the pair's logic makes. -/
def lockstepUpset (us : List Upset) : Option Nat :=
  us.findSome? (fun u => match u with
    | .lockstep _ i => some i.val
    | _ => none)

/-- R218, R319: the faults of the copies that are compared in every tread: the route selections of the word in force and the
generations of the slots. -/
def copyFaults (t : Tile) (us : List Upset) : List TFault :=
  us.filterMap (fun u => match u with
    | .routeCompare _ => some (routeFault 5 t.rseq.inForce (t.rseq.step.getD (Tbl.get 0 t.routes t.rseq.inForce)))
    | .generation _ s e2 g2 =>
      let e := Tbl.get 0 t.genE s.val
      let g := Tbl.get 0 t.genG s.val
      if e2.toNat = e ∧ g2.toNat = g then none
      else some ⟨0x4C, 0, leBytes 1 s.val ++ leBytes 1 e ++ leBytes 1 g ++ [e2, g2], none, none⟩
    | _ => none)

/-- The reads of a tread, each 64-bit word once for each agent. -/
def wordReads (l : List Acc) : List Acc :=
  ((l.filter (fun a => !a.wr)).flatMap (fun a =>
    (wordsOf a.addr a.len).map (fun w => (⟨a.agent, false, a.cellar, w * 8, 8⟩ : Acc)))).eraseDups

/-- R263, R296: the attic banks whose read or write slot accesses use. -/
def banksOf (l : List Acc) : BitVec 4 :=
  (readSlots l ++ writeSlots l).foldl (fun (b : BitVec 4) q => b ||| BitVec.ofNat 4 (2 ^ (q.2 % 4))) 0

/-- R264, R291: the 64-bit words that a write covers in part, which it reads to merge. -/
def MemWr.mergeReads (w : MemWr) : List Acc :=
  ((wordsOf w.addr w.bytes.length).filter (fun i => decide (i * 8 < w.addr) || decide (w.addr + w.bytes.length < i * 8 + 8))).map
    (fun i => ⟨w.agent, false, w.cellar, i * 8, 8⟩)

/-- R86, R120, R149, R324: tread n of running tile `tid`. `inp`, `edge` and `hatch` describe its router's ports;
`us` are the upsets that strike the tile, among them an item of R80 in which the pair differs. A tread in which a
fault is raised does none of the work of that phase or later; its faults abort the tile. Where the comparison fails, the effects
of the tread compared and of every later one are suppressed (R81). -/
def tileTread (live : Nat → Bool) (n tid : Nat) (inp : List MeshWord) (edge hatch : List Bool)
    (us : List Upset) (t : Tile) : TileTread :=
  let (t, f0) := routeCatchUp t.behind t
  let chk := t.follow (lockstepUpset us)
  let t0 := if chk.2.isSome then { t with fx := [], consume := 0 } else t
  let (t1, f1) := t0.phase1 n
  let (t2, f2) := t1.starts n
  let (t3, f3) := if chk.2.isSome then (t2, chk.2) else t2.issueNow n
  let t4 := t3.endPhase2 n
  let outs := t2.engineOuts us n
  let reads := t2.seqAccs n ++ outs.flatMap (fun p => p.2.accs)
  let writes := t2.seqWrites n ++ outs.flatMap (fun p => p.2.writes)
  let dSum := (outs.map (fun p => p.2.stairDraw)).foldl (· + ·) 0
  let hSum := (outs.map (fun p => p.2.stairHaul)).foldl (· + ·) 0
  let m := routerStep t2 tid n inp edge hatch writes
  let t4 := (wordReads (reads ++ m.reads ++ writes.flatMap MemWr.mergeReads)).foldl (Tile.noteRead n) t4
  let t4 := (outs.flatMap (fun p => p.2.stores ++ p.2.posts.filterMap Post.reads)).eraseDups.foldl (Tile.noteStore n) t4
  let t4 := (outs.flatMap (fun p => p.2.origins) ++ m.origins).foldl Tile.addOrigin t4
  let t4 := if t0.begun.isSome || t2.ready n then t4.noteFetch (t0.begun.getD t2.lead) else t4
  let t4 := match t.past with
    | [_, q] => if q.issued then t4.noteFetch t.trail else t4
    | _ => t4
  let at_ (a : Nat) (f : TFault) : TFault := if f.pc.isSome then f else { f with pc := t2.agentPc n a }
  let f3all := f3.toList ++ copyFaults t2 us ++ outs.flatMap (fun p => p.2.faults.map (·.2)) ++
    reads.filterMap (fun a => (t2.readFault a).map (at_ a.agent)) ++ (bankFault (reads ++ writes.map MemWr.acc)).toList ++
    (stairFault n dSum hSum).toList ++ t2.seqFaults n ++ m.faults.map (·.2)
  let f4 := writes.filterMap (fun w => (t2.writeFault w).map (at_ w.agent)) ++ t4.loadPoison n ++
    outs.flatMap (fun p => p.2.posts.filterMap (postFault t4 (((t2.queue p.1).head?.map (fun e => e.d.pc)).getD 0)))
  let early := (f0.toList ++ f1 ++ f2 ++ f3all ++ f4).map (TFault.withOrigins t4)
  -- R374: the treads after a vector instruction's start, its completion included
  let vec := (t0.completing n).contains 2 || (match t2.queue 2 with
    | e :: _ => (match e.start with
      | some st => decide (st < n)
      | none => false)
    | [] => false)
  let mk (t : Tile) (fs : List TFault) (ok : Bool) : TileTread :=
    { t := t, faults := fs, out := m.out, sends := if ok then outs.flatMap (fun p => p.2.sends) else []
      syncs := if ok then (t3.dueFx n Fx.isSync).filterMap Fx.sync else []
      press := ((outs.filter (fun p => p.1 == 0)).map (fun p => p.2.mac)).foldl (· + ·) 0
      draw := ((outs.filter (fun p => p.1 == 1)).map (fun p => p.2.mac)).foldl (· + ·) 0
      stairDraw := dSum, stairHaul := hSum, banks := banksOf (reads ++ writes.map MemWr.acc), vec := vec, driven := m.driven }
  if !early.isEmpty then
    let fl := if f1.isEmpty && f2.isEmpty then t4.lead.flags else t2.lead.flags
    mk (({ t2.withFlags fl with origins := t4.origins, originCount := t4.originCount, corrA := t4.corrA, corrC := t4.corrC
                                corrB := t4.corrB, stairCorr := t4.stairCorr, ovf := t4.ovf }).abort) early false
  else
    let due := t3.dueFx n Fx.isWrite
    let t5 := due.foldl (fun t f => Tile.applyFx t2 n t f) (t4.dropFx n Fx.isWrite)
    let t5 := outs.foldl Tile.applyOut t5
    let t5 := m.writes.foldl Tile.store t5
    let t5 := { t5 with out := ([0, 1, 2, 3].zip m.out).foldl (fun (o : Tbl MeshWord) (p : Nat × MeshWord) => Tbl.set .void o p.1 p.2) [] }
    let t6 := t5.dropFx n Fx.isSync
    let (t7, f5) := t6.enters live n
    let (t8, f6) := routeEnd t7
    let fs := f5 ++ f6.toList
    let t9 := (t8.keepPast (t0.begun.getD t2.lead) t2.lead.flags (t0.begun.isSome || t2.ready n) chk.1).checkDone
    mk (if fs.isEmpty then t9 else t9.abort) fs true

end Sys2Proof.Machine
end

