-- ==== Sys2Proof/Machine/Module.lean ====
section
/-! DEFINITION. The module's records by tile, room, floor, edge die and so on; places and paths (R18–R31);
event bits (R32), fault records (R562–R566), notices (R504), replies (R507) and what a port issues (R650). -/

namespace Sys2Proof.Machine

/-! ### Records -/

/-- The tile `t`. -/
def State.tile (s : State) (t : Nat) : Tile := Tbl.get Tile.reset s.tiles t
/-- Puts a tile. -/
def State.setTile (s : State) (t : Nat) (v : Tile) : State := { s with tiles := Tbl.set Tile.reset s.tiles t v }
/-- The room `r`. -/
def State.room (s : State) (r : Nat) : Room := Tbl.get Room.reset s.rooms r
/-- Puts a room. -/
def State.setRoom (s : State) (r : Nat) (v : Room) : State := { s with rooms := Tbl.set Room.reset s.rooms r v }
/-- The floor `f`. -/
def State.floor (s : State) (f : Nat) : Floor := Tbl.get Floor.reset s.floors f
/-- Puts a floor. -/
def State.setFloor (s : State) (f : Nat) (v : Floor) : State :=
  { s with floors := Tbl.set Floor.reset s.floors f v }
/-- The edge die `d`. -/
def State.die (s : State) (d : Nat) : Die := Tbl.get Die.reset s.dies d
/-- Puts an edge die. -/
def State.setDie (s : State) (d : Nat) (v : Die) : State := { s with dies := Tbl.set Die.reset s.dies d v }
/-- The control-face registers of a unit path. -/
def State.unit (s : State) (p : Word) : UnitRegs := Tbl.get UnitRegs.reset s.units p.toNat
/-- Puts the registers of a unit. -/
def State.setUnit (s : State) (p : Word) (v : UnitRegs) : State :=
  { s with units := Tbl.set UnitRegs.reset s.units p.toNat v }
/-- Inventory entry `e`. -/
def State.invOf (s : State) (e : Nat) : Inv := Tbl.get Inv.reset s.inv e
/-- Puts an inventory entry. -/
def State.setInv (s : State) (e : Nat) (v : Inv) : State := { s with inv := Tbl.set Inv.reset s.inv e v }
/-- Bank b of slot k is number 2k + b. -/
def State.bank (s : State) (i : Nat) : Bank := Tbl.get Bank.reset s.banks i
/-- Puts a bank. -/
def State.setBank (s : State) (i : Nat) (v : Bank) : State := { s with banks := Tbl.set Bank.reset s.banks i v }
/-- R440: the edge die whose digest store holds an entry; entry 64t + b is that of block b of tile t, and four floors have 76,800
tiles. -/
def digestDie (i : Nat) : Nat := i / 64 / 76800
/-- R440: whether the store that holds an entry stands at its owner, and whether its mirror stands at the next die. -/
def State.digestAt (s : State) (i : Nat) : Bool × Bool :=
  (!s.benchedDies.getLsbD (digestDie i), !s.benchedDies.getLsbD ((digestDie i + 1) % 4))
/-- R440, R591: a digest store entry, as its owner holds it or, where that die has failed, its mirror; none where both have. -/
def State.digest (s : State) (i : Nat) : Digest :=
  if (s.digestAt i).1 then Tbl.get Digest.reset s.digests i
  else if (s.digestAt i).2 then Tbl.get Digest.reset s.mirrors i else Digest.reset
/-- R440: puts a digest store entry, in the store and in its mirror. -/
def State.setDigest (s : State) (i : Nat) (v : Digest) : State :=
  { s with digests := if (s.digestAt i).1 then Tbl.set Digest.reset s.digests i v else s.digests
           mirrors := if (s.digestAt i).2 then Tbl.set Digest.reset s.mirrors i v else s.mirrors }
/-- R440: the digest store entries as the dies in service hold them. -/
def State.digestTable (s : State) : Tbl Digest :=
  if s.benchedDies = 0 then s.digests
  else s.digests.filter (fun q => (s.digestAt q.1).1) ++ s.mirrors.filter (fun q => !(s.digestAt q.1).1 && (s.digestAt q.1).2)
/-- The ledger entry of a session number. -/
def State.sess (s : State) (i : Nat) : Sess := Tbl.get Sess.reset s.ledger i
/-- Puts a ledger entry. -/
def State.setSess (s : State) (i : Nat) (v : Sess) : State := { s with ledger := Tbl.set Sess.reset s.ledger i v }
/-- The serving state of pipeline `p`. -/
def State.pipe (s : State) (p : Nat) : Pipe := Tbl.get Pipe.reset s.pstate p
/-- Puts the serving state of a pipeline. -/
def State.setPipe (s : State) (p : Nat) (v : Pipe) : State := { s with pstate := Tbl.set Pipe.reset s.pstate p v }
/-- Latency class `c`. -/
def State.cls (s : State) (c : Nat) : Class := Tbl.get Class.reset s.classes c
/-- Puts a latency class. -/
def State.setCls (s : State) (c : Nat) (v : Class) : State := { s with classes := Tbl.set Class.reset s.classes c v }
/-- R470, R531: the goals of a class in force in this tick: what a write changes governs from the next. -/
def State.goals (s : State) (c : Nat) : Class := Tbl.get Class.reset s.goalsIn c
/-- Link L of die d is number 8d + L. -/
def State.link (s : State) (i : Nat) : Link := Tbl.get Link.reset s.links i
/-- Puts a link. -/
def State.setLink (s : State) (i : Nat) (v : Link) : State := { s with links := Tbl.set Link.reset s.links i v }
/-- Logical port `i`, 4d + k (R604). -/
def State.port (s : State) (i : Nat) : Port := Tbl.get Port.reset s.ports i
/-- Puts a logical port. -/
def State.setPort (s : State) (i : Nat) (v : Port) : State := { s with ports := Tbl.set Port.reset s.ports i v }
/-- The record of peer module `n`. -/
def State.peer (s : State) (n : Nat) : Peer := Tbl.get Peer.reset s.peers n
/-- Puts the record of a peer. -/
def State.setPeer (s : State) (n : Nat) (v : Peer) : State := { s with peers := Tbl.set Peer.reset s.peers n v }
/-- The record of gang barrier `b`. -/
def State.gang (s : State) (b : Nat) : Gang := Tbl.get Gang.reset s.gangs b
/-- Puts the record of a gang barrier. -/
def State.setGang (s : State) (b : Nat) (v : Gang) : State := { s with gangs := Tbl.set Gang.reset s.gangs b v }
/-- The arrivals at barrier `b` in its round. -/
def State.barrier (s : State) (b : Nat) : List Arrival := Tbl.get [] s.barriers b
/-- Puts the arrivals at a barrier. -/
def State.setBarrier (s : State) (b : Nat) (v : List Arrival) : State :=
  { s with barriers := Tbl.set [] s.barriers b v }
/-- The trim of a gear in steps of 2.5 mV (R394). -/
def State.trim (s : State) (g : Nat) : Int := Tbl.get 0 s.trims g

/-! ### Places (R18–R25) -/

/-- The floor of a room. -/
def roomFloor (r : Nat) : Nat := r / 16
/-- The floor of a tile. -/
def tileFloor (t : Nat) : Nat := t / 19200
/-- The room of a tile. -/
def tileRoom (t : Nat) : Nat := t / 1200
/-- R20: the physical column of a tile. -/
def tileCol (t : Nat) : Nat := 160 * (tileFloor t % 4) + 40 * (tileRoom t % 4) + t % 1200 % 40
/-- R20: the physical row of a tile within its floor. -/
def tileRow (t : Nat) : Nat := 30 * (tileRoom t % 16 / 4) + t % 1200 / 40
/-- The tile at a physical column and row of the module. -/
def tileAt (c y : Nat) : Nat :=
  let f := 4 * (y / 120) + c / 160
  let r := 4 * (y % 120 / 30) + c % 160 / 40
  f * 19200 + r * 1200 + 40 * (y % 30) + c % 40
/-- The west–east position of a room on the 16 × 16 grid. -/
def roomX (r : Nat) : Nat := 4 * (roomFloor r % 4) + r % 4
/-- The north–south position of a room. -/
def roomY (r : Nat) : Nat := 4 * (roomFloor r / 4) + r % 16 / 4
/-- The room at a grid position. -/
def roomAt (x y : Nat) : Nat := 16 * (4 * (y / 4) + x / 4) + 4 * (y % 4) + x % 4
/-- R49: the Manhattan distance of two rooms. -/
def roomDist (a b : Nat) : Nat :=
  (roomX a - roomX b) + (roomX b - roomX a) + ((roomY a - roomY b) + (roomY b - roomY a))
/-- R47: the neighbour of a room by direction, N, E, S, W. -/
def roomNbr (r d : Nat) : Option Nat :=
  let x := roomX r
  let y := roomY r
  match d with
  | 0 => if 0 < y then some (roomAt x (y - 1)) else none
  | 1 => if x < 15 then some (roomAt (x + 1) y) else none
  | 2 => if y < 15 then some (roomAt x (y + 1)) else none
  | _ => if 0 < x then some (roomAt (x - 1) y) else none

/-- R22: whether row p of floor f is live. -/
def State.rowLive (s : State) (f p : Nat) : Bool := !(s.fuses.disabled.contains (120 * f + p))
/-- R26: whether a tile lies in a live row. -/
def State.tileLive (s : State) (t : Nat) : Bool := s.rowLive (tileFloor t) (tileRow t)
/-- The live rows of room row j of a floor, in ascending order. -/
def State.rowsOf (s : State) (f j : Nat) : List Nat := (List.range 30).filter (fun p => s.rowLive f (30 * j + p))
/-- R24: whether a logical position is valid. -/
def State.logOk (s : State) (x y : Nat) : Bool :=
  decide (x < 640) && decide (y < 4 * Config.liveRows s.fuses.grade)

/-- R23: the room row and live row of a live row of a floor. -/
def roomRow (g : Fin 3) : Nat → Nat → Nat → Nat × Nat
  | 0, j, r => (j, r)
  | k + 1, j, r => if r ≥ Config.quota g j then roomRow g k (j + 1) (r - Config.quota g j) else (j, r)

/-- R23: the physical tile of a logical position. -/
def State.physOf (s : State) (x y : Nat) : Option Nat :=
  if s.logOk x y then
    let l := Config.liveRows s.fuses.grade
    let f := 4 * (y / l) + x / 160
    let jr := roomRow s.fuses.grade 3 0 (y % l)
    ((s.rowsOf f jr.1)[jr.2]?).map (fun p =>
      f * 19200 + (4 * jr.1 + x % 160 / 40) * 1200 + 40 * p + x % 40)
  else none

/-- R23, R27: the logical column and row of a tile in a live row. -/
def State.logOf (s : State) (t : Nat) : Option (Nat × Nat) :=
  if s.tileLive t then
    let f := tileFloor t
    let j := tileRow t / 30
    let below := (List.range j).foldl (fun n i => n + Config.quota s.fuses.grade i) 0
    let r := ((List.range (tileRow t % 30)).filter (fun p => s.rowLive f (30 * j + p))).length
    some (tileCol t, Config.liveRows s.fuses.grade * (f / 4) + below + r)
  else none

/-- The tile that meets a tile's mesh or service port by direction, across bypassed rows (R25). -/
def State.nbr (s : State) (t d : Nat) : Option Nat :=
  match s.logOf t with
  | none => none
  | some (x, y) =>
    match d with
    | 0 => if 0 < y then s.physOf x (y - 1) else none
    | 1 => s.physOf (x + 1) y
    | 2 => s.physOf x (y + 1)
    | _ => if 0 < x then s.physOf (x - 1) y else none

/-- R18: the edge die on a side of a floor by direction, where the floor meets one. -/
def edgeDieAt (f d : Nat) : Option Nat :=
  match d with
  | 0 => if f / 4 = 0 then some 0 else none
  | 1 => if f % 4 = 3 then some 1 else none
  | 2 => if f / 4 = 3 then some 2 else none
  | _ => if f % 4 = 0 then some 3 else none

/-! ### Unit paths (R28–R31) -/

/-- The path of a tile. -/
def tilePath (t : Nat) : Word := BitVec.ofNat 32 ((t / 1200) * 2 ^ 20 + (t % 1200) * 512)
/-- The path of a room. -/
def roomPath (r : Nat) : Word := BitVec.ofNat 32 (2 ^ 28 + r * 2 ^ 20)
/-- The path of a floor. -/
def floorPath (f : Nat) : Word := BitVec.ofNat 32 (2 * 2 ^ 28 + f * 2 ^ 24)
/-- The path of the module. -/
def modulePath : Word := 0x30000000
/-- R29: the path of a member module of the gang. -/
def memberPath (n : Nat) : Word := BitVec.ofNat 32 (4 * 2 ^ 28 + n * 2 ^ 14)
/-- The level of a path. -/
def pathLevel (p : Word) : Nat := p.toNat / 2 ^ 28
/-- The room field with its floor. -/
def pathRoom (p : Word) : Nat := p.toNat / 2 ^ 20 % 256
/-- The floor field. -/
def pathFloor (p : Word) : Nat := p.toNat / 2 ^ 24 % 16
/-- The tile a level-0 path names. -/
def pathTile (p : Word) : Nat := pathRoom p * 1200 + p.toNat / 512 % 2048
/-- The module field of a level-4 path. -/
def pathModule (p : Word) : Nat := p.toNat / 2 ^ 14 % 2 ^ 14
/-- Whether a level-4 path names the gang as a whole. -/
def pathWhole (p : Word) : Bool := p.getLsbD 13

/-- R30: whether a path is valid. -/
def pathValid (p : Word) : Bool :=
  match pathLevel p with
  | 0 => p.toNat % 512 == 0 && decide (p.toNat / 512 % 2048 < 1200)
  | 1 => p.toNat % 2 ^ 20 == 0
  | 2 => p.toNat % 2 ^ 24 == 0
  | 3 => p.toNat % 2 ^ 28 == 0
  | 4 => p.toNat % 2 ^ 13 == 0 && (!pathWhole p || pathModule p == 0)
  | _ => false

/-- R31: whether a level-4 path names the local module. -/
def State.isLocal (s : State) (p : Word) : Bool := pathWhole p || pathModule p == s.moduleNo

/-- The unit and the units that contain it, within the module. -/
def containers (p : Word) : List Word :=
  match pathLevel p with
  | 0 => [p, roomPath (pathRoom p), floorPath (pathFloor p), modulePath]
  | 1 => [p, floorPath (pathFloor p), modulePath]
  | 2 => [p, modulePath]
  | _ => [modulePath]

/-- The rooms that contain a unit or lie within it. -/
def unitRooms (p : Word) : List Nat :=
  match pathLevel p with
  | 0 => [pathRoom p]
  | 1 => [pathRoom p]
  | 2 => (List.range 16).map (fun i => 16 * pathFloor p + i)
  | _ => List.range 256

/-- The floors a unit touches. -/
def unitFloors (p : Word) : List Nat :=
  match pathLevel p with
  | 0 => [pathFloor p]
  | 1 => [pathFloor p]
  | 2 => [pathFloor p]
  | _ => List.range 16

/-- Whether tile t belongs to a unit. -/
def unitHas (p : Word) (t : Nat) : Bool :=
  match pathLevel p with
  | 0 => pathTile p == t
  | 1 => pathRoom p == tileRoom t
  | 2 => pathFloor p == tileFloor t
  | _ => true

/-- Whether unit a contains unit b, or is it. -/
def unitWithin (a b : Word) : Bool := (containers b).contains a || decide (4 ≤ pathLevel a)

/-! ### Event bits and event counters (R32, R534, R535) -/

/-- The event bits of a status word. -/
def evFault : Nat := 0
/-- R32. -/
def evStopped : Nat := 1
/-- R32. -/
def evAborted : Nat := 2
/-- R32. -/
def evEscalated : Nat := 3
/-- R32. -/
def evHoldLimit : Nat := 4
/-- R32. -/
def evHang : Nat := 5
/-- R32. -/
def evBranchDrop : Nat := 6
/-- R32. -/
def evCtrLimit : Nat := 7
/-- R32. -/
def evFenced : Nat := 8
/-- R32. -/
def evBenched : Nat := 9

/-- R32, R532: an event in one unit. -/
def UnitRegs.event (u : UnitRegs) (b : Nat) : UnitRegs :=
  { u with seq := u.seq + 1, events := u.events ||| BitVec.ofNat 10 (2 ^ b) }

/-- R32: an event in a unit and in every unit that contains it. -/
def State.event (s : State) (p : Word) (b : Nat) : State :=
  (containers p).foldl (fun s q => s.setUnit q ((s.unit q).event b)) s

/-- R534: an event counter advanced by n, with whether it reached its limit. -/
def bump (c : Word) (n : Nat) : Word × Bool :=
  let v := c.toNat + n
  if 0xFFFFFFFF ≤ v then (0xFFFFFFFF, decide (0 < n)) else (BitVec.ofNat 32 v, false)

/-- R534, R535: an event counter advanced by one, with its overflow bit, and whether CTR_LIMIT is raised. -/
def bumpOvf (c : Word) (ovf : Bool) : Word × Bool × Bool :=
  let r := bump c 1
  (r.1, ovf || r.2, r.2 && !ovf)

/-- R34, R535: counts a fault record that names the unit. -/
def State.countFault (s : State) (p : Word) : State :=
  let u := s.unit p
  let r := bumpOvf u.faults u.ovf
  let s := s.setUnit p { u with faults := r.1, ovf := r.2.1 }
  if r.2.2 then s.event p evCtrLimit else s

/-- An event counter with its overflow bit in a mask; the state's unit p gets CTR_LIMIT when it first fills. -/
def State.limitAt (s : State) (p : Word) (raise : Bool) : State := if raise then s.event p evCtrLimit else s

/-! ### What a port issues (R650–R653) -/

/-- Issues an operation on a port; in D3hot it waits (R653), and a failed die or a port that is down issues
nothing (R560, R652). -/
def State.emit (s : State) (d : Nat) (op : HostOp) : State :=
  let e := s.die d
  if e.failed || !e.portUp then s
  else if e.d3 then s.setDie d { e with deferred := e.deferred ++ [op] }
  else { s with hostOut := s.hostOut ++ [(Fin.ofNat 4 d, op)] }

/-- R490: a write of host memory as the transfers that carry it, of at most 4,096 bytes each; n is how many there are. -/
def hostPieces : Nat → DWord → List Byte → List HostOp
  | 0, _, _ => []
  | n + 1, a, l => .write a (l.take 4096) :: hostPieces n (a + 4096) (l.drop 4096)

/-- R490: writes bytes to host memory. -/
def State.emitWrite (s : State) (d : Nat) (a : DWord) (l : List Byte) : State :=
  (hostPieces ((l.length + 4095) / 4096) a l).foldl (fun (s : State) op => s.emit d op) s

/-- The value of a word of the MSI-X table; the mask bit of a vector is set after reset (PRESUMED, log entry 23: PCIe). -/
def Die.msixWord (e : Die) (i : Nat) : Word := Tbl.get (if i % 4 = 3 then 1 else 0) e.msix i

/-- The MSI-X table with word i written. -/
def Die.setMsix (e : Die) (i : Nat) (v : Word) : Tbl Word := Tbl.set (if i % 4 = 3 then 1 else 0) e.msix i v

/-- R650: signals a vector, or sets its pending bit while it is masked. -/
def State.signal (s : State) (d v : Nat) : State :=
  let e := s.die d
  if (e.msixWord (4 * v + 3)).getLsbD 0 then s.setDie d { e with pba := e.pba ||| BitVec.ofNat 32 (2 ^ v) }
  else s.emit d (.vector (Fin.ofNat 32 v))

/-- The completion ring of a number; 8 is the notice ring. -/
def Die.compRing (e : Die) (i : Nat) : CompRing := Tbl.get CompRing.reset e.comp i
/-- The submission ring of a number. -/
def Die.subRing (e : Die) (i : Nat) : SubRing := Tbl.get SubRing.reset e.sub i
/-- The host output ring of a number. -/
def Die.outRing (e : Die) (i : Nat) : OutRing := Tbl.get OutRing.reset e.outp i
/-- Puts a completion ring. -/
def Die.setComp (e : Die) (i : Nat) (r : CompRing) : Die := { e with comp := Tbl.set CompRing.reset e.comp i r }
/-- Puts a submission ring. -/
def Die.setSub (e : Die) (i : Nat) (r : SubRing) : Die := { e with sub := Tbl.set SubRing.reset e.sub i r }
/-- Puts a host output ring. -/
def Die.setOut (e : Die) (i : Nat) (r : OutRing) : Die := { e with outp := Tbl.set OutRing.reset e.outp i r }

/-- The entries of a ring. -/
def ringEntries (size : Nat) : Nat := if size = 0 then 0 else 2 ^ size

/-- A byte list cut or filled with zeros to n bytes. -/
def padTo (n : Nat) (l : List Byte) : List Byte := (l ++ List.replicate n 0).take n

/-- R503, R507: the 32 bytes of an entry. -/
def entryBytes (tag status ring : Nat) (phase : Bool) (opc : Byte) (time : Nat) (detail : List Byte) : List Byte :=
  leBytes 2 tag ++ leBytes 2 status ++ leBytes 1 (ring + if phase then 128 else 0) ++ [opc] ++ leBytes 2 0 ++
    leBytes 8 time ++ padTo 16 detail

/-- R503, R650: writes an entry on completion ring i: its bytes with the phase byte last, then the vector. -/
def State.writeEntry (s : State) (d i : Nat) (tag status ring : Nat) (opc : Byte) (time : Nat)
    (detail : List Byte) : State :=
  let e := s.die d
  let r := e.compRing i
  let n := ringEntries r.size
  if n = 0 then s
  else
    let b := entryBytes tag status ring r.phase opc time detail
    let a := r.base + BitVec.ofNat 64 (32 * r.tail)
    let wrap := r.tail + 1 = n
    let r' := { r with tail := if wrap then 0 else r.tail + 1, phase := if wrap then !r.phase else r.phase
                       used := r.used + 1 }
    let s := s.setDie d (e.setComp i r')
    let s := s.emit d (.write a (b.take 4))
    let s := s.emit d (.write (a + 5) (b.drop 5))
    let s := s.emit d (.write (a + 4) ((b.drop 4).take 1))
    s.signal d i

/-- R507, R501: the reply of a command, in the entry reserved for it; none where a port reset took it as it was fetched (R652). -/
def State.reply (s : State) (h : CmdHdr) (opc : Byte) (status : Nat) (detail : List Byte) : State :=
  if s.silent = some h.id then s else
  let s := s.writeEntry h.port.val h.ring.val h.tag.toNat status h.ring.val opc s.pkt detail
  let e := s.die h.port.val
  let q := e.subRing h.ring.val
  s.setDie h.port.val (e.setSub h.ring.val { q with open_ := q.open_ - 1 })

/-- The reply of a command in progress, unless a port reset has taken it (R652). -/
def State.finish (s : State) (c : Cmd) (status : Nat) (detail : List Byte) : State :=
  if c.mute then s else s.reply c.h c.opc status detail

/-- Completes and removes the commands in progress that satisfy p. -/
def State.finishAll (s : State) (p : Cmd → Bool) (status : Cmd → Nat × List Byte) : State :=
  let done := s.cmds.filter p
  let s := { s with cmds := s.cmds.filter (fun c => !p c) }
  done.foldl (fun s c => s.finish c (status c).1 (status c).2) s

/-- R512: the image and parameters of an IMAGE LOAD that is writing tiles. -/
def Cmd.loading (c : Cmd) : Option (Image × List Word) :=
  match c.work with
  | .load im ps => some (im, ps)
  | _ => none

/-- R512, R588: an IMAGE LOAD that is writing tiles ends interrupted, with the cause of R509; no image is then loaded. -/
def State.endLoad (s : State) (cause : Byte) : State := s.finishAll (fun c => c.loading.isSome) (fun _ => (0x010B, [cause]))

/-- R504: writes the notices that wait while the ring has space, and then the notices-lost notice. -/
def State.drainNotices : Nat → State → Nat → State
  | 0, s, _ => s
  | k + 1, s, d =>
    let e := s.die d
    let r := e.compRing 8
    if r.used < ringEntries r.size then
      match e.noticeQ with
      | n :: q => State.drainNotices k ((s.setDie d { e with noticeQ := q }).writeEntry d 8 0xFFFF n.code 0 0 n.time n.detail) d
      | [] =>
        if 0 < e.lostSince then
          (s.setDie d { e with lostSince := 0 }).writeEntry d 8 0xFFFF 0x8006 0 0 s.pkt (leBytes 4 e.lostSince)
        else s
    else s

/-- R504: posts a notice on one port. -/
def State.noticeOn (s : State) (d code : Nat) (detail : List Byte) : State :=
  let e := s.die d
  if e.failed then s
  else if e.noticeQ.length < 256 then
    (s.setDie d { e with noticeQ := e.noticeQ ++ [⟨code, s.pkt, detail⟩] }).drainNotices 258 d
  else
    let r := bumpOvf e.nLost (e.ovf.getLsbD 2)
    let s := s.setDie d { e with lostSince := e.lostSince + 1, nLost := r.1
                                 ovf := if r.2.1 then e.ovf ||| 4 else e.ovf }
    s.limitAt modulePath r.2.2

/-- A notice about the module goes to every port (DESIGN CHOICE, log entry 24: the manual names no port). -/
def State.notice (s : State) (code : Nat) (detail : List Byte) : State :=
  (List.range 4).foldl (fun s d => s.noticeOn d code detail) s

/-- R535, R543: advances a counter of a die block; `bit` is its overflow bit. -/
def State.bumpDie (s : State) (d bit : Nat) : State :=
  let e := s.die d
  let c := match bit with
    | 0 => e.ringErr
    | 1 => e.regErr
    | 2 => e.nLost
    | 3 => e.dropRec
    | _ => e.fwdDrop
  let r := bumpOvf c (e.ovf.getLsbD bit)
  let e := { e with ovf := if r.2.1 then e.ovf ||| BitVec.ofNat 5 (2 ^ bit) else e.ovf }
  let e := match bit with
    | 0 => { e with ringErr := r.1 }
    | 1 => { e with regErr := r.1 }
    | 2 => { e with nLost := r.1 }
    | 3 => { e with dropRec := r.1 }
    | _ => { e with fwdDrop := r.1 }
  (s.setDie d e).limitAt modulePath r.2.2

/-! ### Fault records (R538, R562–R566) -/

/-- The tread at which the started program's tread 0 lies for a room: its start count. -/
def State.progTread (s : State) (r : Nat) : Option Nat :=
  let m := s.room r
  match m.start with
  | some c => if c ≤ m.tread then some (m.tread - c) else none
  | none => none

/-- R34, R538, R566: writes a record into the fault log, with its counts, event bits and notice. A record that names a peer by its
member path counts in this module's own face (DESIGN CHOICE, log entry 100: R34 counts a record at the unit that it names, and this
module keeps no counter of another). -/
def State.record (s : State) (r : FaultRec) : State :=
  let lost := 1024 ≤ (s.flogW - s.flogR).toNat
  let l := if lost then bumpOvf s.flogLost (s.modOvf.getLsbD 1) else (s.flogLost, s.modOvf.getLsbD 1, false)
  let s := { s with flog := Tbl.put s.flog (s.flogW.toNat % 1024) r, flogW := s.flogW + 1, flogLost := l.1
                    modOvf := if l.2.1 then s.modOvf ||| 2 else s.modOvf }
  let s := s.limitAt modulePath l.2.2
  let p := if decide (4 ≤ pathLevel r.path) then modulePath else r.path
  let s := (s.event p evFault).countFault p
  s.notice 0x8002 (leBytes 4 r.path.toNat ++ leBytes 1 r.code)

/-- A record naming a tile, raised in it. -/
def State.tileRec (s : State) (t code sub act : Nat) (pc ra : Option Nat) (det : List Byte) : FaultRec :=
  let r := tileRoom t
  { code := code, sub := sub, act := act, rec_ := 0, edge := 0, path := tilePath t
    logpos := match s.logOf t with
      | some (x, y) => BitVec.ofNat 32 (x + 65536 * y)
      | none => 0xFFFFFFFF
    paddr := pc, raddr := ra, pkt := s.pkt, rtread := some (s.room r).tread, ptread := s.progTread r
    detail := det }

/-- A record naming a room, a floor or the module. -/
def State.unitRec (s : State) (p : Word) (code sub act rec_ edge : Nat) (det : List Byte) : FaultRec :=
  let rt := if pathLevel p = 1 then some (s.room (pathRoom p)).tread else none
  { code := code, sub := sub, act := act, rec_ := rec_, edge := edge, path := p, logpos := 0xFFFFFFFF
    paddr := none, raddr := none, pkt := s.pkt, rtread := rt
    ptread := if pathLevel p = 1 then s.progTread (pathRoom p) else none, detail := det }

/-- R535: puts a tile; a counter of it that has just filled raises CTR_LIMIT. -/
def State.putTile (s : State) (t : Nat) (v : Tile) : State :=
  let old := (s.tile t).ovf
  (List.range 7).foldl (fun (s : State) (i : Nat) => s.limitAt (tilePath t) (v.ovf.getLsbD i && !(old.getLsbD i))) (s.setTile t v)

/-- R36: aborts a tile. -/
def State.abortTile (s : State) (t : Nat) : State := s.setTile t (s.tile t).abort

/-- R119, R566: writes the record of the first of a tile's faults in a tread, in the order of the phases; it aborts the
tile, and a tile that has aborted raises no further ones. -/
def State.tileFaults (s : State) (t act : Nat) (fs : List TFault) : State :=
  match fs with
  | [] => s
  | f :: _ => s.record (s.tileRec t f.code f.sub act f.pc f.ra f.det)

end Sys2Proof.Machine
end

