-- ==== Sys2Proof/Machine/Routers.lean ====
section
/-! DEFINITION. The packets of the service network (R333–R336), its routers with their channels and arbitration (R329–R345), and
the trees of multicasts (R353–R357, R671). -/

namespace Sys2Proof

/-- The class of a packet's kind: replies from ACK on. -/
def Packet.isReply (p : Packet) : Bool :=
  match p.kind with
  | .write => false
  | .read => false
  | .zero => false
  | .deliver => false
  | .unassigned _ => false
  | _ => true

/-- The flits of a packet. -/
def Packet.flits (p : Packet) : Nat := (16 + p.payload.length + 31) / 32

/-- R334: the DTILE field of a tile. -/
def dtileField (t : Nat) : Nat := t / 1200 * 2048 + t % 1200

/-- The tile to which a unicast packet goes: its target, or the source it replies to. -/
def Packet.destTile (p : Packet) : Option Nat :=
  match p.tgt with
  | .uni u => Machine.dtileOf u.dtile.toNat
  | .reply (.tile t) => some t.val
  | _ => none
/-- The edge die to which a reply goes. -/
def Packet.destDie (p : Packet) : Option DieId :=
  match p.tgt with
  | .reply (.die d _) => some d
  | _ => none

/-- Whether a packet is a multicast. -/
def Packet.isMulti (p : Packet) : Bool :=
  match p.tgt with
  | .multi _ => true
  | _ => false

/-- Whether a packet comes from an edge die. -/
def Packet.fromDie (p : Packet) : Bool :=
  match p.src with
  | .die _ _ => true
  | _ => false

/-- R335, R353: whether a multicast target form is legal. -/
def Multicast.legal (m : Multicast) : Bool :=
  m.ax != 3 && decide (m.clo.toNat ≤ m.chi.toNat) && decide (m.rlo.toNat ≤ m.rhi.toNat) &&
  decide (m.chi.toNat < 40) && decide (m.rhi.toNat < 30) && (m.ax != 0 || m.fm == 0) &&
  (m.ax == 0 || decide (m.fi.toNat < 4))

/-- A reply of kind k to a packet. -/
def Packet.answer (p : Packet) (k : PktKind) (src : Src) (sub : Nat) (payload : List Byte) (poi : List Nat) : Packet :=
  { kind := k, flg := false, esc := false, str := p.str, len := payload.length / 16, tf := 0, tag := p.tag
    sub := BitVec.ofNat 4 sub, src := src, tgt := .reply p.src, payload := payload, poison := poi
    hdrGood := true, org := none }

/-- The floors a multicast selects, in order. -/
def Multicast.floors (m : Multicast) : List Nat :=
  match m.ax.toNat with
  | 0 => [m.fi.toNat]
  | 1 => ((List.range 4).filter (fun j => m.fm.getLsbD j)).map (fun j => 4 * m.fi.toNat + j)
  | _ => ((List.range 4).filter (fun j => m.fm.getLsbD j)).map (fun j => 4 * j + m.fi.toNat)

/-- The byte address a unicast target names. -/
def Unicast.addr (u : Unicast) : Nat := u.line.toNat * 32 + if u.half then 16 else 0

/-- The count that a packet carries. -/
def Packet.cnt (p : Packet) : Nat :=
  match p.tgt with
  | .uni u => u.cnt.toNat
  | _ => 0

/-- The target path of a request, as a fault names it. -/
def Packet.targetPath (p : Packet) : Nat :=
  match p.tgt with
  | .uni u => u.dtile.toNat * 512
  | _ => 0

/-! ### Header words (R333–R336) -/

/-- R336: the KIND code. -/
def PktKind.code : PktKind → Nat
  | .write => 0x0
  | .read => 0x1
  | .zero => 0x2
  | .deliver => 0x3
  | .ack => 0x8
  | .data => 0x9
  | .bounce => 0xA
  | .refused => 0xB
  | .fenced => 0xC
  | .branchDropped => 0xD
  | .zeroDone => 0xE
  | .unassigned k => k.toNat

/-- R333: SRC. What replies for a floor is named by the floor's unit path (DESIGN CHOICE, log entry 87). -/
def Src.word : Src → Nat
  | .tile t => (Machine.tilePath t.val).toNat
  | .die d tag => d.val + tag.toNat * 2 ^ 16
  | .floor f => (Machine.floorPath f.val).toNat

/-- R333: SK. -/
def Src.kind : Src → Nat
  | .die _ _ => 1
  | _ => 0

/-- R333: header word 0. -/
def Packet.word0 (p : Packet) : Nat :=
  let mc : Nat := match p.tgt with
    | .multi _ => 1
    | _ => 0
  p.kind.code + 2 ^ 4 * p.isReply.toNat + 2 ^ 5 * p.flg.toNat + 2 ^ 6 * mc + 2 ^ 7 * p.esc.toNat + 2 ^ 8 * p.src.kind +
    2 ^ 9 * p.str.toNat + 2 ^ 13 * p.len + 2 ^ 18 * p.tf.toNat + 2 ^ 22 * p.tag.toNat + 2 ^ 28 * p.sub.toNat

/-- R334: the target T of a unicast. -/
def Unicast.bits (u : Unicast) : Nat :=
  u.dtile.toNat + 2 ^ 19 * u.cellar.toNat + 2 ^ 20 * u.line.toNat + 2 ^ 33 * u.half.toNat + 2 ^ 34 * u.cnt.toNat

/-- R335: the target T of a multicast. -/
def Multicast.bits (m : Multicast) : Nat :=
  m.ax.toNat + 2 ^ 2 * m.fi.toNat + 2 ^ 6 * m.fm.toNat + 2 ^ 10 * m.rm.toNat + 2 ^ 26 * m.clo.toNat + 2 ^ 32 * m.chi.toNat +
    2 ^ 38 * m.rlo.toNat + 2 ^ 43 * m.rhi.toNat + 2 ^ 48 * m.line.toNat + 2 ^ 59 * m.half.toNat

/-- R334, R335, R342: header words 2 and 3. A reply to a tile names it in DTILE; a reply to an edge die or to a combiner carries
the SRC word of what it answers (DESIGN CHOICE, log entry 87). -/
def Target.bits : Target → Nat
  | .uni u => u.bits
  | .multi m => m.bits
  | .reply (.tile t) => dtileField t.val
  | .reply q => q.word
  | .combiner _ q => q.word

/-- The 16-byte header of a packet. -/
def Packet.header (p : Packet) : List Byte :=
  Machine.leBytes 4 p.word0 ++ Machine.leBytes 4 p.src.word ++ Machine.leBytes 8 p.tgt.bits

end Sys2Proof

namespace Sys2Proof.Machine

/-! ### Packets (R333–R336) -/

/-- R336, R337, R346: whether a packet's header is legal where it is injected. -/
def State.headerOk (s : State) (p : Packet) : Bool :=
  p.hdrGood && p.payloadOk &&
  (match p.tgt with
    | .uni u =>
      (match dtileOf u.dtile.toNat with
        | some t => decide (t < 307200) && s.tileLive t
        | none => false) &&
      (match p.kind with
        | .write => true
        | .read => !p.flg
        | .zero => p.fromDie && u.cellar && !p.flg
        | .deliver => p.fromDie && !p.flg
        | _ => false)
    | .multi m =>
      m.legal && p.fromDie && !p.flg && p.str == 0 && (p.kind == .write || p.kind == .deliver)
    | .reply _ => p.isReply
    | .combiner _ _ => p.isReply)

/-! ### Multicast targets (R335, R353, R354, R671) -/

/-- R353: whether a tile is a target. -/
def State.mcTarget (s : State) (m : Multicast) (t : Nat) : Bool :=
  s.tileLive t && m.floors.contains (tileFloor t) && m.rm.getLsbD (tileRoom t % 16) &&
  (let c := t % 1200 % 40
   let r := t % 1200 / 40
   decide (m.clo.toNat ≤ c) && decide (c ≤ m.chi.toNat) && decide (m.rlo.toNat ≤ r) && decide (r ≤ m.rhi.toNat))

/-- R354, R671: the targets on a floor in the order room, row, column. -/
def State.mcTargets (s : State) (m : Multicast) (f : Nat) : List Nat :=
  if m.floors.contains f then
    ((List.range 16).filter (fun r => m.rm.getLsbD r)).flatMap (fun r =>
      ((List.range (m.rhi.toNat + 1 - m.rlo.toNat)).map (· + m.rlo.toNat)).flatMap (fun y =>
        if s.rowLive f (30 * (r / 4) + y) then
          ((List.range (m.chi.toNat + 1 - m.clo.toNat)).map (fun c =>
            f * 19200 + r * 1200 + 40 * y + c + m.clo.toNat))
        else []))
  else []

/-- Whether a floor can be reached: neither fenced nor benched. -/
def State.floorUp (s : State) (f : Nat) : Bool := (s.floor f).mode == .up

/-- R354, R671: the root: the first target on a floor that is neither fenced nor benched. -/
def State.mcRoot (s : State) (m : Multicast) : Option Nat :=
  m.floors.findSome? (fun f => if s.floorUp f then (s.mcTargets m f).head? else none)

/-! ### Routers (R329–R345) -/

/-- The key of a router's input buffer: ports N, E, S, W, L are 0–4; channels are request-adaptive,
request-escape, reply-adaptive, reply-escape. -/
def bufKey (t port chan : Nat) : Nat := (t * 5 + port) * 4 + chan
/-- The packets in a buffer, oldest first. -/
def State.buf (s : State) (k : Nat) : List Packet := Tbl.get [] s.net k
/-- Puts a buffer. -/
def State.setBuf (s : State) (k : Nat) (l : List Packet) : State := { s with net := Tbl.set [] s.net k l }
/-- R338: the free flits of a buffer. -/
def State.credit (s : State) (k : Nat) : Nat := 10 - ((s.buf k).map Packet.flits).foldl (· + ·) 0

/-- The packets that wait to be injected into a buffer, oldest first. -/
def State.waitAt (s : State) (k : Nat) : List Packet := Tbl.get [] s.netWait k
/-- Puts the packets that wait to be injected. -/
def State.setWait (s : State) (k : Nat) (l : List Packet) : State := { s with netWait := Tbl.set [] s.netWait k l }

/-- R356: floor f's combiner takes up a multicast that enters the floor: it has its entry, or a new one where one of 16 is free;
`none` holds the packet at the floor port. A floor without targets needs no entry, nor does a copy that crosses a floor whose ACK
has been sent. -/
def State.openComb (s : State) (f : Nat) (p : Packet) : Option State :=
  match p.tgt with
  | .multi m =>
    let n := (s.mcTargets m f).length
    let v := s.floor f
    if n = 0 ∨ v.comb.any (fun e => e.src == p.src) ∨ v.closed.contains p.src then some s
    else if v.comb.length < 16 then some (s.setFloor f { v with comb := v.comb ++ [⟨p.src, n, 0, 0⟩] })
    else none
  | _ => some s

/-- R338, R356: packets that wait enter buffer k while its credits and the floor's combiner allow. -/
def State.refill : Nat → State → Nat → State
  | 0, s, _ => s
  | n + 1, s, k =>
    match s.waitAt k with
    | [] => s
    | p :: l =>
      if p.flits ≤ s.credit k then
        match s.openComb (tileFloor (k / 20)) p with
        | none => s
        | some s => State.refill n ((s.setWait k l).setBuf k (s.buf k ++ [p])) k
      else s

/-- R338: a packet is injected into buffer k, behind those that wait for room there. -/
def State.putAt (s : State) (k : Nat) (p : Packet) : State :=
  (s.setWait k (s.waitAt k ++ [p])).refill ((s.waitAt k).length + 1) k

/-- The packet at the head of buffer k leaves it. -/
def State.popBuf (s : State) (k : Nat) : State :=
  (s.setBuf k (s.buf k).tail).refill (s.waitAt k).length k

/-- A tile injects a packet at its port L. -/
def State.inject (s : State) (t : Nat) (p : Packet) : State := s.putAt (bufKey t 4 (if p.isReply then 2 else 0)) p

/-- The tile whose router an edge die's port meets, as seen from tile t: the port on its side nearest in t's
block of 20 columns or 15 rows (R331; DESIGN CHOICE of the port, log entry 72). -/
def State.edgePort (s : State) (d t : Nat) : Option Nat :=
  let x := tileCol t
  let l := Config.liveRows s.fuses.grade
  match d with
  | 0 => s.physOf (x / 20 * 20 + 10) 0
  | 2 => s.physOf (x / 20 * 20 + 10) (4 * l - 1)
  | d =>
    let f := 4 * (tileFloor t / 4) + (if d = 1 then 3 else 0)
    let k := tileRow t / 15
    let rows := (List.range (120 - 15 * k)).map (· + 15 * k)
    (rows.find? (fun p => s.rowLive f p)).map (fun p =>
      tileAt (160 * (f % 4) + if d = 1 then 159 else 0) (120 * (f / 4) + p))

/-- The port of that tile that faces the die. -/
def diePort (d : Nat) : Nat := d

/-- R356: the tile at whose router floor f's combiner stands: the centre of the floor (DESIGN CHOICE, log entry 73). -/
def State.floorPort (s : State) (f : Nat) : Option Nat :=
  (((List.range 120).map (fun i => (60 + i) % 120)).find? (fun p => s.rowLive f p)).map (fun p =>
    tileAt (160 * (f % 4) + 80) (120 * (f / 4) + p))

/-- R345, R357, R576, R671: the crossing of an edge port into floor f that is fenced or benched answers a request of die d. -/
def State.edgeAnswer (s : State) (d f : Nat) (p : Packet) : State :=
  let me : Src := .floor (Fin.ofNat 16 f)
  let rs : List Packet := match p.tgt with
    | .multi m => m.floors.map (fun g => p.answer .branchDropped me g [] [])
    | _ => if p.isReply then [] else [p.answer .fenced me f [] []]
  { s with inbox := s.inbox ++ rs.map (fun r => (Fin.ofNat 4 d, r)) }

/-- R358: the request of an edge die that a reply names. -/
def State.edgeReq (s : State) (d : DieId) (tag : BitVec 16) : Option EdgeReq :=
  s.edgeReqs.find? (fun r => r.die == d && r.etag == tag)

/-- R354, R671: the root of a multicast packet, as its edge die chose it. -/
def State.rootOf (s : State) (p : Packet) (m : Multicast) : Option Nat :=
  let chosen : Option Nat := match p.src with
    | .die d tag => (s.edgeReq d tag).bind (fun r => r.root)
    | _ => none
  if chosen.isSome then chosen else s.mcRoot m

/-- An edge die injects a packet through one of its ports: for a unicast the port nearest its target's
column or row, else the port nearest the root. One to a tile in a disabled row, or to none of a room's tiles, comes to a router too,
which discards it (R337). -/
def State.dieInject (s : State) (d : Nat) (p : Packet) : State :=
  let goal := match p.tgt with
    | .multi m => s.rootOf p m
    | .uni u => some (p.destTile.getD (u.dtile.toNat / 2048 * 1200))
    | _ => p.destTile
  match goal.bind (fun t => s.edgePort d t) with
  | none => s
  | some q =>
    let ch := match p.tgt with
      | .multi _ => 1
      | _ => 0
    if s.floorUp (tileFloor q) then s.putAt (bufKey q (diePort d) ch) p else s.edgeAnswer d (tileFloor q) p

/-- The opposite direction. -/
def opp (d : Nat) : Nat := (d + 2) % 4

/-- The outputs that shorten the way from one tile to another: the X output and then the Y output. -/
def State.productive (s : State) (t goal : Nat) : List Nat :=
  match s.logOf t, s.logOf goal with
  | some (x, y), some (gx, gy) =>
    (if x < gx then [1] else if gx < x then [3] else []) ++ (if y < gy then [2] else if gy < y then [0] else [])
  | _, _ => []

/-- R345, R357: the answer of the bridge beyond output d of tile t, into floor g that is fenced or benched, to a request; it
names floor `sub`. It comes in by the input that faces the bridge. -/
def State.bridgeAnswer (s : State) (t d g sub : Nat) (p : Packet) (k : PktKind) : State :=
  if p.isReply then s else s.putAt (bufKey t d 2) (p.answer k (.floor (Fin.ofNat 16 g)) sub [] [])

/-- R354: where copies of a multicast packet with the given root go from tile t, which it reached by input `inp`: whether a copy
leaves by port L, the outputs, and whether it is still on its way to the root. -/
def State.mcNext (s : State) (root : Option Nat) (m : Multicast) (t inp : Nat) : Bool × List Nat × Bool :=
  match root with
  | none => (false, [], true)
  | some root =>
    match s.logOf t, s.logOf root with
    | some (x, y), some (rx, ry) =>
      let ts := (m.floors.flatMap (fun f => s.mcTargets m f)).filterMap s.logOf
      let rowsAt (c : Nat) : List Nat := (ts.filter (fun q => q.1 == c)).map (·.2)
      let mine := s.mcTarget m t
      let up := (rowsAt x).any (fun r => decide (r < y))
      let down := (rowsAt x).any (fun r => decide (y < r))
      let west := ts.any (fun q => decide (q.1 < x))
      let east := ts.any (fun q => decide (x < q.1))
      let branch : List Nat := (if up then [0] else []) ++ (if down then [2] else [])
      if t = root then (mine, (if east then [1] else []) ++ (if west then [3] else []) ++ branch, false)
      else if y = ry then
        -- travelling away from the root's column along its row is the trunk; toward it, the leg to the root
        if (rx < x && inp == 3) then (mine, (if east then [1] else []) ++ branch, false)
        else if (x < rx && inp == 1) then (mine, (if west then [3] else []) ++ branch, false)
        else (false, [if x < rx then 1 else 3], true)
      else if (y < ry && inp == 2) then (mine, if up then [0] else [], false)
      else if (ry < y && inp == 0) then (mine, if down then [2] else [], false)
      else if x ≠ rx then (false, [if x < rx then 1 else 3], true)
      else (false, [if y < ry then 2 else 0], true)
    | _, _ => (false, [], true)

/-- R357, R671: the selected floors that a copy leaving by direction d toward fenced floor g would
have reached; before the root, every selected floor. -/
def mcBeyond (m : Multicast) (g d : Nat) : List Nat :=
  m.floors.filter (fun f => match d with
    | 1 => decide (g % 4 ≤ f % 4)
    | 3 => decide (f % 4 ≤ g % 4)
    | 2 => decide (g / 4 ≤ f / 4)
    | _ => decide (f / 4 ≤ g / 4))

/-- A packet leaves the network at tile t. -/
def State.ejectAt (s : State) (t : Nat) (p : Packet) : State :=
  let v := s.tile t
  s.setTile t { v with eject := v.eject ++ [p] }

/-- R341: the entries of a tile's reply queue that are spoken for: by replies that wait in it, and for the requests that have left the
network and are not yet answered, deferred ones among them. -/
def State.replySlots (s : State) (t : Nat) : Nat :=
  (s.waitAt (bufKey t 4 2)).length + ((s.tile t).eject.filter (fun q => !q.isReply)).length + (s.tile t).deferred.length

/-- R341: whether port L of tile t takes a packet: a reply always, a request while the reply queue has one of
its 16 entries free. -/
def State.ejects (s : State) (t : Nat) (p : Packet) : Bool := p.isReply || decide (s.replySlots t < 16)

/-- R337, R359: the packet-header fault of the router of tile t, with the header words as received. -/
def State.headerFault (s : State) (t port chan : Nat) (p : Packet) : State :=
  let word (i : Nat) : Nat := p.struck.foldl (fun w x => if x.1 = i then w ^^^ x.2 else w) (leNat ((p.header.drop (4 * i)).take 4))
  let r := s.tileRec t 0x70 0 0 none none
    (leBytes 4 (tilePath t).toNat ++ leBytes 1 port ++ leBytes 1 chan ++ (List.range 4).flatMap (fun i => leBytes 4 (word i)))
  s.record { r with rec_ := 2 }

/-- What a router does next with a unicast packet at the head of one of its buffers: it drops it, ejects it, gives it to an edge
die or a combiner, sends it on by an output and channel, hands it to the bridge of an output, or lets it wait. -/
inductive Hop where
  | drop | eject | wait
  | die (d : DieId)
  | comb (f : FloorId)
  | link (d ch : Nat)
  | bridge (d : Nat)
  deriving DecidableEq, Repr

/-- R338, R339, R345: the next hop of a unicast packet of channel `chan` at tile t. -/
def State.uniHop (s : State) (t chan : Nat) (p : Packet) : Hop :=
  let goal := match p.tgt with
    | .combiner f _ => s.floorPort f.val
    | _ => match p.destDie with
      | some d => s.edgePort d.val t
      | none => p.destTile
  match goal with
  | none => .drop
  | some g =>
    if g = t then
      match p.tgt, p.destDie with
      | .combiner f _, _ => .comb f
      | _, some d => .die d
      | _, none => if s.ejects t p then .eject else .wait
    else
      let outs := s.productive t g
      let open_ (d : Nat) : Bool := match s.nbr t d with
        | some u => tileFloor u == tileFloor t || s.floorUp (tileFloor u)
        | none => false
      let base := if p.isReply then 2 else 0
      let cred (d ch : Nat) : Nat := match s.nbr t d with
        | some u => s.credit (bufKey u (opp d) ch)
        | none => 0
      let escape : Hop := match outs.head? with
        | none => .wait
        | some d =>
          if open_ d then (if p.flits ≤ cred d (base + 1) then .link d (base + 1) else .wait)
          else if outs.any open_ && !p.esc && chan % 2 == 0 then .wait
          else .bridge d
      if p.esc || chan % 2 == 1 then escape
      else match outs.filter (fun d => open_ d && decide (p.flits ≤ cred d base)) with
      | [] => escape
      | [d] => .link d base
      | a :: b :: _ => if cred a base ≥ cred b base then .link a base else .link b base

/-- R354, R355: the outputs (4 for port L) by which a copy of the multicast at the head of buffer k of tile t can leave now: its
credit, the reply queue and the next floor's combiner allow it, and it has not left yet. The bridge into a fenced floor takes it at
once. -/
def State.mcReady (s : State) (t k : Nat) (p : Packet) (outs : List Nat) : List Nat :=
  (outs.filter (fun d => !((Tbl.get [] s.mcLeft k).contains d))).filter (fun d =>
    if d = 4 then s.ejects t p
    else match s.nbr t d with
    | none => false
    | some u => (tileFloor u != tileFloor t && !(s.floorUp (tileFloor u))) ||
        ((tileFloor u == tileFloor t || (s.openComb (tileFloor u) p).isSome) && decide (p.flits ≤ s.credit (bufKey u (opp d) 1))))

/-- The outputs of a multicast step, port L as output 4, and whether the packet is still on its way to its root. -/
def State.mcOuts (s : State) (p : Packet) (m : Multicast) (t inp : Nat) : List Nat × Bool :=
  let x := s.mcNext (s.rootOf p m) m t inp
  (x.2.1 ++ (if x.1 then [4] else []), x.2.2)

/-- R340: the outputs (0–3, 4 for port L, or 5 for the floor's combiner) that the head of a buffer of tile t would take in this period, with the channel by
which it would leave. -/
def State.claims (s : State) (t inp chan : Nat) : List (Nat × Nat) :=
  match s.buf (bufKey t inp chan) with
  | [] => []
  | p :: _ =>
    if !(s.headerOk p) then []
    else match p.tgt with
    | .multi m => (s.mcReady t (bufKey t inp chan) p (s.mcOuts p m t inp).1).map (fun d => (d, 1))
    | _ => match s.uniHop t chan p with
      | .link d ch => [(d, ch)]
      | .eject => [(4, chan)]
      | .die d => [(d.val, chan)]
      | .comb _ => [(5, chan)]
      | .bridge d => [(d, (if p.isReply then 3 else 1))]
      | _ => []

/-- R340: whether output `out` of tile t serves the head of an input's buffer, which would leave by channel `ch`: no head that would
take the output goes first. Channels rank as they are numbered: replies above requests, escape above adaptive; equals are served
round-robin from the input that is next. -/
def State.wins (s : State) (t inp chan out ch : Nat) : Bool :=
  let turn (i c : Nat) : Nat := ((i + 5 - Tbl.get 0 s.rrobin (t * 8 + out)) % 5) * 4 + (3 - c)
  (List.range 5).all (fun i => (List.range 4).all (fun c => (i == inp && c == chan) ||
    (s.claims t i c).all (fun q => q.1 != out || decide (q.2 < ch) || (q.2 == ch && decide (turn inp chan < turn i c)))))

/-- R340: an output has served input `inp`; the next input is next. -/
def State.served (s : State) (t out inp : Nat) : State :=
  { s with rrobin := Tbl.set 0 s.rrobin (t * 8 + out) ((inp + 1) % 5) }

/-- The unicast step of a router (R338–R340, R345): the packet at the head of a buffer moves to the next router,
to port L, an edge die or a combiner, or stays. -/
def State.routeUni (s : State) (t inp chan : Nat) (p : Packet) : State :=
  let k := bufKey t inp chan
  let grant (out ch : Nat) (f : State → State) : State :=
    if s.wins t inp chan out ch then f ((s.popBuf k).served t out inp) else s
  match s.uniHop t chan p with
  | .drop => s.popBuf k
  | .wait => s
  | .eject => grant 4 chan (fun s => s.ejectAt t p)
  | .die d => grant d.val chan (fun s => { s with inbox := s.inbox ++ [(d, p)] })
  | .comb f => grant 5 chan (fun s => s.setFloor f.val { s.floor f.val with waiting := (s.floor f.val).waiting ++ [p] })
  | .link d ch => match s.nbr t d with
    | some u => grant d ch (fun s => s.putAt (bufKey u (opp d) ch) (if ch % 2 = 1 then { p with esc := true } else p))
    | none => s
  | .bridge d => match s.nbr t d with
    | some u => grant d (if p.isReply then 3 else 1) (fun s => s.bridgeAnswer t d (tileFloor u) (tileFloor u) p .fenced)
    | none => s.popBuf k

/-- One leg of a multicast step: the packet is handed on in direction `d`, where the leg is ready and its output serves it, or
dropped at a fenced floor's bridge. -/
def State.mcLeg (s : State) (t inp chan : Nat) (p : Packet) (m : Multicast) (leg : Bool) (done : List Nat) (d : Nat) :
    State × List Nat :=
  let k := bufKey t inp chan
  if done.contains d then (s, done)
  else
    let grant (f : State → State) : State × List Nat :=
      if (s.mcReady t k p [d]).isEmpty || !(s.wins t inp chan d 1) then (s, done) else ((f s).served t d inp, done ++ [d])
    if d = 4 then grant (fun s => s.ejectAt t p)
    else match s.nbr t d with
    | none => (s, done ++ [d])
    | some u =>
      let g := tileFloor u
      if g ≠ tileFloor t ∧ !(s.floorUp g) then
        let lost := if leg then m.floors else mcBeyond m g d
        grant (fun s => lost.foldl (fun (s : State) f => s.bridgeAnswer t d g f p .branchDropped) s)
      else
        grant (fun s =>
          let s := if g = tileFloor t then s else (s.openComb g p).getD s
          s.putAt (bufKey u (opp d) 1) { p with esc := true })

/-- The multicast step of a router (R354, R355, R357): every copy whose output serves it leaves; the packet goes
from the buffer once all have left. Port L is output 4. -/
def State.routeMulti (s : State) (t inp chan : Nat) (p : Packet) (m : Multicast) : State :=
  let k := bufKey t inp chan
  let x := s.mcOuts p m t inp
  let r := x.1.foldl (fun a d => State.mcLeg a.1 t inp chan p m x.2 a.2 d) (s, Tbl.get [] s.mcLeft k)
  if x.1.all r.2.contains then { r.1.popBuf k with mcLeft := Tbl.set [] r.1.mcLeft k [] }
  else { r.1 with mcLeft := Tbl.set [] r.1.mcLeft k r.2 }

/-- R337–R345, R354: a router forwards the packet at the head of one of its buffers. -/
def State.routePacket (s : State) (t inp chan : Nat) : State :=
  let k := bufKey t inp chan
  let s := s.refill (s.waitAt k).length k
  match s.buf k with
  | [] => s
  | p :: _ =>
    if !(s.headerOk p) then { s.popBuf k with mcLeft := Tbl.set [] s.mcLeft k [] }.headerFault t inp chan p
    else match p.tgt with
    | .multi m => s.routeMulti t inp chan p m
    | _ => s.routeUni t inp chan p

end Sys2Proof.Machine
end

