-- ==== Sys2Proof/Machine/Service.lean ====
section
/-! DEFINITION. What a tile does with a request that reaches it (chapters 09 and 11): admission (R267, R268, R272, R285–R288),
ordered streams (R349), replies, its own requests (R282–R284, R344, R347), and the requests of the edge dies. -/

namespace Sys2Proof.Machine

/-! ### Admission at a target (R267, R268, R272, R285–R287) -/

/-- What becomes of a remote access: made, bounced, or refused with a reply subcode, a record of the given code and
subcode, and whether the target aborts. -/
inductive Admit where
  | ok
  | bounce
  | refuse (sub code fsub : Nat) (abort : Bool)
  deriving DecidableEq, Repr

/-- R285, R286: whether a window entry admits an access from a source to lines lo … hi. -/
def windowAdmits (e : DWord) (src : Src) (cellar wr : Bool) (lo hi : Nat) : Bool :=
  let w0 := (BitVec.ofNat 32 e.toNat)
  let w1 := e.toNat / 2 ^ 32
  let bit (i : Nat) : Bool := w1 / 2 ^ i % 2 == 1
  bit 31 && (bit 26 == cellar) && (if wr then bit 28 else bit 27) && decide (w1 % 8192 ≤ lo) &&
  decide (hi ≤ w1 / 8192 % 8192) &&
  (match src with
    | .tile t => !(bit 29) && unitHas w0 t.val
    | .die d _ => bit 29 && w0.getLsbD d.val
    | .floor _ => false)

/-- R286: whether any entry of a tile's window table admits an access. -/
def Tile.admits (t : Tile) (src : Src) (cellar wr : Bool) (lo hi : Nat) : Bool :=
  (List.range 16).any (fun i => windowAdmits (Tbl.get 0 t.windows i) src cellar wr lo hi)

/-- R267, R268, R286, R287, R352: a remote or edge-die write of n bytes at byte address a of the attic; one that comes by multicast
must cover inbound shelf lines alone, and is refused as against the shelf rules where it does not (DEDUCED, log entry 88). -/
def Tile.admitWrite (t : Tile) (src : Src) (multi : Bool) (a n : Nat) : Admit :=
  let ls := linesOf a n
  let whole := a % 32 == 0 && n % 32 == 0
  if !(t.admits src false true (a / 32) ((a + n - 1) / 32)) || decide (65536 < a + n) then .refuse 1 0x61 1 false
  else if ls.any (fun l => match t.shelfOf l with
      | some h => !h.inbound || !whole
      | none => multi) then .refuse 1 0x61 2 false
  else if ls.any (fun l => (t.shelfOf l).isSome && t.tag l) then .bounce
  else if ls.any t.pending then .refuse 2 0x63 0 true
  else .ok

/-- R267, R268, R272, R286, R287, R295: a remote or edge-die read. -/
def Tile.admitRead (t : Tile) (src : Src) (cellar : Bool) (a n : Nat) : Admit :=
  let ls := linesOf a n
  let whole := a % 32 == 0 && n % 32 == 0
  if !(t.admits src cellar false (a / 32) ((a + n - 1) / 32)) then .refuse 1 0x61 1 false
  else if cellar then
    if ls.any (fun l => t.kind (l / 128) != 1 && t.kind (l / 128) != 2) then .refuse 1 0x61 3 false
    else if t.poisonAt true a n then .refuse 4 0x60 0 true
    else .ok
  else if ls.any (fun l => (t.shelfOf l).isSome && !whole) then .refuse 1 0x61 2 false
  else if ls.any (fun l => (t.shelfOf l).isSome && !t.tag l) then .bounce
  else if ls.any t.pending then .refuse 3 0x20 0 true
  else if t.poisonAt false a n then .refuse 4 0x60 0 true
  else .ok

/-- The agent of service-port writes. -/
def agService : Nat := 14

/-- R265, R267, R294, R565: a service-port write: bytes, marks with their origin, and inbound lines full. -/
def Tile.servicePut (t : Tile) (a : Nat) (bytes : List Byte) (poi : List Nat) (org : Option Origin) : Tile :=
  let t := t.store ⟨agService, false, a, bytes, poi.map (· + a / 8), none⟩
  let t := (linesOf a bytes.length).foldl (fun t l => match t.shelfOf l with
    | some h => if h.inbound then t.setTag l true else t
    | none => t) t
  match poi, org with
  | _ :: _, some o => t.addOrigin o
  | _, _ => t

/-- R267: a remote read empties the outbound lines it takes. -/
def Tile.serviceTake (t : Tile) (a n : Nat) : Tile :=
  (linesOf a n).foldl (fun t l => match t.shelfOf l with
    | some h => if h.inbound then t else t.setTag l false
    | none => t) t

/-- R265: the accesses of 16 bytes, one a period, that n bytes take at the service port. -/
def portParts (n : Nat) : Nat := (n + 15) / 16

/-- R265: whether the service port of a tile can have made the accesses of n bytes, one of up to 16 bytes a period, by this period: it
has made none in as many periods. The request acts whole with the last of them (DESIGN CHOICE, log entry 88). -/
def Tile.portFits (t : Tile) (n : Nat) : Bool := decide ((portParts n : Int) ≤ t.portFree)

/-- R265: the service port has made the accesses of n bytes, up to this period; an access that another has let go, and that finds
no periods for it, takes the periods to come. -/
def Tile.usePort (t : Tile) (n : Nat) : Tile :=
  if n = 0 then t
  else { t with portFree := if (portParts n : Int) ≤ t.portFree then 0 else min 0 t.portFree - (portParts n : Int) }

/-- A path of a source as detail: a unit path, or an edge-die code. -/
def srcWord (q : Src) : Nat :=
  match q with
  | .die d _ => d.val
  | q => q.word

/-- R286, R287, R293, R295, R300: records a refused access at its target, which aborts where the rule says so. A read refused for
its poison has found it, so that its origin is recorded. An aborted tile is silent (R566). -/
def State.refuse (s : State) (t : Nat) (p : Packet) (cellar wr : Bool) (a n code fsub : Nat) (abort : Bool) : State :=
  let s := if code = 0x60 then
      s.putTile t ((s.tile t).noteRead (s.room (tileRoom t)).tread ⟨agService, false, cellar, a, n⟩)
    else s
  let v := s.tile t
  let line := a / 32
  let last := (a + n - 1) / 32
  let det := match code with
    | 0x61 => leBytes 4 (srcWord p.src) ++ leBytes 1 p.str.toNat ++ leBytes 1 (if wr then 1 else 0) ++
        leBytes 1 (if cellar then 1 else 0) ++ leBytes 2 line ++ leBytes 2 last
    | 0x63 => leBytes 2 ((linesOf a n).find? v.pending |>.getD line) ++ leBytes 4 (srcWord p.src) ++ leBytes 1 p.str.toNat
    | 0x60 => poisonDetail v 4 line
    | 0x6D => leBytes 4 (srcWord p.src) ++ leBytes 1 p.str.toNat ++ leBytes 1 p.tf.toNat
    | _ => leBytes 2 ((linesOf a n).find? v.pending |>.getD line) ++ leBytes 4 (srcWord p.src)
  if v.phase == .aborted && code != 0x61 then s
  else
    let s := s.record (s.tileRec t code fsub (if abort then 1 else 0) none none det)
    if abort then s.abortTile t else s

/-- R565: the origin that a packet's poison carries; where it names none, the service flit as tile t's router got it at port L. -/
def State.flitOrigin (s : State) (t : Nat) (p : Packet) : Origin :=
  p.org.getD ⟨0x15, dtileField t + 4 * 2 ^ 20, (s.room (tileRoom t)).tread⟩

/-- R350, R113: a flagged packet's access is complete: its arrival flag is set. -/
def State.setArrival (s : State) (t : Nat) (p : Packet) : State :=
  if p.flg then
    let v := s.tile t
    if v.phase == .running then s.setTile t { v with arrivals := v.arrivals ++ [p.tf] } else s
  else s

/-- What an access at a tile answers. -/
structure Served where
  s : State
  reply : Packet
  refused : Bool

/-- R286, R405: whether the window table of a tile admits an access of n bytes at a, whatever else stands against it; a tile without
a pattern admits none, and no write to a cellar is ever admitted. -/
def Tile.covers (v : Tile) (src : Src) (cellar wr : Bool) (a n : Nat) : Bool :=
  v.admits src cellar wr (a / 32) ((a + max n 1 - 1) / 32) && !(wr && (cellar || decide (65536 < a + n)))

/-- R343, R349, R350 (apply): performs a WRITE or READ of attic or cellar lines at tile t, or refuses it. -/
def State.apply (s : State) (t : Nat) (p : Packet) : Served :=
  let me : Src := .tile (Fin.ofNat 307200 t)
  let v := s.tile t
  let (cellar, a) := match p.tgt with
    | .uni u => (u.cellar, u.addr)
    | .multi m => (false, m.line.toNat * 32 + if m.half then 16 else 0)
    | _ => (false, 0)
  let wr := p.kind == .write
  let n := if wr then p.payload.length else p.len * 16
  if !(v.covers p.src cellar wr a n) then ⟨s.refuse t p cellar wr a (max n 1) 0x61 1 false, p.answer .refused me 1 [] [], true⟩
  else if p.flg && !(v.isArrival p.tf.toNat) then ⟨s.refuse t p cellar wr a n 0x6D 0 false, p.answer .refused me 1 [] [], true⟩
  else
    match p.kind with
    | .write =>
      if n = 0 then ⟨s, p.answer .ack me 0 [] [], false⟩
      else match v.admitWrite p.src p.isMulti a n with
      | .ok => ⟨s.putTile t ((v.servicePut a p.payload p.poison (some (s.flitOrigin t p))).usePort n), p.answer .ack me 0 [] [], false⟩
      | .bounce => ⟨s, p.answer .bounce me 0 [] [], false⟩
      | .refuse sub code fsub ab => ⟨s.refuse t p false true a n code fsub ab, p.answer .refused me sub [] [], true⟩
    | _ =>
      match v.admitRead p.src cellar a n with
      | .ok =>
        let bytes := memRead (v.mem cellar) a n
        ⟨s.putTile t ((if cellar then v else (v.serviceTake a n).usePort n).noteRead (s.room (tileRoom t)).tread
            ⟨agService, false, cellar, a, n⟩), p.answer .data me 0 bytes [], false⟩
      | .bounce => ⟨s, p.answer .bounce me 0 [] [], false⟩
      | .refuse sub code fsub ab => ⟨s.refuse t p cellar false a n code fsub ab, p.answer .refused me sub [] [], true⟩

/-- R341, R342, R351, R356, R672: sends the reply of a request through the tile's reply queue: to its source, or for a multicast to the
floor combiner; a bounce is counted. -/
def State.sendReply (s : State) (t : Nat) (req rep : Packet) : State :=
  let s := if rep.kind == .bounce then
      let v := s.tile t
      s.putTile t { v with bounceSent := stick v.bounceSent, ovf := fillBit 2 v.bounceSent v.ovf }
    else s
  s.inject t (if req.isMulti then { rep with tgt := .combiner (Fin.ofNat 16 (tileFloor t)) req.src } else rep)

/-- R349: applies a request and answers it. -/
def State.applyReply (s : State) (t : Nat) (p : Packet) : State :=
  let r := s.apply t p
  let s := if r.refused || r.reply.kind == .bounce then r.s else r.s.setArrival t p
  s.sendReply t p r.reply

/-- R348: the entry of a stream in a tile's stream table. -/
def StreamEnt.is (e : StreamEnt) (p : Packet) : Bool := e.src == p.src && e.str == p.str.toNat

/-- R348: a tile's stream table with the count of a packet's stream, or without its entry. -/
def Tile.setStream (t : Tile) (p : Packet) (c : Option Nat) : Tile :=
  { t with streams := t.streams.filterMap (fun e => if e.is p then c.map (fun n => { e with count := n }) else some e) }

/-- R349, R351: the flagged packet of a stream whose count has come takes effect, and its entry is freed; bounced, it has had no
effect, and the entry keeps the count for its resend. -/
def State.flaggedArrive (s : State) (t : Nat) (p : Packet) : State :=
  let bounced := (s.apply t p).reply.kind == .bounce
  let s := s.applyReply t p
  if bounced then s else s.setTile t ((s.tile t).setStream p none)

/-- R349: a request arrives on a stream whose entry counts c packets. -/
def State.streamArrive (s : State) (t : Nat) (p : Packet) (c : Nat) : State :=
  if !p.flg then
    let r := s.apply t p
    if r.reply.kind == .bounce then r.s.sendReply t p r.reply
    else
      let s := r.s.sendReply t p r.reply
      let s := s.setTile t ((s.tile t).setStream p (some (c + 1)))
      let v := s.tile t
      match v.deferred.find? (fun d => d.src == p.src && d.str == p.str && d.cnt == c + 1) with
      | some d => (s.setTile t { v with deferred := v.deferred.erase d }).flaggedArrive t d
      | none => s
  else if c = p.cnt then s.flaggedArrive t p
  else
    let v := s.tile t
    if 8 ≤ v.deferred.length then s.sendReply t p (p.answer .bounce (.tile (Fin.ofNat 307200 t)) 0 [] [])
    else s.setTile t { v with deferred := v.deferred ++ [p] }

/-- R349: an ordered-stream request at a tile. A bounced access has had no effect and is not counted (R351). -/
def State.orderedArrive (s : State) (t : Nat) (p : Packet) : State :=
  let v := s.tile t
  match v.streams.find? (fun e => e.is p) with
  | some e => s.streamArrive t p e.count
  | none =>
    if p.flg && p.cnt == 0 then s.applyReply t p
    else if 32 ≤ v.streams.length then s.sendReply t p (p.answer .bounce (.tile (Fin.ofNat 307200 t)) 0 [] [])
    else (s.setTile t { v with streams := v.streams ++ [⟨p.src, p.str.toNat, 0⟩] }).streamArrive t p 0

/-- A WRITE or READ request at a tile (R343, R346). -/
def State.requestAt (s : State) (t : Nat) (p : Packet) : State :=
  if p.str == 0 then s.applyReply t p else s.orderedArrive t p

/-- Takes a packet out of a tile's ejection list, where it stands there. -/
def State.takeEject (s : State) (t : Nat) (p : Packet) : State :=
  let v := s.tile t
  if v.eject.contains p then s.setTile t { v with eject := v.eject.erase p } else s
/-- Takes a packet out of an edge die's inbox, where it stands there. -/
def State.takeInbox (s : State) (d : DieId) (p : Packet) : State :=
  if s.inbox.contains (d, p) then { s with inbox := s.inbox.erase (d, p) } else s

/-! ### A tile's own requests (R282–R284, R344, R347) -/

/-- The pending request of an entry of a tile's request table. -/
def Tile.req (t : Tile) (e : Nat) : Option Req := Tbl.get none t.reqs e
/-- Puts an entry of the request table. -/
def Tile.setReq (t : Tile) (e : Nat) (r : Option Req) : Tile := { t with reqs := Tbl.set none t.reqs e r }
/-- What a source keeps of a stream. -/
def Tile.srcStream (t : Tile) (k : Nat) : SrcStream := Tbl.get ⟨0, 0, false, []⟩ t.srcStreams k
/-- Puts what a source keeps of a stream. -/
def Tile.setSrcStream (t : Tile) (k : Nat) (v : SrcStream) : Tile :=
  { t with srcStreams := Tbl.set ⟨0, 0, false, []⟩ t.srcStreams k v }

/-- R359: the detail of a service-request fault. -/
def reqDetail (dest str extra bounces : Nat) : List Byte :=
  leBytes 4 dest ++ leBytes 1 str ++ leBytes 8 extra ++ leBytes 4 bounces

/-- Writes a fault of a tile and aborts it; a tile that has aborted, or has no program, raises none (R566). -/
def State.tileAbort (s : State) (t code sub : Nat) (pc : Option Nat) (det : List Byte) : State :=
  if (s.tile t).phase == .aborted || (s.tile t).phase == .idle then s
  else (s.record (s.tileRec t code sub 1 pc none det)).abortTile t

/-- R282–R284, R347: hands a push or a pull to the service network. -/
def State.haulSend (s : State) (t : Nat) (h : HaulSend) : State :=
  let v := s.tile t
  match (List.range 64).find? (fun e => (v.req e).isNone) with
  | none => s.tileAbort t 0x62 4 (some h.pc)
      (leBytes 4 (h.dtile * 512) ++ leBytes 2 h.line ++ leBytes 2 (h.line + (if h.pull then 1 else h.bytes.length / 32) - 1))
  | some e =>
    let k := v.srcStream h.str
    let ordered := h.str != 0
    if ordered && k.count != 0 && k.dest != h.dtile then
      s.tileAbort t 0x6C 1 (some h.pc) (reqDetail (h.dtile * 512) h.str 0 0)
    else if ordered && 65535 < k.count + 1 && !h.flag then
      s.tileAbort t 0x6C 2 (some h.pc) (reqDetail (h.dtile * 512) h.str 0 0)
    else
      let p : Packet := {
        kind := if h.pull then .read else .write, flg := h.flag, esc := false, str := BitVec.ofNat 4 h.str
        len := if h.pull then 2 else h.bytes.length / 16, tf := BitVec.ofNat 4 (if h.flag then h.tf else 0)
        tag := BitVec.ofNat 6 e, sub := 0, src := .tile (Fin.ofNat 307200 t)
        tgt := .uni { dtile := BitVec.ofNat 19 h.dtile, cellar := h.cellar, line := BitVec.ofNat 13 h.line
                      half := false, cnt := BitVec.ofNat 16 (if ordered && h.flag then k.count else 0) }
        payload := h.bytes, poison := h.poi, hdrGood := true, org := none }
      let held := ordered && k.await
      let r : Req := { pkt := p, pull := h.pull, dst := h.dst, sent := s.pkt, bounces := 0, waiting := false
                       left := 0, heldBack := held }
      let k' : SrcStream :=
        if !ordered then k
        else { dest := h.dtile, count := if h.flag then 0 else k.count + 1, await := k.await || h.flag
               queue := if held then k.queue ++ [e] else k.queue }
      let s := s.setTile t ((v.setReq e (some r)).setSrcStream h.str k')
      if held then s else s.inject t p

/-- R347: of the packets held back on a stream, those that go at the ACK of a flagged one, up to and including the next flagged
packet, and those that stay; `flagged` tells of each entry whether its packet is. -/
def releases (flagged : Nat → Bool) : List Nat → List Nat × List Nat
  | [] => ([], [])
  | e :: l =>
    if flagged e then ([e], l)
    else
      let x := releases flagged l
      (e :: x.1, x.2)

/-- R347: the ACK of a flagged packet lets packets held back on its stream go. -/
def State.releaseStream (s : State) (t str : Nat) : State :=
  let v := s.tile t
  let k := v.srcStream str
  let flagged (e : Nat) : Bool := match v.req e with
    | some r => r.pkt.flg
    | none => false
  let x := releases flagged k.queue
  let s := s.setTile t (v.setSrcStream str { k with await := x.1.any flagged, queue := x.2 })
  x.1.foldl (fun s e => match (s.tile t).req e with
    | some r => (s.setTile t ((s.tile t).setReq e (some { r with heldBack := false, sent := s.pkt }))).inject t r.pkt
    | none => s) s

/-- The request-table entry that a reply answers, where the tile still awaits it (R522 discards others). -/
def State.awaited (s : State) (t : Nat) (p : Packet) : Option Req := (s.tile t).req p.tag.toNat

/-- R284, R476: whether a request is a write to shelf lines. -/
def State.shelfWrite (s : State) (p : Packet) : Bool :=
  match p.kind, p.tgt, p.destTile with
  | .write, .uni u, some q => (linesOf u.addr p.payload.length).any (fun l => ((s.tile q).shelfOf l).isSome)
  | _, _, _ => false

/-- R343, R284, R476: an ACK, DATA or other final reply frees the entry; a shelf write that had bounced is a choice. -/
def State.freeReq (s : State) (t : Nat) (p : Packet) (r : Req) : State :=
  let v := (s.tile t).setReq p.tag.toNat none
  let v := if decide (0 < r.bounces) && p.kind == .ack && s.shelfWrite r.pkt then { v with choice := stick v.choice } else v
  s.setTile t v

/-- R343, R347: an ACK at a source tile. -/
def State.tileAck (s : State) (t : Nat) (p : Packet) : State :=
  match s.awaited t p with
  | none => s
  | some r =>
    let s := s.freeReq t p r
    if r.pkt.flg && r.pkt.str != 0 then s.releaseStream t r.pkt.str.toNat else s

/-- R267, R283: a DATA reply at a source tile: the lines of its pull are written through the service port and fill
inbound shelf lines; a full line is a shelf overrun, any other line a shelf-use fault. -/
def State.tileData (s : State) (t : Nat) (p : Packet) : State :=
  match s.awaited t p with
  | none => s
  | some r =>
    let s := s.freeReq t p r
    let v := s.tile t
    let a := r.dst * 32
    let ls := linesOf a p.payload.length
    match ls.find? (fun l => match v.shelfOf l with
      | some h => !h.inbound
      | none => true) with
    | some l => s.tileAbort t 0x5B 4 none (leBytes 2 l)
    | none =>
      match ls.find? v.tag with
      | some l => s.tileAbort t 0x5C 0 none (leBytes 2 l ++ leBytes 4 r.pkt.targetPath ++ leBytes 1 r.pkt.str.toNat)
      | none => s.putTile t ((v.servicePut a p.payload p.poison (some (s.flitOrigin t p))).usePort p.payload.length)

/-- R284: a BOUNCE at a source tile: the request waits 64 periods to be sent again. -/
def State.tileBounce (s : State) (t : Nat) (p : Packet) : State :=
  match s.awaited t p with
  | none => s
  | some r => s.setTile t ((s.tile t).setReq p.tag.toNat (some { r with waiting := true, left := 64 }))

/-- R284: the resend of a bounced request once its 64 periods have passed, counted in the bounce counter. -/
def State.resend (s : State) (t e : Nat) : State :=
  let v := s.tile t
  match v.req e with
  | some r =>
    if r.waiting && r.left == 0 then
      let v := v.setReq e (some { r with waiting := false, bounces := r.bounces + 1 })
      (s.putTile t { v with bounces := stick v.bounces, ovf := fillBit 1 v.bounces v.ovf }).inject t r.pkt
    else s
  | none => s

/-- R286, R300: REFUSED at a source tile: the remote-refused fault, and abort. -/
def State.tileRefused (s : State) (t : Nat) (p : Packet) : State :=
  match s.awaited t p with
  | none => s
  | some r =>
    let sub := if p.sub == 4 then 5 else p.sub.toNat
    let lines := match r.pkt.tgt with
      | .uni u => leBytes 2 u.line.toNat ++
          leBytes 2 (u.line.toNat + (if r.pull then r.pkt.len / 2 else r.pkt.payload.length / 32) - 1)
      | _ => []
    (s.freeReq t p r).tileAbort t 0x62 sub none (leBytes 4 r.pkt.targetPath ++ lines)

/-- R345: FENCED at a source tile: the service-request fault with subcode 3, and abort. -/
def State.tileFenced (s : State) (t : Nat) (p : Packet) : State :=
  match s.awaited t p with
  | none => s
  | some r => (s.freeReq t p r).tileAbort t 0x6C 3 none (reqDetail r.pkt.targetPath r.pkt.str.toNat p.sub.toNat r.bounces)

/-- R344, R537: the reply limit: one eighth of the hold limit. -/
def State.replyLimit (s : State) : Nat := s.limsIn.1 / 8

/-- R344: a request that has had no final reply for longer than the reply limit. -/
def State.tileReplyLimit (s : State) (t e : Nat) : State :=
  match (s.tile t).req e with
  | some r =>
    if decide (r.sent + s.replyLimit < s.pkt) && !r.heldBack then
      let s := s.setTile t ((s.tile t).setReq e none)
      s.tileAbort t 0x6C 4 none (reqDetail r.pkt.targetPath r.pkt.str.toNat (s.pkt - r.sent) r.bounces)
    else s
  | none => s

/-! ### Zero requests (R290) -/

/-- R272, R290: a ZERO request at a tile: it is taken where every block it touches is kept. -/
def State.zeroAt (s : State) (t : Nat) (p : Packet) : State :=
  let me : Src := .tile (Fin.ofNat 307200 t)
  let v := s.tile t
  let lines := leNat (p.payload.take 2) % 16384
  let a := match p.tgt with
    | .uni u => u.line.toNat * 32
    | _ => 0
  let n := 32 * lines
  if (linesOf a n).any (fun l => v.kind (l / 128) != 2) || decide (8192 < a / 32 + lines) || lines == 0 then
    (s.refuse t p true true a n 0x61 3 false).sendReply t p (p.answer .refused me 1 [] [])
  else s.setTile t { v with zero := v.zero ++ [⟨a, n, p⟩] }

/-- R290, R341, R343: once the last byte of the oldest zero request is written, ZERO DONE goes to its source, through an entry of the
reply queue. -/
def State.zeroDoneAt (s : State) (t : Nat) : State :=
  let v := s.tile t
  match v.zero with
  | [] => s
  | z :: rest =>
    if z.left = 0 ∧ s.replySlots t < 16 then
      (s.setTile t { v with zero := rest }).sendReply t z.pkt (z.pkt.answer .zeroDone (.tile (Fin.ofNat 307200 t)) 0 [] [])
    else s

/-! ### Background users of a stair (R275, R288, R290, R296) -/

/-- R288, R341: a READ of the cellar at tile t: one that is refused is answered at once; another waits for free stair bytes, and is
answered once all its bytes have found them and the reply queue has an entry for it. -/
def State.cellarReadAt (s : State) (t : Nat) (p : Packet) : State :=
  let v := s.tile t
  match v.cellJobs.find? (fun j => j.pkt == p) with
  | some j => if j.left = 0 ∧ s.replySlots t < 16 then (s.setTile t { v with cellJobs := v.cellJobs.erase j }).requestAt t p else s
  | none =>
    let a := match p.tgt with
      | .uni u => u.addr
      | _ => 0
    match v.admitRead p.src true a (p.len * 16) with
    | .ok => if p.len = 0 then s.requestAt t p else s.setTile t { v with cellJobs := v.cellJobs ++ [⟨p, p.len * 16⟩] }
    | _ => s.requestAt t p

/-- R275: one transfer of 16 free stair bytes: to the first remote cellar read that wants bytes, else to a zero request. -/
def Tile.transfer (t : Tile) : Tile :=
  match t.cellJobs.find? (fun j => decide (0 < j.left)) with
  | some j => { t with cellJobs := t.cellJobs.map (fun q => if q = j then { q with left := q.left - 16 } else q) }
  | none => match t.zero.find? (fun z => decide (0 < z.left)) with
    | some z =>
      let t := t.store ⟨agService, true, z.addr, List.replicate (min 16 z.left) 0, [], none⟩
      { t with zero := t.zero.map (fun q => if q = z then { q with addr := q.addr + 16, left := q.left - 16 } else q) }
    | none => t

/-- Whether a background user that comes before the scrub wants stair bytes. -/
def Tile.wantsStair (t : Tile) : Bool :=
  t.cellJobs.any (fun j => decide (0 < j.left)) || t.zero.any (fun z => decide (0 < z.left))

/-- R275: the background transfers of a period with n transfers free, and how many were used. -/
def Tile.background : Nat → Tile → Tile × Nat
  | 0, t => (t, 0)
  | n + 1, t =>
    if t.wantsStair then
      let x := Tile.background n t.transfer
      (x.1, x.2 + 1)
    else (t, 0)

/-! ### Requests of an edge die, and multicasts (R352–R358, R671) -/

/-- Puts a request of an edge die, replacing the one of the same tag. -/
def State.setEdgeReq (s : State) (r : EdgeReq) : State :=
  { s with edgeReqs := s.edgeReqs.map (fun q => if q.die == r.die && q.etag == r.etag then r else q) }

/-- A packet from an edge die. -/
def diePacket (d : DieId) (tag : BitVec 16) (k : PktKind) (tgt : Target) (len : Nat) (payload : List Byte) : Packet :=
  { kind := k, flg := false, esc := false, str := 0, len := len, tf := 0, tag := 0, sub := 0, src := .die d tag
    tgt := tgt, payload := payload, poison := [], hdrGood := true, org := none }

/-- An edge die sends a unicast request and remembers it. -/
def State.dieSend (s : State) (d : DieId) (k : PktKind) (u : Unicast) (len : Nat) (payload : List Byte)
    (why : Purpose) : State :=
  let p := diePacket d s.nextTag k (.uni u) len payload
  let r : EdgeReq := { die := d, etag := s.nextTag, pkt := p, purpose := why, floors := [], partial_ := false
                       root := none, held := false }
  let s := { s with edgeReqs := s.edgeReqs ++ [r], nextTag := s.nextTag + 1 }
  s.dieInject d.val p

/-- R356, R358, R671: an edge die sends a multicast to the given floors of a target form, which completes once each has
been counted: a floor without targets at once, and every floor with targets as dropped where no floor is up.
The answer tells the floors counted at once as acknowledged and as dropped. -/
def State.dieSendMulti (s : State) (d : DieId) (k : PktKind) (m : Multicast) (len : Nat) (payload : List Byte)
    (why : Purpose) (only : List Nat) : State × List Nat × List Nat :=
  let m := if m.ax == 0 then m else
    { m with fm := (List.range 4).foldl (fun b j =>
        let f := if m.ax == 1 then 4 * m.fi.toNat + j else 4 * j + m.fi.toNat
        if m.fm.getLsbD j && only.contains f then b ||| BitVec.ofNat 4 (2 ^ j) else b) 0 }
  let floors := m.floors.filter only.contains
  let empty := floors.filter (fun f => (s.mcTargets m f).isEmpty)
  let full := floors.filter (fun f => !(s.mcTargets m f).isEmpty)
  let ended (n : Nat) : State := { s with mcOutcome := Tbl.set 0 s.mcOutcome d.val n }
  if full.isEmpty then (ended 1, empty, [])
  else if (s.mcRoot m).isNone then (ended 2, empty, full)
  else
    let p := diePacket d s.nextTag k (.multi m) len payload
    let r : EdgeReq := { die := d, etag := s.nextTag, pkt := p, purpose := why, floors := full, partial_ := false
                         root := s.mcRoot m, held := false }
    let s := { s with edgeReqs := s.edgeReqs ++ [r], nextTag := s.nextTag + 1 }
    (s.dieInject d.val p, empty, [])

/-- The multicasts of a list that their edge dies still await. -/
def State.stillOut (s : State) (l : List Src) : List Src :=
  l.filter (fun q => match q with
    | .die d tag => (s.edgeReq d tag).isSome
    | _ => false)

/-- R356: a target's reply at its floor's combiner; the last one sends the ACK with the counts, from the router at the floor port
(R672). -/
def State.combine (s : State) (f : Nat) (p : Packet) : State :=
  let v := s.floor f
  let v := { v with waiting := if v.waiting.contains p then v.waiting.erase p else v.waiting }
  match p.tgt with
  | .combiner _ src =>
    match v.comb.find? (fun e => e.src == src) with
    | none => s.setFloor f v
    | some e =>
      let bad := p.kind != .ack
      let e' := { e with replies := e.replies + 1, refusals := e.refusals + if bad then 1 else 0 }
      if e'.replies < e'.targets then
        s.setFloor f { v with comb := v.comb.map (fun x => if x.src == src then e' else x) }
      else
        let s := s.setFloor f { v with comb := v.comb.filter (fun x => x.src != src), closed := src :: s.stillOut v.closed }
        let a : Packet := { p with kind := .ack, sub := BitVec.ofNat 4 f, len := 1, src := .floor (Fin.ofNat 16 f), tgt := .reply src
                                   payload := leBytes 4 e'.targets ++ leBytes 4 e'.refusals ++ leBytes 8 0 }
        match s.floorPort f with
        | some g => s.inject g a
        | none => s
  | _ => s.setFloor f v

end Sys2Proof.Machine
end

