-- ==== Sys2Proof/Machine/Ledger.lean ====
section
/-! DEFINITION. The ledger of sessions (R452–R461), adapter pins (R444–R447), latency measurements (R470–R475),
and the input rings (R456, R457). -/

namespace Sys2Proof.Machine

/-- R452: the handle of a session. -/
def State.handleOf (s : State) (i : Nat) : Word := BitVec.ofNat 32 ((s.sess i).seq.toNat * 65536 + i)
/-- R452: the session number a handle names, where it is current. -/
def State.sessionOf (s : State) (h : Word) : Option Nat :=
  let i := h.toNat % 8192
  if h.toNat / 8192 % 8 = 0 ∧ (s.sess i).seq.toNat = h.toNat / 65536 ∧ (s.sess i).state ≠ .free then some i else none
/-- The home edge die of a session. -/
def sessDie (i : Nat) : Nat := i / 2048

/-- The record of a pipeline of the started image. -/
def State.pipeRec (s : State) (p : Nat) : Option PipeRec := s.pipes.find? (fun r => r.pipe == p)

/-- The inventory entry of model list number m of the loaded image. -/
def State.modelEntry (s : State) (m : Nat) : Option Nat :=
  match s.image with
  | none => none
  | some im =>
    match im.models[m]? with
    | none => none
    | some (ident, _) =>
      (List.range 16).find? (fun e => (s.invOf e).state != 0 && (s.invOf e).ident == ident)

/-- The models that a route uses, each time it uses them (R455). -/
def State.routeModels (s : State) (route : List RoutePos) : List Nat :=
  route.flatMap (fun q => match s.pipeRec q.pipe.toNat with
    | none => []
    | some r => [r.model] ++ if r.dmodel = 255 then [] else [r.dmodel])

/-- R436: changes the reference counts of some entries. -/
def State.addRefs (s : State) (up : Bool) (es : List Nat) : State :=
  es.foldl (fun (s : State) (e : Nat) =>
    let v := s.invOf e
    s.setInv e { v with refs := if up then v.refs + 1 else v.refs - 1 }) s

/-! ### Adapter banks (R442–R447) -/

/-- R442: sets the kind of every block of a bank. -/
def State.bankKind (s : State) (i k : Nat) : State :=
  (s.bank i).place.foldl (fun s q =>
    let v := s.tile q.1
    s.setTile q.1 { v with kinds := Tbl.set 0 v.kinds q.2 k }) s

/-- Takes the digest entries of a bank back (R445). -/
def State.clearBankDigests (s : State) (i : Nat) : State :=
  (s.bank i).place.foldl (fun s q => s.setDigest (64 * q.1 + q.2) .reset) s

/-- R673: the crates of a set (an inventory entry, or with `adapter` a bank) that unpackers are receiving are abandoned. -/
def State.abandonCrates (s : State) (adapter : Bool) (i : Nat) : State :=
  s.finishAll (fun c => match c.work with
    | .crate _ _ k => k == some (adapter, i)
    | _ => false) (fun c => (0x0303, match c.work with
    | .crate _ got _ => (got.drop 16).take 4 ++ leBytes 1 2
    | _ => []))

/-- R445: a bank starts Zeroing: its blocks are Loading from then on. -/
def State.zeroBank (s : State) (i : Nat) : State :=
  let s := ((s.bankKind i 3).clearBankDigests i).abandonCrates true i
  s.setBank i { s.bank i with state := 4, current := false, refs := 0, bad := 0, set := .reset }

/-- R445: a bank leaves the current place: Draining while requests pin it, Zeroing otherwise. -/
def State.retireBank (s : State) (i : Nat) : State :=
  let s := s.abandonCrates true i
  let b := s.bank i
  if 0 < b.refs then s.setBank i { b with state := 3, current := false } else s.zeroBank i

/-- R446, R447: the current bank of a slot. -/
def State.currentBank (s : State) (slot : Nat) : Option Nat := [0, 1].find? (fun b => (s.bank (2 * slot + b)).current)

/-- R447: before the first change of a slot's current bank in a tick: the bank that stands is kept for admissions of the tick. -/
def State.markEdge (s : State) (slot : Nat) : State :=
  if s.bankEdges.any (fun e => e.slot == slot && e.at_ == s.pkt) then s
  else
    let b := s.currentBank slot
    let old := b.map (fun b => let v := s.bank (2 * slot + b)
      (v, v.place.map (fun q => (64 * q.1 + q.2, s.digest (64 * q.1 + q.2)))))
    { s with bankEdges := s.bankEdges.filter (fun e => e.at_ == s.pkt) ++ [⟨slot, s.pkt, b, old⟩] }

/-- The change of a slot's current bank in this tick. -/
def State.edgeNow (s : State) (slot : Nat) : Option BankEdge := s.bankEdges.find? (fun e => e.slot == slot && e.at_ == s.pkt)

/-- R447: the bank that an admission pins: the slot's current bank as it stood at the tick before. -/
def State.pinBank (s : State) (slot : Nat) : Option Nat :=
  match s.edgeNow slot with
  | some e => e.before
  | none => s.currentBank slot

/-- R445, R447: a bank pinned in the tick in which it ceased to be current drains, and is not zeroed yet. -/
def State.keepBank (s : State) (slot b : Nat) : State :=
  match (if (s.bank (2 * slot + b)).state = 4 then (s.edgeNow slot).bind (·.old) else none) with
  | some (v, ds) =>
    let s := s.setBank (2 * slot + b) { v with state := 3, current := false, refs := 0 }
    let s := ds.foldl (fun (s : State) (q : Nat × Digest) => s.setDigest q.1 q.2) s
    (ds.filter (fun q => q.2.v)).foldl (fun (s : State) (q : Nat × Digest) =>
      let v := s.tile (q.1 / 64)
      s.setTile (q.1 / 64) { v with kinds := Tbl.set 0 v.kinds (q.1 % 64) 1 }) s
  | none => s

/-- R447: whether an admission of a session would find no current bank. -/
def State.adapterMissing (s : State) (e : Sess) : Bool := decide (e.aslot < 64) && (s.pinBank e.aslot).isNone

/-! ### Turns and requests (R454, R459) -/

/-- R433, R447, R459, R579: the admission of a request, at the tick of the first FEED or MARK of its turn: the adapter is pinned, the
models' use is counted, and the positions are kept for a rollback. -/
def State.admitTurn (s : State) (i : Nat) : State :=
  let e := s.sess i
  let pin := if e.aslot < 64 then s.pinBank e.aslot else none
  let s := match pin with
    | some b => s.keepBank e.aslot b
    | none => s
  let s := s.setSess i { e with pinNext := pin, route := e.route.map (fun q => { q with nextPos := q.pos, nextRow := q.rowpos }) }
  let s := match pin with
    | some b =>
      let v := s.bank (2 * e.aslot + b)
      s.setBank (2 * e.aslot + b) { v with refs := v.refs + 1 }
    | none => s
  (s.routeModels e.route).eraseDups.foldl (fun s m => match s.modelEntry m with
    | none => s
    | some n =>
      let v := s.invOf n
      let r := bumpOvf v.use v.useOvf
      (s.setInv n { v with use := r.1, useOvf := r.2.1, last := s.pkt }).limitAt modulePath r.2.2) s

/-- R459, R579: the turn of an admitted request begins: PIN tells its bank. -/
def State.beginTurn (s : State) (i : Nat) : State :=
  let e := s.sess i
  s.setSess i { e with pin := e.pinNext, pinNext := none, worstTbt := 0, outb := 0, leadt := false
                       route := e.route.map (fun q => { q with admPos := q.nextPos, admRow := q.nextRow }) }

/-- R459: a request is admitted and its turn begins at once. -/
def State.pinModels (s : State) (i : Nat) : State := (s.admitTurn i).beginTurn i

/-- R445, R447: a pin of bank b of a slot ends. -/
def State.unpin (s : State) (slot : Nat) (pin : Option Nat) : State :=
  match pin with
  | none => s
  | some b =>
    let k := 2 * slot + b
    let v := s.bank k
    let s := s.setBank k { v with refs := v.refs - 1 }
    if v.state = 3 ∧ v.refs ≤ 1 then s.zeroBank k else s

/-- R447, R459: the end of a request: the pin is released, and OUTB and LEADT are cleared. -/
def State.endRequest (s : State) (i : Nat) : State :=
  let e := s.sess i
  (s.setSess i { e with pin := none, outb := 0, leadt := false }).unpin e.aslot e.pin

/-- R459: the end of the request that has been admitted for the next turn. -/
def State.dropNext (s : State) (i : Nat) : State :=
  let e := s.sess i
  (s.setSess i { e with pinNext := none, markq := false, fedNext := false }).unpin e.aslot e.pinNext

/-- R454, R459: the end of a turn: the session passes to Thinking, Listening or Open, and the next turn, if any,
begins in the same tick. -/
def State.endTurn (s : State) (i : Nat) : State :=
  let s := s.endRequest i
  let e := s.sess i
  if e.markq then
    (s.setSess i { e with state := .thinking, markq := false, tMark := e.markNext, fedNext := false }).beginTurn i
  else if e.fedNext then (s.setSess i { e with state := .listening, fedNext := false }).beginTurn i
  else s.setSess i { e with state := .opened }

/-! ### Measurements (R471–R475) -/

/-- R474: the bucket of a value against its goal. -/
def bucket (v g : Nat) : Nat := if v = 0 then 0 else min 15 ((8 * v + g - 1) / g - 1)

/-- R474, R475: enters a measurement of measure m of class c; a goal of zero disables it. -/
def State.measure (s : State) (c m v : Nat) : State :=
  let k := s.cls c
  let g := (if m = 0 then (s.goals c).ttft else (s.goals c).tbt).toNat
  if g = 0 then s
  else
    let b := bucket v g
    let h := bumpOvf (Tbl.get 0 k.hist (16 * m + b)) (k.hovf.getLsbD (16 * m + b))
    let k := { k with hist := Tbl.set 0 k.hist (16 * m + b) h.1
                      hovf := if h.2.1 then k.hovf ||| BitVec.ofNat 32 (2 ^ (16 * m + b)) else k.hovf }
    let s := (s.setCls c k).limitAt modulePath h.2.2
    if v ≤ g then s
    else
      let r := bumpOvf (if m = 0 then k.vTtft else k.vTbt) (k.vovf.getLsbD m)
      let k := { k with vTtft := if m = 0 then r.1 else k.vTtft, vTbt := if m = 1 then r.1 else k.vTbt
                        vovf := if r.2.1 then k.vovf ||| BitVec.ofNat 2 (2 ^ m) else k.vovf }
      (s.setCls c k).limitAt modulePath r.2.2

/-- A value saturating at 32 bits (R473). -/
def sat32 (n : Nat) : Nat := min n 4294967295

/-- R471: records a turn's time to first token. -/
def State.recordTtft (s : State) (i : Nat) : State :=
  let e := s.sess i
  let v := s.pkt - e.tMark
  (s.setSess i { e with lastTtft := sat32 v }).measure e.cls 0 v

/-- R471, R472: what a host write of the class's kind does to a session's latencies. -/
def State.hostWrote (s : State) (i kind bytes : Nat) : State :=
  let e := s.sess i
  if kind ≠ (s.goals e.cls).kind then s
  else
    let s := s.setSess i { e with outb := sat32 (e.outb + bytes)
                                  state := if e.state == .thinking then .speaking else e.state }
    let e := s.sess i
    if e.leadt then
      let v := s.pkt - e.tOut
      (s.setSess i { e with tOut := s.pkt, lastTbt := sat32 v, worstTbt := max e.worstTbt (sat32 v) }).measure e.cls 1 v
    else
      let s := s.setSess i { e with tOut := s.pkt }
      if (s.goals e.cls).lead ≤ e.outb then
        let s := s.recordTtft i
        s.setSess i { s.sess i with leadt := true }
      else s

/-! ### Input rings (R456, R457) -/

/-- R456: the header of a record. -/
def recHeader (seat : Nat) (gen : Byte) (kind rows bytes : Nat) : List Byte :=
  leBytes 2 seat ++ [gen] ++ leBytes 1 kind ++ leBytes 2 rows ++ leBytes 2 bytes

/-- R456: the lines of a record: header, payload, and zeros to the end of the last line. -/
def recLines (l : List Byte) : List (List Byte) :=
  (List.range ((l.length + 31) / 32)).map (fun i => padTo 32 (l.drop (32 * i)))

/-- What a write of an edge die to a line met. -/
inductive LineRes where
  | done | full | refused | fenced
  deriving DecidableEq, Repr

/-- R339, R345: the first floor, fenced or benched, that answers on the way from floor f to floor g: at each floor a packet leaves by
X where that shortens its way and the floor beyond is up, else by Y; where neither is, the bridge of X-then-Y answers. -/
def State.blockedFrom : Nat → State → Nat → Nat → Option Nat
  | 0, _, _, _ => none
  | k + 1, s, f, g =>
    if !(s.floorUp f) then some f
    else if f = g then none
    else
      let xs := if f % 4 < g % 4 then [f + 1] else if g % 4 < f % 4 then [f - 1] else []
      let ys := if f / 4 < g / 4 then [f + 4] else if g / 4 < f / 4 then [f - 4] else []
      match (xs ++ ys).find? s.floorUp with
      | some h => State.blockedFrom k s h g
      | none => (xs ++ ys).head?

/-- R345: whether a fenced floor answers a request of edge die d to tile t: at the crossing of its port, at a bridge on the way, or at
the tile's floor. -/
def State.wayFenced (s : State) (d t : Nat) : Bool :=
  match s.edgePort d t with
  | some q => (State.blockedFrom 8 s (tileFloor q) (tileFloor t)).isSome
  | none => !(s.floorUp (tileFloor t))

/-- R564: the origin of a word that fails its parity as it is read from a buffer of an edge die. Buffer i below 4 holds the records
received on logical port i, buffer 4 + p mod 60 the input records of pipeline p (DESIGN CHOICE, log entry 107: no rule numbers
the buffers). -/
def State.bufferOrigin (s : State) (d buf : Nat) : Origin := ⟨0x21, d + 4 * buf, s.pkt⟩

/-- An edge die writes whole lines of a tile from a line on, as one WRITE packet. -/
def State.dieWrite (s : State) (d t line : Nat) (bytes : List Byte) (poi : List Nat) (org : Option Origin) : State × LineRes :=
  if s.wayFenced d t then (s, .fenced)
  else
    let p := diePacket (Fin.ofNat 4 d) 0 .write
      (.uni { dtile := BitVec.ofNat 19 (dtileField t), cellar := false, line := BitVec.ofNat 13 line, half := false, cnt := 0 })
      (bytes.length / 16) bytes
    let r := s.apply t { p with poison := poi, org := if poi.isEmpty then none else org }
    match r.reply.kind with
    | .ack => (r.s, .done)
    | .bounce =>
      let v := r.s.tile t
      (r.s.putTile t { v with bounceSent := stick v.bounceSent, ovf := fillBit 2 v.bounceSent v.ovf }, .full)
    | _ => (r.s, .refused)

/-- An edge die reads a line of a tile with a READ packet; `none` where it bounces, is refused or fenced. -/
def State.dieRead (s : State) (d t line : Nat) : State × Option (List Byte) :=
  if s.wayFenced d t then (s, none)
  else
    let p := diePacket (Fin.ofNat 4 d) 0 .read
      (.uni { dtile := BitVec.ofNat 19 (dtileField t), cellar := false, line := BitVec.ofNat 13 line, half := false, cnt := 0 })
      2 []
    let r := s.apply t p
    match r.reply.kind with
    | .data => (r.s, some r.reply.payload)
    | .bounce =>
      let v := r.s.tile t
      (r.s.putTile t { v with bounceSent := stick v.bounceSent, ovf := fillBit 2 v.bounceSent v.ovf }, none)
    | _ => (r.s, none)

/-- R616, R574: an edge die writes the lines of lost records full and poisoned. A line that is full, and one of a fenced floor, is
written later. -/
def State.writeLost (s : State) (d : Nat) : State :=
  if (s.die d).lost.isEmpty then s
  else (s.die d).lost.foldl (fun (s : State) (q : LostLine) =>
    let w := s.dieWrite d (pathTile q.dpath) q.line q.bytes [0, 1, 2, 3] (some q.org)
    let e := w.1.die d
    match w.2 with
    | .full | .fenced => w.1.setDie d { e with lost := e.lost ++ [q] }
    | _ => w.1) (s.setDie d { s.die d with lost := [] })

/-- R457: the edge die writes the lines of its input records in order until one bounces; a record whose last line
is written completes the command that brought it. A refused line is passed over (DEDUCED, log entry 33). -/
def State.pumpInput : Nat → State → Nat → State
  | 0, s, _ => s
  | k + 1, s, p =>
    match s.pipeRec p, (s.pipe p).inRecs with
    | some r, ⟨id, [], _, _, _⟩ :: rest =>
      let _ := r
      let s := s.setPipe p { s.pipe p with inRecs := rest }
      let s := s.finishAll (fun c => match c.work with
        | .record _ n => n == id
        | _ => false) (fun _ => (0, []))
      State.pumpInput k s p
    | some r, ⟨id, l :: ls, poi, ss, g⟩ :: rest =>
      let w := s.dieWrite r.home (pathTile r.ipath) (r.iline + (s.pipe p).inLine) l (poi.filter (· < 4))
        (some (s.bufferOrigin r.home (4 + p % 60)))
      match w.2 with
      | .full => w.1
      | .fenced => w.1
      | _ =>
        let q := w.1.pipe p
        State.pumpInput k (w.1.setPipe p { q with inRecs := ⟨id, ls, (poi.filter (4 ≤ ·)).map (· - 4), ss, g⟩ :: rest
                                                  inLine := if q.inLine + 1 = r.ilen then 0 else q.inLine + 1 }) p
    | _, _ => s

/-- R457, R461: an input record for a route position: its lines wait for the ring, and its rows are pending. -/
def State.putRecord (s : State) (i pos kind rows : Nat) (payload : List Byte) (poi : Bool) : State × Nat :=
  let e := s.sess i
  match e.route[pos]? with
  | none => (s, 0)
  | some q =>
    let id := s.recIds
    let lines := recLines (recHeader q.seat.toNat e.gen kind rows payload.length ++ payload)
    let q' := { q with pend := min 65535 (q.pend + rows), arrivals := q.arrivals ++ [(s.pkt, rows)] }
    let s := s.setSess i { e with route := e.route.set pos q' }
    let v := s.pipe q.pipe.toNat
    let s := s.setPipe q.pipe.toNat { v with inRecs := v.inRecs ++ [⟨id, lines, if poi then List.range (4 * lines.length) else [], i, e.gen⟩] }
    (({ s with recIds := id + 1 }).pumpInput 4096 q.pipe.toNat, id)

/-! ### Rollback and closing (R460, R579) -/

/-- R579: what the end of a run does to one session. -/
def State.rollback (s : State) (i : Nat) : State :=
  let back (s : State) : State :=
    let s := (s.endRequest i).dropNext i
    let e := s.sess i
    s.setSess i { e with
      gen := e.gen + 1, state := .opened
      route := e.route.map (fun q => { q with pos := q.admPos, rowpos := q.admRow, pend := 0, want := false, arrivals := [] }) }
  match (s.sess i).state with
  | .listening => back s
  | .thinking => back s
  | .speaking => back s
  | .ending => back s
  | _ => s

/-- R460: unbinds a closing session whose last ZERO DONE has returned: the entry is Free, and SESSION CLOSE
completes. -/
def State.freeSession (s : State) (i : Nat) : State :=
  let e := s.sess i
  let h := s.handleOf i
  let s := s.addRefs false e.entries
  let s := s.setSess i { e with state := .free, zeroLeft := 0, entries := [] }
  s.finishAll (fun c => match c.work with
    | .close n => n == h
    | _ => false) (fun _ => (0, []))

/-- R450, R460: the kept blocks of a seat: tile and block. -/
def State.seatBlocks (s : State) (p seat : Nat) : List (Nat × Nat) :=
  match s.pipeRec p, s.image with
  | some r, some im => (im.kept.filter (fun k => k.2.2 == r.seat0 + seat)).map (fun k => (k.1, k.2.1))
  | _, _ => []

end Sys2Proof.Machine
end

