-- ==== Sys2Proof/Machine/Boundary.lean ====
section
/-! DEFINITION. Step boundaries (R461–R469): the slot assigner, the slot table and its delivery, step reports;
speculative groups (R493–R498); voids and the ends of cancellations (R481–R489). -/

namespace Sys2Proof.Machine

/-! ### The slot assigner (R467, R468) -/

/-- R467: the mean of a pipeline's measured step intervals, in whole ticks; 0 before the first. -/
def Pipe.est (p : Pipe) : Nat :=
  if p.intervals.isEmpty then 0 else p.intervals.foldl (· + ·) 0 / p.intervals.length

/-- R470: a goal in ticks; zero counts as 2^32 − 1. -/
def goalTicks (g : Word) : Int := if g = 0 then 4294967295 else g.toNat

/-- R467: the deadline of a session at a route position. -/
def State.deadline (s : State) (e : Sess) (q : RoutePos) (resv : Nat) : Int :=
  let c := s.goals e.cls
  let oldest : Nat := (q.arrivals.head?.map (·.1)).getD s.pkt
  let speaking := e.state == .speaking && e.leadt
  if e.state == .thinking || (e.state == .speaking && !e.leadt) then (e.tMark : Int) + goalTicks c.ttft - resv
  else if speaking then (e.tOut : Int) + goalTicks c.tbt - resv
  else (oldest : Int) + goalTicks c.tbt - resv

/-- A candidate: its slack, session number and route position. -/
structure Cand where
  slack : Int
  sess : Nat
  pos : Nat
  deriving DecidableEq, Repr

/-- R468: the order of candidates: slack, then session number. -/
def Cand.before (a b : Cand) : Bool := decide (a.slack < b.slack) || (a.slack == b.slack && decide (a.sess ≤ b.sess))

/-- Inserts a candidate in order. -/
def insertCand (c : Cand) : List Cand → List Cand
  | [] => [c]
  | d :: l => if c.before d then c :: d :: l else d :: insertCand c l

/-- R468: of each session its first candidate: it takes at most one group and one press entry in a step. -/
def onePer (l : List Cand) : List Cand := l.foldl (fun a c => if a.any (fun x => x.sess == c.sess) then a else a ++ [c]) []

/-- R468: the sessions that satisfy `want` at a route position on pipeline p, neither Ending nor Closing, in
order of slack. -/
def State.cands (s : State) (p resv : Nat) (want : RoutePos → Bool) : List Cand :=
  let est : Int := (s.pipe p).est
  onePer ((s.ledger.flatMap (fun (i, e) =>
    if e.state == .free || e.state == .ending || e.state == .closing then []
    else (e.route.zipIdx.filter (fun q => q.1.pipe.toNat == p && want q.1)).map (fun q =>
      (⟨s.deadline e q.1 resv - s.pkt - est, i, q.2⟩ : Cand)))).foldl (fun l c => insertCand c l) [])

/-- R494: the drafts ready of a session at a route position of a pipeline with the given SPEC. -/
def State.drafts (s : State) (e : Sess) (q : RoutePos) (spec : Bool) : Nat :=
  if spec && q.trk.on then (s.goals e.cls).depth else 0

/-- R463: the 16 bytes of a slot entry. -/
def slotBytes (e : Sess) (q : RoutePos) (k : Nat) : List Byte :=
  let adpt := match e.pin with
    | some b => e.aslot + 64 * b
    | none => 128
  leBytes 8 e.seed.toNat ++ leBytes 4 (q.pos.toNat + k) ++ leBytes 2 q.seat.toNat ++ [e.gen] ++ leBytes 1 adpt

/-- R463: the 16 bytes of an empty slot. -/
def emptySlot : List Byte := leBytes 8 0 ++ leBytes 4 0 ++ leBytes 2 0xFFFF ++ leBytes 2 0

/-- R468: places the candidates' groups into the free slots; answers the slots and the candidates left out. -/
def State.placeSlots (s : State) (spec : Bool) : List Cand → Nat → List (Option SlotEnt) × List Cand × Option Cand
  | [], free => (List.replicate free none, [], none)
  | c :: l, free =>
    if free = 0 then ([], c :: l, none)
    else
      let e := s.sess c.sess
      match e.route[c.pos]? with
      | none => s.placeSlots spec l free
      | some q =>
        let w0 := 1 + s.drafts e q spec
        let w := if w0 > free then 1 else w0
        let mine := (List.range w).map (fun k =>
          some (⟨c.sess, c.pos, q.seat.toNat, e.gen, if k = 0 then w else 0, slotBytes e q k, false⟩ : SlotEnt))
        let r := s.placeSlots spec l (free - w)
        (mine ++ r.1, r.2.1, match r.2.2 with
          | some x => some x
          | none => some c)

/-- R468: fills the press entries. -/
def State.placePress (s : State) : List Cand → Nat → Nat → List (Option PressEnt) × List Cand × Option Cand
  | [], _, ents => (List.replicate ents none, [], none)
  | c :: l, rows, ents =>
    if rows = 0 ∨ ents = 0 then (List.replicate ents none, c :: l, none)
    else
      let e := s.sess c.sess
      match e.route[c.pos]? with
      | none => s.placePress l rows ents
      | some q =>
        let n := min q.pend rows
        let r := s.placePress l (rows - n) (ents - 1)
        (some ⟨c.sess, c.pos, q.seat.toNat, e.gen, n, q.rowpos⟩ :: r.1, r.2.1, match r.2.2 with
          | some x => some x
          | none => some c)

/-- R476: an assigner choice between the last session placed and the first left out. -/
def State.assignChoice (s : State) (home : Nat) (last : Option Cand) (left : List Cand) : State :=
  match last, left with
  | some a, b :: _ =>
    if (b.slack - a.slack).natAbs < 64 then
      let d := s.die home
      let s := s.setDie home { d with choice := (bump d.choice 1).1 }
      let up (s : State) (i : Nat) : State :=
        let e := s.sess i
        s.setSess i { e with choice := min 65535 (e.choice + 1) }
      up (up s a.sess) b.sess
    else s
  | _, _ => s

/-- Takes rows from the oldest pending input records. -/
def takeRows : List (Nat × Nat) → Nat → List (Nat × Nat)
  | [], _ => []
  | (t, r) :: l, n => if r ≤ n then takeRows l (n - r) else (t, r - n) :: l

/-- R463: the 160 bytes of a slot table. -/
def tableBytes (p : Nat) (q : Pipe) : List Byte :=
  let smask := (q.slots.zipIdx.filter (fun x => x.1.isSome)).foldl (fun m x => m + 2 ^ x.2) 0
  let press (o : Option PressEnt) : List Byte := match o with
    | none => leBytes 8 0xFFFF
    | some e => leBytes 8 (e.seat + e.gen.toNat * 2 ^ 16 + (e.rows - 1) % 4096 * 2 ^ 26 + e.row % 2 ^ 26 * 2 ^ 38)
  leBytes 4 q.step.toNat ++ leBytes 1 p ++ leBytes 1 smask ++ leBytes 2 0 ++
    padTo 24 (q.press.flatMap press) ++
    (List.range 8).flatMap (fun i => match q.slots.getD i none with
      | some e => e.bytes
      | none => emptySlot)

/-- The floors that a cover form selects and that have targets. -/
def State.coverFloors (s : State) (m : Multicast) : List Nat := m.floors.filter (fun f => !(s.mcTargets m f).isEmpty)

/-- R464: sends the table of pipeline p to the given floors of its cover form number k. -/
def State.sendTable (s : State) (r : PipeRec) (k : Nat) (m : Multicast) (only : List Nat) : State :=
  let m := { m with line := BitVec.ofNat 11 r.tline, half := false }
  let out := s.dieSendMulti (Fin.ofNat 4 r.home) .deliver m 10 (tableBytes r.pipe (s.pipe r.pipe))
    (.table r.pipe k) only
  let q := out.1.pipe r.pipe
  out.1.setPipe r.pipe { q with sends := q.sends.map (fun x =>
    if x.cover == k && only.contains x.floor then
      { x with sends := x.sends + 1, due := false
               acked := x.acked || out.2.1.contains x.floor, abandoned := x.abandoned || out.2.2.contains x.floor }
    else x) }

/-- R464: whether a delivery of a slot table is in progress. -/
def Pipe.delivering (q : Pipe) : Bool := q.sends.any (fun x => !x.acked && !x.abandoned)

/-- R468: a step boundary of a pipeline: the table of the next step is fixed and sent. -/
def State.boundary (s : State) (r : PipeRec) : State :=
  let p := r.pipe
  let dr := s.placeSlots r.spec (s.cands p r.resv (·.want)) 8
  let pr := if r.prows = 0 then (List.replicate 3 none, [], none)
    else s.placePress (s.cands p r.resv (fun q => decide (0 < q.pend))) r.prows 3
  let s := s.assignChoice r.home dr.2.2 dr.2.1
  let s := s.assignChoice r.home pr.2.2 pr.2.1
  -- R461: press entries take their rows when they are delivered
  let s := pr.1.foldl (fun s o => match o with
    | none => s
    | some x =>
      let e := s.sess x.sess
      match e.route[x.rpos]? with
      | none => s
      | some q =>
        let q := { q with pend := q.pend - x.rows, rowpos := (q.rowpos + x.rows) % 2 ^ 26, arrivals := takeRows q.arrivals x.rows }
        s.setSess x.sess { e with route := e.route.set x.rpos q }) s
  let q := s.pipe p
  let sends := r.cover.zipIdx.flatMap (fun c => (s.coverFloors c.1).map (fun f =>
    (⟨f, c.2, 0, false, false, false⟩ : FloorSend)))
  let s := s.setPipe p { q with slots := dr.1, press := pr.1, sends := sends }
  r.cover.zipIdx.foldl (fun s c => s.sendTable r c.2 c.1 (s.coverFloors c.1)) s

/-! ### Voids and cancellations (R481–R489) -/

/-- The rooms of every floor that is up. -/
def State.upRooms (s : State) : List Nat := (List.range 256).filter (fun r => s.floorUp (roomFloor r))

/-- R65: the gear of a room. -/
def State.roomGear (s : State) (r : Nat) : Nat := ((s.room r).gear.getD s.gear).toNat

/-- Whether a room's clock runs: its floor is up, the reference is there, and the room is not at G0. -/
def State.clocked (s : State) (r : Nat) : Bool :=
  !s.tripped && !s.refLost && s.floorUp (roomFloor r) && s.roomGear r != 0 && !(s.room r).clockOff

/-- Whether a room has clock periods in which it may take treads: its clock runs, the module is ready, and alignment does not
hold it at tread 0 (R55). -/
def State.clockRuns (s : State) (r : Nat) : Bool := !s.holdAll && s.clocked r

/-- R485: the slots of a pipeline's delivered step that hold a session and have not been voided. -/
def Pipe.voidMask (q : Pipe) (i : Nat) : Nat :=
  (q.slots.zipIdx.filter (fun x => match x.1 with
    | some e => e.sess == i && !e.voided
    | none => false)).foldl (fun m x => m + 2 ^ x.2) 0

/-- Marks the slots of a session as voided in this step. -/
def Pipe.markVoided (q : Pipe) (i : Nat) : Pipe :=
  { q with slots := q.slots.map (fun o => o.map (fun e => if e.sess == i then { e with voided := true } else e)) }

/-- R485–R487: forms the void of one pipeline for a session. -/
def State.formVoid (s : State) (i p : Nat) : State :=
  let q := s.pipe p
  let m := q.voidMask i
  if m = 0 then s
  else
    let s := s.setPipe p (q.markVoided i)
    { s with voids := s.voids ++ [⟨sessDie i, BitVec.ofNat 8 p, BitVec.ofNat 8 m, i, q.delivering, s.upRooms, (s.sess i).gen⟩] }

/-- R485: the voids of every route pipeline of a session. -/
def State.formVoids (s : State) (i : Nat) : State :=
  ((s.sess i).route.map (·.pipe.toNat)).eraseDups.foldl (fun s p => s.formVoid i p) s

/-- R487: the voids held for a pipeline go once its delivery is acknowledged. -/
def State.releaseVoids (s : State) (p : Nat) : State :=
  if (s.pipe p).delivering then s
  else { s with voids := s.voids.map (fun v => if v.pipe.toNat == p then { v with held := false } else v) }

/-- R484: whether a pipeline's delivered step names a session. -/
def Pipe.names (q : Pipe) (i : Nat) : Bool :=
  q.slots.any (fun o => match o with
    | some e => e.sess == i
    | none => false) ||
  q.press.any (fun o => match o with
    | some e => e.sess == i
    | none => false)

/-- R484: whether any step in flight holds a session. -/
def State.stepsHold (s : State) (i : Nat) : Bool :=
  (s.sess i).route.any (fun r => (s.pipe r.pipe.toNat).names i)

/-- The cancellations in progress on a session, urgent ones where `u`. -/
def State.cancelling (s : State) (i : Nat) (u : Bool) : Bool :=
  let h := s.handleOf i
  s.cmds.any (fun c => match c.work with
    | .cancel n urgent => n == h && urgent == u
    | _ => false)

/-- R483: a cancellation completes: the request ends, and every CANCEL in progress on the session completes with
the new GEN. -/
def State.cancelDone (s : State) (i : Nat) (status : Nat) : State :=
  let h := s.handleOf i
  let g := (s.sess i).gen
  s.finishAll (fun c => match c.work with
    | .cancel n _ => n == h
    | _ => false) (fun _ => (status, if status = 0 then [g] else []))

/-- R484, R489: completes the cancellation of a session where its completion tick has come: for an ordinary one
when no step holds the session, for an urgent one when no void of it is outstanding. -/
def State.tryCancel (s : State) (i : Nat) : State :=
  let urgent := s.cancelling i true && s.voids.all (fun v => v.sess != i || v.gen != (s.sess i).gen)
  let ordinary := (s.sess i).state == .ending && !(s.stepsHold i)
  if urgent || ordinary then (s.endTurn i).cancelDone i 0 else s

/-- R481: what begins every cancellation. -/
def State.beginCancel (s : State) (i : Nat) : State :=
  let e := s.sess i
  s.setSess i { e with gen := e.gen + 1, route := e.route.map (fun q => { q with want := false }) }

/-! ### Step reports (R462, R482, R495–R498) -/

/-- A field of a report: NEXT and ADV of slot byte i, or NEXT of press byte e. -/
def repNext (b : Byte) : Nat := b.toNat % 4
/-- ADV. -/
def repAdv (b : Byte) : Nat := b.toNat / 4 % 16

/-- R462: the byte offset of the first malformed field of a report. -/
def malformed (q : Pipe) (l : List Byte) : Option Nat :=
  let b (i : Nat) : Byte := l.getD i 0
  let slotBad (i : Nat) : Bool :=
    let x := b (8 + i)
    let w := match q.slots.getD i none with
      | some e => e.width
      | none => 0
    decide (2 ≤ repNext x) || decide (8 < repAdv x) || decide (x.toNat / 64 ≠ 0) ||
      (w == 0 && (repNext x != 0 || repAdv x != 0)) || decide (w < repAdv x)
  let pressBad (i : Nat) : Bool :=
    let x := b (16 + i)
    decide (2 ≤ repNext x) || decide (x.toNat / 4 ≠ 0) || ((q.press.getD i none).isNone && repNext x != 0)
  (List.range 32).find? (fun i =>
    if i < 5 then false
    else if i < 8 then b i != 0
    else if i < 16 then slotBad (i - 8)
    else if i < 19 then pressBad (i - 16)
    else b i != 0)

/-- R495: whether a verification is low. -/
def lowVerif (athr w a : Nat) : Bool := decide (a < min athr (w - 1))

/-- R496, R497: a tracker after an applied report of a slot group; with whether drafting turned off, and on. -/
def Tracker.update (t : Tracker) (athr w adv : Nat) : Tracker × Bool × Bool :=
  if t.on then
    if 2 ≤ w then
      if lowVerif athr w (adv - 1) then
        if t.low + 1 = 16 then (⟨false, 0, 0⟩, true, false) else ({ t with low := t.low + 1 }, false, false)
      else ({ t with low := 0 }, false, false)
    else (t, false, false)
  else if t.wait + 1 = 256 then (⟨true, 0, 256⟩, false, true)
  else ({ t with wait := t.wait + 1 }, false, false)

/-- R498: advances the counters of a pipeline: n verifications, drafts offered and accepted, turn-offs, retries. -/
def State.countSpec (s : State) (p : Nat) (ns : List Nat) : State :=
  let q := s.pipe p
  let step (c : Word) (b n : Nat) : Word × Bool × Bool :=
    let r := bump c n
    (r.1, r.2 || q.ovf.getLsbD b, r.2 && !(q.ovf.getLsbD b))
  let v := step q.verif 0 (ns.getD 0 0)
  let o := step q.offered 1 (ns.getD 1 0)
  let a := step q.accepted 2 (ns.getD 2 0)
  let t := step q.turnoff 3 (ns.getD 3 0)
  let r := step q.retry 4 (ns.getD 4 0)
  let bits := [v, o, a, t, r].zipIdx.foldl (fun m x => if x.1.2.1 then m + 2 ^ x.2 else m) 0
  let s := s.setPipe p { q with verif := v.1, offered := o.1, accepted := a.1, turnoff := t.1, retry := r.1
                                ovf := BitVec.ofNat 5 bits }
  s.limitAt modulePath ([v, o, a, t, r].any (fun x => x.2.2))

/-- R461, R482, R497: applies the entry of one slot group. -/
def State.applySlot (s : State) (p : Nat) (x : SlotEnt) (b : Byte) : State :=
  let e := s.sess x.sess
  match e.route[x.rpos]? with
  | none => s
  | some q =>
    if q.pipe.toNat ≠ p then s
    else if e.gen ≠ x.gen ∨ e.state = .free then
      s.setSess x.sess { e with route := e.route.set x.rpos { q with want := false } }
    else
      let t := q.trk.update (s.goals e.cls).athr x.width (repAdv b)
      let q := { q with want := repNext b == 1, pos := q.pos + BitVec.ofNat 32 (repAdv b), trk := t.1 }
      let s := s.setSess x.sess { e with route := e.route.set x.rpos q }
      let ver := if 2 ≤ x.width then 1 else 0
      s.countSpec p [ver, ver * (x.width - 1), ver * (repAdv b - 1), if t.2.1 then 1 else 0, if t.2.2 then 1 else 0]

/-- R461, R482: applies the entry of one press entry; `also` keeps the WANT of a slot of the same step. -/
def State.applyPressEnt (s : State) (p : Nat) (also : Bool) (x : PressEnt) (b : Byte) : State :=
  let e := s.sess x.sess
  match e.route[x.rpos]? with
  | none => s
  | some q =>
    if q.pipe.toNat ≠ p then s else
    let q := { q with want := (also && q.want) || (e.gen == x.gen && e.state != .free && repNext b == 1) }
    s.setSess x.sess { e with route := e.route.set x.rpos q }

/-- R462, R567: the report-mismatch record. -/
def State.reportFault (s : State) (r : PipeRec) (sub : Nat) (l : List Byte) (off : Nat) : State :=
  s.record (s.unitRec modulePath 0x77 sub 0 5 r.home
    (leBytes 1 r.pipe ++ leBytes 4 (s.pipe r.pipe).step.toNat ++ l.take 4 ++ leBytes 1 (l.getD 4 0).toNat ++ leBytes 1 off))

/-- R462–R469: a step report of pipeline p, applied or discarded; the boundary follows. -/
def State.report (s : State) (r : PipeRec) (l : List Byte) : State :=
  let p := r.pipe
  let q := s.pipe p
  if leNat (l.take 4) ≠ q.step.toNat ∨ (l.getD 4 0).toNat ≠ p then
    let s := s.reportFault r 1 l 0xFF
    s.setPipe p { s.pipe p with waitFault := true }
  else match malformed q l with
  | some off =>
    let s := s.reportFault r 2 l off
    s.setPipe p { s.pipe p with waitFault := true }
  | none =>
    let s := q.slots.zipIdx.foldl (fun s x => match x.1 with
      | some e => if e.width = 0 then s else s.applySlot p e (l.getD (8 + x.2) 0)
      | none => s) s
    let s := q.press.zipIdx.foldl (fun s x => match x.1 with
      | some e =>
        let also := q.slots.any (fun o => match o with
          | some y => y.sess == e.sess && y.rpos == e.rpos
          | none => false)
        s.applyPressEnt p also e (l.getD (16 + x.2) 0)
      | none => s) s
    let names := ((q.slots.filterMap (·.map (·.sess))) ++ (q.press.filterMap (·.map (·.sess)))).eraseDups
    let q' := s.pipe p
    let iv := match q'.lastReport with
      | some t => (q'.intervals ++ [s.pkt - t]).drop (q'.intervals.length + 1 - 64)
      | none => q'.intervals
    let s := s.setPipe p { q' with step := q'.step + 1, slots := [], press := [], sends := [], lastReport := some s.pkt
                                   intervals := iv }
    let s := names.foldl (fun s i => s.tryCancel i) s
    s.boundary r

/-! ### Slot tables at tiles (R220, R464) -/

/-- R464: a DELIVER at a tile: answers the tile, whether it counts the packet as accepted, and the fault code of an access refused.
R292, R337: words that came poisoned, with origin `o`, are written so. -/
def Tile.deliver (t : Tile) (p : Packet) (line : Nat) (o : Origin) : Tile × Bool × Option Nat :=
  let pipe := (p.payload.getD 4 0)
  if t.pipe ≠ pipe ∨ pipe = 0xFF then (t, true, none)
  else
    let ls := (List.range 5).map (· + line)
    let a := line * 32
    if ls.all (fun l => t.tag l) && (memRead t.attic a 5 == p.payload.take 5) then (t, true, none)
    else if ls.any (fun l => (t.shelfOf l).isNone || (t.shelfOf l).any (fun h => !h.inbound)) ||
        !(t.admits p.src false true line (line + 4)) then (t, false, some 0x61)
    else if ls.any (fun l => t.tag l) then (t, false, none)
    else
      let t := (t.servicePut a (padTo 160 p.payload) p.poison (some o)).usePort 160
      let sets := (List.range 8).filterMap (fun i =>
        let e := (p.payload.drop (32 + 16 * i)).take 16
        if leNat ((e.drop 12).take 2) = 0xFFFF then none else some (i, some (e.getD 14 0)))
      ({ t with slotEvs := t.slotEvs ++ sets }, true, none)

/-- A DELIVER reaches a target tile, whose reply goes to its floor's combiner, or to its source for a
unicast. -/
def State.deliverAt (s : State) (t : Nat) (p : Packet) : State :=
  let me : Src := .tile (Fin.ofNat 307200 t)
  let line := match p.tgt with
    | .multi m => m.line.toNat
    | .uni u => u.line.toNat
    | _ => 0
  let r := (s.tile t).deliver p line (s.flitOrigin t p)
  let s := s.putTile t r.1
  let s := match r.2.2 with
    | some code => s.refuse t p false true (line * 32) 160 code 1 false
    | none => s
  s.sendReply t p (if r.2.1 then p.answer .ack me 0 [] [] else p.answer .refused me 1 [] [])

/-- R464, R567: a floor's answer to a slot table: acknowledged, to be sent again, or abandoned after 16 sends. -/
def State.tableReply (s : State) (p k f refusals : Nat) (dropped : Bool) : State :=
  let q := s.pipe p
  let hit (x : FloorSend) : Bool := x.cover == k && x.floor == f
  let s := if 0 < refusals then
      s.record (s.unitRec (floorPath f) 0x78 0 0 5 ((s.pipeRec p).map (·.home) |>.getD 0)
        (leBytes 1 p ++ leBytes 1 f ++ leBytes 4 refusals))
    else s
  let s := s.setPipe p { q with sends := q.sends.map (fun x =>
    if !(hit x) then x
    else if dropped then { x with abandoned := true }
    else if refusals = 0 then { x with acked := true }
    else if 16 ≤ x.sends then { x with abandoned := true }
    else { x with due := true }) }
  s.releaseVoids p

/-- R358, R671: one reply of a multicast, for the floor it names; the first one counts. -/
def State.edgeFloor (s : State) (r : EdgeReq) (f refusals : Nat) (dropped : Bool) : State :=
  if !(r.floors.contains f) then s
  else
    let r' := { r with floors := r.floors.erase f, partial_ := r.partial_ || dropped || decide (0 < refusals) }
    let s := if r'.floors.isEmpty then
        { s with edgeReqs := s.edgeReqs.filter (fun q => !(q.die == r.die && q.etag == r.etag))
                 mcOutcome := Tbl.set 0 s.mcOutcome r.die.val (if r'.partial_ then 2 else 1) }
      else s.setEdgeReq r'
    let s := if dropped then s.event (floorPath f) evBranchDrop else s
    match r.purpose with
    | .table p k => s.tableReply p k f refusals dropped
    | _ => s

/-- R464: sends a floor's table packet again. -/
def State.resendTable (s : State) (p f : Nat) : State :=
  match s.pipeRec p with
  | none => s
  | some r => ((s.pipe p).sends.filter (fun x => x.floor == f && x.due)).foldl (fun s x =>
      match r.cover[x.cover]? with
      | some m => s.sendTable r x.cover m [f]
      | none => s) s

/-! ### Output rings (R458, R505) -/

/-- R505: the free bytes of a host output ring. -/
def OutRing.free (r : OutRing) : Nat := (if r.size = 0 then 0 else 2 ^ r.size) - r.used

/-- R505: the pieces of an entry in the ring, which may wrap: (offset, bytes). -/
def ringPieces (size tail : Nat) (b : List Byte) : List (Nat × List Byte) :=
  let n := 2 ^ size
  if tail + b.length ≤ n then [(tail, b)] else [(tail, b.take (n - tail)), (0, b.drop (n - tail))]

/-- R505, R651: writes an output record to a session's host output ring, its shadow tail and its vector; `none` where
the ring has no room or the port is in D3hot (R653). -/
def State.hostOutput (s : State) (i kind : Nat) (gen : Byte) (payload : List Byte) : Option State :=
  let e := s.sess i
  let d := sessDie i
  let r := (s.die d).outRing e.oring
  let n := (payload.length + 15) / 16 * 16
  if r.free < 16 + n ∨ r.size = 0 ∨ (s.die d).d3 then none
  else
    let b := leBytes 4 (s.handleOf i).toNat ++ [gen] ++ leBytes 1 kind ++ leBytes 2 payload.length ++
      leBytes 8 s.pkt ++ padTo n payload
    let tail := (r.tail + b.length) % 2 ^ r.size
    let s := s.setDie d ((s.die d).setOut e.oring { r with tail := tail, used := r.used + b.length })
    let s := (ringPieces r.size r.tail b).foldl (fun s q => s.emitWrite d (r.base + BitVec.ofNat 64 q.1) q.2) s
    let s := s.emit d (.write r.shadow (leBytes 8 tail))
    some (s.signal d (16 + e.oring))

/-- The session that a seat of a pipeline is bound to, with its route position. -/
def State.seatOwner (s : State) (p seat : Nat) : Option (Nat × Nat) :=
  s.ledger.findSome? (fun (i, e) =>
    if e.state == .free then none
    else (e.route.zipIdx.find? (fun q => q.1.pipe.toNat == p && q.1.seat.toNat == seat)).map (fun q => (i, q.2)))

/-- R457, R458, R459, R471: one whole output record of pipeline p: passed to the host, forwarded, taken as an end
of turn, or dropped; `none` where the host output ring is full. -/
def State.outputRecord (s : State) (r : PipeRec) (l : List Byte) (poi : Bool) : Option State :=
  let seat := leNat (l.take 2)
  let gen := l.getD 2 0
  let kind := (l.getD 3 0).toNat
  let rows := leNat ((l.drop 4).take 2)
  let bytes := leNat ((l.drop 6).take 2)
  let payload := (l.drop 8).take bytes
  let drop := some (s.bumpDie r.home 3)
  match s.seatOwner r.pipe seat with
  | none => drop
  | some (i, pos) =>
    let e := s.sess i
    if e.gen ≠ gen ∨ e.state = .ending ∨ e.state = .closing then drop
    else if kind = 3 then
      if pos + 1 < e.routeLen then some (s.putRecord i (pos + 1) 2 rows payload poi).1 else some (s.bumpDie r.home 4)
    else if kind = 4 then
      if pos + 1 = e.routeLen then
        match s.hostOutput i kind gen payload with
        | none => none
        | some s =>
          let e := s.sess i
          let s := if e.leadt || !(e.state == .thinking || e.state == .speaking) then s else s.recordTtft i
          some (s.endTurn i)
      else drop
    else if 6 ≤ kind then drop
    else (s.hostOutput i kind gen payload).map (fun s => s.hostWrote i kind bytes)

/-- The lines a record occupies (R456). -/
def recLen (l : List Byte) : Nat := (8 + leNat ((l.drop 6).take 2) + 31) / 32

/-- R458: reads output lines while a record is incomplete and its next line is full; a line that is empty bounces. -/
def State.readOutput : Nat → State → PipeRec → State
  | 0, s, _ => s
  | k + 1, s, r =>
    let q := s.pipe r.pipe
    let whole := !q.outPart.isEmpty && decide (32 * recLen q.outPart ≤ q.outPart.length)
    if whole then
      match s.outputRecord r q.outPart false with
      | none => s.setPipe r.pipe { q with outHeld := true }
      | some s => s.setPipe r.pipe { s.pipe r.pipe with outPart := [], outHeld := false }
    else
      let w := s.dieRead r.home (pathTile r.opath) (r.oline + q.outLine)
      match w.2 with
      | none => w.1
      | some l =>
        State.readOutput k (w.1.setPipe r.pipe { q with
          outPart := q.outPart ++ l, outLine := if q.outLine + 1 = r.olen then 0 else q.outLine + 1 }) r

end Sys2Proof.Machine
end

