-- ==== Sys2Proof/Machine/Crypto.lean ====
section
/-! DEFINITION. Check and digest functions: CRC-32C, CRC-64 (R421), SHA-256, SHA-384, AES-256-GCM (R422) and
ECDSA P-384 (R670). The manual names these public standards; their figures are the standards' own. -/

namespace Sys2Proof.Machine

/-! ### Byte strings as big-endian integers (R670) -/

/-- The value of big-endian bytes. -/
def beNat (l : List Byte) : Nat := l.foldl (fun a b => 256 * a + b.toNat) 0
/-- n big-endian bytes of a value. -/
def beBytes (n v : Nat) : List Byte := (leBytes n v).reverse

/-! ### CRCs -/

/-- One step of a reflected CRC for one bit. -/
def crcBit (poly c : Nat) : Nat := if c % 2 = 1 then (c / 2) ^^^ poly else c / 2
/-- A byte of a reflected CRC. -/
def crcByte (poly c : Nat) (b : Byte) : Nat :=
  let x := c ^^^ b.toNat
  (List.range 8).foldl (fun c _ => crcBit poly c) x
/-- CRC-32C: the Castagnoli polynomial, reflected, initial value and final XOR all ones. -/
def crc32c (l : List Byte) : Nat := l.foldl (crcByte 0x82F63B78) 0xFFFFFFFF ^^^ 0xFFFFFFFF
/-- R421: CRC-64 of ECMA-182, reflected, initial value and final XOR all ones. -/
def crc64 (l : List Byte) : Nat :=
  l.foldl (crcByte 0xC96C5795D7870F42) 0xFFFFFFFFFFFFFFFF ^^^ 0xFFFFFFFFFFFFFFFF

/-! ### SHA-256 and SHA-384 -/

/-- The e-th root of v, rounded down, whose bits from n - 1 down are still to be found; r holds those above. -/
def rootDown (e v : Nat) : Nat → Nat → Nat
  | 0, r => r
  | n + 1, r => rootDown e v n (if (r + 2 ^ n) ^ e ≤ v then r + 2 ^ n else r)

/-- The first 64 bits of the fractional part of the e-th root of p, for a root below 8. -/
def rootFraction (e p : Nat) : Nat := rootDown e (p * 2 ^ (64 * e)) 67 0 % 2 ^ 64

/-- The primes below 410, of which there are 80. -/
def shaPrimes : List Nat :=
  (List.range 410).filter (fun n => decide (2 ≤ n) && (List.range 19).all (fun d => n ≤ d + 2 || n % (d + 2) != 0))

/-- The round constants of SHA-384: the cube roots of the first 80 primes. -/
def sha512K : List Nat := shaPrimes.map (rootFraction 3)
/-- The round constants of SHA-256: the first halves of the first 64 of them. -/
def sha256K : List Nat := (sha512K.take 64).map (· / 2 ^ 32)
/-- The initial value of SHA-256: the square roots of the first eight primes. -/
def sha256H : List Nat := (shaPrimes.take 8).map (fun p => rootFraction 2 p / 2 ^ 32)
/-- The initial value of SHA-384: the square roots of the ninth to sixteenth primes. -/
def sha384H : List Nat := ((shaPrimes.drop 8).take 8).map (rootFraction 2)

/-- Rotation of a w-bit word to the right. -/
def rotr (w n x : Nat) : Nat := (x / 2 ^ n) ||| (x * 2 ^ (w - n) % 2 ^ w)

/-- What distinguishes the two digests: word width, rounds, and the rotation amounts of the four functions (the
third of each small function is a shift). -/
structure ShaParams where
  w : Nat
  s0 : Nat × Nat × Nat
  s1 : Nat × Nat × Nat
  e0 : Nat × Nat × Nat
  e1 : Nat × Nat × Nat
  k : List Nat

/-- SHA-256. -/
def sha256P : ShaParams := ⟨32, (7, 18, 3), (17, 19, 10), (2, 13, 22), (6, 11, 25), sha256K⟩
/-- SHA-384. -/
def sha512P : ShaParams := ⟨64, (1, 8, 7), (19, 61, 6), (28, 34, 39), (14, 18, 41), sha512K⟩

/-- A small function: two rotations and a shift. -/
def shaSmall (w : Nat) (r : Nat × Nat × Nat) (x : Nat) : Nat := rotr w r.1 x ^^^ rotr w r.2.1 x ^^^ (x / 2 ^ r.2.2)
/-- A large function: three rotations. -/
def shaLarge (w : Nat) (r : Nat × Nat × Nat) (x : Nat) : Nat := rotr w r.1 x ^^^ rotr w r.2.1 x ^^^ rotr w r.2.2 x

/-- The message schedule: the last sixteen words, newest first, extended by n words; answers all words in
order. -/
def shaSchedule (p : ShaParams) : Nat → List Nat → List Nat
  | 0, _ => []
  | n + 1, last =>
    let w := (shaSmall p.w p.s1 (last.getD 1 0) + last.getD 6 0 + shaSmall p.w p.s0 (last.getD 14 0) + last.getD 15 0) % 2 ^ p.w
    w :: shaSchedule p n (w :: last.take 15)

/-- One round. -/
def shaRound (p : ShaParams) (v : List Nat) (kw : Nat × Nat) : List Nat :=
  match v with
  | [a, b, c, d, e, f, g, h] =>
    let ch := (e &&& f) ^^^ ((2 ^ p.w - 1 - e) &&& g)
    let maj := (a &&& b) ^^^ (a &&& c) ^^^ (b &&& c)
    let t1 := h + shaLarge p.w p.e1 e + ch + kw.1 + kw.2
    let t2 := shaLarge p.w p.e0 a + maj
    [(t1 + t2) % 2 ^ p.w, a, b, c, (d + t1) % 2 ^ p.w, e, f, g]
  | v => v

/-- One block of 16 words. -/
def shaBlock (p : ShaParams) (h : List Nat) (m : List Nat) : List Nat :=
  let ws := m ++ shaSchedule p (p.k.length - 16) m.reverse
  let v := (p.k.zip ws).foldl (shaRound p) h
  (h.zip v).map (fun q => (q.1 + q.2) % 2 ^ p.w)

/-- The padded message. -/
def shaPad (block lenBytes : Nat) (l : List Byte) : List Byte :=
  let z := (block - (l.length + 1 + lenBytes) % block) % block
  l ++ [0x80] ++ List.replicate z 0 ++ beBytes lenBytes (8 * l.length)

/-- n big-endian words of b bytes. -/
def beWords (b : Nat) : Nat → List Byte → List Nat
  | 0, _ => []
  | n + 1, l => beNat (l.take b) :: beWords b n (l.drop b)

/-- The blocks of a padded message. -/
def shaBlocks (p : ShaParams) (b : Nat) : Nat → List Byte → List Nat → List Nat
  | 0, _, h => h
  | n + 1, l, h => shaBlocks p b n (l.drop (16 * b)) (shaBlock p h (beWords b 16 (l.take (16 * b))))

/-- SHA-256 as 32 bytes. -/
def sha256 (l : List Byte) : List Byte :=
  let m := shaPad 64 8 l
  (shaBlocks sha256P 4 (m.length / 64) m sha256H).flatMap (beBytes 4)
/-- SHA-384 as 48 bytes. -/
def sha384 (l : List Byte) : List Byte :=
  let m := shaPad 128 16 l
  ((shaBlocks sha512P 8 (m.length / 128) m sha384H).take 6).flatMap (beBytes 8)

/-! ### AES-256-GCM -/

/-- Doubling in the field of AES. -/
def gfDbl (x : Nat) : Nat := if x < 128 then 2 * x else (2 * x - 256) ^^^ 0x1B
/-- Multiplication in the field of AES. -/
def gfMul (x y : Nat) : Nat :=
  ((List.range 8).foldl (fun (a : Nat × Nat) i => (if y.testBit i then a.1 ^^^ a.2 else a.1, gfDbl a.2)) (0, x)).1
/-- The inverse: the 254th power. -/
def gfInv (x : Nat) : Nat :=
  let x2 := gfMul x x
  let x3 := gfMul x2 x
  let x6 := gfMul x3 x3
  let x7 := gfMul x6 x
  let sq (n : Nat) (y : Nat) : Nat := (List.range n).foldl (fun y _ => gfMul y y) y
  let x14 := gfMul x7 x7
  let x15 := gfMul x14 x
  let x240 := sq 4 x15
  gfMul x240 x14
/-- The substitution box. -/
def aesSub (x : Nat) : Nat :=
  let y := gfInv x
  let rot (k : Nat) : Nat := (y * 2 ^ k % 256) ||| (y / 2 ^ (8 - k))
  y ^^^ rot 1 ^^^ rot 2 ^^^ rot 3 ^^^ rot 4 ^^^ 0x63

/-- The key schedule of a 256-bit key: words i … of four bytes, newest first, n more. -/
def aesExpand : Nat → Nat → Nat → List (List Nat) → List (List Nat)
  | 0, _, _, ws => ws
  | n + 1, i, rcon, ws =>
    let prev := ws.getD 0 []
    let old := ws.getD 7 []
    let t := if i % 8 = 0 then
        (match (prev.drop 1 ++ prev.take 1).map aesSub with
          | a :: l => (a ^^^ rcon) :: l
          | [] => [])
      else if i % 8 = 4 then prev.map aesSub else prev
    let w := (old.zip t).map (fun q => q.1 ^^^ q.2)
    aesExpand n (i + 1) (if i % 8 = 0 then gfDbl rcon else rcon) (w :: ws)

/-- The sixty words of the key schedule, as fifteen round keys of sixteen bytes. -/
def aesKeys (key : List Byte) : List (List Nat) :=
  let k := key.map BitVec.toNat
  let first := (List.range 8).map (fun i => (k.drop (4 * i)).take 4)
  let ws := (aesExpand 52 8 1 first.reverse).reverse
  (List.range 15).map (fun r => ((ws.drop (4 * r)).take 4).flatten)

/-- ShiftRows on sixteen bytes in column order. -/
def aesShift (s : List Nat) : List Nat := (List.range 16).map (fun i => s.getD ((i + 4 * (i % 4)) % 16) 0)
/-- MixColumns. -/
def aesMix (s : List Nat) : List Nat :=
  (List.range 16).map (fun i =>
    let c (j : Nat) : Nat := s.getD (4 * (i / 4) + (i + j) % 4) 0
    gfDbl (c 0) ^^^ gfDbl (c 1) ^^^ c 1 ^^^ c 2 ^^^ c 3)
/-- The XOR of byte lists. -/
def xorList (a b : List Nat) : List Nat := (a.zip b).map (fun q => q.1 ^^^ q.2)

/-- AES-256 of one block. -/
def aesBlock (keys : List (List Nat)) (b : List Nat) : List Nat :=
  let s := xorList b (keys.getD 0 [])
  let s := (List.range 13).foldl (fun s r => xorList (aesMix (aesShift (s.map aesSub))) (keys.getD (r + 1) [])) s
  xorList (aesShift (s.map aesSub)) (keys.getD 14 [])

/-- Multiplication in the field of GCM, on 128-bit values whose first bit is the most significant. -/
def ghMul (x y : Nat) : Nat :=
  ((List.range 128).foldl (fun (a : Nat × Nat) i =>
    (if x.testBit (127 - i) then a.1 ^^^ a.2 else a.1,
     if a.2 % 2 = 1 then (a.2 / 2) ^^^ (0xE1 * 2 ^ 120) else a.2 / 2)) (0, y)).1

/-- The 16-byte pieces of a byte list, the last filled with zeros. -/
def blocks16 (l : List Byte) : List (List Byte) :=
  (List.range ((l.length + 15) / 16)).map (fun i => ((l.drop (16 * i) ++ List.replicate 16 0).take 16))

/-- GHASH. -/
def ghash (h : Nat) (l : List (List Byte)) : Nat := l.foldl (fun y b => ghMul (y ^^^ beNat b) h) 0

/-- The key stream of counter mode over n blocks from a counter. -/
def gcmStream (keys : List (List Nat)) (iv : List Byte) (n : Nat) : List Byte :=
  (List.range n).flatMap (fun i => (aesBlock keys ((iv ++ beBytes 4 (i + 2)).map BitVec.toNat)).map (BitVec.ofNat 8))

/-- AES-256-GCM decryption: the plaintext where the tag matches. -/
def gcmOpen (key iv aad cipher tag : List Byte) : Option (List Byte) :=
  let keys := aesKeys key
  let h := beNat ((aesBlock keys (List.replicate 16 0)).map (BitVec.ofNat 8))
  let g := ghash h (blocks16 aad ++ blocks16 cipher ++ [beBytes 8 (8 * aad.length) ++ beBytes 8 (8 * cipher.length)])
  let e := beNat ((aesBlock keys ((iv ++ beBytes 4 1).map BitVec.toNat)).map (BitVec.ofNat 8))
  if beBytes 16 (g ^^^ e) = tag then
    let ks := gcmStream keys iv ((cipher.length + 15) / 16)
    some ((cipher.zip ks).map (fun q => q.1 ^^^ q.2))
  else none

/-! ### ECDSA over P-384 -/

/-- The prime of P-384. -/
def p384P : Nat := 2 ^ 384 - 2 ^ 128 - 2 ^ 96 + 2 ^ 32 - 1
/-- The order of P-384. -/
def p384N : Nat :=
  0xFFFFFFFFFFFFFFFFFFFFFFFFFFFFFFFFFFFFFFFFFFFFFFFFC7634D81F4372DDF581A0DB248B0A77AECEC196ACCC52973
/-- The coefficient b of P-384. -/
def p384B : Nat :=
  0xB3312FA7E23EE7E4988E056BE3F82D19181D9C6EFE8141120314088F5013875AC656398D8A2ED19D2A85C8EDD3EC2AEF
/-- The base point of P-384. -/
def p384G : Nat × Nat :=
  (0xAA87CA22BE8B05378EB1C71EF320AD746E1D3B628BA79B9859F741E082542A385502F25DBF55296C3A545E3872760AB7,
   0x3617DE4A96262C6F5D9E98BF9292DC29F8F41DBD289A147CE9DA3113B5F0B8C00A60B1CE1D7E819D7A431D7C90EA0E5F)

/-- a to the power e modulo m, over the low n bits of e from the top. -/
def powMod (m a e : Nat) : Nat → Nat
  | 0 => 1 % m
  | n + 1 =>
    let r := powMod m a (e / 2) n
    let s := r * r % m
    if e % 2 = 1 then s * a % m else s
/-- The inverse modulo a prime. -/
def invMod (m a : Nat) : Nat := powMod m a (m - 2) 384

/-- Addition of points; `none` is the point at infinity. -/
def ecAdd (a b : Option (Nat × Nat)) : Option (Nat × Nat) :=
  match a, b with
  | none, b => b
  | a, none => a
  | some (x1, y1), some (x2, y2) =>
    let p := p384P
    if x1 = x2 ∧ (y1 + y2) % p = 0 then none
    else
      let l := if x1 = x2 then (3 * x1 * x1 + (p - 3)) * invMod p (2 * y1) % p
        else (y2 + p - y1) * invMod p (x2 + p - x1) % p
      let x3 := (l * l + 2 * p - x1 - x2) % p
      some (x3, (l * (x1 + p - x3) + p - y1) % p)

/-- k times a point, over the low n bits of k. -/
def ecMul (q : Option (Nat × Nat)) (k : Nat) : Nat → Option (Nat × Nat)
  | 0 => none
  | n + 1 =>
    let r := ecMul q (k / 2) n
    let s := ecAdd r r
    if k % 2 = 1 then ecAdd s q else s

/-- Whether coordinates name a point of the curve. -/
def onCurve (x y : Nat) : Bool :=
  decide (x < p384P) && decide (y < p384P) &&
  decide (y * y % p384P = (x * x * x + (p384P - 3) * x + p384B) % p384P)

/-- R670: a key's halves. -/
def keyHalves (k : BitVec 768) : Nat × Nat := (k.toNat / 2 ^ 384, k.toNat % 2 ^ 384)
/-- 96 bytes as a key or signature. -/
def key768 (l : List Byte) : BitVec 768 := BitVec.ofNat 768 (beNat l)
/-- The 96 bytes of a key. -/
def keyBytes (k : BitVec 768) : List Byte := beBytes 96 k.toNat

/-- ECDSA P-384 verification of a signature over a SHA-384 digest. -/
def ecdsaOk (key sig : BitVec 768) (digest : List Byte) : Bool :=
  let (x, y) := keyHalves key
  let (r, s) := keyHalves sig
  if r = 0 ∨ p384N ≤ r ∨ s = 0 ∨ p384N ≤ s ∨ !(onCurve x y) then false
  else
    let w := invMod p384N s
    let u := ecAdd (ecMul (some p384G) (beNat digest * w % p384N) 384) (ecMul (some (x, y)) (r * w % p384N) 384)
    match u with
    | none => false
    | some (x, _) => x % p384N == r

end Sys2Proof.Machine
end

