-- ==== Sys2Proof/Machine/Weights.lean ====
section
/-! DEFINITION. Weights, residency and adapters (chapter 14): crates and manifests (R419–R427), the unpacker's checks
(R428–R430), re-requests (R431, R432), inventory entries (R433–R439), the digest store and re-verification
(R440, R441), and adapter banks (R442–R446). -/

namespace Sys2Proof.Machine

/-! ### Crates (R419–R424) -/

/-- R419: the header of a crate. -/
structure CrateHdr where
  magic : Nat
  vmaj : Nat
  vmin : Nat
  kind : Nat
  flags : Nat
  ident : Nat
  number : Nat
  count : Nat
  blen : Nat
  nrec : Nat
  key : Nat
  rsv : Nat
  iv : List Byte
  gtag : List Byte
  deriving DecidableEq, Repr

/-- A field of n bytes at an offset of a byte list. -/
def fieldAt (l : List Byte) (a n : Nat) : Nat := leNat ((l.drop a).take n)

/-- The header of the bytes of a crate. -/
def crateHdr (l : List Byte) : CrateHdr :=
  { magic := fieldAt l 0 4, vmaj := fieldAt l 4 1, vmin := fieldAt l 5 1, kind := fieldAt l 6 1
    flags := fieldAt l 7 1, ident := fieldAt l 8 8, number := fieldAt l 16 4, count := fieldAt l 20 4
    blen := fieldAt l 24 4, nrec := fieldAt l 28 4, key := fieldAt l 32 1, rsv := fieldAt l 33 3
    iv := (l.drop 36).take 12, gtag := (l.drop 48).take 16 }

/-- The pieces of 4 KiB of a body. -/
def pages (n : Nat) : Nat := (n + 4095) / 4096

/-- R429 check 1: a legal header, a version within the negotiated one, and the length CLEN. -/
def CrateHdr.legal (h : CrateHdr) (minor clen : Nat) : Bool :=
  let enc := h.flags % 2 == 1
  h.magic == 0x5443524B && h.vmaj == 1 && decide (h.vmin ≤ minor) && decide (h.kind ≤ 1) && decide (h.flags < 8) &&
  decide (2 ≤ h.count) && decide (h.count ≤ 65536) && decide (1 ≤ h.blen) && decide (h.blen ≤ 2 ^ 28) &&
  (if h.kind = 0 then h.flags % 4 == 0 && h.nrec == 0 && h.number == 0
   else decide (1 ≤ h.number) && decide (h.number < h.count)) &&
  (if enc then decide (h.key ≤ 3) else h.key == 0 && h.iv.all (· == 0) && h.gtag.all (· == 0)) &&
  h.rsv == 0 && clen == 64 + h.blen + 4 * pages h.blen

/-- R419, R429 check 5: each CRC-32C of the trailer that has come matches its 4 KiB of body. -/
def crcsOk (body trailer : List Byte) : Bool :=
  (List.range (min (pages body.length) (trailer.length / 4))).all (fun i =>
    crc32c ((body.drop (4096 * i)).take 4096) == fieldAt trailer (4 * i) 4)

/-! ### Kreoz pack (R426, R427) -/

/-- R427: tokens, with the chunk's output so far in reverse; `none` is a pack error. `fuel` bounds the tokens. -/
def unpackTokens : Nat → List Byte → List Byte → Option (List Byte)
  | 0, _, _ => none
  | _ + 1, [], out => some out.reverse
  | n + 1, t :: l, out =>
    if t.toNat < 128 then
      if l.length < t.toNat + 1 then none
      else unpackTokens n (l.drop (t.toNat + 1)) ((l.take (t.toNat + 1)).reverse ++ out)
    else
      match l with
      | a :: b :: l =>
        let d := a.toNat + 256 * b.toNat
        if d = 0 ∨ 4096 < d ∨ out.length < d then none
        else
          let out := (List.range (t.toNat % 128 + 3)).foldl (fun (o : List Byte) _ => o.getD (d - 1) 0 :: o) out
          if 4096 < out.length then none else unpackTokens n l out
      | _ => none

/-- R426: one chunk of n output bytes. -/
def unpackChunk (mode n : Nat) (l : List Byte) : Option (List Byte) :=
  match mode with
  | 0 => if l.length = n then some l else none
  | 1 => match l with
    | [b] => some (List.replicate n b)
    | _ => none
  | 2 =>
    if l.length ≠ 16 + (n + 1) / 2 then none
    else some ((List.range n).map (fun i =>
      let b := (l.getD (16 + i / 2) 0).toNat
      l.getD (if i % 2 = 0 then b % 16 else b / 16) 0))
  | _ =>
    if l.length = 0 ∨ 8191 < l.length then none
    else match unpackTokens (l.length + 1) l [] with
      | some o => if o.length = n then some o else none
      | none => none

/-- R426: a packed stream that decodes to n bytes, with the bytes of it left over. -/
def unpack : Nat → Nat → List Byte → Option (List Byte × List Byte)
  | 0, _, _ => none
  | _ + 1, 0, l => some ([], l)
  | k + 1, n, l =>
    match l with
    | a :: b :: l =>
      let w := a.toNat + 256 * b.toNat
      let clen := w / 4
      if l.length < clen then none
      else
        let m := min 4096 n
        match unpackChunk (w % 4) m (l.take clen), unpack k (n - m) (l.drop clen) with
        | some o, some (o', r) => some (o ++ o', r)
        | _, _ => none
    | _ => none

/-! ### Slice records (R423–R425) -/

/-- R423: a slice record. -/
structure SliceRec where
  slice : Nat
  mode : Nat
  sfmt : Nat
  tfmt : Nat
  scsl : Nat
  scoff : Nat
  zero : Bool
  deriving DecidableEq, Repr

/-- The records at the head of a payload. -/
def sliceRecs (n : Nat) (l : List Byte) : List SliceRec :=
  (List.range n).map (fun i =>
    let b := (l.drop (16 * i)).take 16
    { slice := fieldAt b 0 4, mode := fieldAt b 4 1, sfmt := fieldAt b 5 1, tfmt := fieldAt b 6 1
      scsl := fieldAt b 8 4, scoff := fieldAt b 12 2, zero := fieldAt b 7 1 == 0 && fieldAt b 14 2 == 0 })

/-- R424: the bytes of the data stream that a record takes. -/
def SliceRec.takes (r : SliceRec) : Nat :=
  if r.mode = 1 then (if fmtWidth r.tfmt = 4 then 16384 else 8192) else 4096

/-- The bytes of one block scale. -/
def scaleBytes (tfmt : Nat) : Nat := if tfmt ≤ 2 then 1 else 2
/-- The scale bytes that a record writes: (slice, offset, length). -/
def SliceRec.scales (r : SliceRec) : Option (Nat × Nat × Nat) :=
  if r.mode = 1 then some (r.scsl, r.scoff, r.takes / 64 * scaleBytes r.tfmt) else none

/-- R423, R424: whether a record is legal in a set of n slices. -/
def SliceRec.ok (r : SliceRec) (n : Nat) : Bool :=
  decide (r.slice < n) && r.zero &&
  (if r.mode = 0 then r.sfmt == 0 && r.tfmt == 0 && r.scsl == 0 && r.scoff == 0
   else r.mode == 1 && (r.sfmt == 7 || r.sfmt == 8) && decide (r.tfmt ≤ 4) && decide (r.scsl < n) &&
     r.scoff % scaleBytes r.tfmt == 0 &&
     decide (r.scoff + r.takes / 64 * scaleBytes r.tfmt ≤ 4096))

/-- R425: whether no two scale writes overlap. -/
def scalesApart : List (Nat × Nat × Nat) → Bool
  | [] => true
  | a :: l => l.all (fun b => a.1 != b.1 || decide (a.2.1 + a.2.2 ≤ b.2.1) || decide (b.2.1 + b.2.2 ≤ a.2.1)) && scalesApart l

/-- Whether numbers rise strictly. -/
def rising : List Nat → Bool
  | a :: b :: l => decide (a < b) && rising (b :: l)
  | _ => true

/-- R429 check 9: the records of crate c satisfy R423 to R425, given what other crates of the set wrote. -/
def recordsOk (rs : List SliceRec) (n c : Nat) (wrote : Tbl Nat) : Bool :=
  let own := rs.map (·.slice)
  let sc := rs.filterMap SliceRec.scales
  rs.all (fun r => r.ok n) && rising own && scalesApart sc &&
  sc.all (fun x => !(own.contains x.1)) &&
  (own ++ sc.map (·.1)).all (fun x => let w := Tbl.get 0 wrote x
    w == 0 || w == c)

/-- R424: the slice bytes and scale bytes that a quantise record makes of its part of the stream. -/
def quantSlice (sfmt tfmt : Nat) (l : List Byte) : List Byte × List Byte :=
  let elems := (List.range (l.length / 2)).map (fun i => decodeFmt sfmt (fieldAt l (2 * i) 2))
  let blocks := (List.range (elems.length / 32)).map (fun j => quantBlock tfmt 0 ((elems.drop (32 * j)).take 32))
  let codes := blocks.flatMap (·.2)
  let packed := if fmtWidth tfmt = 4 then
      (List.range (codes.length / 2)).map (fun i => BitVec.ofNat 8 (codes.getD (2 * i) 0 + 16 * codes.getD (2 * i + 1) 0))
    else codes.map (BitVec.ofNat 8)
  (packed, blocks.flatMap (fun b => leBytes (scaleBytes tfmt) b.1))

/-- R423, R424: what records write from their stream: (slice, offset, bytes). -/
def recordWrites : List SliceRec → List Byte → List (Nat × Nat × List Byte)
  | [], _ => []
  | r :: rs, l =>
    let mine := l.take r.takes
    let w := if r.mode = 1 then
        let q := quantSlice r.sfmt r.tfmt mine
        [(r.slice, 0, q.1), (r.scsl, r.scoff, q.2)]
      else [(r.slice, 0, mine)]
    w ++ recordWrites rs (l.drop r.takes)

/-- The 4,096 bytes of a slice after its writes. -/
def sliceBytes (ws : List (Nat × Nat × List Byte)) (s : Nat) : List Byte :=
  (ws.filter (fun w => w.1 == s)).foldl (fun (b : List Byte) w => b.take w.2.1 ++ w.2.2 ++ b.drop (w.2.1 + w.2.2.length))
    (List.replicate 4096 0)

/-! ### Sets (R430–R432) -/

/-- A set that crates are for: an inventory entry or a bank number (2·slot + bank). -/
inductive SetId where
  | model (e : Nat)
  | bank (i : Nat)
  deriving DecidableEq, Repr

/-- The crate set. -/
def State.crateSet (s : State) : SetId → CrateSet
  | .model e => (s.invOf e).set
  | .bank i => (s.bank i).set
/-- Puts a crate set. -/
def State.setCrateSet (s : State) (k : SetId) (v : CrateSet) : State :=
  match k with
  | .model e => s.setInv e { s.invOf e with set := v }
  | .bank i => s.setBank i { s.bank i with set := v }
/-- The identifier of a set. -/
def State.setIdent (s : State) : SetId → DWord
  | .model e => (s.invOf e).ident
  | .bank i => (s.bank i).ident
/-- The blocks of a set: (tile, block, slice). -/
def State.setPlace (s : State) : SetId → List (Nat × Nat × Nat)
  | .model e => (s.invOf e).place
  | .bank i => (s.bank i).place.zipIdx.map (fun (q : (Nat × Nat) × Nat) => (q.1.1, q.1.2, q.2))
/-- The state of a set's entry: 1 Loading, 2 Incomplete, 4 Repairing (5 for a bank). -/
def State.setState (s : State) : SetId → Nat
  | .model e => (s.invOf e).state
  | .bank i => (s.bank i).state
/-- Whether a set is being repaired. -/
def State.repairing (s : State) (k : SetId) : Bool :=
  match k with
  | .model e => (s.invOf e).state == 4
  | .bank i => (s.bank i).state == 5

/-- R429 check 3, R443: the slice count that a manifest must state. -/
def State.expectSlices (s : State) : SetId → Nat
  | .bank i => (s.bank i).place.length
  | .model e =>
    let v := s.invOf e
    match s.image.bind (fun im => im.models.find? (fun m => m.1 == v.ident)) with
    | some m => m.2
    | none => v.slices

/-- R429 check 2: the set that an identifier names. -/
def State.findSet (s : State) (adapter : Bool) (ident : Nat) : Option SetId :=
  if adapter then
    -- R445 brings a Repairing bank back to Current once its slices verify again, so its crates are taken too
    ((List.range 128).find? (fun i => let b := s.bank i
      (b.state == 1 || b.state == 5) && b.ident.toNat == ident)).map .bank
  else
    ((List.range 16).find? (fun e => let v := s.invOf e
      (v.state == 1 || v.state == 2 || v.state == 4) && v.ident.toNat == ident)).map .model

/-- R272: sets the kind of blocks. -/
def State.setKinds (s : State) (bs : List (Nat × Nat)) (k : Nat) : State :=
  bs.foldl (fun (s : State) (q : Nat × Nat) =>
    let v := s.tile q.1
    s.setTile q.1 { v with kinds := Tbl.set 0 v.kinds q.2 k }) s

/-- Writes a block of a tile's cellar whole. -/
def Tile.writeBlock (t : Tile) (b : Nat) (bytes : List Byte) : Tile := t.store ⟨agService, true, 4096 * b, bytes, [], none⟩
/-- Writes blocks with zeros. -/
def State.zeroBlocks (s : State) (bs : List (Nat × Nat)) : State :=
  bs.foldl (fun (s : State) (q : Nat × Nat) => s.setTile q.1 ((s.tile q.1).writeBlock q.2 (List.replicate 4096 0))) s
/-- The contents of a block. -/
def Tile.block (t : Tile) (b : Nat) : List Byte := memRead t.cellar (4096 * b) 4096

/-- The blocks of a placement, without their slices. -/
def placeBlocks (l : List (Nat × Nat × Nat)) : List (Nat × Nat) := l.map (fun q => (q.1, q.2.1))

/-- R431: the re-request notice of a crate. -/
def State.reRequest (s : State) (k : SetId) (crate code attempt : Nat) : State :=
  s.notice 0x8000 (leBytes 8 (s.setIdent k).toNat ++ leBytes 4 crate ++ leBytes 1 code ++ leBytes 1 attempt)

/-- Completes the RESIDE or ADAPTER LOAD of a set. -/
def State.finishSet (s : State) (k : SetId) (status : Nat) (detail : List Byte) : State :=
  s.finishAll (fun c => match c.work, k with
    | .reside n, .model e => n == e
    | .adapter slot b, .bank i => 2 * slot + b == i
    | _, _ => false) (fun _ => (status, detail))

/-- R432, R434, R445: a load fails: the model becomes Incomplete, or the bank passes through Zeroing; its command
completes with the load-failed status. -/
def State.failSet (s : State) (k : SetId) (crate code : Nat) : State :=
  let s := match k with
    | .model e =>
      let s := s.setKinds (placeBlocks (s.invOf e).place) 3
      s.setInv e { s.invOf e with state := 2 }
    | .bank i => s.zeroBank i
  s.finishSet k 0x0300 (leBytes 4 crate ++ leBytes 1 code)

/-- R431, R432: another request for a crate, or the failure of its set after the fourth. -/
def State.retryCrate (s : State) (k : SetId) (crate code : Nat) : State :=
  let v := s.crateSet k
  let n := Tbl.get 0 v.tries crate
  if 4 ≤ n then s.failSet k crate code
  else
    let v := { v with tries := Tbl.set 0 v.tries crate (n + 1), last := Tbl.set 0 v.last crate code
                      asked := Tbl.set 0 v.asked crate s.pkt }
    (s.setCrateSet k v).reRequest k crate code (n + 1)

/-- R434: the count of slices not verified, or while repairing of the blocks not verified. -/
def State.badOf (s : State) (k : SetId) : Nat :=
  if s.repairing k then ((s.setPlace k).filter (fun q => !(s.digest (64 * q.1 + q.2.1)).v)).length
  else
    let n := match (s.crateSet k).manifest with
      | some m => m.slices.length
      | none => 0
    n - (s.crateSet k).verified.length

/-- R445: a bank whose slices are all verified becomes current. -/
def State.bankCurrent (s : State) (i : Nat) : State :=
  let b := s.bank i
  if b.state = 5 then s.setBank i { b with state := 2, bad := 0 }
  else
    let slot := i / 2
    let s := s.markEdge slot
    let s := match s.currentBank slot with
      | some c => if 2 * slot + c = i then s else s.retireBank (2 * slot + c)
      | none => s
    s.setBank i { s.bank i with state := 2, current := true, refs := 0, bad := 0 }

/-- R434, R445: a set whose last slice has been verified. -/
def State.completeSet (s : State) (k : SetId) : State :=
  let s := s.setKinds (placeBlocks (s.setPlace k)) 1
  match k with
  | .model e =>
    (s.setInv e { s.invOf e with state := 3, bad := 0 }).finishSet k 0 (leBytes 1 e)
  | .bank i => (s.bankCurrent i).finishSet k 0 (leBytes 1 (i % 2))

/-- R440: the digest store entries of the blocks that hold a slice, once it is verified. -/
def State.setDigests (s : State) (k : SetId) (slice : Nat) (crc : DWord) : State :=
  ((s.setPlace k).filter (fun q => q.2.2 == slice)).foldl (fun (s : State) (q : Nat × Nat × Nat) =>
    let d : Digest := match k with
      | .model e => ⟨crc, slice, e, 1, 0, true⟩
      | .bank i => ⟨crc, slice, i / 2, 2, i % 2, true⟩
    let s := s.setDigest (64 * q.1 + q.2.1) d
    if s.repairing k then s.setKinds [(q.1, q.2.1)] 1 else s) s

/-- The count of BAD kept in the entry. -/
def State.putBad (s : State) (k : SetId) : State :=
  let n := s.badOf k
  match k with
  | .model e =>
    let v := s.invOf e
    s.setInv e { v with bad := n, crates := (if v.set.manifest.isSome then 1 else 0) + v.set.accepted.length }
  | .bank i => s.setBank i { s.bank i with bad := n }

/-- R425, R434: what follows the acceptance of a data crate: once every crate is in, the slices that no crate
wrote are read back; and a set without bad slices is complete. -/
def State.afterCrate (s : State) (k : SetId) : State :=
  match (s.crateSet k).manifest with
  | none => s
  | some m =>
    let v := s.crateSet k
    let idle := match k with
      | .model e => (s.invOf e).state == 2
      | .bank _ => false
    if idle then s.putBad k
    else if s.repairing k then
      let s := s.putBad k
      if v.need.isEmpty ∧ s.badOf k = 0 then s.completeSet k else s
    else if v.accepted.length < m.crates.length then s.putBad k
    else
      let unwritten := (List.range m.slices.length).filter (fun x => Tbl.get 0 v.wrote x == 0)
      let good (x : Nat) : Bool :=
        match (s.setPlace k).find? (fun q => q.2.2 == x) with
        | some q => crc64 ((s.tile q.1).block q.2.1) == (m.slices.getD x 0).toNat
        | none => crc64 (List.replicate 4096 0) == (m.slices.getD x 0).toNat
      if unwritten.all good then
        let s := unwritten.foldl (fun s x => s.setDigests k x (m.slices.getD x 0)) s
        ((s.setCrateSet k { s.crateSet k with verified := v.verified ++ unwritten }).putBad k).completeSet k
      else s.failSet k 0 10

/-! ### The unpacker (R428–R430) -/

/-- R420, R429 check 3: an accepted manifest of a body, with its slot's key and the slice count it must state. -/
def readManifest (h : CrateHdr) (hdr body : List Byte) (key : Nat → Option (BitVec 768)) (slices : Nat) : Option Manifest :=
  let n := h.count - 1
  let ns := fieldAt body 0 4
  let sig := 16 + 48 * n + 8 * ns
  let ent (i : Nat) : List Byte := (body.drop (16 + 48 * i)).take 48
  let entsOk := (List.range n).all (fun i => fieldAt (ent i) 0 4 == i + 1 && fieldAt (ent i) 8 8 == 0)
  let tail := body.drop sig
  let slot := fieldAt tail 0 2
  if fieldAt body 4 4 ≠ h.count ∨ fieldAt body 8 8 ≠ 0 ∨ ns ≠ slices ∨ body.length ≠ sig + 104 ∨ !entsOk ∨
      fieldAt tail 2 2 ≠ 0 ∨ fieldAt tail 100 4 ≠ 0 ∨ 3 < slot then none
  else
    match key slot with
    | none => none
    | some k =>
      if ecdsaOk k (key768 ((tail.drop 4).take 96)) (sha384 (hdr ++ body.take sig)) then
        some { crates := (List.range n).map (fun i => (fieldAt (ent i) 4 4, BitVec.ofNat 256 (beNat ((ent i).drop 16))))
               slices := (List.range ns).map (fun i => BitVec.ofNat 64 (fieldAt body (16 + 48 * n + 8 * i) 8)) }
      else none

/-- What the checks 6 to 9 of a data crate give: the failure code, or what its records write. -/
def dataCrate (h : CrateHdr) (crate : List Byte) (m : Manifest) (wrote : Tbl Nat) (key : Nat → Option (BitVec 256)) :
    Except Nat (List (Nat × Nat × List Byte)) :=
  let body := (crate.drop 64).take h.blen
  if some (BitVec.ofNat 256 (beNat (sha256 crate))) ≠ (m.crates[h.number - 1]?).map (·.2) then .error 6
  else
    let payload : Option (List Byte) :=
      if h.flags % 2 = 0 then some body
      else match key h.key with
        | none => none
        | some k => gcmOpen (beBytes 32 k.toNat) h.iv (crate.take 48) body h.gtag
    match payload with
    | none => .error 7
    | some p =>
      let rs := sliceRecs h.nrec p
      let need := (rs.map SliceRec.takes).foldl (· + ·) 0
      let stream := p.drop (16 * h.nrec)
      let out : Option (List Byte × List Byte) :=
        if h.flags / 2 % 2 = 1 then unpack (need / 4096 + 2) need stream
        else some (stream.take need, stream.drop need)
      match out with
      | none => .error 8
      | some (o, rest) =>
        if o.length ≠ need ∨ !rest.isEmpty ∨ p.length < 16 * h.nrec ∨ !(recordsOk rs m.slices.length h.number wrote) then .error 9
        else .ok (recordWrites rs o)

/-- R430: a data crate that passed its checks: its slices are verified and the set goes on. -/
def State.acceptCrate (s : State) (k : SetId) (number : Nat) (m : Manifest) (slices : List Nat) : State :=
  let v := s.crateSet k
  let v := { v with accepted := v.accepted ++ [number], need := v.need.filter (· != number), since := s.pkt
                    verified := (v.verified ++ slices).eraseDups
                    wrote := slices.foldl (fun w x => Tbl.set 0 w x number) v.wrote }
  let s := s.setCrateSet k v
  (slices.foldl (fun s x => s.setDigests k x (m.slices.getD x 0)) s).afterCrate k

/-- The outcome of a CRATE LOAD: what it does after its own completion, its status and its detail. -/
structure CrateRes where
  act : State → State
  status : Nat
  detail : List Byte

/-- A crate that fails its check `code`: status 0x0303 with the crate's number and the check. -/
def CrateRes.fail (act : State → State) (n code : Nat) : CrateRes := ⟨act, 0x0303, leBytes 4 n ++ leBytes 1 code⟩

/-- R429, R443: the manifest crate of set `k`, already found and not yet held, whose CRCs match. -/
def State.unpackManifest (s : State) (k : SetId) (v : CrateSet) (h : CrateHdr) (crate : List Byte) : CrateRes :=
  let body := (crate.drop 64).take h.blen
  match readManifest h (crate.take 64) body (fun i => Tbl.get none s.ownerKeys i) (s.expectSlices k) with
  | none => CrateRes.fail (fun s => s.failSet k 0 3) 0 3
  | some m =>
    let act (s : State) : State :=
      let s := s.setCrateSet k { v with manifest := some m, since := s.pkt }
      let s := match k with
        | .model e => s.setInv e { s.invOf e with slices := m.slices.length }
        | .bank _ => s
      s.putBad k
    ⟨act, 0, leBytes 8 h.ident ++ leBytes 4 0⟩

/-- R272, R428: the slices `ws` of a data crate are written to the blocks that hold them: to those of kind Loading, which alone take
the unpacker's writes. -/
def State.writeSlices (s : State) (ws : List (Nat × Nat × List Byte)) (blocks : List (Nat × Nat × Nat)) : State :=
  blocks.foldl (fun s q => if (s.tile q.1).kind q.2.1 = 3 then s.setTile q.1 ((s.tile q.1).writeBlock q.2.1 (sliceBytes ws q.2.2)) else s) s

/-- R429 check 10: the CRC-64 of slice `x`, read back from one of the blocks that the crate has written; a slice that no block holds
is taken as unpacked. -/
def State.sliceBack (s : State) (ws : List (Nat × Nat × List Byte)) (blocks : List (Nat × Nat × Nat)) (x : Nat) : Nat :=
  let mine := blocks.filter (fun q => q.2.2 == x)
  match (mine.find? (fun q => (s.tile q.1).kind q.2.1 == 3)).or mine.head? with
  | some q => crc64 ((s.tile q.1).block q.2.1)
  | none => crc64 (sliceBytes ws x)

/-- R429, R430, R431: a data crate of set `k` with manifest `m`, not yet accepted. -/
def State.unpackData (s : State) (k : SetId) (v : CrateSet) (m : Manifest) (h : CrateHdr) (crate : List Byte) : CrateRes :=
  match dataCrate h crate m v.wrote (fun i => Tbl.get none s.crateKeys i) with
  | .error c => CrateRes.fail (fun s => s.retryCrate k h.number c) h.number c
  | .ok ws =>
    let slices := (ws.map (·.1)).eraseDups
    let blocks := (s.setPlace k).filter (fun q => slices.contains q.2.2)
    match blocks.find? (fun q => !(s.floorUp (tileFloor q.1))) with
    | some q => ⟨id, 0x010C, leBytes 1 (tileFloor q.1)⟩
    | none =>
      let w := s.writeSlices ws blocks
      if slices.all (fun x => w.sliceBack ws blocks x == (m.slices.getD x 0).toNat) then
        ⟨fun s => (s.writeSlices ws blocks).acceptCrate k h.number m slices, 0, leBytes 8 h.ident ++ leBytes 4 h.number⟩
      else CrateRes.fail (fun s => (s.writeSlices ws blocks).retryCrate k h.number 10) h.number 10

/-- R429 checks 1 and 2: the set that the header of a crate names, once its bytes hold the header. -/
def State.headerSet (s : State) (minor clen : Nat) (l : List Byte) : Option SetId :=
  let h := crateHdr l
  if 64 ≤ l.length ∧ h.legal minor clen then s.findSet (h.flags / 4 % 2 == 1) h.ident else none

/-- A set as a command in progress names it. -/
def SetId.key : SetId → Bool × Nat
  | .model e => (false, e)
  | .bank i => (true, i)

/-- R429 checks 1 and 2, R430: the outcome of a crate that is settled by its header. `busy` tells that another unpacker is
processing the crate of its number. -/
def State.crateEarly (s : State) (minor clen : Nat) (busy : Bool) (l : List Byte) : Option CrateRes :=
  let h := crateHdr l
  if !(h.legal minor clen) then some (CrateRes.fail id h.number 1)
  else
    match s.findSet (h.flags / 4 % 2 == 1) h.ident with
    | none => some (CrateRes.fail id h.number 2)
    | some k =>
      let v := s.crateSet k
      if h.kind = 1 ∧ v.manifest.isNone then some (CrateRes.fail id h.number 2)
      else if busy || (if h.kind = 0 then v.manifest.isSome else v.accepted.contains h.number) then
        some ⟨id, 0x0302, leBytes 4 h.number⟩
      else none

/-- R429 checks 3 to 5: the outcome of a crate of set `k` that is settled by the bytes which have come: a manifest's signature once
its body is there, a data crate's number and length, and each CRC-32C of the trailer as it comes. -/
def State.crateStream (s : State) (k : SetId) (l : List Byte) : Option CrateRes :=
  let h := crateHdr l
  let v := s.crateSet k
  let body := (l.drop 64).take h.blen
  let bad := decide (64 + h.blen ≤ l.length) && !(crcsOk body (l.drop (64 + h.blen)))
  if h.kind = 0 then
    if 64 + h.blen ≤ l.length ∧ (readManifest h (l.take 64) body (fun i => Tbl.get none s.ownerKeys i) (s.expectSlices k)).isNone then
      some (CrateRes.fail (fun s => s.failSet k 0 3) 0 3)
    else if bad then some (CrateRes.fail (fun s => s.failSet k 0 5) 0 5) else none
  else if (v.manifest.bind (fun m => m.crates[h.number - 1]?)).map (·.1) ≠ some h.blen then
    some (CrateRes.fail (fun s => s.retryCrate k h.number 4) h.number 4)
  else if bad then some (CrateRes.fail (fun s => s.retryCrate k h.number 5) h.number 5)
  else none

/-- R428–R431: what the unpacker makes of the bytes of a crate of CLEN bytes that have come: an outcome, or none while it still
streams. -/
def State.unpackCrate (s : State) (minor clen : Nat) (busy : Bool) (crate : List Byte) : Option CrateRes :=
  let h := crateHdr crate
  match s.crateEarly minor clen busy crate, s.findSet (h.flags / 4 % 2 == 1) h.ident with
  | some r, _ => some r
  | none, none => some (CrateRes.fail id h.number 2)
  | none, some k =>
    match s.crateStream k crate with
    | some r => some r
    | none =>
      if crate.length < clen then none
      else if h.kind = 0 then some (s.unpackManifest k (s.crateSet k) h crate)
      else (s.crateSet k).manifest.map (fun m => s.unpackData k (s.crateSet k) m h crate)

/-- R428: the crates that the unpacker of die d has been given, in submission order. -/
def State.crateCmds (s : State) (d : Nat) : List Cmd :=
  s.cmds.filter (fun c => c.h.port.val == d && match c.work with
    | .crate _ _ _ => true
    | _ => false)

/-- R430: whether the unpacker of another port processes the crate of a set and number at this moment. -/
def State.crateBusy (s : State) (port : DieId) (k : Option (Bool × Nat)) (number : Nat) : Bool :=
  k.isSome && s.cmds.any (fun q => match q.work with
    | .crate _ g j => q.h.port != port && j == k && fieldAt g 16 4 == number
    | _ => false)

/-- R429, R430: one step of the unpacker of an edge die: its oldest crate is judged as far as its bytes have come, and answered
once it is decided; whether it was. A crate whose header has come is in process from then on, under its set's key. -/
def State.unpackStep (s : State) (d : Nat) : State × Bool :=
  let minor := ((s.die d).neg.map (fun n => n.2.2)).getD 0
  match s.crateCmds d with
  | [] => (s, false)
  | c :: _ => match c.work with
    | .crate clen got k =>
      if got.length < min 64 clen then (s, false)
      else
        let key := (s.headerSet minor clen got).map SetId.key
        match s.unpackCrate minor clen (k.isNone && s.crateBusy c.h.port key (fieldAt got 16 4)) (got.take clen) with
        | none => ({ s with cmds := s.cmds.map (fun q => if q = c then { q with work := .crate clen got key } else q) }, false)
        | some r => (r.act (State.finish { s with cmds := s.cmds.erase c } c r.status r.detail), true)
    | _ => (s, false)

/-- R429: the unpacker of an edge die takes its crates in order, as many as are decided. -/
def State.unpack : Nat → State → Nat → State
  | 0, s, _ => s
  | n + 1, s, d =>
    let r := s.unpackStep d
    if r.2 then r.1.unpack n d else r.1

/-- R428: every unpacker takes what it has been given. -/
def State.unpackAll (s : State) : State :=
  (List.range 4).foldl (fun (s : State) (d : Nat) => s.unpack (s.cmds.length + 1) d) s

/-- R428, R673: bytes of a crate come to the unpacker of its port: the first ones with the CRATE LOAD itself. -/
def State.crateBytes (s : State) (h : CmdHdr) (l : List Byte) : State :=
  let s := { s with cmds := s.cmds.map (fun (c : Cmd) => if c.h = h then
      (match c.work with
      | .crate clen got k => { c with work := .crate clen (got ++ l) k }
      | _ => c) else c) }
  s.unpack (s.cmds.length + 1) h.port.val

/-- R431: whether crate `c` of a set has arrived: an unpacker has all its bytes and has not yet come to them. -/
def State.arrived (s : State) (k : SetId) (c : Nat) : Bool :=
  s.cmds.any (fun q => match q.work with
    | .crate clen got _ => decide (64 ≤ got.length) && decide (clen ≤ got.length) && (crateHdr got).number == c &&
        s.findSet ((crateHdr got).flags / 4 % 2 == 1) (crateHdr got).ident == some k
    | _ => false)

/-- R431, R432: whether the 2 s of crate `c` are over: they run from the set's most recent accepted crate or the crate's own last
re-request, whichever came later (log entry 27), and from the fourth re-request on from that alone. -/
def CrateSet.late (v : CrateSet) (c now : Nat) : Bool :=
  let a := Tbl.get 0 v.asked c
  decide ((if 4 ≤ Tbl.get 0 v.tries c then a else max v.since a) + 50000000 ≤ now)

/-- R431, R432: what happens where crates of a set have not arrived within their 2 s. -/
def State.arrivalTimeout (s : State) (k : SetId) : State :=
  let v := s.crateSet k
  match v.manifest with
  | none => s
  | some m =>
    let waits := if s.repairing k then v.need
      else if s.setState k = 1 then ((List.range m.crates.length).map (· + 1)).filter (fun c => !(v.accepted.contains c))
      else []
    let due := waits.filter (fun c => v.late c s.pkt && !(s.arrived k c))
    match due.find? (fun c => decide (4 ≤ Tbl.get 0 v.tries c)) with
    | some c => s.failSet k c (Tbl.get 0 v.last c)
    | none => due.foldl (fun s c => s.retryCrate k c (Tbl.get 0 (s.crateSet k).last c)) s

/-! ### Re-verification (R441) -/

/-- R441: a block that no longer matches its digest: it becomes Loading, its entry or bank Repairing, and the crate
that holds its slice is requested. -/
def State.blockFailed (s : State) (t b : Nat) : State :=
  let d := s.digest (64 * t + b)
  let k : SetId := if d.ownerKind = 2 then .bank (2 * d.owner + d.bank) else .model d.owner
  let s := (s.setDigest (64 * t + b) { d with v := false }).setKinds [(t, b)] 3
  let s := match k with
    | .model e => if (s.invOf e).state = 3 then s.setInv e { s.invOf e with state := 4 } else s
    | .bank i => if (s.bank i).state = 2 then s.setBank i { s.bank i with state := 5 } else s
  let v := s.crateSet k
  let c := Tbl.get 0 v.wrote d.slice
  let fresh := c != 0 && v.accepted.contains c
  let v := { v with accepted := v.accepted.filter (· != c), verified := v.verified.filter (· != d.slice)
                    tries := if fresh then Tbl.set 0 v.tries c 0 else v.tries
                    asked := if fresh then Tbl.set 0 v.asked c s.pkt else v.asked
                    need := if c != 0 && !(v.need.contains c) then v.need ++ [c] else v.need }
  let s := (s.setCrateSet k v).putBad k
  if fresh then s.reRequest k c (Tbl.get 0 v.last c) 0 else s

/-- R441: re-verifies a block with V set; `lost` makes it fail whatever it holds (R583). -/
def State.reverify (s : State) (lost : Bool) (t b : Nat) : State :=
  let d := s.digest (64 * t + b)
  if !d.v then s
  else
    let v := s.tile t
    let hurt := (List.range 512).any (fun w => poisonMark (Tbl.get 0 v.cellarMark (512 * b + w)))
    if lost ∨ hurt ∨ crc64 (v.block b) ≠ d.crc.toNat then s.blockFailed t b else s

/-! ### Residency (R435–R439) -/

/-- R437: the candidate for eviction, or 0xFF. -/
def State.candidate (s : State) : Nat :=
  let es := (List.range 16).filter (fun e => let v := s.invOf e
    v.state != 0 && v.refs == 0)
  let less (a b : Nat) : Bool :=
    let x := s.invOf a
    let y := s.invOf b
    decide (x.use.toNat < y.use.toNat) || (x.use == y.use && decide (x.last < y.last))
  match es with
  | [] => 255
  | e :: l => l.foldl (fun m x => if less x m then x else m) e

/-- R438: the placement that the loaded image gives to a model. -/
def Image.placement (im : Image) (m : Nat) : List (Nat × Nat × Nat) :=
  (im.weights.filter (fun w => w.2.2.1 == m)).map (fun w => (w.1, w.2.1, w.2.2.2))

/-- R435: starts the load of a model into entry e. -/
def State.beginLoad (s : State) (e : Nat) (ident : DWord) (place : List (Nat × Nat × Nat)) : State :=
  let bs := placeBlocks place
  let s := (s.setKinds bs 3).zeroBlocks bs
  let s := bs.foldl (fun (s : State) (q : Nat × Nat) => s.setDigest (64 * q.1 + q.2) .reset) s
  let v := s.invOf e
  s.setInv e { v with ident := ident, state := 1, place := place, set := { CrateSet.reset with since := s.pkt }
                      slices := 0, crates := 0, bad := 0 }

/-- R439: the end of an eviction. -/
def State.endEvict (s : State) (e : Nat) : State :=
  let v := s.invOf e
  if v.state ≠ 5 then s
  else
    let bs := placeBlocks v.place
    let s := (s.zeroBlocks bs).setKinds bs 0
    let s := bs.foldl (fun (s : State) (q : Nat × Nat) => s.setDigest (64 * q.1 + q.2) .reset) s
    (s.setInv e { Inv.reset with useOvf := v.useOvf }).finishAll (fun c => match c.work with
      | .evict n => n == e
      | _ => false) (fun _ => (0, []))

/-- R445: the end of a bank's zeroing. -/
def State.endZeroing (s : State) (i : Nat) : State :=
  if (s.bank i).state ≠ 4 then s
  else
    let s := s.zeroBlocks (s.bank i).place
    let b := s.bank i
    (s.setBank i { Bank.reset with place := b.place }).notice 0x8001 (leBytes 1 (i / 2) ++ leBytes 1 (i % 2))

end Sys2Proof.Machine
end

