-- ==== Sys2Proof/Machine/Recovery.lean ====
section
/-! DEFINITION. The boot journal (R634–R637), the end of a run (R578, R579), fencing (R575–R577), the floor reset
sequence (R582–R585) and the rejoining of a floor (R586, R587). -/

namespace Sys2Proof.Machine

/-! ### The boot journal (R634–R637) -/

/-- R634: the RESULT codes of an outcome. -/
inductive StepRes where
  | passed
  | failed (code : BitVec 16)
  | absent
  | hung (attempt : Nat)
  deriving DecidableEq, Repr

/-- R634, R636: writes a journal entry; it waits for the flash. -/
def State.journal (s : State) (step : Nat) (u : BootUnit) (alt : Bool) (result : Nat) (fail : BitVec 16) (fr : Bool)
    (attempt : Nat) : State :=
  let e : JEnt := { start := s.startNo, step := step, kind := u.kind.val, alt := alt, result := result, fr := fr
                    unit := u.num.toNat, attempts := attempt, fail := fail, time := BitVec.ofNat 32 s.pkt }
  let l := s.jAon ++ [e]
  { s with jAon := l.drop (l.length - 1024), jQueue := s.jQueue ++ [e] }

/-- R627: whether a step has two methods. -/
def twoMethods (step : Nat) : Bool :=
  match step with
  | 2 => true
  | 3 => true
  | 4 => true
  | 5 => true
  | 7 => true
  | 8 => true
  | 10 => true
  | 11 => true
  | _ => false

/-- R637: the method tried first, from the latest entry of the pair in the journal. -/
def State.firstMethod (s : State) (step : Nat) (u : BootUnit) : Bool :=
  if !(twoMethods step) then false
  else
    match (s.jAon.filter (fun e => e.step == step && e.kind == u.kind.val && e.unit == u.num.toNat)).getLast? with
    | none => false
    | some e => if e.result = 1 ∨ e.result = 2 then !e.alt else e.alt

/-- What an environment gives an attempt. -/
def attemptOf (l : List AttemptRow) (step : Nat) (u : BootUnit) (n : Nat) : Attempt :=
  match l.find? (fun r => r.step == step && r.unit == u && r.attempt == n) with
  | some r => r.result
  | none => .pass

/-- R635: one attempt with its two entries; `check` is what the model's own check of the step says. -/
def State.attempt (s : State) (l : List AttemptRow) (step : Nat) (u : BootUnit) (fr alt : Bool) (n : Nat)
    (check : Option (BitVec 16)) : State × StepRes :=
  let s := s.journal step u alt 2 0 fr n
  match attemptOf l step u n, check with
  | .hang, _ => (s, .hung n)
  | .absent, _ => (s.journal step u alt 4 0 fr n, .absent)
  | .fail c, _ => (s.journal step u alt 1 c fr n, .failed c)
  | .pass, some c => (s.journal step u alt 1 c fr n, .failed c)
  | .pass, none => (s.journal step u alt 0 0 fr n, .passed)

/-- R629, R637: a step on a unit: the method of the journal first, and one repeat with the other; the answer also
tells the method that was tried last. `check` gives the model's own check of a method. -/
def State.runUnit (s : State) (l : List AttemptRow) (step : Nat) (u : BootUnit) (fr : Bool)
    (check : Bool → Option (BitVec 16)) : State × StepRes × Bool :=
  let a := s.firstMethod step u
  match s.attempt l step u fr a 1 (check a) with
  | (s, .failed _) =>
    let b := if twoMethods step then !a else a
    let r := s.attempt l step u fr b 2 (check b)
    (r.1, r.2, b)
  | (s, r) => (s, r, a)

/-! ### Ports and runs -/

/-- R621, R592: holds every live port; its record queues are discarded. -/
def State.holdPorts (s : State) : State :=
  let s := s.ports.foldl (fun (s : State) (q : Nat × Port) =>
    s.setPort q.1 { q.2 with live := false, helloSent := false, helloGot := none, rxBytes := [], waiting := []
                             inFlight := none, bounced := none, txQ := [] }) s
  let s := (List.range 4).foldl (fun (s : State) (d : Nat) => s.setDie d { s.die d with lost := [] }) s
  s.peers.foldl (fun (s : State) (q : Nat × Peer) =>
    if q.2.state = 1 then s.setPeer q.1 { q.2 with state := 2, chg := s.pkt } else s) s

/-- R389: a room's allowance begins to fall to zero, in max(20 µs, A / 0.2 A per µs) ticks. -/
def State.rampDown (s : State) (r : Nat) : State :=
  let m := s.room r
  s.setRoom r { m with fall := some (max 500 ((max m.allow m.fill + 15) / 16)) }

/-- R436: the references of the loaded image on its models. -/
def State.imageRefs (s : State) (up : Bool) : State :=
  match s.image with
  | none => s
  | some im => s.addRefs up ((List.range im.models.length).filterMap s.modelEntry)

/-- The rooms that hold a tile of the loaded image. -/
def State.imageRooms (s : State) : List Nat :=
  match s.image with
  | none => []
  | some im => (im.tiles.map tileRoom).eraseDups

/-- R578, R512: the command of an unfinished input record ends as its record does. -/
def State.endRecords (s : State) : State :=
  let floorOf (h : Word) : Option Nat :=
    (s.sessionOf h).bind (fun i => ((s.sess i).route.head?).bind (fun q =>
      (s.pipeRec q.pipe.toNat).map (fun r => tileFloor (pathTile r.ipath))))
  s.finishAll (fun c => match c.work with
    | .record _ _ => true
    | _ => false) (fun c => match c.work with
      | .record h _ => match floorOf h with
        | some f => if s.floorUp f then (0x010B, [1]) else (0x010C, leBytes 1 f)
        | none => (0x010B, [1])
      | _ => (0x010B, [1]))

/-- R577, R579, R592: the requests of edge dies that a fenced floor holds back and whose purpose ends with the run are dropped:
link records and table deliveries. -/
def State.dropHeld (s : State) : State :=
  { s with edgeReqs := s.edgeReqs.filter (fun (r : EdgeReq) => !(r.held && (match r.purpose with
      | .link _ => true
      | .table _ _ => true
      | _ => false))) }

/-- R578, R579, R592: the end of the run of the started image: an abort is announced to its other tiles, the
sessions are rolled back, deliveries and voids are dropped, references are released and every port is held. -/
def State.endRun (s : State) : State :=
  match s.started with
  | none => s
  | some _ =>
    let rooms := s.imageRooms.filter (fun r => s.floorUp (roomFloor r))
    let s := s.endRecords
    let s := { s with aborting := s.aborting ++ rooms.map (fun r => (r, roomPath r)), voids := [], started := none
                      runEnded := true }
    let s := s.pstate.foldl (fun (s : State) (q : Nat × Pipe) =>
      s.setPipe q.1 { q.2 with slots := [], press := [], sends := [], inRecs := [], inLine := 0, outLine := 0
                               outPart := [], outHeld := false, waitFault := false }) s
    let s := s.ledger.foldl (fun (s : State) (q : Nat × Sess) => (s.rollback q.1).cancelDone q.1 0) s
    let s := s.imageRefs false
    let s := s.rooms.foldl (fun (s : State) (q : Nat × Room) => s.setRoom q.1 { s.room q.1 with start := none, rests := [] }) s
    s.dropHeld.holdPorts

/-! ### ABORT in progress (R523) -/

/-- R32, R523: completes an ABORT whose rooms are all quiet; ABORTED is set in its units. -/
def State.abortDone (s : State) : State :=
  let us := (s.cmds.filterMap (fun (c : Cmd) => match c.work with
    | .abort _ own [] _ _ => some own
    | _ => none)).flatten.eraseDups
  let s := us.foldl (fun (s : State) (u : Word) => s.event u evAborted) s
  s.finishAll (fun c => match c.work with
    | .abort _ _ [] _ _ => true
    | _ => false) (fun c => match c.work with
      | .abort _ _ _ m q =>
        if m = 0 then (0, leBytes 4 0 ++ leBytes 4 (q - c.tick))
        else (0x010C, leBytes 2 (((List.range 16).find? (fun f => m.getLsbD f)).getD 0) ++ leBytes 2 m.toNat)
      | _ => (0, []))

/-- R37, R588: what a STOP still awaits of its units once a floor is fenced: nothing of a unit of the floor that had not been
done with, and none of the floor's rooms. -/
def fencedStop (f : Nat) (ws : List StopWait) : List StopWait :=
  (ws.filter (fun w => w.rooms.isEmpty || decide (3 ≤ pathLevel w.unit) || pathFloor w.unit != f)).map (fun w =>
    { w with rooms := w.rooms.filter (fun r => roomFloor r != f) })

/-- R512, R523, R588: what a fence does to the commands that wait for rooms of the floor; a stop of a unit of the floor takes
no effect there (R37). -/
def Cmd.fenced (c : Cmd) (f : Nat) : Cmd :=
  let other (r : Nat) : Bool := roomFloor r != f
  match c.work with
  | .stopSet ws => { c with work := .stopSet (fencedStop f ws) }
  | .stopClear ws => { c with work := .stopClear (fencedStop f ws) }
  | .abort u own rs m q =>
    if rs.all other then c
    else { c with work := .abort u own (rs.filter other) (m ||| BitVec.ofNat 16 (2 ^ f)) q }
  | _ => c

/-- R35, R516: sets STOPPED in each unit all of whose rooms have stopped, by the request that stopped it, and completes each STOP
whose units are all done. -/
def State.stopsDone (s : State) : State :=
  let now := s.cmds.flatMap (fun (c : Cmd) => match c.work with
    | .stopSet ws => (ws.filter (fun w => w.own && w.rooms.isEmpty)).map (·.unit)
    | _ => [])
  let s := { s with cmds := s.cmds.map (fun (c : Cmd) => match c.work with
    | .stopSet ws => { c with work := .stopSet (ws.map (fun w => { w with own := w.own && !w.rooms.isEmpty })) }
    | _ => c) }
  let s := now.foldl (fun (s : State) (u : Word) => s.event u evStopped) s
  s.finishAll (fun c => match c.work with
    | .stopSet ws => ws.all (fun w => w.rooms.isEmpty)
    | .stopClear ws => ws.all (fun w => w.rooms.isEmpty)
    | _ => false) (fun _ => (0, []))

/-! ### Fencing (R575–R577) -/

/-- R577: whether an outstanding request of an edge die goes to a tile of a floor. -/
def EdgeReq.toFloor (r : EdgeReq) (f : Nat) : Bool :=
  match r.pkt.tgt with
  | .uni _ => (r.pkt.destTile.map tileFloor) == some f
  | _ => false

/-- R365: the barriers without the arrivals of a floor that leaves; a contribution that leaves sets FENCED in the
module's status word (R367). -/
def State.leaveBarriers (s : State) (f : Nat) : State :=
  s.barriers.foldl (fun (s : State) (q : Nat × List Arrival) =>
    let left := s.tiles.any (fun t => tileFloor t.1 == f && t.2.member.getLsbD q.1 && s.tileLive t.1)
    let s := s.setBarrier q.1 (q.2.filter (fun a => tileFloor a.tile != f))
    if left && q.2.any (fun a => a.red.isSome) then s.event modulePath evFenced else s) s

/-- R577, R587: an edge die's requests to a floor that is fenced are held, and those of a multicast count it as
dropped. -/
def State.fenceReqs (s : State) (f : Nat) : State :=
  let t := { s with edgeReqs := s.edgeReqs.map (fun (r : EdgeReq) => if r.toFloor f then { r with held := true } else r) }
  (t.edgeReqs.filter (fun (r : EdgeReq) => r.floors.contains f)).foldl (fun (s : State) (r : EdgeReq) => s.edgeFloor r f 0 true) t

/-- R512, R588: a STOP all of whose units that it still waits for lie on a floor ends as the floor is fenced. -/
def Cmd.stopsOn (c : Cmd) (f : Nat) : Bool :=
  let on (ws : List StopWait) : Bool :=
    !ws.isEmpty && ws.all (fun w => decide (pathLevel w.unit ≤ 2) && pathFloor w.unit == f && !w.rooms.isEmpty)
  match c.work with
  | .stopSet ws => on ws
  | .stopClear ws => on ws
  | _ => false

/-- R512, R578, R588: what voids, aborts, commands and barriers await of a floor that is fenced is awaited no longer; a STOP of its
units ends fenced. -/
def State.fenceWaits (s : State) (f : Nat) : State :=
  let s := (s.endLoad 2).finishAll (fun c => c.stopsOn f) (fun _ => (0x010C, leBytes 1 f))
  let t := { s with voids := s.voids.map (fun (v : VoidOut) => { v with rooms := v.rooms.filter (fun r => roomFloor r != f) })
                    aborting := s.aborting.filter (fun a => roomFloor a.1 != f)
                    cmds := s.cmds.map (fun (c : Cmd) => c.fenced f) }
  ((t.leaveBarriers f).stopsDone).abortDone

/-- R576–R578: a floor that is up is cut off: bridges and hub, FENCED and the notice, branches completed as dropped,
and allowances ramp down. -/
def State.fenceCut (s : State) (f : Nat) : State :=
  (List.range 16).foldl (fun (s : State) (i : Nat) => s.rampDown (16 * f + i))
    (((((s.setFloor f { s.floor f with mode := .fenced, atRejoin := false }).event (floorPath f) evFenced).notice 0x8003
      (leBytes 1 f)).fenceReqs f).fenceWaits f)

/-- R576–R578, R588: fences a floor that is up; the run ends where the floor holds a tile of the started image. -/
def State.fence (s : State) (f : Nat) : State :=
  if !(s.floorUp f) then s
  else match s.image with
    | some im => if im.tiles.any (fun t => tileFloor t == f) then (s.fenceCut f).endRun else s.fenceCut f
    | none => s.fenceCut f

/-! ### The reset sequence (R582–R585) -/

/-- R583, R536, R585: a tile after a floor reset: its cellar with the marks and block kinds, and its choice count, are
kept. Its pipeline register stays at zero, as R585 says of a floor that rejoins, and not at the reset value 0xFF of R550 (log entry
103). -/
def Tile.floorReset (t : Tile) : Tile :=
  { Tile.reset with pipe := 0, cellar := t.cellar, cellarMark := t.cellarMark, kinds := t.kinds, choice := t.choice }

/-- R70, R536: a room after a floor reset: its tread, stretch and hold counters are kept, and the stops of units that
contain the floor. -/
def Room.floorReset (m : Room) : Room :=
  { Room.reset with tread := m.tread, stretchC := m.stretchC, holdC := m.holdC, spineOff := true
                    stops := m.stops.filter (fun p => decide (3 ≤ pathLevel p)) }

/-- R536: a unit's registers after a floor reset: the status word is kept. -/
def UnitRegs.floorReset (u : UnitRegs) : UnitRegs := { UnitRegs.reset with seq := u.seq, events := u.events }

/-- R582 step 2, R583: the logic reset of a floor and what the built-in test leaves. -/
def State.clearFloor (s : State) (f : Nat) : State :=
  let s := (List.range 16).foldl (fun (s : State) (i : Nat) => s.setRoom (16 * f + i) (s.room (16 * f + i)).floorReset) s
  let s := (s.tiles.filter (fun q => tileFloor q.1 == f)).foldl (fun (s : State) (q : Nat × Tile) => s.setTile q.1 q.2.floorReset) s
  let s := (s.units.filter (fun q => let p := BitVec.ofNat 32 q.1
    decide (pathLevel p ≤ 2) && pathFloor p == f)).foldl
      (fun (s : State) (q : Nat × UnitRegs) => s.setUnit (BitVec.ofNat 32 q.1) q.2.floorReset) s
  let v := s.floor f
  let s := s.setFloor f { v with comb := [], waiting := [], therm := [] }
  { s with net := s.net.filter (fun q => tileFloor (q.1 / 20) != f)
           netWait := s.netWait.filter (fun q => tileFloor (q.1 / 20) != f)
           rrobin := s.rrobin.filter (fun q => tileFloor (q.1 / 8) != f)
           mcLeft := s.mcLeft.filter (fun q => tileFloor (q.1 / 20) != f)
           lands := s.lands.filter (fun q => tileFloor (q.1 / 24) != f) }

/-- R441, R582 step 7: the re-verification of a floor. -/
def State.reverifyFloor (s : State) (f : Nat) : State :=
  let lost := (s.floor f).vsramLow
  let ks := (s.digestTable.filter (fun q => q.2.v && tileFloor (q.1 / 64) == f)).map (·.1)
  ks.foldl (fun (s : State) (k : Nat) => s.reverify lost (k / 64) (k % 64)) s

/-- Whether a block belongs to the placement of an inventory entry that is not Empty. -/
def State.ownedBlock (s : State) (t b : Nat) : Bool :=
  s.inv.any (fun q => q.2.state != 0 && q.2.place.any (fun x => x.1 == t && x.2.1 == b))

/-- R585, R442: the kind of a block after a reset: Weight where its digest is verified (or as its bank's state
implies), else as the loaded image's map gives it, else Unallocated. A block of a bank, or of a model whose blocks are not
verified, is Loading (R434, R442; log entry 60). -/
def State.restoredKind (s : State) (t b : Nat) : Nat :=
  let d := s.digest (64 * t + b)
  if d.v then
    if d.ownerKind = 2 then
      let k := s.bank (2 * d.owner + d.bank)
      if k.state = 2 ∨ k.state = 3 ∨ k.state = 5 then 1 else 3
    else 1
  else
    match s.image with
    | none => 0
    | some im =>
      if im.kept.any (fun x => x.1 == t && x.2.1 == b && (decide (x.2.2 < 0xFF00) || decide (0xFF7F < x.2.2))) then 2
      else if im.kept.any (fun x => x.1 == t && x.2.1 == b) || s.ownedBlock t b then 3
      else if im.weights.any (fun x => x.1 == t && x.2.1 == b) then 1 else 0

/-- R585: the kinds of every block that a floor holds of an owner. -/
def State.restoreKinds (s : State) (f : Nat) : State :=
  let mapped := match s.image with
    | none => []
    | some im => im.kept.map (fun x => (x.1, x.2.1)) ++ im.weights.map (fun x => (x.1, x.2.1))
  let owned := (s.digestTable.filter (fun q => q.2.v)).map (fun q => (q.1 / 64, q.1 % 64))
  let old := (s.tiles.filter (fun q => tileFloor q.1 == f)).flatMap (fun q => q.2.kinds.map (fun k => (q.1, k.1)))
  ((mapped ++ owned ++ old).filter (fun q => tileFloor q.1 == f)).eraseDups.foldl
    (fun (s : State) (q : Nat × Nat) => s.setKinds [q] (s.restoredKind q.1 q.2)) s

/-- R584: benches a floor. -/
def State.benchFloor (s : State) (f : Nat) : State :=
  let s := s.setFloor f { s.floor f with mode := .benched, atRejoin := false }
  let s := { s with rejoinStop := s.rejoinStop.filter (· != f) }
  let s := (s.event (floorPath f) evBenched).notice 0x8005 (leBytes 1 f)
  s.finishAll (fun c => match c.work with
    | .floorReset g => g == f
    | _ => false) (fun _ => (0, [1]))

/-- R548: a floor's PLL locks. The manual does not say in which band, so the band is a free value. -/
def State.lockPll (s : State) (f : Nat) (alt : Bool) : State :=
  { s.setFloor f { s.floor f with pllLock := true, pllAlt := alt, pllBand := BitVec.ofNat 3 (Config.freeValue s.free).toNat } with
    free := s.free + 1 }

/-- The work of a floor-reset step by its number in the journal. -/
def State.floorStepWork (s : State) (f step : Nat) (alt : Bool) : State :=
  match step with
  | 5 => s.lockPll f alt
  | 13 => s.reverifyFloor f
  | _ => s

/-- R584: the outcome of the attempts of a step that no command's event tells: a free value. -/
def State.freeAttempts (s : State) (step : Nat) (u : BootUnit) : List AttemptRow :=
  let v := Config.freeValue s.free
  [1, 2].map (fun n => { step := step, unit := u, attempt := n
                         result := if v.getLsbD n then .fail (BitVec.ofNat 16 (v.toNat / 8)) else .pass })

/-- R582, R584, R635: the steps of a floor reset by their numbers in the journal; a step that fails twice benches
the floor. An attempt that overruns its bound fails with the timeout code. The outcomes of a reset that no command asked for are
free values (log entry 21). -/
def State.floorSteps (s : State) (l : Option (List AttemptRow)) (f : Nat) : List Nat → State
  | [] =>
    let s := s.restoreKinds f
    { s.setFloor f { s.floor f with atRejoin := true } with rejoinStop := s.rejoinStop ++ [f] }
  | step :: rest =>
    let u : BootUnit := ⟨2, BitVec.ofNat 8 f⟩
    let l' := match l with
      | some l => l.map (fun r => if r.result = .hang then { r with result := .fail 1 } else r)
      | none => s.freeAttempts step u
    let r := { s with free := s.free + 1 }.runUnit l' step u true (fun _ => none)
    match r.2.1 with
    | .failed _ => r.1.benchFloor f
    | _ => (r.1.floorStepWork f step r.2.2).floorSteps l f rest

/-- R582: the reset sequence of a fenced floor begins: its first step is the ramp-down of the floor's rooms. -/
def State.resetFloor (s : State) (l : Option (List AttemptRow)) (f : Nat) : State :=
  if (s.floor f).mode = .fenced then s.setFloor f { s.floor f with mode := .resetting, due := some l } else s

/-- R582 steps 2 to 8: once the currents of a floor's rooms have fallen and their spines have stopped, the floor is reset and its
steps run. -/
def State.resetDue (s : State) (f : Nat) : State :=
  match (s.floor f).due with
  | some l =>
    if s.tripped || s.mreset || (List.range 16).any (fun i => (s.room (16 * f + i)).fall.isSome) then s
    else ((s.setFloor f { s.floor f with due := none }).clearFloor f).floorSteps l f [5, 6, 7, 8, 9, 13]
  | none => s

/-- R575: a fence that a floor reset follows. -/
def State.fenceReset (s : State) (f : Nat) : State := (s.fence f).resetFloor none f

/-! ### Spine events (R387) -/

/-- R387: the spine events of the last 10 µs. -/
def State.recentSpine (s : State) : Nat :=
  ((s.spineEvs.filter (fun (e : Nat × Nat) => decide (s.pkt < e.1 + 250))).map (·.2)).foldl (· + ·) 0

/-- R387: whether a spine event fits. -/
def State.spineFits (s : State) (g : Nat) : Bool := decide (s.recentSpine + Config.spineStep g ≤ 88000)

/-- R387: whether some spine events fit together. -/
def State.spinesFit (s : State) (g n : Nat) : Bool := decide (s.recentSpine + n * Config.spineStep g ≤ 88000)

/-- R387: turns a room's spine on or off, as a spine event. -/
def State.spine (s : State) (r : Nat) (off : Bool) : State :=
  let g := s.roomGear r
  let s := { s with spineEvs := (s.spineEvs.filter (fun (e : Nat × Nat) => decide (s.pkt < e.1 + 250))) ++ [(s.pkt, Config.spineStep g)] }
  s.setRoom r { s.room r with spineOff := off }

/-! ### Rejoining (R586, R587) -/

/-- R47: the rooms that a room counts as neighbours. -/
def State.nbrRooms (s : State) (r : Nat) : List (Nat × Nat) :=
  [0, 1, 2, 3].filterMap (fun d => match roomNbr r d with
    | some q => if s.floorUp (roomFloor q) then some (d, q) else none
    | none => none)

/-- R586: the tread counter of a room of a rejoining floor. -/
def State.rejoinCount (s : State) (r : Nat) : Nat :=
  s.upRooms.foldl (fun m l => max m ((s.room l).tread - 2 * roomDist r l)) (s.room r).tread

/-- R48: room r latches its neighbours' counts at its edge. The instant of the edge is the one of the edges before it, or a
later one: the phases of rooms are unknown (R43), so a free value says which. Of a neighbour whose edge falls at the same
instant the count from before it is latched. `n` is the room's own count before the edge. -/
def State.latchCounts (s : State) (r n : Nat) : State :=
  let again := (Config.freeValue s.free).getLsbD 0 && !(s.instant.any (fun e => e.1 == r))
  let now := if again then s.instant ++ [(r, n)] else [(r, n)]
  let count (q : Nat) : Nat := match now.find? (fun e => e.1 == q) with
    | some e => e.2
    | none => (s.room q).tread
  let m := s.room r
  { s with free := s.free + 1, instant := now }.setRoom r
    { m with recv := (s.nbrRooms r).foldl (fun (v : Tbl Nat) (q : Nat × Nat) => Tbl.set 0 v q.1 (count q.2)) m.recv }

/-- R35: the units that hold a room and whose stop request is set. -/
def State.stopsOf (s : State) (r : Nat) : List Word :=
  ((s.units.filter (fun (q : Nat × UnitRegs) => q.2.stop)).map (fun q => BitVec.ofNat 32 q.1)).filter (fun u => (unitRooms u).contains r)

/-- R587: a floor's rejoin stop is cleared; with the last one, every room leaves it. -/
def State.dropRejoin (s : State) (f : Nat) : State :=
  let s := { s with rejoinStop := s.rejoinStop.filter (· != f) }
  if s.rejoinStop.isEmpty then
    s.rooms.foldl (fun (s : State) (q : Nat × Room) => s.setRoom q.1 { s.room q.1 with rejoinHeld := false }) s
  else s

/-- R577, R587: sends again the requests held for a floor. -/
def State.resendHeld (s : State) (f : Nat) : State :=
  let rs := s.edgeReqs.filter (fun (r : EdgeReq) => r.held && r.toFloor f)
  let s := { s with edgeReqs := s.edgeReqs.map (fun (r : EdgeReq) => if r.held && r.toFloor f then { r with held := false } else r) }
  let s := rs.foldl (fun (s : State) (r : EdgeReq) => s.dieInject r.die.val r.pkt) s
  [0, 1, 2, 3].foldl (fun (s : State) (d : Nat) => s.writeLost d) s

/-- R586: whether a live room has stopped at the rejoin stop; one without a clock takes no treads. -/
def State.atRejoinStop (s : State) (r : Nat) : Bool := (s.room r).rejoinHeld || !(s.clockRuns r)

/-- R586, R587: a floor at its rejoin stop rejoins, once every live room has stopped and the spine events of its rooms fit within
R387. A stop request that stands on a unit above it holds its rooms again (R35). -/
def State.rejoin (s : State) (f : Nat) : State :=
  if !(s.floor f).atRejoin ∨ s.change.isSome ∨ !(s.upRooms.all s.atRejoinStop) ∨ !(s.spinesFit s.gear.toNat 16) then s
  else
    let rs := (List.range 16).map (fun i => 16 * f + i)
    let counts := rs.map (fun r => (r, s.rejoinCount r))
    let s := counts.foldl (fun (s : State) (q : Nat × Nat) =>
      let s := s.setRoom q.1 { s.room q.1 with tread := q.2, fall := none, allow := 0, fill := 0, gear := none, pendGear := none
                                               stops := s.stopsOf q.1, clockOff := s.gear == 0, spineOff := true }
      if s.gear = 0 then s else s.spine q.1 false) s
    let s := s.setFloor f { s.floor f with mode := .up, atRejoin := false, vsramLow := false }
    let s := { s.dropRejoin f with
                      lands := s.lands.filter (fun q => tileFloor (q.1 / 24) != f &&
                        ((s.nbr (q.1 / 24) (q.1 / 6 % 4)).map tileFloor) != some f) }
    let s := s.notice 0x8004 (leBytes 1 f)
    let s := s.finishAll (fun c => match c.work with
      | .floorReset g => g == f
      | _ => false) (fun _ => (0, [0]))
    s.resendHeld f

end Sys2Proof.Machine
end

