-- ==== Sys2Proof/Machine/Links.lean ====
section
/-! DEFINITION. Yogan links (chapter 21): flits and retry (R598–R603), logical ports (R604–R607), training (R608,
R609), gang identity (R610, R611), link records and send rings (R612–R616), gang barriers (R617–R619) and peers
(R621, R622). Link L of edge die d is number 8d + L; port i of die d is number 4d + i. -/

namespace Sys2Proof

/-- R93: the operations of REDS on two values: SUM, MAX, MIN, AND, OR. -/
def reduceOp (op : Nat) (a b : Word) : Word :=
  if op = 0 then a + b
  else if op < 3 then Machine.keepOf BitVec.slt (op == 2) a b
  else if op = 3 then a &&& b else a ||| b

/-- R619: two frames that go the same way merge: their counts add and their values combine; a mix of operations
poisons. -/
def SyncFrame.merge (a b : SyncFrame) : SyncFrame :=
  let mixed := a.hasVal != b.hasVal || (a.hasVal && a.op != b.op)
  { a with count := a.count + b.count, hasVal := a.hasVal || b.hasVal, poison := a.poison || b.poison || mixed
           value := if a.hasVal && b.hasVal then reduceOp a.op.toNat a.value b.value
                    else if a.hasVal then a.value else b.value
           op := if a.hasVal then a.op else b.op }

/-- R619: a frame as it crosses a port: a value cannot cross at minor 0 and is delivered poisoned. -/
def SyncFrame.cross (f : SyncFrame) (minor : Nat) : SyncFrame :=
  if minor = 0 ∧ f.hasVal then { f with value := 0, poison := true } else f

end Sys2Proof

namespace Sys2Proof.Machine

/-! ### Links and ports -/

/-- The links of a port: its die's members and spares. -/
def Port.links (p : Port) : List Nat := p.members ++ p.spares
/-- The port of a link, where it has one. -/
def State.portOf (s : State) (i : Nat) : Option Nat :=
  ((List.range 4).map (· + 4 * (i / 8))).find? (fun k => (s.port k).links.contains (i % 8))
/-- R564: the location of a link in an origin and a record. -/
def linkLoc (i : Nat) : Nat := i / 8 + 4 * (i % 8)

/-- Inserts a link number in ascending order. -/
def insertNat (n : Nat) : List Nat → List Nat
  | [] => [n]
  | m :: l => if n ≤ m then n :: m :: l else m :: insertNat n l

/-- R542: changes a peer's state. -/
def State.peerState (s : State) (n st : Nat) (port : Option Nat) : State :=
  s.setPeer n { state := st, port := port, chg := s.pkt }

/-- R31: the path by which a record names the peer of a port: its member path once its HELLO has told its number, and
the module path before that (DEDUCED, log entry 91: R562 gives the module path to a record that names no unit below the module). -/
def State.peerPath (s : State) (k : Nat) : Word :=
  match (if k < 16 then (s.port k).helloGot else none) with
  | some h => memberPath h.modn.toNat
  | none => modulePath

/-- R622: the link fault of an edge die. -/
def State.linkFault (s : State) (d sub port link ring dmod dpath : Nat) : State :=
  s.record (s.unitRec (s.peerPath port) 0x7D sub 0 5 d (leBytes 1 d ++ leBytes 1 port ++ leBytes 1 link ++ leBytes 2 ring ++
    leBytes 2 dmod ++ leBytes 4 dpath))

/-! ### Sending flits (R600, R605, R606) -/

/-- R598, R600: a link sends a data or sync flit: it takes the next LSEQ and enters the retry buffer; the flit carries
the credits that its port returns. -/
def State.sendFlit (s : State) (i : Nat) (sync : Option SyncFrame) (pseq : BitVec 16) (payload : List Byte) : State :=
  let l := s.link i
  let c := match s.portOf i with
    | some k => min 2047 (s.port k).toReturn
    | none => 0
  let s := match s.portOf i with
    | some k => s.setPort k { s.port k with toReturn := (s.port k).toReturn - c }
    | none => s
  s.setLink i { l with nextSeq := l.nextSeq + 1
                       retry := l.retry ++ [⟨l.nextSeq, sync, pseq, c, payload, s.pkt⟩] }

/-- R605: whether a member link takes a data flit now. -/
def State.canSend (s : State) (i : Nat) : Bool :=
  let l := s.link i
  l.mode == .live && !l.retrying && decide (l.retry.length < 64)

/-- R605: the member on which the next data flit goes. -/
def State.nextMember (s : State) (k : Nat) : Option Nat :=
  let p := s.port k
  let ok (m : Nat) : Bool := s.canSend (8 * (k / 4) + m)
  match (p.members.filter (fun m => decide (p.lastUsed < m))).find? ok with
  | some m => some m
  | none => (p.members.filter (fun m => decide (m ≤ p.lastUsed))).find? ok

/-- R605, R606, R614: sends what waits on a live port while credits and links allow. A flit that the waiting bytes do
not fill ends in zeros (DESIGN CHOICE, log entry 69). -/
def State.flushPort : Nat → State → Nat → State
  | 0, s, _ => s
  | n + 1, s, k =>
    let p := s.port k
    if !p.live || p.txQ.isEmpty || p.credits == 0 then s
    else match s.nextMember k with
    | none => s
    | some m =>
      let s := s.setPort k { p with txQ := p.txQ.drop 244, txPseq := p.txPseq + 1, credits := p.credits - 1, lastUsed := m }
      State.flushPort n (s.sendFlit (8 * (k / 4) + m) none p.txPseq (padTo 244 p.txQ)) k

/-- The most flits that a flush can send. -/
def flushFuel : Nat := 512

/-- R605: a sync frame goes on the lowest-numbered live member of a port. -/
def State.sendSync (s : State) (k : Nat) (f : SyncFrame) : State :=
  match (s.port k).members.find? (fun m => (s.link (8 * (k / 4) + m)).mode == .live) with
  | some m => s.sendFlit (8 * (k / 4) + m) (some f) 0 []
  | none => s

/-! ### Reductions across modules (R618, R619) -/

/-- A frame of this module for a barrier round. -/
def State.frame (s : State) (b : Nat) (round : Byte) (count : Nat) (op : Option Nat) (value : Word) (poison : Bool) :
    SyncFrame :=
  { bar := BitVec.ofNat 5 b, round := round, op := BitVec.ofNat 3 (op.getD 0), hasVal := op.isSome, poison := poison
    count := BitVec.ofNat 16 count, modn := BitVec.ofNat 16 s.moduleNo, value := value, x := 0, y := 0, z := 0, ichk := 0 }

/-- R618: whether the module is the root. -/
def State.isRoot (s : State) : Bool := s.coords == (0, 0, 0)

/-- R618: the coordinates of the parent. -/
def State.parentAt (s : State) : Nat × Nat × Nat :=
  let (x, y, z) := s.coords
  if 0 < x then (x - 1, y, z) else if 0 < y then (0, y - 1, z) else (0, 0, z - 1)

/-- R618: the live port on which the parent's HELLO arrived. -/
def State.parentPort (s : State) : Option Nat :=
  (List.range 16).find? (fun k => (s.port k).live && (match (s.port k).helloGot with
    | some h => (h.x.toNat, h.y.toNat, h.z.toNat) == s.parentAt
    | none => false))

/-- R619 step 4: a round completes: COMPLETE goes to every port from which an ARRIVE came, the round number
advances, and the completion waits for the module hub. -/
def State.gangDone (s : State) (b : Nat) (v : Option Word) (op : Nat) (poison : Bool) : State :=
  let g := s.gang b
  let f := s.frame b g.round 1 (if v.isSome then some op else none) (v.getD 0) poison
  let s := g.from_.foldl (fun (s : State) (k : Nat) =>
    if (s.port k).live then s.sendSync k (f.cross (s.port k).minor) else s) s
  s.setGang b { Gang.reset with round := g.round + 1, done := some (v, poison) }

/-- R618, R619: what the frames held for barrier b do once the module's own arrival has been made: they merge and go
to the parent, or complete the round at the root. -/
def State.gangGo (s : State) (b : Nat) : State :=
  let g := s.gang b
  if !g.local_ then s
  else match g.held with
  | [] => s
  | f :: l =>
    let m := l.foldl SyncFrame.merge f
    if s.isRoot then
      if m.count.toNat = (s.params.getD 0 0).toNat then
        s.gangDone b (if m.hasVal then some m.value else none) m.op.toNat m.poison
      else s.setGang b { g with held := [m] }
    else match s.parentPort with
    | none => s
    | some k => (s.setGang b { g with held := [] }).sendSync k ({ m with modn := BitVec.ofNat 16 s.moduleNo }.cross (s.port k).minor)

/-- R619 step 1: the module hub has completed the local part of the round of barrier b. -/
def State.gangLocal (s : State) (b : Nat) (op : Option Nat) (value : Word) (poison : Bool) : State :=
  let g := s.gang b
  if g.local_ then s
  else (s.setGang b { g with local_ := true, held := s.frame b g.round 1 op value poison :: g.held }).gangGo b

/-- The gang barriers of the started image. -/
def State.gangBars (s : State) : List Nat :=
  match s.image with
  | some im => if s.started.isSome then (List.range 32).filter (fun b => im.gbar.getLsbD b) else []
  | none => []

/-! ### HELLO (R611, R621) -/

/-- R611: whether a HELLO does not match the started image's gang. -/
def State.helloBad (s : State) (k : Nat) (h : SyncFrame) : Bool :=
  (match s.image with
    | some im => h.ichk != im.ichk
    | none => true) || h.modn.toNat == s.moduleNo ||
  (List.range 16).any (fun j => j != k && (s.port j).live && (match (s.port j).helloGot with
    | some o => o.modn == h.modn
    | none => false))

/-- R611, R621: a port whose HELLO has been both sent and received becomes live, or is held on a mismatch. -/
def State.tryLive (s : State) (k : Nat) : State :=
  let p := s.port k
  match p.helloGot with
  | some h =>
    let n := h.modn.toNat
    if !p.helloSent || s.started.isNone then s
    else if s.helloBad k h then
      let s := s.setPort k { p with live := false }
      s.linkFault (k / 4) 4 k (p.members.headD 0) 0 n 0
    else if (s.peer n).state = 3 then s
    else
      let s := s.setPort k { p with live := true, txPseq := 0, rxPseq := 0, rxBuf := [], rxBytes := [], txQ := []
                                    credits := 512, rxFlits := [], toReturn := 0 }
      let s := s.peerState n 1 (some k)
      (s.gangBars).foldl (fun (s : State) (b : Nat) => s.gangGo b) s
  | none => s

/-- R621: the peer that a HELLO names has a link on the port on which it came: held until both have sent theirs, or still fenced. -/
def State.meetPeer (s : State) (k n : Nat) : State :=
  match (s.peer n).state with
  | 0 => s.peerState n 2 (some k)
  | 3 => if (s.peer n).port.isNone then s.setPeer n { s.peer n with port := some k } else s
  | _ => s

/-- R611: sends the HELLO of the started image on a formed port. -/
def State.sendHello (s : State) (k : Nat) : State :=
  let p := s.port k
  match s.image with
  | some im =>
    if p.members.isEmpty || s.started.isNone then s
    else
      let (x, y, z) := s.coords
      let f : SyncFrame := { bar := 0, round := 0, op := 0, hasVal := false, poison := false, count := 0
                             modn := BitVec.ofNat 16 s.moduleNo, value := 0, x := BitVec.ofNat 16 x
                             y := BitVec.ofNat 16 y, z := BitVec.ofNat 16 z, ichk := im.ichk }
      ((s.setPort k { p with helloSent := true }).sendSync k f).tryLive k
  | none => s

/-- R611: HELLO on every port at IMAGE START. -/
def State.sendHellos (s : State) : State := (List.range 16).foldl (fun (s : State) (k : Nat) => s.sendHello k) s

/-! ### Port formation (R604, R607) -/

/-- R604: the largest of 1, 2, 4 and 8 that does not exceed n. -/
def portWidth (n : Nat) : Nat := if 8 ≤ n then 8 else if 4 ≤ n then 4 else if 2 ≤ n then 2 else 1

/-- The live links of an edge die that reached a peer, in ascending order. -/
def State.linksTo (s : State) (d : Nat) (serial : DWord) : List Nat :=
  (List.range 8).filter (fun l => let v := s.link (8 * d + l)
    v.mode == .live && (v.peer.map (·.serial)) == some serial)

/-- R604, R609: one group of links as a port: members up to the width of those at the lowest minor, the others
spares. -/
def State.formPort (s : State) (k : Nat) (serial : DWord) (ls : List Nat) : State :=
  let d := k / 4
  let w := portWidth ls.length
  let first := ls.take w
  let minor := first.foldl (fun m l => min m (s.link (8 * d + l)).minor) 1
  let members := first.filter (fun l => (s.link (8 * d + l)).minor == minor)
  s.setPort k { Port.reset with serial := serial, members := members, spares := ls.filter (fun l => !members.contains l)
                                width := w, minor := minor }

/-- R604: groups the live links of an edge die afresh; the links of a fifth or later group are held. -/
def State.groupPorts (s : State) (d : Nat) : State :=
  let serials := ((List.range 8).filterMap (fun l => let v := s.link (8 * d + l)
    if v.mode == .live then v.peer.map (·.serial) else none)).eraseDups
  let s := (List.range 4).foldl (fun (s : State) (i : Nat) => s.setPort (4 * d + i) .reset) s
  serials.zipIdx.foldl (fun (s : State) (q : DWord × Nat) =>
    if q.2 < 4 then s.formPort (4 * d + q.2) q.1 (s.linksTo d q.1)
    else (s.linksTo d q.1).foldl (fun (s : State) (l : Nat) =>
      s.setLink (8 * d + l) { s.link (8 * d + l) with mode := .held }) s) s

/-- R604, R607, R609: a link that has trained joins its former port, as a member up to its width or else as a spare, or as the
first member of one that was down; where no port of its die is in use the ports are grouped afresh, and otherwise it forms a
port of its own. -/
def State.joinPort (s : State) (i : Nat) (serial : DWord) : State :=
  let d := i / 8
  let ks := (List.range 4).map (· + 4 * d)
  let used := ks.any (fun k => (s.port k).helloSent || (s.port k).live || (s.port k).helloGot.isSome)
  match ks.find? (fun k => (s.port k).members.isEmpty && (s.port k).width != 0 && (s.port k).serial == serial) with
  | some k =>
    (s.setPort k { Port.reset with serial := serial, width := (s.port k).width, members := [i % 8]
                                   minor := (s.link i).minor }).sendHello k
  | none =>
  if !used then
    let s := s.groupPorts d
    if s.started.isSome then ks.foldl (fun (s : State) (k : Nat) => s.sendHello k) s else s
  else match ks.find? (fun k => !(s.port k).members.isEmpty && (s.port k).serial == serial) with
  | some k =>
    let p := s.port k
    if p.members.length < p.width ∧ (s.link i).minor = p.minor then
      (s.setPort k { p with members := insertNat (i % 8) p.members }).flushPort flushFuel k
    else s.setPort k { p with spares := insertNat (i % 8) p.spares }
  | none =>
    match (ks.filter (fun k => (s.port k).members.isEmpty && (s.port k).width == 0) ++
        ks.filter (fun k => (s.port k).members.isEmpty)).head? with
    | some k => (s.formPort k serial [i % 8]).sendHello k
    | none => s.setLink i { s.link i with mode := .held }

/-! ### Records (R613–R616) -/

/-- The bytes of a record's wire form: 16 and the payload lines. -/
def wireLen (l : List Byte) : Nat := 16 + 32 * ((leNat (l.take 8)) / 2 ^ 16 % 8 + 1)

/-- R613: the record of a wire form. -/
def recOfWire (l : List Byte) (ring : Nat) : LinkRec :=
  let w := leNat (l.take 8)
  { dmod := w % 2 ^ 14, ring := ring, flg := w / 2 ^ 19 % 2 == 1, str := BitVec.ofNat 4 (w / 2 ^ 20)
    tf := BitVec.ofNat 4 (w / 2 ^ 24), dpath := BitVec.ofNat 32 (w / 2 ^ 32), dline := leNat ((l.drop 8).take 2) % 2048
    payload := (l.take (wireLen l)).drop 16 }

/-- R613: whether the 32 bytes of a header line are legal. -/
def headerLegal (l : List Byte) : Bool :=
  let w := leNat (l.take 8)
  let p := BitVec.ofNat 32 (w / 2 ^ 32)
  w / 2 ^ 14 % 4 == 0 && w / 2 ^ 28 % 16 == 0 && (w / 2 ^ 19 % 2 == 1 || w / 2 ^ 24 % 16 == 0) &&
  pathLevel p == 0 && pathValid p && decide (leNat ((l.drop 8).take 2) < 2048) && (l.drop 10).all (· == 0)

/-- R606, R615: bytes of handed-on flits are done with; a flit without any left returns its credit. -/
def consume : List Nat → Nat → List Nat × Nat
  | [], _ => ([], 0)
  | f :: l, n =>
    if f ≤ n then
      let r := consume l (n - f)
      (r.1, r.2 + 1)
    else ((f - n) :: l, 0)

/-- R606: returns the credits of n consumed bytes. -/
def Port.consumed (p : Port) (n : Nat) : Port :=
  let r := consume p.rxFlits n
  { p with rxFlits := r.1, toReturn := p.toReturn + r.2 }

/-- R605, R614: takes whole records out of the bytes under reception. The ring number that R615 puts into SRC is in no
field of the wire form, so it is a free value. -/
def State.parseRecords : Nat → State → Nat → State
  | 0, s, _ => s
  | n + 1, s, k =>
    let p := s.port k
    if p.rxBytes.length < 16 ∨ p.rxBytes.length < wireLen p.rxBytes then s
    else
      let ring := (Config.freeValue s.free).toNat % 4096
      let s := { s with free := s.free + 1 }
      State.parseRecords n (s.setPort k { p with
        rxBytes := p.rxBytes.drop (wireLen p.rxBytes), waiting := p.waiting ++ [recOfWire p.rxBytes ring] }) k

/-- R605: hands on the payload of a data flit. Zeros from a record boundary to the end of the payload are what a
flit not filled ends in (DESIGN CHOICE, log entry 69). -/
def State.handOn (s : State) (k : Nat) (payload : List Byte) : State :=
  let p := s.port k
  let rec scan : Nat → List Byte → List Byte
    | 0, l => l
    | n + 1, l =>
      if l.all (· == 0) then []
      else if l.length < 16 then l
      else l.take (wireLen l) ++ scan n (l.drop (wireLen l))
  let all := p.rxBytes ++ payload
  let now := if p.rxBytes.isEmpty then scan 6 payload
    else if all.length < 16 then all
    else all.take (wireLen all) ++ scan 6 (all.drop (wireLen all))
  let mine := now.length - p.rxBytes.length
  let p := { p with rxBytes := now, rxPseq := p.rxPseq + 1
                    rxFlits := if mine = 0 then p.rxFlits else p.rxFlits ++ [mine]
                    toReturn := p.toReturn + if mine = 0 then 1 else 0 }
  (s.setPort k p).parseRecords 16 k

/-- R605: hands on what the receive buffer holds in PSEQ order. -/
def State.handAll : Nat → State → Nat → State
  | 0, s, _ => s
  | n + 1, s, k =>
    let p := s.port k
    match p.rxBuf.find? (fun q => q.1 == p.rxPseq) with
    | some q => State.handAll n ((s.setPort k { p with rxBuf := p.rxBuf.erase q }).handOn k q.2) k
    | none => s

/-- R605: an accepted data flit enters the receive buffer of its port, unless it has been handed on already. -/
def State.dataIn (s : State) (i : Nat) (pseq : BitVec 16) (payload : List Byte) : State :=
  match s.portOf i with
  | none => s
  | some k =>
    let p := s.port k
    if !p.live || serialEarlier pseq p.rxPseq || p.rxBuf.any (fun q => q.1 == pseq) || decide (512 ≤ p.rxBuf.length) then s
    else (s.setPort k { p with rxBuf := p.rxBuf ++ [(pseq, padTo 244 payload)] }).handAll 512 k

/-- R615: the edge tag of a record received on a port. -/
def linkTag (k ring : Nat) : BitVec 16 := BitVec.ofNat 16 (k * 4096 + ring)

/-- R347, R615: the stream that an edge die keeps for a pair of edge tag and STR. -/
def State.edgeStream (s : State) (d : Nat) (tag : BitVec 16) (str : Nat) : Option EdgeStream :=
  s.edgeStreams.find? (fun (e : EdgeStream) => e.die == d && e.etag == tag && e.str == str)
/-- Puts a stream, or removes it at the end of its epoch. -/
def State.setEdgeStream (s : State) (d : Nat) (tag : BitVec 16) (str : Nat) (v : Option EdgeStream) : State :=
  let l := s.edgeStreams.filter (fun (e : EdgeStream) => !(e.die == d && e.etag == tag && e.str == str))
  { s with edgeStreams := match v with
      | some e => l ++ [e]
      | none => l }

/-- R615: the WRITE of a record. -/
def recPacket (d k : Nat) (r : LinkRec) (cnt : Nat) : Packet :=
  { diePacket (Fin.ofNat 4 d) (linkTag k r.ring) .write
      (.uni { dtile := BitVec.ofNat 19 (r.dpath.toNat / 512), cellar := false, line := BitVec.ofNat 13 r.dline, half := false
              cnt := BitVec.ofNat 16 cnt })
      (r.payload.length / 16) r.payload with
    flg := r.flg, str := r.str, tf := if r.flg then r.tf else 0 }

/-- R292, R564: a record's WRITE as it leaves the receive buffer of port k: the words that fail their parity are poisoned. -/
def State.fromBuffer (s : State) (k : Nat) (r : LinkRec) (p : Packet) : Packet :=
  if r.poi.isEmpty then p else { p with poison := r.poi, org := some (s.bufferOrigin (k / 4) (k % 4)) }

/-- R615: the record of a port is done with: its bytes are consumed and the next may be written. -/
def State.recordDone (s : State) (k : Nat) (r : LinkRec) : State :=
  let p := s.port k
  s.setPort k { p.consumed (16 + r.payload.length) with inFlight := none, bounced := none }

/-- R615: sends a port's WRITE again, 0.2 µs after its bounce. -/
def State.rewriteRecord (s : State) (k : Nat) : State :=
  let p := s.port k
  match p.bounced, s.edgeReqs.find? (fun (q : EdgeReq) => q.purpose == .link k) with
  | some t, some q => if t + 5 ≤ s.pkt then (s.setPort k { p with bounced := none }).dieInject (k / 4) q.pkt else s
  | _, _ => s

/-- R615: writes the oldest record of a port that waits, unless one is under way; a record that would change
destination within an epoch is dropped. -/
def State.writeRecord (s : State) (k : Nat) : State :=
  let d := k / 4
  let p := s.port k
  match p.inFlight, p.waiting with
  | none, r :: rest =>
    let tag := linkTag k r.ring
    let e := (s.edgeStream d tag r.str.toNat).getD ⟨d, tag, r.str.toNat, r.dpath, 0, false⟩
    let ordered := r.str != 0
    let s := s.setPort k { p with waiting := rest }
    if ordered && e.count != 0 && e.dest != r.dpath then
      (s.linkFault d 3 k (p.members.headD 0) r.ring r.dmod r.dpath.toNat).recordDone k r
    else if ordered && e.await then s.setPort k p
    else
      let s := if ordered then
          s.setEdgeStream d tag r.str.toNat (some (if r.flg then ⟨d, tag, r.str.toNat, r.dpath, 0, true⟩
            else ⟨d, tag, r.str.toNat, r.dpath, e.count + 1, false⟩))
        else s
      let pkt := s.fromBuffer k r (recPacket d k r (if ordered && r.flg then e.count else 0))
      let q : EdgeReq := { die := Fin.ofNat 4 d, etag := tag, pkt := pkt, purpose := .link k, floors := [], partial_ := false
                           root := none, held := !(s.floorUp (tileFloor (pathTile r.dpath))) }
      let s := s.setPort k { s.port k with inFlight := some r, bounced := none }
      let s := { s with edgeReqs := s.edgeReqs ++ [q] }
      if q.held then s else s.dieInject d pkt
  | some _, _ => s.rewriteRecord k
  | none, [] => s

/-- R615: the reply to a record's WRITE: an ACK or a refusal ends it; after a bounce, which advances the die's choice count, it
is sent again. -/
def State.linkReply (s : State) (k : Nat) (q : EdgeReq) (bounced : Bool) : State :=
  let d := k / 4
  if bounced && (s.port k).inFlight.isSome then
    let e := s.die d
    (s.setDie d { e with choice := (bump e.choice 1).1 }).setPort k { s.port k with bounced := some s.pkt }
  else
    let s := { s with edgeReqs := s.edgeReqs.filter (fun (r : EdgeReq) => !(r.die == q.die && r.etag == q.etag)) }
    match (s.port k).inFlight with
    | some r =>
      let s := if r.flg then s.setEdgeStream d q.etag r.str.toNat none else s
      s.recordDone k r
    | none => s

/-- R616: the destination lines of a record that link i loses. -/
def State.lostLines (s : State) (i : Nat) (r : LinkRec) : List LostLine :=
  let t := pathTile r.dpath
  if !(pathLevel r.dpath == 0) || !(pathValid r.dpath) || !(s.tileLive t) then []
  else (recLines r.payload).zipIdx.map (fun q => ⟨r.dpath, r.dline + q.2, q.1, ⟨0x20, linkLoc i, s.pkt⟩⟩)

/-- R613: the record whose wire form begins with some bytes; the header's first ten tell its destination. -/
def begunRec (l : List Byte) : List LinkRec :=
  if 10 ≤ l.length then [recOfWire (l ++ List.replicate 272 0) 0] else []

/-- R605, R616: the records that begin in the payload of a flit, and how many bytes of the last are still to come; none where its
header is cut too short to tell. -/
def begunIn : Nat → List Byte → List LinkRec × Option Nat
  | 0, _ => ([], some 0)
  | n + 1, l =>
    if l.all (· == 0) then ([], some 0)
    else if l.length < 10 then ([], none)
    else
      let r := begunIn n (l.drop (wireLen l))
      if l.length ≤ wireLen l then (begunRec l, some (wireLen l - l.length)) else (begunRec l ++ r.1, r.2)

/-- R616: the records that begin in flits received ahead of PSEQ order, of which `none` is one that is missing, from the bytes
that the record before them still lacks. They are known as far as the records can be told apart (DEDUCED, log entry 107). -/
def begunAhead : List (Option (List Byte)) → Nat → List LinkRec
  | [], _ => []
  | none :: l, rem => if 244 ≤ rem then begunAhead l (rem - 244) else []
  | some p :: l, rem =>
    if p.length ≤ rem then begunAhead l (rem - p.length)
    else
      let r := begunIn 16 (p.drop rem)
      match r.2 with
      | some k => r.1 ++ begunAhead l k
      | none => r.1

/-- R616: the records of a port whose wire form has begun to arrive and whose WRITE has not been acknowledged. -/
def Port.begun (p : Port) : List LinkRec :=
  let ahead := (List.range 512).map (fun i => (p.rxBuf.find? (fun q => q.1 == p.rxPseq + BitVec.ofNat 16 i)).map (·.2))
  let rest := if p.rxBytes.isEmpty then some 0
    else if p.rxBytes.length < 8 then none else some (wireLen p.rxBytes - p.rxBytes.length)
  p.inFlight.toList ++ p.waiting ++ begunRec p.rxBytes ++ (match rest with
    | some k => begunAhead ahead k
    | none => [])

/-- R607, R616, R621: a port goes down: the records whose arrival had begun are poisoned, and the peer has no link. The port
keeps the peer's identity and its width, for a link that comes back. -/
def State.portDown (s : State) (k i : Nat) : State :=
  let p := s.port k
  let e := s.die (i / 8)
  let s := s.setDie (i / 8) { e with lost := e.lost ++ p.begun.flatMap (s.lostLines i) }
  let s := { s with edgeReqs := s.edgeReqs.filter (fun (q : EdgeReq) => q.purpose != Purpose.link k) }
  let s := (s.setPort k { Port.reset with serial := p.serial, width := p.width }).writeLost (i / 8)
  s.peers.foldl (fun (s : State) (q : Nat × Peer) =>
    if q.2.port = some k ∧ (q.2.state = 1 ∨ q.2.state = 2) then s.peerState q.1 0 none else s) s

/-! ### Failure (R602, R603, R607) -/

/-- R605, R607: the data flits that a failed member had not had acknowledged go again on the survivors, with their
original PSEQ. -/
def State.resendOn (s : State) (k : Nat) : List SentFlit → State
  | [] => s
  | f :: l =>
    match s.nextMember k with
    | some m => ((s.setPort k { s.port k with lastUsed := m }).sendFlit (8 * (k / 4) + m) none f.pseq f.payload).resendOn k l
    | none => match (s.port k).members.head? with
      | some m => (s.sendFlit (8 * (k / 4) + m) none f.pseq f.payload).resendOn k l
      | none => s.resendOn k l

/-- R603, R607, R567: link i is declared failed with a cause. -/
def State.failLink (s : State) (i cause : Nat) : State :=
  let l := s.link i
  let k := s.portOf i
  let p := s.port (k.getD 0)
  let members := p.members.filter (· != i % 8)
  let was := k.isSome && p.members.contains (i % 8)
  let down := was && members.isEmpty && p.spares.isEmpty
  let s := s.record (s.unitRec (s.peerPath (k.getD 255)) 0x79 0 (if down then 6 else 0) 5 (i / 8)
    (leBytes 1 (linkLoc i) ++ leBytes 1 (k.getD 255) ++ leBytes 1 (max l.tries l.nakTries) ++ leBytes 1 cause))
  let lost := l.retry.filter (fun f => f.sync.isNone)
  let s := s.setLink i { Link.reset with mode := .silent, since := s.pkt, alt := l.alt, reason := if cause = 2 then 3 else 1
                                         lanesDown := l.lanesDown }
  match k with
  | none => s
  | some k =>
    if !was then s.setPort k { p with spares := p.spares.filter (· != i % 8) }
    else if down then s.portDown k i
    else
      -- a spare takes the place
      let (members, spares) := match p.spares with
        | m :: r => (insertNat m members, r)
        | [] => (members, [])
      ((s.setPort k { p with members := members, spares := spares }).resendOn k lost).flushPort flushFuel k

/-! ### Receiving flits (R599, R601, R602) -/

/-- R601: the acknowledgement that a good flit carries frees retry entries; progress resets the count of attempts. -/
def Link.acked (l : Link) (lack : Byte) : Link :=
  let rest := l.retry.filter (fun f => serialLater f.lseq lack)
  if rest.length < l.retry.length then { l with retry := rest, tries := 0, retrying := false } else l

/-- R602: a sender replays what is unacknowledged, as an attempt. -/
def Link.replay (l : Link) (now : Nat) : Link :=
  if l.retry.isEmpty || decide (16 ≤ l.tries) then l
  else { l with retry := l.retry.map (fun f => { f with at_ := now }), tries := l.tries + 1, retrying := true }

/-- R601, R602: the acknowledgement and NAK fields of a good flit. -/
def State.takeAck (s : State) (i : Nat) (h : FlitHdr) : State :=
  let l := s.link i
  let l := if h.ackv || h.nak then l.acked h.lack else l
  s.setLink i (if h.nak then l.replay s.pkt else l)

/-- R606: the credits of a flit that is not discarded; those of a discarded one come again with its replay. -/
def State.takeCredits (s : State) (i : Nat) (h : FlitHdr) : State :=
  match s.portOf i with
  | some k =>
    let p := s.port k
    (s.setPort k { p with credits := min 512 (p.credits + h.crd.toNat) }).flushPort flushFuel k
  | none => s

/-- R601, R602: a bad flit, or one out of LSEQ order: the receiver asks for a replay. -/
def State.nakLink (s : State) (i : Nat) : State :=
  let l := s.link i
  if l.nakking then s else s.setLink i { l with nakking := true, nakTries := 1, lastNak := s.pkt }

/-- R601: whether a link takes flits. -/
def Link.up (l : Link) : Bool := l.mode == .live || l.mode == .held

/-- R601: a good data or sync flit: where its LSEQ is the one expected it is accepted. Of one that is discarded the
acknowledgement fields are read all the same (DEDUCED, log entry 70: R599 drops them with a bad flit alone). -/
def State.takeSeq (s : State) (i : Nat) (h : FlitHdr) (f : State → State) : State :=
  let s := s.takeAck i h
  let l := s.link i
  if l.expect = h.lseq then
    f ((s.setLink i { l with expect := l.expect + 1, nakking := false, nakTries := 0 }).takeCredits i h)
  else s.nakLink i

/-- R596: the codewords of a group of 512, of 5,140 data bits each, that carry bits of flit f of the group. -/
def flitWords (f : Nat) : List Nat :=
  (List.range ((2048 * f + 2047) / 5140 + 1 - 2048 * f / 5140)).map (· + 2048 * f / 5140)

/-- R595, R596: the lane that carries data bit b of a group: its codeword's 10-bit symbol j goes on lane j mod 4. -/
def bitLane (b : Nat) : Nat := b % 5140 / 10 % 4

/-- R596, R599: a flit that arrives on a link is good. -/
def Link.good (l : Link) (rx : FlitRx) : Bool :=
  rx.crc && rx.legal && (flitWords l.rxFlit).all (fun c => !(rx.marks.any (fun m => m.val == c)))

/-- R596: a flit has arrived on a link whose boundaries are known: the receiver keeps them by counting. -/
def Link.counted (l : Link) : Link := { l with rxFlit := (l.rxFlit + 1) % 1285 }

/-- R596: the same on link i of the module. -/
def State.countFlit (s : State) (i : Nat) : State := s.setLink i (s.link i).counted

/-- DATA_FLIT (R599, R601, R605). -/
def execDataFlit (d : DieId) (l : LinkId) (rx : FlitRx) (h : FlitHdr) (payload : List Byte) (s : State) :
    Host.Outcome State Fault Refusal :=
  let i := 8 * d.val + l.val
  if !(s.link i).up then .next s
  else if !((s.link i).good rx) then .next ((s.countFlit i).nakLink i)
  else .next ((s.countFlit i).takeSeq i h (fun s => s.dataIn i h.pseq payload))

/-- IDLE_FLIT (R599–R601, R606). -/
def execIdleFlit (d : DieId) (l : LinkId) (rx : FlitRx) (h : FlitHdr) (s : State) : Host.Outcome State Fault Refusal :=
  let i := 8 * d.val + l.val
  if !(s.link i).up then .next s
  else if !((s.link i).good rx) then .next ((s.countFlit i).nakLink i)
  else .next (((s.countFlit i).takeAck i h).takeCredits i h)

/-- TRAIN_FLIT (R603, R609): it fails a live link, and is exchanged in the fourth phase of training. -/
def execTrainFlit (d : DieId) (l : LinkId) (rx : FlitRx) (info : TrainInfo) (s : State) :
    Host.Outcome State Fault Refusal :=
  let i := 8 * d.val + l.val
  let v := s.link i
  match v.mode with
  | .live => .next (if v.good rx then s.failLink i 3 else (s.countFlit i).nakLink i)
  | .training _ =>
    .next (s.setLink i (if v.good rx then { v.counted with mode := .training 4, peer := some info } else v.counted))
  | _ => .next s

/-- HELLO (R611, R617). -/
def execHello (d : DieId) (l : LinkId) (h : FlitHdr) (f : SyncFrame) (s : State) : Host.Outcome State Fault Refusal :=
  let i := 8 * d.val + l.val
  if !(s.link i).up then .next s
  else .next ((s.countFlit i).takeSeq i h (fun s => match s.portOf i with
    | some k => ((s.setPort k { s.port k with helloGot := some f }).meetPeer k f.modn.toNat).tryLive k
    | none => s))

/-- ARRIVE (R619): held, merged and forwarded toward the parent, or combined at the root. -/
def execArrive (d : DieId) (l : LinkId) (h : FlitHdr) (f : SyncFrame) (s : State) : Host.Outcome State Fault Refusal :=
  let i := 8 * d.val + l.val
  if !(s.link i).up then .next s
  else .next ((s.countFlit i).takeSeq i h (fun s =>
    let b := f.bar.toNat
    let g := s.gang b
    match s.portOf i with
    | some k =>
      if !(s.port k).live || !(s.gangBars.contains b) || f.round != g.round then s
      else (s.setGang b { g with from_ := if g.from_.contains k then g.from_ else g.from_ ++ [k]
                                 held := g.held ++ [f.cross (s.port k).minor] }).gangGo b
    | none => s))

/-- COMPLETE (R619): forwarded to every port that sent an ARRIVE, and kept for the module hub. -/
def execComplete (d : DieId) (l : LinkId) (h : FlitHdr) (f : SyncFrame) (s : State) : Host.Outcome State Fault Refusal :=
  let i := 8 * d.val + l.val
  if !(s.link i).up then .next s
  else .next ((s.countFlit i).takeSeq i h (fun s =>
    let b := f.bar.toNat
    let g := s.gang b
    if !(s.gangBars.contains b) || f.round != g.round || !g.local_ || s.isRoot || s.parentPort != s.portOf i then s
    else
      let f := f.cross (s.port ((s.portOf i).getD 0)).minor
      s.gangDone b (if f.hasVal then some f.value else none) f.op.toNat f.poison))

/-! ### Training and silence (R603, R608, R609) -/

/-- R609: the highest minor both sides offer; the module offers 0 and 1. -/
def commonMinor (p : TrainInfo) : Option Nat :=
  if p.vmaj ≠ 1 ∨ 1 < p.vlo.toNat ∨ p.vhi.toNat < p.vlo.toNat then none else some (min 1 p.vhi.toNat)

/-- R596, R608, R609: a link ends its training with the peer it reached. Its first flit is then the first of a group of
512 codewords (DESIGN CHOICE, log entry 92: R596 says that training finds the boundaries, not where in a group). -/
def State.trained (s : State) (i : Nat) (peer : TrainInfo) : State :=
  let l := s.link i
  let v : Link := { Link.reset with mode := .live, alt := l.alt, peer := some peer, lanesDown := 0 }
  let held (sub : Nat) : State :=
    (s.setLink i { v with mode := .held }).linkFault (i / 8) sub ((s.portOf i).getD 255) (i % 8) 0 0 0
  if peer.serial = s.fuses.serial then held 6
  else match commonMinor peer with
  | none => held 5
  | some m => (s.setLink i { v with minor := m }).joinPort i peer.serial

/-- LINK_TRAINING (R604, R608): the five phases of a link with signal at both ends. -/
def execLinkTraining (d : DieId) (l : LinkId) (peer : TrainInfo) (s : State) : Host.Outcome State Fault Refusal :=
  let i := 8 * d.val + l.val
  if !s.ready || (s.die d.val).failed then .next s
  else
    let s' := { s with linksDown := s.linksDown &&& ~~~(BitVec.ofNat 32 (2 ^ i)) }
    match (s.link i).mode with
  | .dark => .next (s'.trained i peer)
  | .training _ => .next (s'.trained i peer)
  | _ => .next s

/-- LINK_TRAINING_TIMEOUT (R608): the attempt has failed and the link starts again at phase 1. -/
def execLinkTrainingTimeout (d : DieId) (l : LinkId) (s : State) : Host.Outcome State Fault Refusal :=
  let i := 8 * d.val + l.val
  let v := s.link i
  match v.mode with
  | .training _ => .next (s.setLink i { v with mode := .training 1, attempts := v.attempts + 1, peer := none })
  | _ => .next s

/-- LANE_SIGNAL_LOSS (R603): a lane without signal for 1 µs fails the link; a link in training loses its attempt. -/
def execLaneSignalLoss (d : DieId) (l : LinkId) (lane : Fin 4) (s : State) : Host.Outcome State Fault Refusal :=
  let i := 8 * d.val + l.val
  let v := s.link i
  let v := { v with lanesDown := v.lanesDown ||| BitVec.ofNat 4 (2 ^ lane.val) }
  match v.mode with
  | .live => .next ((s.setLink i v).failLink i 2)
  | .held => .next ((s.setLink i v).failLink i 2)
  | .training _ => .next (s.setLink i { v with mode := .dark, peer := none })
  | _ => .next (s.setLink i v)

/-- LINK_SILENCE_END (R603): a failed link starts training again after 2 µs. -/
def execLinkSilenceEnd (d : DieId) (l : LinkId) (s : State) : Host.Outcome State Fault Refusal :=
  let i := 8 * d.val + l.val
  let v := s.link i
  match v.mode with
  | .silent => .next (if s.pkt < v.since + 50 then s else s.setLink i { v with mode := .training 1, attempts := 0 })
  | _ => .next s

/-- LINK_RETRY_TIMEOUT (R602): after 39 ticks without progress each side of the link makes its next attempt; after the
sixteenth the link is declared failed. -/
def execLinkRetryTimeout (d : DieId) (l : LinkId) (s : State) : Host.Outcome State Fault Refusal :=
  let i := 8 * d.val + l.val
  let v := s.link i
  let tx := match v.retry with
    | f :: _ => decide (f.at_ + 39 ≤ s.pkt)
    | [] => false
  let rx := v.nakking && decide (v.lastNak + 39 ≤ s.pkt)
  if !v.up then .next s
  else if (tx && decide (16 ≤ v.tries)) || (rx && decide (16 ≤ v.nakTries)) then .next (s.failLink i 1)
  else
    let v := if tx then v.replay s.pkt else v
    .next (s.setLink i (if rx then { v with nakTries := v.nakTries + 1, lastNak := s.pkt } else v))

/-! ### Send rings (R612, R614) -/

/-- R612: the send rings of an edge die in order: tile, first line and last line. -/
def State.sendRingsOf (s : State) (d : Nat) : List (Nat × Nat × Nat) :=
  (s.tiles.flatMap (fun (q : Nat × Tile) => (List.range 16).filterMap (fun n =>
    let e := (Tbl.get 0 q.2.windows n).toNat
    let w1 := e / 2 ^ 32
    let bit (i : Nat) : Bool := w1 / 2 ^ i % 2 == 1
    let lo := w1 % 8192
    let hi := w1 / 8192 % 8192
    if bit 31 && bit 29 && e % 2 ^ 32 == 2 ^ d && !(bit 26) && bit 27 && !(bit 28) &&
      q.2.shelves.any (fun h => !h.inbound && decide (h.first ≤ lo) && decide (hi ≤ h.last)) then some (q.1, lo, hi)
    else none))).take 4096

/-- The read position of a send ring. -/
def State.sendRing (s : State) (d n : Nat) : SendRing :=
  (s.sendRings.find? (fun (r : SendRing) => r.die == d && r.num == n)).getD ⟨d, n, 0, [], 0⟩
/-- Puts the read position of a send ring. -/
def State.setSendRing (s : State) (r : SendRing) : State :=
  { s with sendRings := s.sendRings.filter (fun (q : SendRing) => !(q.die == r.die && q.num == r.num)) ++ [r] }

/-- R614: the live port of a die toward a module. -/
def State.portTo (s : State) (d n : Nat) : Option Nat :=
  ((List.range 4).map (· + 4 * d)).find? (fun k => (s.port k).live && ((s.port k).helloGot.map (·.modn.toNat)) == some n)

/-- R614: reads a send ring until its record is whole, a line bounces, or no live port reaches its module. -/
def State.readSend : Nat → State → Nat → Nat → Nat × Nat × Nat → State
  | 0, s, _, _, _ => s
  | n + 1, s, d, num, q =>
    let r := s.sendRing d num
    let w := leNat (r.part.take 8)
    let dmod := w % 2 ^ 14
    let bad := !(headerLegal (r.part.take 32)) || dmod == s.moduleNo
    let port := s.portTo d dmod
    if !r.part.isEmpty && !bad && port.isNone then s
    else if !r.part.isEmpty && decide (wireLen r.part + 16 ≤ r.part.length) then
      let s := s.setSendRing { r with part := [] }
      if bad then
        s.linkFault d (if headerLegal (r.part.take 32) then 2 else 1) 255 255 num dmod (w / 2 ^ 32)
      else match port with
      | some k =>
        let p := s.port k
        (s.setPort k { p with txQ := p.txQ ++ r.part.take 16 ++ r.part.drop 32 }).flushPort flushFuel k
      | none => s
    else
      let x := s.dieRead d q.1 (q.2.1 + r.line)
      match x.2 with
      | none => x.1.setSendRing { r with after := s.pkt + 5 }
      | some l =>
        let len := q.2.2 + 1 - q.2.1
        State.readSend n (x.1.setSendRing { r with part := r.part ++ l, line := if r.line + 1 = len then 0 else r.line + 1 }) d num q

/-- SEND_RING_READ (R614). -/
def execSendRingRead (d : DieId) (ring : BitVec 12) (s : State) : Host.Outcome State Fault Refusal :=
  if (s.die d.val).failed || s.started.isNone || decide (s.pkt < (s.sendRing d.val ring.toNat).after) then .next s
  else match (s.sendRingsOf d.val)[ring.toNat]? with
  | some q => .next (s.readSend 12 d.val ring.toNat q)
  | none => .next s

/-- LINK_RECORD_WRITE (R615, R616): of the next record of a port, or again of the one that bounced; lines of lost records that the
die still has to write come first. -/
def execLinkRecordWrite (d : DieId) (port : Fin 16) (s : State) : Host.Outcome State Fault Refusal :=
  if (s.die d.val).failed || port.val / 4 != d.val then .next s else .next ((s.writeLost d.val).writeRecord port.val)

/-! ### Peers (R621) -/

/-- The ports toward a peer: the one of its record, and those on which its HELLO came. -/
def State.portsTo (s : State) (n : Nat) : List Nat :=
  (List.range 16).filter (fun k => (s.peer n).port == some k || ((s.port k).helloGot.map (·.modn.toNat)) == some n)

/-- R621: the ports of a peer that PEER FENCED holds. -/
def State.fencePeer (s : State) (n : Nat) : State :=
  ((s.portsTo n).foldl (fun (s : State) (k : Nat) => s.setPort k { s.port k with live := false }) s).peerState n 3 (s.peer n).port

/-- R621: the links of a port train again with REASON 2. -/
def State.retrain (s : State) (k : Nat) : State :=
  (s.port k).links.foldl (fun (s : State) (l : Nat) =>
    let i := 8 * (k / 4) + l
    s.setLink i { Link.reset with mode := .training 1, alt := (s.link i).alt, reason := 2 }) (s.setPort k .reset)

/-- R621: PEER RESTORED: the peer has no link, and the links of its ports train again. -/
def State.restorePeer (s : State) (n : Nat) : State := ((s.portsTo n).foldl State.retrain s).peerState n 0 none

end Sys2Proof.Machine
end

