-- ==== Sys2Proof/Machine/Network.lean ====
section
/-! DEFINITION. The rows of the service network (R337–R359), the replies at tiles and edge dies (R343–R358), barriers
and reductions (R363–R367), and the announcements of stops, aborts and voids (R368–R371). -/

namespace Sys2Proof.Machine

/-- R45: whether tile t takes part in the networks: the module is ready, the tile lies in a live row of a floor that is up,
and its room has the clock periods on which its routers advance. -/
def State.tileOn (s : State) (t : Nat) : Bool := s.ready && s.tileLive t && s.clocked (tileRoom t)

/-! ### Packets (R337–R359) -/

/-- SERVICE_PACKET_ROUTE (R337–R345, R354, R357). -/
def execServicePacketRoute (t : TileId) (inp : Fin 5) (chan : Fin 4) (s : State) : Host.Outcome State Fault Refusal :=
  if s.tileOn t.val then .next (s.routePacket t.val inp.val chan.val) else .next s

/-- R349: whether a request takes its effect now: of those that have left the network it is the first, or a cellar read that has
been taken up (R288). -/
def Tile.turnOf (v : Tile) (p : Packet) : Bool :=
  v.cellJobs.any (fun j => j.pkt == p) || (v.eject.find? (fun q => !q.isReply)).all (· == p)

/-- A request that has left the network at tile t: its turn has come (R349), and the service port has the periods for its n bytes
(R265). -/
def State.atTile (s : State) (t : TileId) (p : Packet) (n : Nat) (ok : Bool) (f : State → State) : State :=
  if s.tileOn t.val && ok && (s.tile t.val).portFits n && (s.tile t.val).turnOf p then f (s.takeEject t.val p) else s

/-- Whether a READ names the cellar. -/
def Packet.wantsCellar (p : Packet) : Bool :=
  match p.tgt with
  | .uni u => u.cellar
  | _ => false

/-- WRITE_REQUEST (R286, R343, R349, R350). -/
def execWriteRequest (t : TileId) (p : Packet) (s : State) : Host.Outcome State Fault Refusal :=
  .next (s.atTile t p p.payload.length (p.kind == .write) (fun s => s.requestAt t.val p))

/-- READ_REQUEST (R267, R286, R343). -/
def execReadRequest (t : TileId) (p : Packet) (s : State) : Host.Outcome State Fault Refusal :=
  .next (s.atTile t p (p.len * 16) (p.kind == .read && !(Packet.wantsCellar p)) (fun s => s.requestAt t.val p))

/-- REMOTE_CELLAR_READ (R272, R275, R286, R288). -/
def execRemoteCellarRead (t : TileId) (p : Packet) (s : State) : Host.Outcome State Fault Refusal :=
  .next (s.atTile t p 0 (p.kind == .read && Packet.wantsCellar p) (fun s => s.cellarReadAt t.val p))

/-- ZERO_REQUEST (R290). -/
def execZeroRequest (t : TileId) (p : Packet) (s : State) : Host.Outcome State Fault Refusal :=
  .next (s.atTile t p 0 (p.kind == .zero) (fun s => s.zeroAt t.val p))

/-- CELLAR_ZEROING_COMPLETE (R290). -/
def execCellarZeroingComplete (t : TileId) (s : State) : Host.Outcome State Fault Refusal :=
  if s.tileOn t.val then .next (s.zeroDoneAt t.val) else .next s

/-- DELIVER (R464). -/
def execDeliver (t : TileId) (p : Packet) (s : State) : Host.Outcome State Fault Refusal :=
  .next (s.atTile t p p.payload.length (p.kind == .deliver) (fun s => s.deliverAt t.val p))

/-- A reply at the source it goes to: a tile, or an edge die with the request it answers. -/
def State.atSource (s : State) (p : Packet) (k : PktKind) (tile : State → Nat → State)
    (die : State → EdgeReq → State) : State :=
  if p.kind != k || !s.ready then s
  else match p.tgt with
  | .reply (.tile t) => if s.tileOn t.val then tile (s.takeEject t.val p) t.val else s
  | .reply (.die d tag) =>
    let s := s.takeInbox d p
    match s.edgeReq d tag with
    | some r => die s r
    | none => s
  | _ => s

/-- R265: whether the service port of the source tile has the periods for a reply's data. -/
def State.replyFits (s : State) (p : Packet) : Bool :=
  match p.tgt with
  | .reply (.tile t) => (s.tile t.val).portFits p.payload.length
  | _ => true

/-- Takes an edge die's unicast request off its list. -/
def State.dropEdgeReq (s : State) (r : EdgeReq) : State :=
  { s with edgeReqs := s.edgeReqs.filter (fun (q : EdgeReq) => !(q.die == r.die && q.etag == r.etag)) }

/-- R343, R358: the final reply of an edge die's unicast request. -/
def State.dieFinal (s : State) (r : EdgeReq) : State :=
  match r.purpose with
  | .link k => s.linkReply k r false
  | _ => s.dropEdgeReq r

/-- ACK (R343, R347, R358): frees the source's entry, or counts a floor of a multicast. -/
def execAck (p : Packet) (s : State) : Host.Outcome State Fault Refusal :=
  .next (s.atSource p .ack (fun s t => s.tileAck t p) (fun s r =>
    if r.floors.isEmpty then s.dieFinal r
    else s.edgeFloor r p.sub.toNat (leNat ((p.payload.drop 4).take 4)) false))

/-- DATA_REPLY (R265, R267, R283). -/
def execDataReply (p : Packet) (s : State) : Host.Outcome State Fault Refusal :=
  if s.replyFits p then .next (s.atSource p .data (fun s t => s.tileData t p) (fun s r => s.dieFinal r)) else .next s

/-- BOUNCE (R284, R343): the request waits for its resend; an edge die's request is sent again. -/
def execBounce (p : Packet) (s : State) : Host.Outcome State Fault Refusal :=
  .next (s.atSource p .bounce (fun s t => s.tileBounce t p) (fun s r => match r.purpose with
    | .link k => s.linkReply k r true
    | _ => s.dieInject r.die.val r.pkt))

/-- REFUSED (R286, R287, R300). -/
def execRefused (p : Packet) (s : State) : Host.Outcome State Fault Refusal :=
  .next (s.atSource p .refused (fun s t => s.tileRefused t p) (fun s r => s.dieFinal r))

/-- FENCED_REPLY (R345, R577): at an edge die the request is held until the floor rejoins. -/
def execFencedReply (p : Packet) (s : State) : Host.Outcome State Fault Refusal :=
  .next (s.atSource p .fenced (fun s t => s.tileFenced t p) (fun s r =>
    match r.pkt.destTile with
    | some t => if s.floorUp (tileFloor t) then s.dieInject r.die.val r.pkt else s.setEdgeReq { r with held := true }
    | none => s))

/-- BRANCH_DROPPED (R357, R358): the floor that the reply names is counted as dropped. -/
def execBranchDropped (p : Packet) (s : State) : Host.Outcome State Fault Refusal :=
  .next (s.atSource p .branchDropped (fun s _ => s) (fun s r => s.edgeFloor r p.sub.toNat 0 true))

/-- ZERO_DONE (R290, R460): a closing session's last one frees it. -/
def execZeroDone (p : Packet) (s : State) : Host.Outcome State Fault Refusal :=
  .next (s.atSource p .zeroDone (fun s _ => s) (fun s r =>
    let s := s.dropEdgeReq r
    match r.purpose with
    | .zero i =>
      let e := s.sess i
      let s := s.setSess i { e with zeroLeft := e.zeroLeft - 1 }
      if e.state = .closing ∧ e.zeroLeft = 1 then s.freeSession i else s
    | _ => s))

/-- FLOOR_COMBINER_REPLY (R356). -/
def execFloorCombinerReply (f : FloorId) (p : Packet) (s : State) : Host.Outcome State Fault Refusal :=
  if s.ready && s.floorUp f.val then .next (s.combine f.val p) else .next s

/-- REPLY_LIMIT (R344). -/
def execReplyLimit (t : TileId) (e : Fin 64) (s : State) : Host.Outcome State Fault Refusal :=
  if s.tileOn t.val then .next (s.tileReplyLimit t.val e.val) else .next s

/-- REQUEST_RESEND (R284). -/
def execRequestResend (t : TileId) (e : Fin 64) (s : State) : Host.Outcome State Fault Refusal :=
  if s.tileOn t.val then .next (s.resend t.val e.val) else .next s

/-- SLOT_TABLE_RESEND (R464). -/
def execSlotTableResend (pipe : Byte) (f : FloorId) (s : State) : Host.Outcome State Fault Refusal :=
  if s.ready then .next (s.resendTable pipe.toNat f.val) else .next s

/-! ### Barriers and reductions (R363–R367) -/

/-- R38, R363, R365: the members of a barrier: live tiles with its bit on floors that are up. -/
def State.members (s : State) (b : Nat) : List Nat :=
  (s.tiles.filter (fun q => q.2.member.getLsbD b && s.ready && s.tileLive q.1 && s.floorUp (tileFloor q.1))).map (·.1)

/-- R363: whether every member has arrived, and one at least. -/
def State.allArrived (s : State) (b : Nat) : Bool :=
  let l := s.barrier b
  !l.isEmpty && (s.members b).all (fun t => l.any (fun a => a.tile == t))

/-- R367: whether contributions of different operations, or a BARA and a REDS, meet among arrivals. -/
def mixes (l : List Arrival) : Bool := decide (1 < (l.map (fun a => a.red.map (fun r => r.2.2))).eraseDups.length)

/-- R367: the arrival, of a node's in their order, with which two contributions that do not combine first meet there. -/
def firstMix (l : List Arrival) : Option Arrival :=
  match l with
  | [] => none
  | a :: rest => rest.find? (fun b => mixes [a, b])

/-- R367, R564: the origin of a node at which contributions that do not combine first meet, with the time of it: of the parts of its
arrivals below (by `part`), those within which they have met already pass on their mark alone. -/
def nodeOrigin (p : Word) (part : Nat → Nat) (time : Arrival → Nat) (l : List Arrival) : Option Origin :=
  (firstMix (l.filter (fun a => !(mixes (l.filter (fun b => part b.tile == part a.tile)))))).map (fun a =>
    ⟨0x16, p.toNat / 2 ^ 20, time a⟩)

/-- R367, R564: the origins of the nodes of room r, its floor and the module; each time is the room tread for a room node, the
package time for a hub. -/
def roomOrigin (l : List Arrival) (r : Nat) : Option Origin :=
  nodeOrigin (roomPath r) id (fun a => a.tread) (l.filter (fun a => tileRoom a.tile == r))
/-- The origin of a floor hub. -/
def hubOrigin (l : List Arrival) (f : Nat) : Option Origin :=
  nodeOrigin (floorPath f) tileRoom (fun a => a.time) (l.filter (fun a => tileFloor a.tile == f))

/-- R367, R565: the origin that tile t records of a round's poison: of the lowest node on its way up that is one; where no such node
lies on it, of the first node that is one, room by room and then floor by floor (DESIGN CHOICE, log entry 105). -/
def mixOrigin (l : List Arrival) (t : Nat) : Option Origin :=
  let rooms := (l.map (fun a => tileRoom a.tile)).eraseDups
  let floors := (l.map (fun a => tileFloor a.tile)).eraseDups
  [roomOrigin l (tileRoom t), hubOrigin l (tileFloor t), nodeOrigin modulePath tileFloor (fun a => a.time) l,
    rooms.findSome? (roomOrigin l), floors.findSome? (hubOrigin l)].findSome? id

/-- R366: the combined value of the REDS among arrivals, with its operation. -/
def reduced (l : List Arrival) : Option (Nat × Word) :=
  (l.filterMap (·.red)).foldl (fun (o : Option (Nat × Word)) r => match o with
    | none => some (r.2.2, r.2.1)
    | some x => some (x.1, reduceOp x.1 x.2 r.2.1)) none

/-- R97, R113, R363, R366: completion reaches an arrived tile: its flag, and for REDS the value. -/
def State.completeAt (s : State) (l : List Arrival) (v : Word) (poison : Bool) (a : Arrival) : State :=
  let t := s.tile a.tile
  if t.phase != .running then s
  else
    let t := { t with arrivals := t.arrivals ++ [BitVec.ofNat 4 a.flag] }
    match a.red with
    | none => s.setTile a.tile t
    | some (rd, _, _) =>
      let t := { t with held := t.held ++ [⟨a.flag, rd, v, poison⟩] }
      match mixOrigin l a.tile with
      | some o => s.putTile a.tile (t.addOrigin o)
      | none => s.setTile a.tile t

/-- R363, R366: completion of barrier b goes down, and the barrier is armed again. -/
def State.completeBarrier (s : State) (b : Nat) (v : Word) (poison : Bool) : State :=
  let l := s.barrier b
  l.foldl (fun (s : State) (a : Arrival) => s.completeAt l v poison a) (s.setBarrier b [])

/-- R363, R365, R619: the module hub's part in a round in which every member has arrived: completion, or for a gang
barrier its local part and, once gang completion has returned, completion. -/
def State.hubRound (s : State) (b : Nat) : State :=
  let l := s.barrier b
  let r := reduced l
  if !(s.gangBars.contains b) then s.completeBarrier b (r.map (·.2) |>.getD 0) (mixes l)
  else match (s.gang b).done with
  | some (v, p) => (s.setGang b { s.gang b with done := none }).completeBarrier b (v.getD 0) (p || v.isNone)
  | none => s.gangLocal b (r.map (·.1)) (r.map (·.2) |>.getD 0) (mixes l)

/-- BARRIER_COMPLETION (R363): of a round with no reduction among its arrivals. -/
def execBarrierCompletion (b : BitVec 5) (s : State) : Host.Outcome State Fault Refusal :=
  if s.ready && s.allArrived b.toNat && (s.barrier b.toNat).all (fun a => a.red.isNone) then .next (s.hubRound b.toNat)
  else .next s

/-- REDUCTION_RESULT (R366, R367): of a round with a reduction among its arrivals. -/
def execReductionResult (b : BitVec 5) (s : State) : Host.Outcome State Fault Refusal :=
  if s.ready && s.allArrived b.toNat && (s.barrier b.toNat).any (fun a => a.red.isSome) then .next (s.hubRound b.toNat)
  else .next s

/-! ### Announcements (R35, R36, R368–R371) -/

/-- R35: a stop request set or withdrawn in a list of stops. -/
def stopIn (l : List Word) (unit : Word) (set : Bool) : List Word :=
  if set then (if l.contains unit then l else l ++ [unit]) else l.filter (· != unit)

/-- R35, R371: the stop requests that hold a room, with those that its room keeper has recorded. -/
def Room.stopsNow (m : Room) : List Word :=
  m.keeper.foldl (fun (l : List Word) e => match e with
    | .stop u b => stopIn l u b
    | _ => l) m.stops

/-- R35, R516: the commands that wait for a room to stop, or for a request to be withdrawn from it. -/
def State.stopAdvance (s : State) (r : Nat) : State :=
  let now := (s.room r).stopsNow
  let off (p : Word → Bool) (ws : List StopWait) : List StopWait :=
    ws.map (fun w => if p w.unit then { w with rooms := w.rooms.filter (· != r) } else w)
  let s := { s with cmds := s.cmds.map (fun (c : Cmd) => match c.work with
    | .stopSet ws => { c with work := .stopSet (off (fun u => now.contains u && (s.unit u).stop) ws) }
    | .stopClear ws => { c with work := .stopClear (off (fun u => !now.contains u) ws) }
    | _ => c) }
  s.stopsDone

/-- STOP_ANNOUNCEMENT (R35, R371): of a unit's stop request as it stands; at G0 the room keeper records it. -/
def execStopAnnouncement (r : RoomId) (unit : Word) (set : Bool) (s : State) : Host.Outcome State Fault Refusal :=
  let m := s.room r.val
  if !s.ready || !(s.floorUp (roomFloor r.val)) || !(unitRooms unit).contains r.val || (s.unit unit).stop != set then .next s
  else if m.clockOff then
    .next ((s.setRoom r.val { m with keeper := m.keeper ++ [.stop unit set] }).stopAdvance r.val)
  else .next ((s.setRoom r.val { m with stops := stopIn m.stops unit set }).stopAdvance r.val)

/-- R36, R522: the tiles of a room within a unit abort, and their requests are abandoned; the room's allowance ramps
down (R389). -/
def State.abortRoom (s : State) (r : Nat) (unit : Word) : State :=
  let ts := (s.tiles.filter (fun q => tileRoom q.1 == r && unitHas unit q.1)).map (·.1)
  let s := ts.foldl (fun (s : State) (t : Nat) =>
    s.setTile t { (s.tile t).abort with reqs := [], srcStreams := [] }) s
  if (s.tiles.filter (fun q => tileRoom q.1 == r)).any (fun q => q.2.phase == .running) then s else s.rampDown r

/-- ABORT_ANNOUNCEMENT (R36, R371, R522): in a room to which an edge die has announced it. -/
def execAbortAnnouncement (r : RoomId) (unit : Word) (s : State) : Host.Outcome State Fault Refusal :=
  if !(s.aborting.contains (r.val, unit)) || !(s.floorUp (roomFloor r.val)) then .next s
  else
    let s := { s with aborting := s.aborting.erase (r.val, unit) }
    let m := s.room r.val
    if m.clockOff then .next (s.setRoom r.val { m with keeper := m.keeper ++ [.abort unit] })
    else .next (s.abortRoom r.val unit)

/-- The set bits of a slot mask. -/
def maskSlots (mask : Byte) : List Nat := (List.range 8).filter (fun i => mask.getLsbD i)

/-- R220, R370: void deliveries to the tiles of a room that serve a pipeline. -/
def State.voidRoom (s : State) (r : Nat) (pipe mask : Byte) : State :=
  let ts := (s.tiles.filter (fun q => tileRoom q.1 == r && q.2.pipe == pipe)).map (·.1)
  ts.foldl (fun (s : State) (t : Nat) =>
    let v := s.tile t
    s.setTile t { v with slotEvs := v.slotEvs ++ (maskSlots mask).map (fun l => (l, none)) }) s

/-- VOID_ANNOUNCEMENT (R370, R371): in a room that the announcement has not yet reached; the room's acknowledgement
goes up. -/
def execVoidAnnouncement (r : RoomId) (pipe : Byte) (mask : Byte) (s : State) : Host.Outcome State Fault Refusal :=
  match s.voids.find? (fun (v : VoidOut) => v.pipe == pipe && v.mask == mask && !v.held && v.rooms.contains r.val) with
  | none => .next s
  | some v =>
    let s := { s with voids := s.voids.map (fun (w : VoidOut) => if w = v then { w with rooms := w.rooms.erase r.val } else w) }
    let m := s.room r.val
    if m.clockOff then .next (s.setRoom r.val { m with keeper := m.keeper ++ [.void pipe mask] })
    else .next (s.voidRoom r.val pipe mask)

/-- VOID_ACKNOWLEDGEMENT (R370, R487–R489): every room has acknowledged the oldest void of a pipeline. -/
def execVoidAcknowledgement (d : DieId) (pipe : Byte) (s : State) : Host.Outcome State Fault Refusal :=
  match s.voids.find? (fun (v : VoidOut) => v.die == d.val && v.pipe == pipe && !v.held && v.rooms.isEmpty) with
  | none => .next s
  | some v => .next ({ s with voids := s.voids.erase v }.tryCancel v.sess)

/-- R371: before its first tread after G0, a room applies what its room keeper has recorded, in order. -/
def State.applyKeeper (s : State) (r : Nat) : State :=
  let m := s.room r
  let s := s.setRoom r { m with keeper := [] }
  m.keeper.foldl (fun (s : State) (e : KeepEv) => match e with
    | .void p k => s.voidRoom r p k
    | .abort u => s.abortRoom r u
    | .stop u b =>
      let m := s.room r
      s.setRoom r { m with stops := stopIn m.stops u b }) s

end Sys2Proof.Machine
end

