-- ==== Sys2Proof/Machine/Period.lean ====
section
/-! DEFINITION. One clock period of a room (R44–R60, R62–R65, R70–R77, R374–R390): holds, the tread rule, the
governor, the tread of every tile, calibration slots and the single faults of R553. -/

namespace Sys2Proof.Machine

/-! ### The room's clock -/

/-- R71: the 24-bit count of a correction record. -/
def sat24 (n : Nat) : Nat := min n 16777215

/-- R71: writes the correction records of the pulses since the last edge. -/
def Room.writeCorr (m : Room) (gear : Nat) (fallback : Bool) : Room :=
  m.pulses.foldl (fun (m : Room) (k : Nat) =>
    let c : CorrRec := { tick := k, tread := m.tread, stretched := sat24 m.strP, idle := sat24 m.idleP, gear := gear
                         fallback := fallback || m.fellBack }
    let l := m.corr ++ [c]
    { m with corr := l.drop (l.length - 8), corrN := m.corrN + 1, strP := 0, idleP := 0, allP := 0, fellBack := false
             pulses := m.pulses.filter (· != k) }) m

/-- R378: the full credit at a gear. -/
def fullCredit (g : Nat) : Nat := 256 * 1200 * Config.budget g
/-- R56, R378: the budget of a period, in fJ. -/
def periodBudget (g : Nat) (stretch : Margin) : Nat :=
  let c := 600 * Config.budget g
  match stretch with
  | .quiet => 2 * c
  | .caution => 3 * c
  | .warning => 4 * c

/-- R374: the metered energy of a tile's tread, in fJ. -/
def treadEnergy (g : Nat) (x : TileTread) : Nat :=
  if g = 3 then 24 * (x.press + x.draw) + 240 * (x.stairDraw + x.stairHaul) + (if x.vec then 1200 else 0) + 150 * x.driven
  else 16 * (x.press + x.draw) + 200 * (x.stairDraw + x.stairHaul) + (if x.vec then 800 else 0) + 100 * x.driven

/-- The energy of the last n periods, ballast included. -/
def winSum (n : Nat) (w : List (Nat × Nat)) : Nat := ((w.take n).map (fun p => p.1 + p.2)).foldl (· + ·) 0

/-- R375, R385: whether an estimate of metered energy (of 64 periods, in fJ) stays at or below an allowance. -/
def withinAllow (g e64 allow : Nat) : Bool := decide (Config.kNum g * e64 ≤ allow * Config.kDen g * 38400)

/-- R386: the energy of a period that holds the estimate at an allowance. -/
def ballastTarget (g allow : Nat) : Nat := allow * 600 * Config.kDen g / Config.kNum g

/-- R197, R386: what the ballast sources can spend in a period, in fJ, given the stair bytes used, background transfers among them,
the tiles with a DMUL pass tread and those whose press queue is not empty. -/
def ballastCap (g bytes draws presses : Nat) : Nat :=
  let b := if g = 3 then 240 else 200
  let p := if g = 3 then 48 else 32
  (1200 * 32 - bytes) * b + (1200 - draws) * 128 * p + (1200 - presses) * 128 * p

/-! ### Rests (R62, R63, R408) and spine events (R387) -/

/-- The rest in force in tread n of a room, if its program has started. -/
def Room.restAt (m : Room) (n : Nat) : Option Rest :=
  match m.start with
  | none => none
  | some c => if n < c then none else m.rests.find? (fun x => decide (x.first + c ≤ n) && decide (n < x.first + x.len + c))

/-- R63: whether the tile spine is to be gated in tread n. -/
def Room.gatedAt (m : Room) (n : Nat) : Bool :=
  match m.restAt n, m.start with
  | some x, some c => decide (n + x.ramp < x.first + x.len + c)
  | _, _ => false

/-- R63, R384: the wake ramp's target in force, in half milliamperes. -/
def Room.rampTarget (m : Room) (n g : Nat) : Option Nat :=
  match m.restAt n with
  | some x =>
    if m.gatedAt n then none
    else some (125 * (if g = 1 then x.t1 else if g = 2 then x.t2 else x.t3))
  | none => none

/-- R388: whether tread n lies in the window of a gear change, or of the step of its chain before this one. -/
def State.gearWindow (s : State) (n : Nat) : Bool :=
  let near (t : Option Nat) : Bool := t.any (fun t => decide (t ≤ n + 8192) && decide (n ≤ t + 8192))
  near s.lastTarget || near (s.change.bind (·.tail))

/-! ### Inputs of a tile's router -/

/-- The key of a landing: sending tile, direction, tread modulo 6 (R50). -/
def landKey (t d n : Nat) : Nat := t * 24 + d * 6 + n % 6

/-- Whether a port of a tile leads to a hatch lane. -/
def State.hatchAt (s : State) (t d : Nat) : Bool :=
  match s.nbr t d with
  | some u => tileRoom u != tileRoom t
  | none => false

/-- Whether a port of a tile leads to the package edge. -/
def State.edgeAt (s : State) (t d : Nat) : Bool := (s.nbr t d).isNone

/-- R50, R51, R303, R327: the word at an input of a tile in tread n: what the neighbour drove in tread n − 1 within a
room, and in tread n − 3 across a hatch; a void where no word was written in that tread. -/
def State.inputWord (s : State) (t d n : Nat) : MeshWord :=
  match s.nbr t d with
  | none => .void
  | some u =>
    if tileRoom u = tileRoom t then Tbl.get .void (s.tile u).out (opp d)
    else
      let l := Tbl.get (0, .void) s.lands (landKey u (opp d) (n - 3))
      if n < 3 ∨ !(s.floorUp (tileFloor u)) ∨ n % 4096 = 2 ∨ l.1 + 3 ≠ n then .void else l.2

/-- R50: the lanes of a boundary each way by its direction: 40 north–south and 30 east–west, numbered by the column or the
physical row within the room (DESIGN CHOICE, log entry 84). -/
def laneCount (d : Nat) : Nat := if d % 2 = 0 then 40 else 30

/-- R50, R52, R54: the lanes that room r would read empty or write full in tread n: the receiving room, the boundary's
direction from it, the lane, and whether full. The lanes of a boundary share their pointers, so all of them slip together.
R46 and R49 exclude both. -/
def State.slips (s : State) (r n : Nat) : List (Nat × Nat × Nat × Bool) :=
  (s.nbrRooms r).flatMap (fun q =>
    if (s.room q.2).tread + 2 < n then
      (List.range (laneCount q.1)).flatMap (fun i => [(r, q.1, i, false), (q.2, opp q.1, i, true)])
    else [])

/-- R54: the slips that hardware faults cause in the lanes that a room's tiles read (empty) or write (full): the receiving
room, its direction, the lane and whether full. -/
def State.upsetSlips (s : State) (r : Nat) (us : List Upset) : List (Nat × Nat × Nat × Bool) :=
  us.filterMap (fun u => match u with
    | .hatchSlip t p full =>
      if tileRoom t.val = r ∧ s.hatchAt t.val p.val then
        (if full then (s.nbr t.val p.val).map (fun v => (tileRoom v, opp p.val, laneOf v p.val, true))
         else some (r, p.val, laneOf t.val p.val, false))
      else none
    | _ => none)

/-! ### Single faults (R553, R557, R559) -/

/-- R291: marks a word with the bits upset in it: one is correctable, two are not. -/
def upsetMark (bits old : Nat) : Nat := if bits = 0 then old else if old = 0 then min bits 2 else if old = 3 then 3 else 2

/-- R153, R171: an upset inverts bits of the array integer in a weight register, which has 33 bits. -/
def Run.flipWeight (r : Run) (k mask : Nat) : Run := { r with wint := Tbl.set 0 r.wint k (flipBits 33 mask (Tbl.get 0 r.wint k)) }

/-- Whether a mask inverts an odd number of bits. -/
def oddBits {w : Nat} (mask : BitVec w) : Bool := (List.range w).foldl (fun b i => b != mask.getLsbD i) false

/-- R173: an upset strikes a stored latch word: its sum changes, and with an odd number of bits whether its parity fails when it is
read. -/
def Run.flipLatch (r : Run) (k p : Nat) (mask : BitVec 40) : Run :=
  let l := Tbl.get Lat.zero r.lat k
  { r with lat := Tbl.set Lat.zero r.lat k { l with
      sums := l.sums.set p (flipBits 40 mask.toNat (l.sums.getD p 0))
      bad := if !oddBits mask then l.bad else if l.bad.contains p then l.bad.filter (· != p) else p :: l.bad } }

/-- An upset that strikes the working state of a queue's started head. -/
def Tile.strikeRun (v : Tile) (q : Nat) (f : Run → Run) : Tile :=
  match v.queue q with
  | e :: l => if e.start.isSome then v.setQueue q ({ e with run := f e.run } :: l) else v
  | [] => v

/-- R292: an upset strikes the i-th word of a queue, which its engine has not read yet. -/
def Tile.strikeQueue (v : Tile) (q i : Nat) : Tile :=
  v.setQueue q ((v.queue q).zipIdx.map (fun p => if p.2 = i ∧ p.1.start.isNone then { p.1 with bad := true } else p.1))

/-- R291, R559: what upsets leave in the memories of tile t. -/
def upsetTile (t : Nat) (v : Tile) (u : Upset) : Tile :=
  match u with
  | .programStore q a tr b =>
    let mark (m : Tbl Nat) : Tbl Nat := Tbl.set 0 m a.toNat (upsetMark b.val (Tbl.get 0 m a.toNat))
    if q.val ≠ t then v
    else if tr then { v with trail := { v.trail with progMark := mark v.trail.progMark } }
    else { v with lead := { v.lead with progMark := mark v.lead.progMark } }
  | .seqRegister q tr r mask =>
    if q.val ≠ t then v
    else if tr then { v with trail := v.trail.setReg r.toNat (v.trail.reg r ^^^ mask) }
    else { v with lead := v.lead.setReg r.toNat (v.lead.reg r ^^^ mask) }
  | .routeStore q a => if q.val ≠ t then v else { v with routeMark := Tbl.set 0 v.routeMark a.val 2 }
  | .atticBits q w b =>
    if q.val ≠ t then v
    else { v with atticMark := Tbl.set 0 v.atticMark w.val (upsetMark b.val (Tbl.get 0 v.atticMark w.val)) }
  | .cellarBits q w b =>
    if q.val ≠ t then v
    else { v with cellarMark := Tbl.set 0 v.cellarMark w.val (upsetMark b.val (Tbl.get 0 v.cellarMark w.val)) }
  | .pressWeight q b a col row mask =>
    if q.val ≠ t then v
    else v.strikeRun 0 (fun r => r.flipWeight (kW b.val (4 * a.val + col.val) row.val) mask.toNat)
  | .pressLatch q a w mask =>
    if q.val ≠ t then v
    else v.strikeRun 0 (fun r => r.flipLatch (w.val / 16 * 16 + 4 * a.val + w.val / 4 % 4) (w.val % 4) mask)
  | .drawLatch q sl p mask => if q.val ≠ t then v else v.strikeRun 1 (fun r => r.flipLatch sl.val p.val mask)
  | .windowParity q w i => if q.val ≠ t then v else v.strikeRun 2 (fun r => { r with par := (w.val, i.val) :: r.par })
  | .queueWord q k i => if q.val ≠ t then v else v.strikeQueue k.val i.val
  | .slotRegister q sl => if q.val ≠ t then v else { v with slotPar := setBit v.slotPar sl.val true }
  | .benchBits q a e b =>
    if q.val ≠ t then v
    else
      let k := a.val * 4096 + e.val
      { v with pressMark := Tbl.set 0 v.pressMark k (upsetMark b.val (Tbl.get 0 v.pressMark k)) }
  | .drawBenchBits q sl e b =>
    if q.val ≠ t then v
    else
      let k := sl.val * 512 + e.val
      { v with drawMark := Tbl.set 0 v.drawMark k (upsetMark b.val (Tbl.get 0 v.drawMark k)) }
  | .slotBits q sl w b =>
    if q.val ≠ t then v
    else
      let k := sl.val * 264 + w.val
      { v with slotMark := Tbl.set 0 v.slotMark k (upsetMark b.val (Tbl.get 0 v.slotMark k)) }
  | _ => v

/-- R54: the ports of tile t whose lanes are found empty at the read, or full at the write. -/
def slipPorts (t : Nat) (full : Bool) (us : List Upset) : List Nat :=
  us.filterMap (fun u => match u with
    | .hatchSlip q p b => if q.val = t ∧ b = full then some p.val else none
    | _ => none)

/-- R302, R553: a word as it comes to port d of tile t, with the bits that upsets invert in it. -/
def struckWord (t d : Nat) (us : List Upset) (w : MeshWord) : MeshWord :=
  us.foldl (fun w u => match u with
    | .meshParity q p b => if q.val = t ∧ p.val = d then w.struck b.val else w
    | _ => w) w

/-- R360, R562: the record of a sync-wire difference at a node. -/
def State.syncRecord (s : State) (p : Word) (act rec_ edge sig a b : Nat) : State :=
  s.record (s.unitRec p 0x6F 0 act rec_ edge (leBytes 4 p.toNat ++ leBytes 1 sig ++ leBytes 4 a ++ leBytes 4 b ++ leBytes 8 s.pkt))

/-- R360: whether an upset makes the lead's firmware reset the module: wires A and B differ at the hub or at a die's port. -/
def Upset.resetsModule : Upset → Bool
  | .syncWire .moduleHub _ a b => a != b
  | .syncWire (.diePort _) _ a b => a != b
  | _ => false

/-- R360, R361: whether an upset strikes a sync node or an edge die outside the rooms, whose clock is not the room's. -/
def Upset.atHub : Upset → Bool
  | .syncWire .room _ _ _ => false
  | .syncWire _ _ _ _ => true
  | .dieBuffer _ _ _ => true
  | _ => false

/-- R292, R564: a word of the oldest record in a buffer of an edge die fails its parity: it will be delivered poisoned. -/
def State.strikeBuffer (s : State) (d buf word : Nat) : State :=
  if buf < 4 then
    let p := s.port (4 * d + buf)
    match p.waiting with
    | r :: l => if 8 * word < r.payload.length && !(r.poi.contains word) then
        s.setPort (4 * d + buf) { p with waiting := { r with poi := r.poi ++ [word] } :: l } else s
    | [] => s
  else match s.pipes.find? (fun (r : PipeRec) => r.home == d && r.pipe % 60 == buf - 4) with
    | some r =>
      let q := s.pipe r.pipe
      match q.inRecs with
      | x :: l => if word < 4 * x.lines.length && !(x.poi.contains word) then
          s.setPipe r.pipe { q with inRecs := { x with poi := x.poi ++ [word] } :: l } else s
      | [] => s
    | none => s

/-- R337, R292: a word of the packet at the head of a service router's buffer fails its parity at the router's input: a header word
makes it a packet to discard, a payload word is delivered poisoned, with its origin. -/
def State.strikeFlit (s : State) (t port chan word bit : Nat) : State :=
  let k := bufKey t port chan
  match s.buf k with
  | [] => s
  | p :: l =>
    if word < 4 then s.setBuf k ({ p with hdrGood := false, struck := p.struck ++ [(word, 2 ^ bit)] } :: l)
    else if p.payload.length ≤ 4 * (word - 4) then s
    else
      let o : Origin := ⟨0x15, dtileField t + port * 2 ^ 20, (s.room (tileRoom t)).tread⟩
      let w := (word - 4) / 2
      (s.setBuf k ({ p with poison := if p.poison.contains w then p.poison else p.poison ++ [w], org := some (p.org.getD o) } :: l)).putTile t
        ((s.tile t).addOrigin o)

/-- R390, R360, R559: what an upset does at once: the governor's copies, a sync wire of the room node, the tread
counter's copies, and the memories of a tile of the room. -/
def State.roomUpset (s : State) (r : Nat) (u : Upset) : State :=
  let f := roomFloor r
  match u with
  | .governor q copy =>
    let s := s.record (s.unitRec (roomPath r) 0x71 0 0 1 0 (leBytes 1 q.val))
    let m := s.room r
    match q.val with
    | 1 => s.setRoom r { m with debit := max m.debit (fullCredit (s.roomGear r) - copy) }
    | 2 => s.setRoom r { m with allow := min m.allow copy, fill := max (max m.allow m.fill) copy }
    | _ =>
      let g := s.roomGear r
      match m.win with
      | (w, b) :: l => s.setRoom r { m with win := (w, max b (ballastTarget g (max m.allow m.fill) - min w copy)) :: l }
      | [] => s
  | .syncWire node sig a b => if a = b then s else
    match node with
    | .room => (s.syncRecord (roomPath r) 2 1 0 sig a b).fenceReset f
    | .floorHub => (s.syncRecord (floorPath f) 2 3 0 sig a b).fenceReset f
    | .moduleHub => s.syncRecord modulePath 3 4 0 sig a b
    | .diePort d => s.syncRecord modulePath 3 5 d.val sig a b
  | .treadCounter =>
    let s := s.record (s.unitRec (roomPath r) 0x75 4 2 1 0 (leBytes 1 f ++ leBytes 1 (r % 16) ++ leBytes 8 s.pkt))
    s.fenceReset f
  | .dieBuffer d b w => s.strikeBuffer d.val b.val w.val
  | .serviceFlit t p c w b => if tileRoom t.val = r then s.strikeFlit t.val p.val c.val w.val b.val else s
  | u => match u.tile with
    | some t => if tileRoom t = r then s.putTile t (upsetTile t (s.tile t) u) else s
    | none => s

/-! ### The tread of a room's tiles -/

/-- R84: whether a room's program treads have begun: it has no start count to wait for. -/
def Room.begun (m : Room) : Bool :=
  match m.start with
  | some c => decide (c ≤ m.tread)
  | none => true

/-- R78: whether a tile takes part in a tread: its program or its route runs, or its trailer has an instruction to issue. -/
def Tile.treads (v : Tile) : Bool :=
  v.phase == .running || (v.phase == .complete && (!v.rseq.stopped || v.past.any (·.issued)))

/-- The tiles of a room that have anything to do in a tread: a program, a route, a trailer that follows, or words still on their
outputs. -/
def State.activeTiles (s : State) (r : Nat) : List Nat :=
  (s.tiles.filter (fun q => tileRoom q.1 == r && (((s.room r).begun && q.2.treads) || !q.2.out.isEmpty))).map (·.1)

/-- R84, R312: at program tread 0 the route sequencers of a room take their first words. -/
def State.startRoutes (s : State) (r : Nat) : State :=
  let m := s.room r
  if m.start ≠ some m.tread then s
  else
    (s.tiles.filter (fun q => tileRoom q.1 == r && q.2.phase == .running && q.2.rseq == .reset)).foldl
      (fun (s : State) (q : Nat × Tile) =>
        let x := routeTake 8 q.2 0
        match x.2 with
        | none => s.setTile q.1 x.1
        | some f => (s.tileFaults q.1 1 [f]).abortTile q.1) s


/-- R86: the tread n of tile t, on what its neighbours drove. -/
def State.tileTreadAt (s : State) (t n : Nat) (us : List Upset) : TileTread :=
  let us := us.filter (fun u => u.tile == some t)
  let inp := [0, 1, 2, 3].map (fun d =>
    struckWord t d us (if (slipPorts t false us).contains d then .void else s.inputWord t d n))
  let x := tileTread (fun u => s.tileLive u && s.floorUp (tileFloor u)) n t inp ([0, 1, 2, 3].map (s.edgeAt t))
    ([0, 1, 2, 3].map (s.hatchAt t)) us (s.tile t)
  let x := { x with out := ([0, 1, 2, 3].zip x.out).map (fun q => if (slipPorts t true us).contains q.1 then .void else q.2) }
  if us.any (fun u => match u with
    | .routeCompare q => q.val == t
    | _ => false) then { x with out := [.void, .void, .void, .void] } else x

/-- R63, R121, R318: a rested tread of a tile: it stands still, the route sequencer as well, which the wake tread takes through
the treads rested; the words that leave are void. What the rules place in a tread with no clock, the trailer's issue of the last two
instructions before a rest and the effects due two treads after an issue (R78, R81), falls in the first tread that has a clock
(DESIGN CHOICE, log entry 101). -/
def Tile.restTread (v : Tile) (wake : Nat) : Tile :=
  { v with behind := if v.treads then v.behind + 1 else v.behind, out := [], nextIssue := max v.nextIssue wake }

/-- The words a tile drives, as its outputs hold them. -/
def outTbl (l : List MeshWord) : Tbl MeshWord :=
  ([0, 1, 2, 3].zip l).foldl (fun (o : Tbl MeshWord) (p : Nat × MeshWord) => Tbl.set .void o p.1 p.2) []

/-- R52, R54: whether a tile's lane in a direction is full as its room writes in tread n: the receiving room has not yet
read the landing that the word would take. R46 and R49 exclude it. -/
def State.laneFull (s : State) (t d n : Nat) : Bool :=
  match s.nbr t d with
  | some u => s.floorUp (tileFloor u) && decide ((s.room (tileRoom u)).tread + 3 ≤ n)
  | none => false

/-- R50, R54: the valid words a tile drives into hatch lanes in tread n land there; one that finds its lane full is lost, so
that a void is read in its place. -/
def State.land (s : State) (t n : Nat) : State :=
  { s with lands := [0, 1, 2, 3].foldl (fun (l : Tbl (Nat × MeshWord)) d =>
      let w := Tbl.get .void (s.tile t).out d
      if s.hatchAt t d && w != .void && !(s.laneFull t d n) then Tbl.set (0, .void) l (landKey t d n) (n, w) else l) s.lands }

/-- R363, R364, R366: a sync request that leaves a tile: its arrival at the barrier, or the sync-use fault. -/
def State.syncReq (s : State) (t : Nat) (q : SyncReq) : State :=
  let det := leBytes 1 q.bar ++ leBytes 1 q.flag
  let v := s.tile t
  if !(v.member.getLsbD q.bar) then s.tileAbort t 0x6E 1 (some q.pc) det
  else if (s.barrier q.bar).any (fun a => a.tile == t) then s.tileAbort t 0x6E 2 (some q.pc) det
  else s.setBarrier q.bar (s.barrier q.bar ++ [⟨t, q.flag, q.red, (s.room (tileRoom t)).tread, s.pkt⟩])

/-- R44, R86: what a tile's tread does to the module. -/
def State.commitTile (s : State) (t n : Nat) (x : TileTread) : State :=
  let s := s.putTile t { x.t with out := outTbl x.out }
  let s := s.tileFaults t 1 x.faults
  let s := x.sends.foldl (fun (s : State) (h : HaulSend) => s.haulSend t h) s
  let s := x.syncs.foldl (fun (s : State) (q : SyncReq) => s.syncReq t q) s
  s.land t n

/-! ### Calibration slots (R73–R77, R276) -/

/-- R77: the calibration-range record. -/
def State.calFault (s : State) (r f : Nat) (c : CalResult) : State :=
  let b (i : Int) : List Byte := leBytes 4 (i % 4294967296).toNat
  s.record (s.unitRec (roomPath r) 0x74 0 0 1 0 (leBytes 1 f ++ b c.value ++ b c.lo ++ b c.hi))

/-- R291, R298: a scrub read of a line: single-bit errors are corrected and written back; a double-bit error is
recorded, and stored poisoned outside weight blocks; in a weight block it is reported for re-verification. -/
def State.scrubLine (s : State) (t : Nat) (cellar : Bool) (line : Nat) : State :=
  (List.range 4).foldl (fun (s : State) (i : Nat) =>
    let v := s.tile t
    let w := 4 * line + i
    let m := Tbl.get 0 (v.marks cellar) w
    if m = 1 then
      if cellar then
        s.putTile t { v with corrC := stick v.corrC, ovf := fillBit 6 v.corrC v.ovf, stairCorr := v.stairCorr + 1
                             cellarMark := Tbl.set 0 v.cellarMark w 0 }
      else s.putTile t { v with corrA := stick v.corrA, ovf := fillBit 5 v.corrA v.ovf, atticMark := Tbl.set 0 v.atticMark w 0 }
    else if m = 2 then
      let k := if cellar then v.kind (line / 128) else 0
      let v := v.addOrigin ⟨if cellar then 2 else 1, line + i * 65536, (s.room (tileRoom t)).tread⟩
      let v := if !cellar then { v with atticMark := Tbl.set 0 v.atticMark w 3 }
        else if k = 2 ∨ k = 0 then { v with cellarMark := Tbl.set 0 v.cellarMark w 3 } else v
      let s := s.putTile t v
      let s := s.record (s.tileRec t 0x65 0 0 none none (leBytes 1 (if cellar then 1 else 0) ++ leBytes 4 (line + i * 65536) ++ leBytes 1 k))
      if cellar ∧ k = 1 then s.reverify false t (line / 128) else s
    else s) s

/-- R276: the stair timing of a tile in its slot: the new setting, its counts, and the setting that would pass a limit. -/
def Tile.stairSlot (trained : Nat) (v : Tile) : Tile × Option Int :=
  let clean := if v.stairCorr = 0 then v.stairClean + 1 else 0
  let want : Int := if 2 < v.stairCorr then 1 else if clean = 64 then -1 else 0
  let adj := v.stairAdj + want
  let out := want != 0 && (decide (3 < adj) || decide (adj < -3) || decide (15 < adj + trained) || decide (adj + (trained : Int) < 0))
  ({ v with stairCorr := 0, stairClean := if clean = 64 then 0 else clean, stairAdj := if out then v.stairAdj else adj },
    if out then some (adj + trained) else none)

/-- R276: the stair-timing slot of a room: every tile of a live row. -/
def State.stairTiming (s : State) (r : Nat) : State :=
  (((List.range 1200).map (fun i => 1200 * r + i)).filter s.tileLive).foldl (fun (s : State) (t : Nat) =>
    let trained := Tbl.get 0 s.stairTrained t
    let q := (s.tile t).stairSlot trained
    let line := q.1.scrubWhole % 8192
    let s := s.setTile t { q.1 with scrubWhole := (line + 1) % 8192 }
    let s := match q.2 with
      | some set => s.calFault r 1 ⟨t, set, 0, false, max 0 ((trained : Int) - 3), min 15 ((trained : Int) + 3)⟩
      | none => s
    s.scrubLine t true line) s

/-- R76: a receiving lane's sampling phase moves by at most one fine step toward the centre found, and its margin is
recorded. -/
def State.phaseCheck (s : State) (r : Nat) (c : CalResult) : State :=
  let old := Tbl.get 0 s.hatchPhase c.unit
  let step : Int := if old < c.value then 1 else if c.value < old then -1 else 0
  let m := s.room r
  { s with hatchPhase := Tbl.set 0 s.hatchPhase c.unit (old + step) }.setRoom r { m with margins := Tbl.set 0 m.margins c.unit c.other }

/-- R76: a sensor site's caution and warning taps. -/
def State.tapTuning (s : State) (r : Nat) (c : CalResult) : State :=
  let m := s.room r
  s.setRoom r { m with taps := Tbl.set (0, 0) m.taps c.unit (c.value, c.other) }

/-- Whether a result belongs to room r: a lane that leads into one of its tiles, or any of its sites. -/
def State.calIn (s : State) (c : CalResult) (r n : Nat) : Bool :=
  n / 4096 % 4 != 0 || (tileRoom (c.unit / 4) == r && s.hatchAt (c.unit / 4) (c.unit % 4))

/-- R76, R77: the calibration function of tread n of room r. -/
def State.calibrate (s : State) (r n : Nat) (cs : List CalResult) : State :=
  match n / 4096 % 4 with
  | 1 => s.stairTiming r
  | 3 => s
  | k => (cs.filter (fun c => s.calIn c r n)).foldl (fun (s : State) (c : CalResult) =>
      if !c.inRange then s.calFault r k c else if k = 0 then s.phaseCheck r c else s.tapTuning r c) s

/-! ### The period -/

/-- R65, R67: a room's divider switch once its counter reaches the target. -/
def State.switchGear (s : State) (r : Nat) : State :=
  let m := s.room r
  match m.pendGear with
  | some (t, g) =>
    if m.tread = t then
      let old := s.roomGear r
      let credit := fullCredit old - m.debit
      let s := s.setRoom r { m with gear := if g = s.gear then none else some g, pendGear := none
                                    debit := if Config.budget old = 0 then 0 else fullCredit g.toNat - credit
                                    clockOff := g == 0 }
      if g = 0 then s.spine r true else s
    else s
  | none => s

/-- R59: the hold sources of room r in tread n. -/
def State.holdsOf (s : State) (r n : Nat) : List HoldSrc :=
  (s.activeTiles r).flatMap (fun t => (s.tile t).holds t n)

/-- R46: whether the tread rule lets a room take its tread. -/
def State.treadRule (s : State) (r : Nat) : Bool :=
  let m := s.room r
  (s.nbrRooms r).all (fun q => decide (m.tread ≤ Tbl.get 0 m.recv q.1 + 1))

/-- What a clock period does for a tile besides its tread: `banks` are the attic banks that its tread used, `n` the
16-byte stair transfers that it leaves free. The service port's period passes (R265), the background users move
(R275) and leave the scrub what they do not use, and a bounced request comes a period nearer to its resend (R284). It tells the
background transfers as well. -/
def Tile.passPeriod (v : Tile) (n : Nat) (banks : BitVec 4) : Tile × Nat :=
  let x := v.background n
  ({ x.1 with portFree := min 16 (x.1.portFree + 1), stairFree := min 2 (x.1.stairFree + (n - x.2)), banksUsed := banks
              reqs := x.1.reqs.map (fun q => (q.1, q.2.map (fun r => { r with left := r.left - 1 }))) }, x.2)

/-- R275: a clock period of a room for each of its tiles. `xs` are the treads that the period carries; `closed` tells that the stairs
have no free bytes, in a calibration slot or while the tile spine is gated. It tells the bytes of background transfers. -/
def State.passPeriods (s : State) (r : Nat) (closed : Bool) (xs : List (Nat × TileTread)) : State × Nat :=
  (s.tiles.filter (fun q => tileRoom q.1 == r)).foldl (fun (a : State × Nat) (q : Nat × Tile) =>
    let x := (xs.find? (fun y => y.1 == q.1)).map (·.2)
    let bytes := (x.map (fun y => y.stairDraw + y.stairHaul)).getD 0
    let used := if closed then 32 else min 32 bytes
    let y := q.2.passPeriod ((32 - used) / 16) ((x.map (fun y => y.banks)).getD 0)
    (a.1.setTile q.1 y.1, a.2 + 16 * y.2)) (s, 0)

/-- R197: the tiles of a room whose press queue is not empty. -/
def State.pressQueues (s : State) (r : Nat) : Nat :=
  (s.tiles.filter (fun q => tileRoom q.1 == r && !(q.2.queue 0).isEmpty)).length

/-- Whether the tiles of a room get no clock in tread n: in a rest before its ramp, or while a deferred wake keeps
the spine off within the ramp. -/
def State.gated (s : State) (r n : Nat) : Bool := (s.room r).gatedAt n || (s.room r).spineOff

/-- What a period that takes no tread leaves: the background users (R275), its accounting (R70, R71, R381), ballast (R386) and
credit. -/
def State.idlePeriod (s : State) (r : Nat) (paused refused : Bool) (srcs : List HoldSrc) : State :=
  let x := s.passPeriods r (s.gated r (s.room r).tread) []
  let s := x.1
  let m := s.room r
  let g := s.roomGear r
  let b := min (ballastTarget g (max m.allow m.fill)) (ballastCap g x.2 0 (s.pressQueues r))
  s.setRoom r { m with ivIdle := true, rejoinHeld := !s.rejoinStop.isEmpty, idleP := m.idleP + 1, ivPause := m.ivPause || paused, refused := m.refused || refused
                       holdSrcs := srcs, win := ((0, b) :: m.win).take 64
                       debit := if Config.budget g = 0 then 0 else min (fullCredit g) (m.debit + b) }

/-- R374, R386: the accounting of a period that takes a tread, with `back` bytes of background transfers and `presses` tiles whose
press queue held an instruction. -/
def State.meterTread (s : State) (r work : Nat) (xs : List (Nat × TileTread)) (back presses : Nat) : State :=
  let m := s.room r
  let g := s.roomGear r
  let bytes := (xs.map (fun x => x.2.stairDraw + x.2.stairHaul)).foldl (· + ·) back
  let cap := ballastCap g bytes (xs.filter (fun x => decide (0 < x.2.draw))).length presses
  let b := min (ballastTarget g (max m.allow m.fill) - work) cap
  s.setRoom r { m with win := ((work, b) :: m.win).take 64, tread := m.tread + 1, holdSrcs := [], holdTicks := 0
                       wdogTicks := 0, holdFired := false
                       debit := if Config.budget g = 0 then 0 else min (fullCredit g) (m.debit + work + b) }

/-- R54: the records of hatch slips. -/
def State.slipRecords (s : State) (n : Nat) (l : List (Nat × Nat × Nat × Bool)) : State :=
  l.foldl (fun (s : State) (q : Nat × Nat × Nat × Bool) =>
    s.record (s.unitRec (roomPath q.1) 0x6B 0 0 1 0 (leBytes 4 (roomPath q.1).toNat ++ leBytes 1 q.2.1 ++ leBytes 1 q.2.2.1 ++
      leBytes 8 n ++ leBytes 1 (if q.2.2.2 then 1 else 0)))) s

/-- R220, R464: slot deliveries that have come to tiles whose program does not run take effect in the room's next tread. -/
def State.takeIdleSlots (s : State) (r : Nat) : State :=
  (s.tiles.filter (fun q => tileRoom q.1 == r && !q.2.treads && !q.2.slotEvs.isEmpty)).foldl
    (fun (s : State) (q : Nat × Tile) => s.setTile q.1 (s.tile q.1).takeSlots) s

/-- R44–R65: a room takes tread n. -/
def State.takeTread (s : State) (r n : Nat) (cal : List CalResult) (us : List Upset) (xs : List (Nat × TileTread)) (work : Nat) :
    State :=
  let s := s.slipRecords n (s.slips r n ++ s.upsetSlips r us)
  let presses := s.pressQueues r
  let closed := s.gated r n || n % 4096 == 4095
  let m := s.room r
  let wake := match m.restAt n, m.start with
    | some x, some c => x.first + x.len + c
    | _, _ => 0
  let s := if s.gated r n then
      (s.activeTiles r).foldl (fun (s : State) (t : Nat) => (s.setTile t ((s.tile t).restTread wake)).land t n) s
    else
      let still := (s.activeTiles r).filter (fun t => !((s.tile t).treads))
      let s := still.foldl (fun (s : State) (t : Nat) => (s.setTile t { s.tile t with out := [] }).land t n) s
      xs.foldl (fun (s : State) (x : Nat × TileTread) => s.commitTile x.1 n x.2) s
  let s := if n % 4096 = 4095 then s.calibrate r n cal else s
  let s := s.takeIdleSlots r
  let x := s.passPeriods r closed xs
  (x.1.meterTread r work xs x.2 presses).switchGear r

/-- R63, R387, R388: the spine's state for tread n: the state after any spine event, and whether the tread must wait for a
wake that does not fit. In a gear window a rest entry keeps its spine and a wake waits to the end of its ramp; a wake that is due then
is made where it fits, since a room that paused for the window's end would take no tread towards it (DESIGN CHOICE, log entry
104). -/
def State.spineFor (s : State) (r n : Nat) : State × Bool :=
  let m := s.room r
  let g := s.roomGear r
  let late := s.gearWindow n
  if m.gatedAt n && !m.spineOff then
    if s.spineFits g && !late then (s.spine r true, false) else (s, false)
  else if !(m.gatedAt n) && m.spineOff then
    match m.start with
    | none => (s, false)
    | some c =>
      if n < c then (s, false)
      else if late && (m.restAt n).isSome then (s, false)
      else if s.spineFits g then (s.spine r false, false)
      else (s, true)
  else (s, false)

/-- R56, R70, R71, R378: what every clock period of a room opens with: correction records that are owed, this period's
stretch and its accounting, the credit it adds, and the margin sensors' report for the next. -/
def Room.open_ (m : Room) (gear : Nat) (fallback : Bool) (margin : Margin) : Room :=
  let m := m.writeCorr gear fallback
  let stretched := m.stretchNext != .quiet
  { m with ivStretch := m.ivStretch || stretched, strP := m.strP + if stretched then 1 else 0, allP := m.allP + 1
           debit := m.debit - periodBudget gear m.stretchNext, stretchNext := margin }

/-- The upsets that strike a tile of room r. -/
def upsetsIn (r : Nat) (us : List Upset) : List Upset :=
  us.filter (fun u => match u.tile with
    | some t => tileRoom t == r
    | none => false)

/-- R63, R121, R318: a tread of a wake ramp for tile t, which has a clock again: the leader issues nothing before the wake tread, and
the route sequencer, whose words there are void, is taken through the tread at the wake tread, where its EXPECT words mark. -/
def State.rampTread (s : State) (t n wake : Nat) (us : List Upset) : TileTread :=
  let v := s.tile t
  let x := (s.setTile t { v with nextIssue := max v.nextIssue wake, behind := 0, rseq := { v.rseq with step := none } }).tileTreadAt t n us
  if x.t.phase = .aborted then x else { x with t := { x.t with rseq := v.rseq, behind := v.behind + 1 } }

/-- R86, R121: the work of a tread of room r: each of its tiles that runs, with what its tread gives. -/
def State.roomWork (s : State) (r n : Nat) (us : List Upset) : List (Nat × TileTread) :=
  let m := s.room r
  if s.gated r n then []
  else ((s.activeTiles r).filter (fun t => (s.tile t).treads)).map (fun t =>
    (t, if (m.restAt n).isSome then
        let wake := match m.restAt n, m.start with
          | some x, some c => x.first + x.len + c
          | _, _ => 0
        s.rampTread t n wake us
      else s.tileTreadAt t n us))

/-- R379, R385: whether the credit and the allowance of room r allow some work. -/
def State.governed (s : State) (r work : Nat) : Bool :=
  let g := s.roomGear r
  let m := s.room r
  !(Config.budget g != 0 && decide (fullCredit g < m.debit + work)) && withinAllow g (work + winSum 63 m.win) m.allow

/-- The work of a tread of room r in fJ (R374). -/
def State.treadWork (s : State) (r : Nat) (xs : List (Nat × TileTread)) : Nat :=
  (xs.map (fun x => treadEnergy (s.roomGear r) x.2)).foldl (· + ·) 0

/-- R379, R385: the tread is taken where the credit and the allowance allow its work; otherwise the period pauses. -/
def State.tryTread (s : State) (r n : Nat) (cal : List CalResult) (us : List Upset) : State :=
  let xs := s.roomWork r n us
  let work := s.treadWork r xs
  if s.governed r work then s.takeTread r n cal us xs work
  else s.idlePeriod r true (!(withinAllow (s.roomGear r) (work + winSum 63 (s.room r).win) (s.room r).allow)) []

/-- R46, R57–R59, R63: what a clock period does beyond its opening: it is idle where the room stops, holds or may not take
its tread, or waits for its spine. -/
def State.periodWork (s : State) (r : Nat) (cal : List CalResult) (us : List Upset) : State :=
  let m := s.room r
  let n := m.tread
  let srcs := if m.gatedAt n then [] else s.holdsOf r n
  if !s.rejoinStop.isEmpty || !m.stops.isEmpty || !srcs.isEmpty then s.idlePeriod r false false srcs
  else if !(s.treadRule r) then s.idlePeriod r false false []
  else
    let w := s.spineFor r n
    if w.2 then w.1.idlePeriod r true false [] else w.1.tryTread r n cal us

/-- R44: one clock period of a room whose clock runs, once the period's upsets have struck. -/
def State.periodOf (s : State) (r : Nat) (margin : Margin) (cal : List CalResult) (us : List Upset) : State :=
  (((s.setRoom r ((s.room r).open_ (s.roomGear r) s.fallback margin)).startRoutes r).periodWork r cal us).latchCounts r
    (s.room r).tread

/-- R389: a clock period of a room that takes no treads and whose allowance is falling: ballast fills the difference. -/
def State.fallPeriod (s : State) (r : Nat) : State :=
  let m := s.room r
  let g := s.roomGear r
  if m.fall.isNone || s.refLost || !s.powered || g == 0 || m.clockOff then s
  else s.setRoom r { m with win := ((0, min (ballastTarget g (max m.allow m.fill)) (ballastCap g 0 0 (s.pressQueues r))) :: m.win).take 64 }

/-- R44: one clock period of room r. The hubs and edge-die ports of a module that is ready compare their wires whether
or not the room's clock runs (R360); a room whose allowance falls fills the fall with ballast (R389). -/
def State.period (s : State) (r : Nat) (margin : Margin) (cal : List CalResult) (us : List Upset) : State :=
  if !(s.clockRuns r) then
    (if s.ready then us.foldl (fun (s : State) (u : Upset) => if Upset.atHub u then s.roomUpset r u else s) s else s).fallPeriod r
  else
    let s := us.foldl (fun (s : State) (u : Upset) => s.roomUpset r u) s
    if s.clockRuns r then s.periodOf r margin cal (upsetsIn r us) else s

/-- R44–R46, R57, R59, R63, R385: whether a period of room r that opened now would take a tread: its clock runs, no stop or hold
source stands against it, the tread rule and its spine let it, and the governor allows the work. -/
def State.canTread (s : State) (r : Nat) : Bool :=
  let a := (s.setRoom r ((s.room r).open_ (s.roomGear r) s.fallback .quiet)).startRoutes r
  let m := a.room r
  let w := a.spineFor r m.tread
  s.clockRuns r && s.rejoinStop.isEmpty && m.stops.isEmpty && (m.gatedAt m.tread || (a.holdsOf r m.tread).isEmpty) && a.treadRule r &&
    !w.2 && w.1.governed r (w.1.treadWork r (w.1.roomWork r m.tread []))

end Sys2Proof.Machine
end

