-- ==== Sys2Proof/Machine/Power.lean ====
section
/-! DEFINITION. Package time and what advances with it (R69–R71), allowances (R384–R389), gear changes (R64–R67, R388,
R391), the regulator (R392–R394), temperature (R395, R396) and restarts from G0. -/

namespace Sys2Proof.Machine

/-! ### The regulator (R392–R394) -/

/-- R392, R394: the VCORE set point of a gear in mV: nominal plus trim, rounded up, clamped to 520–780. -/
def State.setPoint (s : State) (g : Nat) : Nat :=
  let v : Int := (2 * (Config.vcoreNominal g : Int) + 5 * s.trim g + 1) / 2
  if v < 520 then 520 else if 780 < v then 780 else v.toNat

/-- R392: writes the set point of a gear; G0 has none and leaves it. -/
def State.writeVcore (s : State) (g : Nat) : State := if g = 0 then s else { s with vcore := s.setPoint g }

/-! ### Allowances (R384, R389) -/

/-- The estimate of metered work without ballast, in half milliamperes rounded up. -/
def Room.workEstimate (m : Room) (g : Nat) : Nat :=
  let e := (m.win.map (·.1)).foldl (· + ·) 0
  (Config.kNum g * e + Config.kDen g * 38400 - 1) / (Config.kDen g * 38400)

/-- Whether a room holds a running tile. -/
def State.running (s : State) (r : Nat) : Bool := s.tiles.any (fun q => tileRoom q.1 == r && q.2.phase == .running)

/-- R384, R388–R390: what an always-on tick does to a room's allowance: it rises from the lower copy, and falls in both. At the end of a fall to zero the spine stops, as
a spine event, where no tile of the room runs or its floor is fenced (R576). -/
def State.allowTick (s : State) (r : Nat) : State :=
  let m := s.room r
  let g := s.roomGear r
  match m.fall with
  | some left =>
    if s.clockRuns r && s.gearWindow m.tread then s.setRoom r { m with refused := false }
    else
      let m := { m with allow := m.allow * (left - 1) / left, fill := m.fill * (left - 1) / left, fall := some (left - 1)
                        refused := false }
      let s := s.setRoom r m
      if 1 < left then s
      else if (s.running r && s.floorUp (roomFloor r)) || m.spineOff then s.setRoom r { m with fall := none }
      else if s.spineFits g then
        let s := s.spine r true
        s.setRoom r { s.room r with fall := none }
      else s
  | none =>
    if !(s.clockRuns r) then s
    else if s.gearWindow m.tread then s.setRoom r { m with refused := false }
    else
      let climbs := m.refused || (match m.rampTarget m.tread g with
        | some t => decide (m.allow < t) && (m.restAt m.tread).isSome
        | none => false)
      let fallen (c : Nat) : Nat := max (m.workEstimate g) (c - 16)
      let a := if climbs then min (Config.ceiling g) (m.allow + 16) else fallen m.allow
      s.setRoom r { m with allow := a, fill := if climbs then a else fallen (max m.allow m.fill), refused := false }

/-- R70, R381, R534: a 48-bit counter advanced by one. -/
def tick48 (c : Nat) (go : Bool) : Nat := if go then (c + 1) % 2 ^ 48 else c

/-- R70, R381: the end of an interval of 64 ticks for a room. -/
def Room.endInterval (m : Room) : Room :=
  { m with stretchC := tick48 m.stretchC m.ivStretch, holdC := tick48 m.holdC m.ivIdle, pauseC := tick48 m.pauseC m.ivPause
           ivStretch := false, ivIdle := false, ivPause := false }

/-- R61, R568: the ticks for which a room has been held; time spent Stopped, or at a floor's rejoin stop, is not counted. -/
def Room.heldTick (m : Room) : Room :=
  if m.holdSrcs.isEmpty || !m.stops.isEmpty || m.rejoinHeld then m else { m with holdTicks := m.holdTicks + 1, wdogTicks := m.wdogTicks + 1 }

/-! ### Gear changes (R64–R67, R388) -/

/-- R388: the gears through which a change goes. -/
def gearChain (g target : Nat) : List Nat :=
  if g = target then []
  else if g = 0 then [target]
  else if g < target then (List.range (target - g)).map (fun i => g + 1 + i)
  else (List.range (g - target)).map (fun i => g - 1 - i)

/-- R34: the module tread count: the least over live rooms. -/
def State.moduleTread (s : State) : Nat :=
  match s.upRooms with
  | [] => 0
  | r :: l => l.foldl (fun n q => min n (s.room q).tread) (s.room r).tread

/-- R64, R369, R388: announces a gear target. Firmware chooses it from 8,352 to 32,000 treads above the module tread
count; which is a free value. -/
def State.announceGear (s : State) (c : GearChange) : State :=
  let n := s.moduleTread + 8352 + (Config.freeValue s.free).toNat % 23649
  { s with change := some { c with target := some n, awaiting := false }, lastTarget := some n, free := s.free + 1 }

/-- R388, R389: whether every allowance has fallen to zero. -/
def State.allZero (s : State) : Bool := s.upRooms.all (fun r => (s.room r).allow == 0)

/-- R64, R67, R388: begins the next step of a gear change: upward it writes VCORE and waits for the regulator; downward
it announces, at G0 once the allowances are at zero. -/
def State.beginGear (s : State) (c : GearChange) : State :=
  match c.chain with
  | [] => { s with change := none }
  | g :: _ =>
    let c := { c with target := none, since := s.pkt, was := s.vcore, tail := s.lastTarget }
    if s.gear.toNat < g then { s.writeVcore g with change := some { c with awaiting := true } }
    else if g = 0 then
      let s := s.upRooms.foldl (fun (s : State) (r : Nat) => s.rampDown r) s
      let s := { s with change := some { c with awaiting := false } }
      if s.allZero then s.announceGear c else s
    else s.announceGear c

/-- R389: announces a change to G0 that waited for the allowances. -/
def State.gearTick (s : State) : State :=
  match s.change with
  | some c => if c.chain.head? == some 0 && c.target.isNone && !c.awaiting && s.allZero then s.announceGear c else s
  | none => s

/-- R391: the next room to restart after room r. -/
def State.nextRoom (s : State) (r : Nat) : Option Nat := s.upRooms.find? (fun q => decide (r < q))

/-! ### Temperature (R395, R396) -/

/-- The value of a sensor in 1/16 °C, signed. -/
def temp (v : BitVec 16) : Int := v.toInt

/-- R548: the readings of a floor: floor, sensor and value. Sensors that have not been read read 0, and the first of them stands
for all. -/
def Floor.readings (v : Floor) (f : Nat) : List (Nat × Nat × Int) :=
  v.therm.map (fun (x : Nat × BitVec 16) => (f, x.1, temp x.2)) ++
    (((List.range 64).find? (fun i => !(v.therm.any (fun x => x.1 == i)))).map (fun i => (f, i, (0 : Int)))).toList
/-- The readings of the module. -/
def State.readings (s : State) : List (Nat × Nat × Int) := (List.range 16).flatMap (fun f => (s.floor f).readings f)
/-- The first of the highest of some readings. -/
def highest : List (Nat × Nat × Int) → Nat × Nat × Int
  | [] => (0, 0, 0)
  | x :: l => l.foldl (fun (m : Nat × Nat × Int) y => if m.2.2 < y.2.2 then y else m) x

/-- R567: the thermal record. -/
def State.thermFault (s : State) (sub act f sensor : Nat) (v : Int) : State :=
  s.record (s.unitRec (floorPath f) 0x76 sub act 6 s.lead.val (leBytes 1 sensor ++ leBytes 2 (v % 65536).toNat))

/-- R395: the thermal change that is due, where no change is pending. -/
def State.thermal (s : State) : State :=
  if s.change.isSome then s
  else
    let h := highest s.readings
    let go (s : State) (g : Nat) : State :=
      s.beginGear { chain := [g], target := none, awaiting := false, since := s.pkt, thermal := true }
    match s.overSince, s.underSince with
    | some t, _ =>
      if s.gear = 3 then
        let s := s.thermFault 1 7 h.1 h.2.1 h.2.2
        go { s with throttled := some 2, alertThrottle := true, throttleSeen := true, overSince := some s.pkt } 2
      else if s.gear = 2 ∧ t + 250000 ≤ s.pkt then
        let s := s.thermFault 1 7 h.1 h.2.1 h.2.2
        go { s with throttled := some 1, alertThrottle := true, throttleSeen := true } 1
      else s
    | none, some t =>
      if s.throttled.isSome ∧ t + 2500000 ≤ s.pkt then
        if s.cgear.toNat ≤ s.gear.toNat then { s with throttled := none }
        else
          let s := { s with underSince := some s.pkt, throttled := if s.gear.toNat + 1 < s.cgear.toNat then some (s.gear.toNat + 1) else none }
          go s (s.gear.toNat + 1)
      else s
    | none, none => s

/-- THERMAL_POLL (R395): firmware takes the sensors' readings and acts on the highest. -/
def execThermalPoll (readings : List Reading) (s : State) : Host.Outcome State Fault Refusal :=
  if !s.ready then .next s
  else
    let s := readings.foldl (fun (s : State) (x : Reading) =>
      let f := s.floor x.floor.val
      s.setFloor x.floor.val { f with therm := Tbl.set 0 f.therm x.sensor.val x.value }) s
    let h := (highest s.readings).2.2
    .next { s with
      overSince := if 1600 < h then (match s.overSince with
        | some t => some t
        | none => some s.pkt) else none
      underSince := if h ≤ 1520 then (match s.underSince with
        | some t => some t
        | none => some s.pkt) else none }.thermal

/-- THERMAL_TRIP (R396, R588): every floor aborts, every allowance falls with ballast filling the fall, and every clock stops. A
floor reset ends without a reply. -/
def execThermalTrip (x : Reading) (s : State) : Host.Outcome State Fault Refusal :=
  if !s.powered || s.tripped || decide (temp x.value < 1840) then .next s
  else
    let f := s.floor x.floor.val
    let s := s.setFloor x.floor.val { f with therm := Tbl.set 0 f.therm x.sensor.val x.value }
    let s := s.thermFault 2 3 x.floor.val x.sensor.val (temp x.value)
    let s := s.upRooms.foldl (fun (s : State) (r : Nat) => (s.abortRoom r (roomPath r)).rampDown r) s
    .next { s with tripped := true, cmds := s.cmds.filter (fun c => !(match c.work with
      | .floorReset _ => true
      | _ => false)) }

/-! ### Rows of gear changes -/

/-- R388, R516: the end of a gear change: a GEAR command in progress completes with the gear in force, and a thermal
change that has become due is made. -/
def State.endGear (s : State) : State :=
  let s := { s with change := none, gearPended := true }
  let s := s.finishAll (fun c => match c.work with
    | .gear _ => true
    | _ => false) (fun _ => (0, [BitVec.ofNat 8 s.gear.toNat]))
  s.thermal

/-- GEAR_ANNOUNCEMENT (R64, R65, R369): a room takes the announced target. -/
def execGearAnnouncement (r : RoomId) (low : BitVec 16) (gear : BitVec 2) (s : State) : Host.Outcome State Fault Refusal :=
  match s.change with
  | some c =>
    let m := s.room r.val
    match c.target with
    | some n =>
      if !(s.floorUp (roomFloor r.val)) || m.clockOff || low.toNat != n % 65536 || c.chain.head? != some gear.toNat then .next s
      else .next (s.setRoom r.val { m with pendGear := some (m.tread + (low.toNat + 65536 - m.tread % 65536) % 65536, gear) })
    | none => .next s
  | none => .next s

/-- GEAR_CONFIRMATION (R64 steps 6 and 7, R388): every live room has reached the target, or has restarted. -/
def execGearConfirmation (s : State) : Host.Outcome State Fault Refusal :=
  match s.change with
  | some c =>
    match c.chain with
    | g :: rest =>
      let from0 := s.gear == 0
      let there := match c.target with
        | some n => s.upRooms.all (fun r => decide (n ≤ (s.room r).tread) && (s.room r).pendGear.isNone)
        | none => from0 && !c.awaiting && s.restart.isNone && s.upRooms.all (fun r => !(s.room r).clockOff)
      if !there then .next s
      else
        let down := g < s.gear.toNat
        let new := BitVec.ofNat 2 g
        let s := { s with gear := new }
        let s := s.rooms.foldl (fun (s : State) (q : Nat × Room) => s.setRoom q.1 { s.room q.1 with gear := none }) s
        let s := if down then s.writeVcore g else s
        let s := if g == 2 then { s with overSince := s.overSince.map (fun _ => s.pkt) } else s
        match rest with
        | [] => .next s.endGear
        | _ => .next (s.beginGear { c with chain := rest })
    | [] => .next s
  | none => .next s

/-- REGULATOR_ACKNOWLEDGEMENT (R64, R67, R391, R393): the change goes on: it is announced, or the rooms restart. -/
def execRegulatorAcknowledgement (s : State) : Host.Outcome State Fault Refusal :=
  match s.change with
  | some c =>
    if !c.awaiting then .next s
    else if s.gear = 0 then
      .next { s with change := some { c with awaiting := false }, restart := s.upRooms.head?.map (fun r => (r, s.pkt)) }
    else .next (s.announceGear c)
  | none => .next s

/-- REGULATOR_TIMEOUT (R393): the change is abandoned before it is announced. -/
def execRegulatorTimeout (s : State) : Host.Outcome State Fault Refusal :=
  match s.change with
  | some c =>
    if !c.awaiting || decide (s.pkt < c.since + 25000) then .next s
    else
      let s := { s with vcore := c.was, change := none, gearPended := true }
      .next (s.finishAll (fun c => match c.work with
        | .gear _ => true
        | _ => false) (fun _ => (0x0501, [0]))).thermal
  | none => .next s

/-- ROOM_RESTART (R67, R371, R391): the next room in order restarts at the new gear. -/
def execRoomRestart (r : RoomId) (s : State) : Host.Outcome State Fault Refusal :=
  match s.restart, s.change with
  | some (q, t), some c =>
    if q != r.val || decide (s.pkt < t) then .next s
    else if !(s.floorUp (roomFloor r.val)) then .next { s with restart := (s.nextRoom r.val).map (fun q => (q, t)) }
    else
      let g := c.chain.headD 0
      let s := s.applyKeeper r.val
      let m := s.room r.val
      let s := s.setRoom r.val { m with clockOff := false, gear := some (BitVec.ofNat 2 g), fall := none
                                        debit := if Config.budget g = 0 then 0 else min m.debit (fullCredit g) }
      let s := if m.gatedAt m.tread then s else s.spine r.val false
      .next { s with restart := (s.nextRoom r.val).map (fun q => (q, s.pkt + Config.restartGap g)) }
  | _, _ => .next s

/-! ### Ticks -/

/-- R394: the live rooms' stretch rates over the interval: whether one is above 2⁻⁶, one above 2⁻⁹, and all below 2⁻¹². -/
def State.stretchRates (s : State) : Bool × Bool × Bool :=
  let l := (s.upRooms.map s.room).filter (fun m => decide (0 < m.allP))
  (l.any (fun m => decide (m.allP < 64 * m.strP)), l.any (fun m => decide (m.allP < 512 * m.strP)),
    !l.isEmpty && l.all (fun m => decide (4096 * m.strP < m.allP)))

/-- R394: moves the trim of a gear by some steps within its limits, and writes the set point. -/
def State.moveTrim (s : State) (g : Nat) (d : Int) : State :=
  let lo : Int := if g = 1 then 0 else -16
  let t := s.trim g + d
  let t := if t < lo then lo else if 16 < t then 16 else t
  { s with trims := Tbl.set 0 s.trims g t }.writeVcore g

/-- R394: the VCORE trim at a correction pulse. -/
def State.trimPulse (s : State) : State :=
  let g := s.gear.toNat
  let fb := s.fallback || s.upRooms.any (fun r => (s.room r).fellBack)
  if g = 0 then s
  else if fb || s.change.isSome || s.gearPended then { s with lowRuns := 0 }
  else
    let q := s.stretchRates
    if q.1 then { s.moveTrim g 4 with lowRuns := 0 }
    else if q.2.1 then { s.moveTrim g 1 with lowRuns := 0 }
    else if q.2.2 then
      if s.lowRuns + 1 = 64 then { s.moveTrim g (-1) with lowRuns := 0 } else { s with lowRuns := s.lowRuns + 1 }
    else { s with lowRuns := 0 }

/-- CORRECTION_PULSE (R55, R71, R394): at a multiple of 4,096 ticks every room of a live floor owes a correction record once the
tread counters have been released, and the firmware of a module that is ready sets the trim. -/
def execCorrectionPulse (s : State) : Host.Outcome State Fault Refusal :=
  if s.holdAll || s.pkt % 4096 != 0 then .next s
  else
    let s := if s.ready then { s.trimPulse with gearPended := s.change.isSome } else s
    .next (s.upRooms.foldl (fun (s : State) (r : Nat) =>
      let m := s.room r
      s.setRoom r { m with pulses := if m.pulses.contains s.pkt then m.pulses else m.pulses ++ [s.pkt] }) s)

end Sys2Proof.Machine
end

