-- ==== Sys2Proof/Machine/Registers.lean ====
section
/-! DEFINITION. The register map (chapter "Registers"): unit states and aggregates (R33, R34, R40), what every register
reads as (R527–R551), and what writes do (R529–R535, R544). -/

namespace Sys2Proof.Machine

/-! ### States and counters of units (R33, R34) -/

/-- Whether a live room stands under a stop request that has not reached it. -/
def State.stopping (s : State) (r : Nat) : Bool :=
  (s.units.filter (fun q => q.2.stop)).any (fun q => (unitRooms (BitVec.ofNat 32 q.1)).contains r)

/-- R586: whether a room stands at the rejoin stop. -/
def State.rejoinStopped (s : State) (r : Nat) : Bool := !s.rejoinStop.isEmpty && (s.room r).rejoinHeld

/-- Whether an abort of a unit that holds tile t of room r is in progress there. -/
def State.abortingAt (s : State) (r t : Nat) : Bool := s.aborting.any (fun a => a.1 == r && unitHas a.2 t)

/-- R33: the state of a tile in a live row; `runs` tells whether its program runs. -/
def State.tileCode (s : State) (t : Nat) (runs : Bool) : Nat :=
  let r := tileRoom t
  let m := s.room r
  match (s.floor (roomFloor r)).mode with
  | .benched => 8
  | .resetting => 7
  | .fenced => 6
  | .up =>
    if s.resetting then 7
    else if s.abortingAt r t then 5
    else if !m.stopsNow.isEmpty || s.rejoinStopped r then 4
    else if s.stopping r || !s.rejoinStop.isEmpty then 3
    else if runs && !m.holdSrcs.isEmpty then 2
    else if m.clockOff || (runs && m.gatedAt m.tread) then 9
    else if runs then 1 else 0

/-- R33: the states of a room's tiles; a tile without a record stands for all idle ones. -/
def State.roomCodes (s : State) (r : Nat) : List Nat :=
  let ts := s.tiles.filter (fun q => tileRoom q.1 == r && s.tileLive q.1)
  (s.tileCode (1200 * r) false :: ts.map (fun q => s.tileCode q.1 (q.2.phase == .running))).eraseDups

/-- R33: the state of a unit made up of several, by precedence. -/
def codeOf (l : List Nat) : Nat :=
  match [7, 6, 5, 3, 4, 2, 1, 9, 0].find? l.contains with
  | some c => c
  | none => if l.contains 8 then 8 else 0

/-- R33: the state code of a unit within the module. -/
def State.unitCode (s : State) (p : Word) : Nat :=
  match pathLevel p with
  | 0 => if s.tileLive (pathTile p) then s.tileCode (pathTile p) ((s.tile (pathTile p)).phase == .running) else 0
  | _ => codeOf ((unitRooms p).flatMap s.roomCodes).eraseDups

/-- Whether some units lie within one floor. -/
def oneFloor (ps : List Word) : Bool :=
  ps.all (fun p => decide (pathLevel p ≤ 2) && pathFloor p == pathFloor (ps.headD 0))

/-- R34, R41: the rooms over which the aggregates of some units are taken, each once: the live ones, or for units within one
floor that floor's own as they stand. -/
def State.aggRooms (s : State) (ps : List Word) : List Nat :=
  let rs := (ps.flatMap unitRooms).eraseDups
  if oneFloor ps then rs else rs.filter (fun r => s.floorUp (roomFloor r))

/-- A sum over rooms. -/
def State.sumRooms (s : State) (rs : List Nat) (f : Room → Nat) : Nat := (rs.map (fun r => f (s.room r))).foldl (· + ·) 0

/-- R34: the tread, stretch and hold counters of a unit or of a set's members. With no live room the tread counter reads 0:
DESIGN CHOICE (log entry 83), since the rule gives no minimum over no rooms. -/
def State.aggregate (s : State) (ps : List Word) : Nat × Nat × Nat :=
  let rs := s.aggRooms ps
  let tread := match rs with
    | [] => 0
    | r :: l => l.foldl (fun n q => min n (s.room q).tread) (s.room r).tread
  (tread, s.sumRooms rs Room.stretchC, s.sumRooms rs Room.holdC)

/-- R32: a status word. -/
def UnitRegs.status (u : UnitRegs) : Nat := u.seq.toNat * 65536 + u.events.toNat

/-- The mask of the floors that satisfy a test. -/
def State.floorMask (s : State) (p : FloorMode → Bool) : Nat :=
  ((List.range 16).filter (fun f => p (s.floor f).mode)).foldl (fun m f => m + 2 ^ f) 0

/-- R537: the module's STATE register. -/
def State.stateWord (s : State) : Nat :=
  s.unitCode modulePath + s.gear.toNat * 16 + s.cgear.toNat * 256 + (if s.change.isSome then 1024 else 0) +
    s.lead.val * 4096 + s.floorMask (· == .benched) * 65536

/-- R521: the control face of a unit: status word, state and counters, as 32-bit words. -/
def State.face (s : State) (p : Word) : List Nat :=
  let a := s.aggregate [p]
  let u := s.unit p
  [u.status, if pathLevel p = 3 then s.stateWord else s.unitCode p, u.faults.toNat, a.1, a.1 / 2 ^ 32, a.2.1, a.2.1 / 2 ^ 32,
    a.2.2, a.2.2 / 2 ^ 32]

/-- R40, R41: the control face of a unit set: its members' events joined, their states by precedence, and their counters
counted once. The SEQ field of a set reads 0: DESIGN CHOICE (log entry 83), since R40 gives a set its event bits alone. -/
def State.setFace (s : State) (ps : List Word) : List Nat :=
  let ps := ps.eraseDups
  let a := s.aggregate ps
  let ev := ps.foldl (fun (m : BitVec 10) p => m ||| (s.unit p).events) 0
  let faults := (ps.map (fun p => (s.unit p).faults.toNat)).foldl (· + ·) 0
  [ev.toNat, codeOf (ps.map s.unitCode), sat32 faults, a.1, a.1 / 2 ^ 32, a.2.1, a.2.1 / 2 ^ 32, a.2.2, a.2.2 / 2 ^ 32]

/-! ### Words of the blocks -/

/-- Word i of a list of words. -/
def word (l : List Nat) (i : Nat) : Nat := l.getD i 0 % 2 ^ 32

/-- R477: the choice counter, and the choice count of a floor. -/
def State.choices (s : State) : Nat :=
  sat32 ((s.tiles.map (fun q => q.2.choice)).foldl (· + ·) 0 + (s.dies.map (fun q => q.2.choice.toNat)).foldl (· + ·) 0)
/-- R548. -/
def State.floorChoice (s : State) (f : Nat) : Nat :=
  sat32 (((s.tiles.filter (fun q => tileFloor q.1 == f)).map (fun q => q.2.choice)).foldl (· + ·) 0)

/-- A signed byte of a trim. -/
def trimByte (t : Int) : Nat := (t % 256).toNat

/-- R537: the 32-bit registers of the module block. -/
def State.moduleReg (s : State) (o : Nat) : Nat :=
  match o with
  | 0x00 => 0x1620 + s.fuses.grade.val * 65536 + Config.liveRows s.fuses.grade * 2 ^ 24
  | 0x04 => s.fuses.stepping.toNat + s.firmware.1.toNat * 256 + s.firmware.2.toNat * 65536
  | 0x08 => (s.unit modulePath).status
  | 0x0C => s.stateWord
  | 0x10 => if (s.unit modulePath).stop then 1 else 0
  | 0x14 => (s.unit modulePath).faults.toNat
  | 0x18 => (if (s.unit modulePath).ovf then 1 else 0) + s.modOvf.toNat / 2 * 2 +
      ((List.range 16).filter (fun e => (s.invOf e).useOvf)).foldl (fun m e => m + 2 ^ (16 + e)) 0
  | 0x48 => s.choices
  | 0x4C => s.floorMask (fun m => m == .fenced || m == .resetting)
  | 0x50 => Config.budget s.gear.toNat
  | 0x54 => trimByte (s.trim 1) + trimByte (s.trim 2) * 256 + trimByte (s.trim 3) * 65536
  | 0x58 => s.vcore + s.vsram * 65536
  | 0x5C => let h := highest s.readings
      (h.2.2 % 65536).toNat + h.1 * 65536
  | 0x60 => s.holdLim
  | 0x64 => s.wdog
  | 0x68 => s.flogW.toNat
  | 0x6C => s.flogR.toNat
  | 0x70 => s.flogLost.toNat
  | _ => 0

/-- R537: the 64-bit registers of the module block. -/
def State.moduleReg64 (s : State) (o : Nat) : Option Nat :=
  let a := s.aggregate [modulePath]
  match o with
  | 0x20 => some s.pkt
  | 0x28 => some a.1
  | 0x30 => some a.2.1
  | 0x38 => some a.2.2
  | 0x40 => some (s.sumRooms s.upRooms Room.pauseC)
  | _ => none

/-- R540: the class block. -/
def State.classReg (s : State) (o : Nat) : Nat :=
  if o < 0x100 then
    let k := s.cls (o / 0x20)
    match o % 0x20 with
    | 0x00 => k.kind + k.lead * 65536
    | 0x04 => k.ttft.toNat
    | 0x08 => k.tbt.toNat
    | 0x0C => k.depth + k.athr * 16
    | 0x10 => k.vTtft.toNat
    | 0x14 => k.vTbt.toNat
    | _ => 0
  else if o < 0x120 then (s.cls ((o - 0x100) / 4)).hovf.toNat
  else if o = 0x120 then (List.range 8).foldl (fun m c => m + (s.cls c).vovf.toNat * 4 ^ c) 0
  else 0

/-- R541: the registers of an inventory entry. -/
def Inv.reg (v : Inv) (o : Nat) : Nat :=
  match o with
  | 0x00 => v.ident.toNat
  | 0x04 => v.ident.toNat / 2 ^ 32
  | 0x08 => v.state
  | 0x0C => v.slices
  | 0x10 => v.crates
  | 0x14 => v.use.toNat
  | 0x18 => v.last
  | 0x1C => v.last / 2 ^ 32
  | 0x20 => v.refs
  | 0x24 => v.bad
  | _ => 0

/-- R541: the registers of a bank. -/
def Bank.reg (b : Bank) (o : Nat) : Nat :=
  match o with
  | 0x00 => b.state + if b.current then 256 else 0
  | 0x04 => b.version.toNat
  | 0x08 => b.ident.toNat
  | 0x0C => b.ident.toNat / 2 ^ 32
  | 0x10 => b.refs
  | _ => 0

/-- R542: the words of a peer's record: PSTATE, LINKS and PCHG. -/
def State.peerWords (s : State) (n : Nat) : List Nat :=
  let p := s.peer n
  let ls := match p.port with
    | some k => ((s.port k).links.map (fun l => 8 * (k / 4) + l)).foldl (fun m i => m + 2 ^ i) 0
    | none => 0
  [p.state + (match p.port with
    | some k => k * 256 + 4096
    | none => 0), ls, p.chg, p.chg / 2 ^ 32]

/-- R562: the 16 words of a fault record. -/
def FaultRec.words (r : FaultRec) : List Nat :=
  let b := leBytes 1 r.code ++ leBytes 1 r.sub ++ leBytes 2 (r.act + r.rec_ * 16 + r.edge * 256) ++ leBytes 4 r.path.toNat ++
    leBytes 4 r.logpos.toNat ++ leBytes 4 (r.paddr.getD 0 + (r.raddr.getD 0) * 65536 +
      (if r.raddr.isSome then 2 ^ 30 else 0) + (if r.paddr.isSome then 2 ^ 31 else 0)) ++ leBytes 8 r.pkt ++
    leBytes 8 (r.rtread.getD (2 ^ 64 - 1)) ++ leBytes 8 (r.ptread.getD (2 ^ 64 - 1)) ++ padTo 24 r.detail
  (List.range 16).map (fun i => leNat ((b.drop (4 * i)).take 4))

/-- R533, R562: the 64-bit value whose low word is word i of a fault record. -/
def FaultRec.pair (r : FaultRec) (i : Nat) : Nat := word r.words i + word r.words (i + 1) * 2 ^ 32

/-- R543: the die block. -/
def State.dieReg (s : State) (k o : Nat) : Nat :=
  let e := s.die k
  match o with
  | 0x00 => (if s.lead.val = k then 1 else 0) + (if e.took then 2 else 0) + k * 16
  | 0x04 => match e.neg with
    | some (a, b, c) => a + b * 256 + c * 65536 + 2 ^ 24
    | none => 0
  | 0x08 => e.ringErr.toNat
  | 0x0C => e.regErr.toNat
  | 0x10 => e.nLost.toNat
  | 0x14 => e.dropRec.toNat
  | 0x18 => e.fwdDrop.toNat
  | 0x1C => e.choice.toNat
  | 0x20 => e.ovf.toNat
  | _ => 0

/-- R544: the port ring block. -/
def Die.ringReg (e : Die) (o : Nat) : Nat :=
  if o < 0x100 then
    let q := e.subRing (o / 0x20)
    match o % 0x20 with
    | 0x00 => q.base.toNat
    | 0x04 => q.base.toNat / 2 ^ 32
    | 0x08 => q.size
    | 0x0C => q.tail
    | 0x10 => q.head
    | _ => 0
  else if o < 0x220 then
    let q := e.compRing ((o - 0x100) / 0x20)
    match o % 0x20 with
    | 0x00 => q.base.toNat
    | 0x04 => q.base.toNat / 2 ^ 32
    | 0x08 => q.size
    | 0x0C => q.head
    | 0x10 => q.tail + if q.phase then 4096 else 0
    | _ => 0
  else 0

/-- R545: the host output ring block. -/
def Die.outReg (e : Die) (o : Nat) : Nat :=
  if o < 0x200 then
    let q := e.outRing (o / 0x20)
    match o % 0x20 with
    | 0x00 => q.base.toNat
    | 0x04 => q.base.toNat / 2 ^ 32
    | 0x08 => q.size
    | 0x0C => q.head
    | 0x10 => q.tail
    | 0x14 => q.shadow.toNat
    | 0x18 => q.shadow.toNat / 2 ^ 32
    | _ => 0
  else 0

/-- R546: the pipeline counter blocks of a die. -/
def State.pipeReg (s : State) (k p o : Nat) : Nat :=
  let q := s.pipe p
  if q.home = some k then
    match o with
    | 0x00 => q.verif.toNat
    | 0x04 => q.offered.toNat
    | 0x08 => q.accepted.toNat
    | 0x0C => q.turnoff.toNat
    | 0x10 => q.retry.toNat
    | 0x14 => q.est
    | 0x18 => q.ovf.toNat
    | _ => 0
  else 0

/-- R454: the code of a session's state. -/
def SessState.code : SessState → Nat
  | .free => 0
  | .opened => 1
  | .listening => 2
  | .thinking => 3
  | .speaking => 4
  | .ending => 5
  | .closing => 6

/-- A Boolean as a bit. -/
def bit1 (b : Bool) : Nat := if b then 1 else 0

/-- R547: the 32 words of a ledger entry. -/
def Sess.words (e : Sess) : List Nat :=
  let q (r : Nat) : RoutePos := e.route.getD r (if e.routeLen = 0 then .reset else .unused)
  [e.seq.toNat + e.state.code * 2 ^ 16 + e.cls * 2 ^ 20 + bit1 e.urg * 2 ^ 23 + e.gen.toNat * 2 ^ 24,
    e.seed.toNat, e.seed.toNat / 2 ^ 32] ++
  (List.range 4).map (fun r => (q r).pipe.toNat + (q r).seat.toNat * 256 + bit1 (q r).want * 2 ^ 24) ++
  [(q 0).pend + (q 1).pend * 65536, (q 2).pend + (q 3).pend * 65536] ++
  (List.range 4).map (fun r => (q r).rowpos) ++ (List.range 4).map (fun r => (q r).pos.toNat) ++
  [e.aslot + (match e.pin with
    | some b => (2 + b % 2) * 256
    | none => 0) + bit1 e.markq * 2 ^ 12 + bit1 e.leadt * 2 ^ 13 + e.choice * 2 ^ 16,
    e.tMark, e.tMark / 2 ^ 32, e.tOut, e.tOut / 2 ^ 32, e.outb, e.lastTtft, e.lastTbt, e.worstTbt] ++
  (List.range 4).map (fun r => bit1 (q r).trk.on + (q r).trk.low * 2 + (q r).trk.wait * 256) ++ [0, 0]

/-- R548: the 32-bit registers of a floor block. -/
def State.floorReg (s : State) (f o : Nat) : Nat :=
  let p := floorPath f
  let v := s.floor f
  let h := highest (v.readings f)
  match o with
  | 0x00 => (s.unit p).status
  | 0x04 => s.unitCode p
  | 0x08 => bit1 (s.unit p).stop
  | 0x0C => (s.unit p).faults.toNat
  | 0x10 => bit1 (s.unit p).ovf
  | 0x14 => s.floorChoice f
  | 0x38 => bit1 v.pllLock + v.pllBand.toNat * 2 + bit1 v.pllAlt * 16
  | 0x50 => (h.2.2 % 65536).toNat + h.2.1 * 65536
  | o =>
    if 0x40 ≤ o ∧ o < 0x50 then
      (s.rowsOf f ((o - 0x40) / 4)).foldl (fun m i => m + 2 ^ i) 0
    else if 0x100 ≤ o ∧ o < 0x200 then (Tbl.get 0 v.therm ((o - 0x100) / 4)).toNat
    else 0

/-- R548, R549: the 64-bit registers of a floor or room block. -/
def State.unitReg64 (s : State) (p : Word) (o base : Nat) : Option Nat :=
  let a := s.aggregate [p]
  if o = base then some a.1
  else if o = base + 8 then some a.2.1
  else if o = base + 16 then some a.2.2
  else if o = base + 24 ∧ pathLevel p ≠ 0 then some (s.sumRooms (s.aggRooms [p]) Room.pauseC)
  else none

/-- R549: record n mod 8 of a room's correction records. -/
def Room.corrAt (m : Room) (i : Nat) : Option CorrRec :=
  let n := m.corrN.toNat
  -- the newest record carries the number n − 1
  (m.corr.zipIdx.find? (fun q => (n + 65536 - m.corr.length + q.2) % 8 == i)).map (·.1)

/-- R549: the 32-bit registers of a room block. -/
def State.roomReg (s : State) (r o : Nat) : Nat :=
  let p := roomPath r
  let m := s.room r
  let g := s.roomGear r
  match o with
  | 0x00 => (s.unit p).status
  | 0x04 => s.unitCode p
  | 0x08 => bit1 (s.unit p).stop
  | 0x0C => (s.unit p).faults.toNat
  | 0x10 => bit1 (s.unit p).ovf
  | 0x38 => m.allow * 256 / 2000
  | 0x3C => (fullCredit g - m.debit) / 1000
  | 0x40 => Config.kNum g * winSum 64 m.win / (Config.kDen g * 300000)
  | 0x44 => m.corrN.toNat
  | o =>
    if 0x100 ≤ o ∧ o < 0x200 then
      match m.corrAt ((o - 0x100) / 0x20) with
      | none => 0
      | some c => match o % 0x20 with
        | 0x00 => c.tick
        | 0x04 => c.tick / 2 ^ 32
        | 0x08 => c.tread
        | 0x0C => c.tread / 2 ^ 32
        | 0x10 => c.stretched + c.gear * 2 ^ 24 + bit1 c.fallback * 2 ^ 26
        | 0x14 => c.idle
        | _ => 0
    else 0

/-- R550: the 32-bit registers of a tile block. -/
def State.tileReg (s : State) (t o : Nat) : Nat :=
  let p := tilePath t
  let v := s.tile t
  let org (i : Nat) : List Nat :=
    match v.origins[i]? with
    | some x => [x.code, x.loc, x.time, x.time / 2 ^ 32]
    | none => [0, 0, 0, 0]
  match o with
  | 0x00 => (s.unit p).status
  | 0x04 => s.unitCode p
  | 0x08 => bit1 (s.unit p).stop
  | 0x0C => (s.unit p).faults.toNat
  | 0x10 => bit1 (s.unit p).ovf + v.ovf.toNat / 2 * 2
  | 0x14 => p.toNat
  | 0x18 => match s.logOf t with
    | some (x, y) => x + y * 65536
    | none => 0
  | 0x1C => v.member.toNat
  | 0x20 => v.arrMask.toNat + v.pipe.toNat * 65536
  | 0x40 => v.lead.pc % 1024 + bit1 v.halted * 65536
  | 0x44 => (List.range 4).foldl (fun n q => n + (v.queue q).length * 16 ^ q) 0
  | 0x48 => v.lead.flags.toNat
  | 0x4C => v.choice
  | 0x50 => v.bounces
  | 0x54 => v.bounceSent
  | 0x58 => v.suppressed
  | 0x5C => v.originCount
  | 0x60 => v.corrA
  | 0x64 => v.corrC
  | 0x68 => (((Tbl.get 0 s.stairTrained t : Nat) : Int) + v.stairAdj).toNat + Tbl.get 0 s.stairTrained t * 16
  | o =>
    if 0x70 ≤ o ∧ o < 0x80 then word (org 0) ((o - 0x70) / 4)
    else if 0x80 ≤ o ∧ o < 0x90 then word (org 1) ((o - 0x80) / 4)
    else if 0x100 ≤ o ∧ o < 0x180 then (Tbl.get 0 v.lead.regs ((o - 0x100) / 4)).toNat
    else 0

/-! ### The map (R527, R528) -/

/-- A block of the register map. -/
inductive Blk where
  | module | cls | hist | inv
  | adapter (k : Nat)
  | peer
  | flog (k : Nat)
  | sets (k : Nat)
  | die (d : Nat)
  | rings (d : Nat)
  | outs (d : Nat)
  | msix (d : Nat)
  | pba (d : Nat)
  | pipes (d k : Nat)
  | ledger (d k : Nat)
  | floor (f : Nat)
  | room (r : Nat)
  | tile (t : Nat)
  | none_
  deriving DecidableEq, Repr

/-- R527, R528, R650: the block at an offset of a BAR, counted in blocks of 4 KiB. -/
def blkAt (bar : Bar) (b : Nat) : Blk :=
  match bar with
  | .bar2 => if b < 307200 then .tile (tileAt (b % 640) (b / 640)) else .none_
  | .bar0 =>
    if b = 0 then .module else if b = 1 then .cls else if b = 2 then .hist else if b = 3 then .inv
    else if b < 8 then .adapter (b - 4) else if b = 8 then .peer
    else if 0x10 ≤ b ∧ b < 0x50 then .flog (b - 0x10)
    else if 0x80 ≤ b ∧ b < 0x90 then .sets (b - 0x80)
    else if 0x400 ≤ b ∧ b < 0xC00 then
      let d := (b - 0x400) / 0x200
      let i := (b - 0x400) % 0x200
      if i = 0 then .die d else if i = 1 then .rings d else if i = 2 then .outs d else if i = 4 then .msix d else if i = 5 then .pba d
      else if 8 ≤ i ∧ i < 16 then .pipes d (i - 8)
      else if 0x100 ≤ i then .ledger d (i - 0x100) else .none_
    else if 0x1000 ≤ b ∧ b < 0x1200 then
      let f := (b - 0x1000) / 0x20
      let i := (b - 0x1000) % 0x20
      if i = 0 then .floor f else if 0x10 ≤ i then .room (16 * f + (i - 0x10)) else .none_
    else .none_

/-- R533: the value of the 64-bit register whose low word stands at an offset. -/
def State.reg64 (s : State) (b : Blk) (o : Nat) : Option Nat :=
  match b with
  | .module => s.moduleReg64 o
  | .inv => let v := s.invOf (o / 0x40)
      match o % 0x40 with
      | 0x00 => some v.ident.toNat
      | 0x18 => some v.last
      | _ => none
  | .adapter k => if o % 0x20 = 8 then some (s.bank (32 * k + o / 0x20)).ident.toNat else none
  | .peer => if o = 0x10 then some (s.peer s.peerSel.toNat).chg else none
  | .rings d => if o % 0x20 = 0 ∧ o < 0x220 then some ((s.die d).ringReg o + 0) else none
  | .outs d => if o < 0x200 ∧ (o % 0x20 = 0 ∨ o % 0x20 = 0x14) then
      some (if o % 0x20 = 0 then ((s.die d).outRing (o / 0x20)).base.toNat else ((s.die d).outRing (o / 0x20)).shadow.toNat)
      else none
  | .floor f => s.unitReg64 (floorPath f) o 0x18
  | .room r =>
    if 0x100 ≤ o ∧ o < 0x200 then
      match (s.room r).corrAt ((o - 0x100) / 0x20) with
      | some c => if o % 0x20 = 0 then some c.tick else if o % 0x20 = 8 then some c.tread else none
      | none => if o % 0x20 = 0 ∨ o % 0x20 = 8 then some 0 else none
    else s.unitReg64 (roomPath r) o 0x18
  | .tile t =>
    if !(s.tileLive t) then none
    else if o = 0x78 ∨ o = 0x88 then some (((s.tile t).origins[(o - 0x78) / 0x10]?).map (·.time) |>.getD 0)
    else s.unitReg64 (tilePath t) o 0x28
  | .flog k => if o % 0x40 = 0x10 ∨ o % 0x40 = 0x18 ∨ o % 0x40 = 0x20 then
      some (match s.flog.find? (fun q => q.1 == 16 * k + o / 0x40) with
        | some q => q.2.pair (o % 0x40 / 4)
        | none => 0)
      else none
  | .ledger d k =>
    let e := s.sess (2048 * d + 8 * k + o / 0x80)
    match o % 0x80 with
    | 0x04 => some e.seed.toNat
    | 0x48 => some e.tMark
    | 0x50 => some e.tOut
    | _ => none
  | _ => none

/-- The value of a 32-bit register. -/
def State.reg32 (s : State) (b : Blk) (o : Nat) : Nat :=
  match b with
  | .module => s.moduleReg o
  | .cls => s.classReg o
  | .hist => (Tbl.get 0 (s.cls (o / 0x80)).hist (o % 0x80 / 4)).toNat
  | .inv => (s.invOf (o / 0x40)).reg (o % 0x40)
  | .adapter k => (s.bank (32 * k + o / 0x20)).reg (o % 0x20)
  | .peer =>
    match o with
    | 0 => s.peerSel.toNat
    | 4 => word (s.peerWords s.peerSel.toNat) 0
    | 8 => word (s.peerWords s.peerSel.toNat) 1
    | _ => 0
  | .flog k =>
    match s.flog.find? (fun q => q.1 == 16 * k + o / 0x40) with
    | some q => word q.2.words (o % 0x40 / 4)
    | none => 0
  | .sets k => (Tbl.get 0xFFFFFFFF s.unitSets (64 * (4 * k + o / 0x100) + o % 0x100 / 4)).toNat
  | .die d => s.dieReg d o
  | .rings d => (s.die d).ringReg o
  | .outs d => (s.die d).outReg o
  | .msix d => if o < 0x200 then ((s.die d).msixWord (o / 4)).toNat else 0
  | .pba d => if o = 0 then (s.die d).pba.toNat else 0
  | .pipes d k => s.pipeReg d (32 * k + o / 0x20) (o % 0x20)
  | .ledger d k => word (s.sess (2048 * d + 8 * k + o / 0x80)).words (o % 0x80 / 4)
  | .floor f => s.floorReg f o
  | .room r => s.roomReg r o
  | .tile t => if s.tileLive t then s.tileReg t o else 0
  | .none_ => 0

/-- The number of a requester. -/
def Requester.num : Requester → Nat
  | .port p => p.val
  | .firmware => 4
/-- The edge die that receives an access. -/
def State.dieOf (s : State) : Requester → Nat
  | .port p => p.val
  | .firmware => s.lead.val

/-- The key of a block's shadow for a requester (R533). -/
def shadowKey (bar : Bar) (blk : Nat) (w : Requester) : Nat :=
  ((if bar = .bar2 then 0x4000 else 0) + blk) * 5 + Requester.num w
/-- The key of a held low word. -/
def lowKey (bar : Bar) (off : Nat) (w : Requester) : Nat :=
  ((if bar = .bar2 then 0x4000000 else 0) + off) * 5 + Requester.num w

/-- The offset of an access within its block, and within the normal view (R529). -/
def viewOff (off : Nat) : Nat := off % 1024

/-- R529, R533: a read of the 32-bit register at an aligned offset. -/
def State.readWord (s : State) (w : Requester) (bar : Bar) (off : Nat) : State × Word :=
  let blk := off / 4096
  let o := viewOff off
  let b := blkAt bar blk
  match s.reg64 b o with
  | some v =>
    let k := shadowKey bar blk w
    ({ s with shadow := Tbl.set 0 s.shadow k (BitVec.ofNat 32 (v / 2 ^ 32)) }, BitVec.ofNat 32 v)
  | none =>
    if 4 ≤ o && (s.reg64 b (o - 4)).isSome then (s, Tbl.get 0 s.shadow (shadowKey bar blk w))
    else (s, BitVec.ofNat 32 (s.reg32 b o))

/-- R626: what a register reads as until step 12 ends: IDENT and VERSION as they are, STATE as Resetting, every other register
of the module block its reset value; and so those of the other blocks (DESIGN CHOICE, log entry 99). -/
def State.earlyWord (s : State) (w : Requester) (bar : Bar) (off : Nat) : Word :=
  match blkAt bar (off / 4096), viewOff off with
  | .module, 0x00 => BitVec.ofNat 32 (s.moduleReg 0x00)
  | .module, 0x04 => BitVec.ofNat 32 (s.moduleReg 0x04)
  | .module, 0x0C => 7
  | _, _ => (State.reset.readWord w bar off).2

/-- R529, R626: a read of the 32-bit register at an aligned offset, answered to its requester. -/
def State.readOne (s : State) (w : Requester) (bar : Bar) (off : Nat) : State :=
  let r := if s.ready then s.readWord w bar off else (s, s.earlyWord w bar off)
  { r.1 with readOut := r.1.readOut ++ [(w, r.2)] }

/-- R529, R530: a read of 4 or 8 bytes; one of another size or alignment returns all ones in each of its words and is counted. -/
def State.readReg (s : State) (w : Requester) (bar : Bar) (off size : Nat) : State :=
  if size = 4 ∧ off % 4 = 0 then s.readOne w bar off
  else if size = 8 ∧ off % 8 = 0 then (s.readOne w bar off).readOne w bar (off + 4)
  else { s.bumpDie (s.dieOf w) 1 with readOut := s.readOut ++ List.replicate (max 1 ((size + 3) / 4)) (w, 0xFFFFFFFF) }

/-! ### Writes of particular registers -/

/-- R532: a write of a status word. -/
def State.writeStatus (s : State) (p : Word) (v : Word) : State :=
  let u := s.unit p
  if v.toNat / 65536 = u.seq.toNat then s.setUnit p { u with events := u.events &&& ~~~(BitVec.ofNat 10 v.toNat) } else s

/-- R37, R525: whether an abort in progress ends a unit, or a part of it. -/
def State.aborts (s : State) (u : Word) : Bool :=
  s.aborting.any (fun a => unitWithin a.2 u || unitWithin u a.2) ||
  s.cmds.any (fun c => match c.work with
    | .abort vs _ _ _ _ => vs.any (fun v => unitWithin v u)
    | _ => false)

/-- R30, R35, R37: the members of a stop request on which it acts: not aborting, resetting, fenced or benched. A unit of which a part
is aborting stands as Aborting (R33), and the request has no effect on it; one of which a floor is up is stopped there (DESIGN
CHOICE, log entry 100: R37 speaks of units that are aborting, resetting or fenced as a whole). -/
def State.stoppable (s : State) (us : List Word) : List Word :=
  us.eraseDups.filter (fun u => (unitFloors u).any s.floorUp && !(s.aborts u))

/-- R35: the live rooms of a unit of which a condition holds. -/
def State.stopRooms (s : State) (u : Word) (p : Nat → Bool) : List Nat :=
  (unitRooms u).filter (fun r => s.floorUp (roomFloor r) && p r)

/-- R35, R37: a STOP that waits for a unit's rooms, the request of which has been withdrawn: it waits for all of them anew, until a
later request stops them, which sets STOPPED. -/
def Cmd.withdrawn (c : Cmd) (us : List Word) (rooms : Word → List Nat) : Cmd :=
  match c.work with
  | .stopSet ws => { c with work := .stopSet (ws.map (fun w =>
      if us.contains w.unit && !w.rooms.isEmpty then { w with own := false, rooms := rooms w.unit } else w)) }
  | _ => c

/-- R35: sets or withdraws the stop request of some units; `c` is the command that completes when their rooms have
stopped, or are no longer held. A stop already in effect completes without a new event (R37), and a STOP of an aborting unit has no
effect (R525). A STOP whose request is withdrawn before it has taken effect goes on waiting for STOPPED (DESIGN CHOICE, log entry
100: R516 gives its completion, and nothing ends it). -/
def State.requestStop (s : State) (us : List Word) (set : Bool) (c : CmdHdr) (opc : Byte) (mute : Bool) : State :=
  if set then
    let us := s.stoppable us
    let ws := us.map (fun u => StopWait.mk u (!(s.unit u).stop)
      (s.stopRooms u (fun r => !((s.unit u).stop && (s.room r).stopsNow.contains u))))
    let s := us.foldl (fun (s : State) (u : Word) => s.setUnit u { s.unit u with stop := true }) s
    let k : Cmd := { h := c, opc := opc, tick := s.pkt, work := .stopSet ws, mute := mute }
    { s with cmds := s.cmds ++ [k] }.stopsDone
  else
    let us := us.eraseDups.filter (fun u => !(s.aborts u))
    let ws := us.map (fun u => StopWait.mk u false (s.stopRooms u (fun r => (s.room r).stopsNow.contains u)))
    let s := us.foldl (fun (s : State) (u : Word) => s.setUnit u { s.unit u with stop := false }) s
    let k : Cmd := { h := c, opc := opc, tick := s.pkt, work := .stopClear ws, mute := mute }
    { s with cmds := s.cmds.map (fun (c : Cmd) => c.withdrawn us (fun u => s.stopRooms u (fun _ => true))) ++ [k] }.stopsDone

/-- The header of a request that no command made. -/
def noHdr : CmdHdr := { port := 0, ring := 0, minor := 0, flags := 0, tag := 0xFFFF, unit := 0, rsv := none, hostErr := none }

/-- R35, R537, R548–R550: a write of a unit's CTRL register. -/
def State.writeCtrl (s : State) (p : Word) (v : Word) : State :=
  let set := v.getLsbD 0
  if (s.unit p).stop = set then s else s.requestStop [p] set noHdr 0x40 true

/-- R500: the ring-error counter and notice of a port. -/
def State.ringError (s : State) (d ring : Nat) : State := (s.bumpDie d 0).noticeOn d 0x8007 (leBytes 1 ring)

/-- DOORBELL (R500, R544): a new tail index for a submission ring. -/
def State.doorbell (s : State) (d i v : Nat) : State :=
  let e := s.die d
  let q := e.subRing i
  let n := ringEntries q.size
  let add := (v + n - q.tail) % n
  if q.size = 0 ∨ n ≤ v ∨ (e.compRing i).size < q.size ∨ n < q.avail + q.open_ + add then s.ringError d i
  else s.setDie d (e.setSub i { q with tail := v, avail := q.avail + add })

/-- R501, R544: a write of the head of a completion ring or of the notice ring. -/
def State.compHead (s : State) (d i v : Nat) : State :=
  let e := s.die d
  let r := e.compRing i
  let n := ringEntries r.size
  if n ≤ v then s.bumpDie d 1
  else
    let s := s.setDie d (e.setComp i { r with head := v, used := r.used - (v + n - r.head) % n })
    if i = 8 then s.drainNotices 258 d else s

/-- R501, R545: a write of the head of a host output ring. -/
def State.outHead (s : State) (d i v : Nat) : State :=
  let e := s.die d
  let r := e.outRing i
  let n := ringEntries r.size
  if n ≤ v then s.bumpDie d 1
  else s.setDie d (e.setOut i { r with head := v, used := r.used - (v + n - r.head) % n })

/-- R544, R545: a write of a ring's size: 0 disables it and leaves its indices and phase, another enables it with every index at 0
and its phase at 1. -/
def State.ringSize (s : State) (d : Nat) (ref : RingRef) (v : Nat) : State :=
  let e := s.die d
  match ref with
  | .submission i =>
    let q := e.subRing i.val
    if v = 0 then
      if q.size = 0 then s
      else if q.avail = 0 ∧ q.open_ = 0 then s.setDie d (e.setSub i.val { q with size := 0 })
      else s.bumpDie d 1
    else if q.size = 0 ∧ 4 ≤ v ∧ v ≤ 12 then s.setDie d (e.setSub i.val { SubRing.reset with base := q.base, size := v, fetched := q.fetched, mute := q.mute })
    else s.bumpDie d 1
  | .completion i =>
    let r := e.compRing i.val
    if v = 0 then
      if r.size = 0 then s
      else if (e.subRing i.val).size = 0 then s.setDie d (e.setComp i.val { r with size := 0 })
      else s.bumpDie d 1
    else if r.size = 0 ∧ (e.subRing i.val).size ≤ v ∧ v ≤ 12 then
      s.setDie d (e.setComp i.val { CompRing.reset with base := r.base, size := v })
    else s.bumpDie d 1
  | .notice =>
    let r := e.compRing 8
    if v = 0 then s.setDie d (e.setComp 8 { r with size := 0 })
    else if r.size = 0 ∧ 8 ≤ v ∧ v ≤ 12 then
      (s.setDie d (e.setComp 8 { CompRing.reset with base := r.base, size := v })).drainNotices 258 d
    else s.bumpDie d 1
  | .output i =>
    let r := e.outRing i.val
    if v = 0 then
      if r.size = 0 then s
      else if s.ledger.any (fun q => sessDie q.1 == d && q.2.state != .free && q.2.oring == i.val) then s.bumpDie d 1
      else s.setDie d (e.setOut i.val { r with size := 0 })
    else if r.size = 0 ∧ 12 ≤ v ∧ v ≤ 24 then
      s.setDie d (e.setOut i.val { OutRing.reset with base := r.base, shadow := r.shadow, size := v })
    else s.bumpDie d 1

/-- R537: HOLDLIM within 250–2,500,000. -/
def State.writeHoldLim (s : State) (v : Nat) : State := if 250 ≤ v ∧ v ≤ 2500000 then { s with holdLim := v } else s
/-- R537: WDOG within 25–250,000. -/
def State.writeWdog (s : State) (v : Nat) : State := if 25 ≤ v ∧ v ≤ 250000 then { s with wdog := v } else s
/-- R538: FLOGR, unless it would lie later than FLOGW. -/
def State.writeFlogR (s : State) (v : Nat) : State :=
  let x := BitVec.ofNat 16 v
  if serialLater x s.flogW then s else { s with flogR := x }

/-- R539: a write of a unit-set entry; `d` counts a write that is ignored. -/
def State.writeSet (s : State) (d k j : Nat) (v : Word) : State :=
  if v = 0xFFFFFFFF ∨ (pathValid v && decide (pathLevel v ≤ 3)) then
    { s with unitSets := Tbl.set 0xFFFFFFFF s.unitSets (64 * k + j) v }
  else s.bumpDie d 1

/-- R470, R540: a write of a field of a class's block. -/
def State.writeGoal (s : State) (c : Nat) (f : GoalField) (v : Word) : State :=
  let k := s.cls c
  let n := v.toNat
  match f with
  | .goal =>
    let kind := n % 8
    let lead := n / 65536
    let k := if kind = 3 ∨ kind = 4 ∨ kind = 6 ∨ kind = 7 then k else { k with kind := kind }
    s.setCls c (if lead = 0 then k else { k with lead := lead })
  | .ttft => s.setCls c { k with ttft := v }
  | .tbt => s.setCls c { k with tbt := v }
  | .spec => s.setCls c { k with depth := n % 8, athr := n / 16 % 8 }

/-- R544, R545: a whole 64-bit value stored into a base or shadow register. -/
def State.store64 (s : State) (b : Blk) (o : Nat) (v : DWord) : State :=
  match b with
  | .rings d =>
    let e := s.die d
    if o < 0x100 then
      let q := e.subRing (o / 0x20)
      if q.size ≠ 0 ∨ v.toNat % 64 ≠ 0 then s.bumpDie d 1 else s.setDie d (e.setSub (o / 0x20) { q with base := v })
    else
      let i := (o - 0x100) / 0x20
      let q := e.compRing i
      if q.size ≠ 0 ∨ v.toNat % 32 ≠ 0 then s.bumpDie d 1 else s.setDie d (e.setComp i { q with base := v })
  | .outs d =>
    let e := s.die d
    let q := e.outRing (o / 0x20)
    if o % 0x20 = 0 then
      if q.size ≠ 0 ∨ v.toNat % 64 ≠ 0 then s.bumpDie d 1 else s.setDie d (e.setOut (o / 0x20) { q with base := v })
    else if v.toNat % 8 ≠ 0 then s.bumpDie d 1 else s.setDie d (e.setOut (o / 0x20) { q with shadow := v })
  | _ => s

/-- Whether a 64-bit RW register has its low word at an offset. -/
def rw64 (b : Blk) (o : Nat) : Bool :=
  match b with
  | .rings _ => o % 0x20 == 0 && decide (o < 0x220)
  | .outs _ => decide (o < 0x200) && (o % 0x20 == 0 || o % 0x20 == 0x14)
  | _ => false

/-- The event counters of a tile block and what they store. -/
def Tile.writeCounter (t : Tile) (o v : Nat) : Tile :=
  match o with
  | 0x50 => { t with bounces := v }
  | 0x54 => { t with bounceSent := v }
  | 0x58 => { t with suppressed := v }
  | 0x5C => { t with originCount := v }
  | 0x60 => { t with corrA := v }
  | 0x64 => { t with corrC := v }
  | _ => t

/-- The control-face registers of a unit's block at their offsets: status, CTRL and FAULTS. -/
def State.writeFace (s : State) (p : Word) (status ctrl faults o : Nat) (v : Word) : State :=
  if o = status then s.writeStatus p v
  else if o = ctrl then s.writeCtrl p v
  else if o = faults then s.setUnit p { s.unit p with faults := v }
  else s

/-- R650: a write of a word of a port's MSI-X table: four for each vector, the last with its mask bit. A vector that waits is
signalled when it is unmasked. -/
def State.writeMsix (s : State) (d i : Nat) (v : Word) : State :=
  let e := s.die d
  let n := i / 4
  let s := s.setDie d { e with msix := e.setMsix i v }
  if i % 4 = 3 ∧ !(v.getLsbD 0) ∧ e.pba.getLsbD n then
    (s.setDie d { s.die d with pba := e.pba &&& ~~~(BitVec.ofNat 32 (2 ^ n)) }).signal d n
  else s

/-- R531, R535: a write of a 32-bit register in the normal view; `d` counts one that is ignored where the manual says
so. -/
def State.store32 (s : State) (d : Nat) (b : Blk) (o : Nat) (v : Word) : State :=
  let n := v.toNat
  match b with
  | .module =>
    match o with
    | 0x60 => s.writeHoldLim (n % 2 ^ 22)
    | 0x64 => s.writeWdog (n % 2 ^ 18)
    | 0x6C => s.writeFlogR n
    | 0x70 => { s with flogLost := v }
    | o => s.writeFace modulePath 0x08 0x10 0x14 o v
  | .cls =>
    if o < 0x100 then
      let c := o / 0x20
      match o % 0x20 with
      | 0x00 => s.writeGoal c .goal v
      | 0x04 => s.writeGoal c .ttft v
      | 0x08 => s.writeGoal c .tbt v
      | 0x0C => s.writeGoal c .spec v
      | 0x10 => s.setCls c { s.cls c with vTtft := v }
      | 0x14 => s.setCls c { s.cls c with vTbt := v }
      | _ => s
    else s
  | .hist =>
    let k := s.cls (o / 0x80)
    s.setCls (o / 0x80) { k with hist := Tbl.set 0 k.hist (o % 0x80 / 4) v }
  | .inv => if o % 0x40 = 0x14 then s.setInv (o / 0x40) { s.invOf (o / 0x40) with use := v } else s
  | .peer => if o = 0 then { s with peerSel := BitVec.ofNat 14 n } else s
  | .sets k => s.writeSet d (4 * k + o / 0x100) (o % 0x100 / 4) v
  | .die e =>
    let x := s.die e
    match o with
    | 0x08 => s.setDie e { x with ringErr := v }
    | 0x0C => s.setDie e { x with regErr := v }
    | 0x10 => s.setDie e { x with nLost := v }
    | 0x14 => s.setDie e { x with dropRec := v }
    | 0x18 => s.setDie e { x with fwdDrop := v }
    | _ => s
  | .rings e =>
    if o < 0x100 then
      if o % 0x20 = 8 then s.ringSize e (.submission (Fin.ofNat 8 (o / 0x20))) (n % 16)
      else if o % 0x20 = 0xC then s.doorbell e (o / 0x20) (n % 4096)
      else s
    else if o < 0x220 then
      let i := (o - 0x100) / 0x20
      if o % 0x20 = 8 then s.ringSize e (if i = 8 then .notice else .completion (Fin.ofNat 8 i)) (n % 16)
      else if o % 0x20 = 0xC then s.compHead e i (n % 4096)
      else s
    else s
  | .outs e =>
    if o < 0x200 then
      if o % 0x20 = 8 then s.ringSize e (.output (Fin.ofNat 16 (o / 0x20))) (n % 32)
      else if o % 0x20 = 0xC then s.outHead e (o / 0x20) (n % 2 ^ 24)
      else s
    else s
  | .msix e => if o < 0x200 then s.writeMsix e (o / 4) (if o % 16 = 12 then v &&& 1 else v) else s
  | .pipes e k =>
    let p := 32 * k + o / 0x20
    let q := s.pipe p
    if q.home ≠ some e then s
    else match o % 0x20 with
      | 0x00 => s.setPipe p { q with verif := v }
      | 0x04 => s.setPipe p { q with offered := v }
      | 0x08 => s.setPipe p { q with accepted := v }
      | 0x0C => s.setPipe p { q with turnoff := v }
      | 0x10 => s.setPipe p { q with retry := v }
      | _ => s
  | .floor f => s.writeFace (floorPath f) 0x00 0x08 0x0C o v
  | .room r => s.writeFace (roomPath r) 0x00 0x08 0x0C o v
  | .tile t =>
    if s.tileLive t then
      (s.setTile t ((s.tile t).writeCounter o n)).writeFace (tilePath t) 0x00 0x08 0x0C o v
    else s
  | _ => s

/-- R529: the RW bits of a 32-bit register, which an alias write may change. -/
def rwMask (b : Blk) (o : Nat) : Word :=
  let full : Word := 0xFFFFFFFF
  match b with
  | .module => match o with
    | 0x10 => 1
    | 0x14 => full
    | 0x60 => 0x3FFFFF
    | 0x64 => 0x3FFFF
    | 0x6C => 0xFFFF
    | 0x70 => full
    | _ => 0
  | .cls =>
    if o < 0x100 then
      match o % 0x20 with
      | 0x00 => 0xFFFF0007
      | 0x04 => full
      | 0x08 => full
      | 0x0C => 0x77
      | 0x10 => full
      | 0x14 => full
      | _ => 0
    else 0
  | .hist => full
  | .inv => if o % 0x40 = 0x14 then full else 0
  | .peer => if o = 0 then 0x3FFF else 0
  | .sets _ => full
  | .die _ => if 8 ≤ o ∧ o ≤ 0x18 then full else 0
  | .rings _ =>
    if 0x220 ≤ o then 0
    else if o % 0x20 = 0 ∨ o % 0x20 = 4 then full else if o % 0x20 = 8 then 0xF else if o % 0x20 = 0xC then 0xFFF else 0
  | .outs _ =>
    if 0x200 ≤ o then 0
    else if o % 0x20 = 0 ∨ o % 0x20 = 4 ∨ o % 0x20 = 0x14 ∨ o % 0x20 = 0x18 then full
    else if o % 0x20 = 8 then 0x1F else if o % 0x20 = 0xC then 0xFFFFFF else 0
  | .msix _ => if 0x200 ≤ o then 0 else if o % 16 = 12 then 1 else full
  | .pipes _ _ => if o % 0x20 ≤ 0x10 then full else 0
  | .floor _ => if o = 8 then 1 else if o = 0xC then full else 0
  | .room _ => if o = 8 then 1 else if o = 0xC then full else 0
  | .tile _ => if o = 8 then 1 else if o = 0xC then full else if 0x50 ≤ o ∧ o ≤ 0x64 then full else 0
  | _ => 0

/-- R529, R533: an alias write of the 32-bit register at an aligned offset: 1 sets, 2 clears and 3 inverts its RW
bits. On a half of a 64-bit register it acts at once. -/
def State.aliasWord (s : State) (kind : Nat) (w : Requester) (bar : Bar) (off : Nat) (v : Word) : State :=
  let b := blkAt bar (off / 4096)
  let o := viewOff off
  let x := v &&& rwMask b o
  let now : Word := BitVec.ofNat 32 (s.reg32 b o)
  let new := match kind with
    | 1 => now ||| x
    | 2 => now &&& ~~~x
    | _ => now ^^^ x
  if rwMask b o = 0 then s
  else if rw64 b o then
    s.store64 b o (BitVec.ofNat 64 (s.reg32 b (o + 4) * 2 ^ 32 + new.toNat))
  else if 4 ≤ o && rw64 b (o - 4) then
    s.store64 b (o - 4) (BitVec.ofNat 64 (new.toNat * 2 ^ 32 + s.reg32 b (o - 4) % 2 ^ 32))
  else s.store32 (s.dieOf w) b o new

/-- R533: a write of the 32-bit register at an aligned offset of the normal view. -/
def State.normalWord (s : State) (w : Requester) (bar : Bar) (off : Nat) (v : Word) : State :=
  let b := blkAt bar (off / 4096)
  let o := viewOff off
  if rw64 b o then { s with low := Tbl.set none s.low (lowKey bar off w) (some v) }
  else if 4 ≤ o && rw64 b (o - 4) then
    let k := lowKey bar (off - 4) w
    let lo := match Tbl.get none s.low k with
      | some x => x.toNat
      | none => s.reg32 b (o - 4) % 2 ^ 32
    { s with low := Tbl.set none s.low k none }.store64 b (o - 4) (BitVec.ofNat 64 (v.toNat * 2 ^ 32 + lo))
  else s.store32 (s.dieOf w) b o v

/-- R529: a 32-bit write at any view. -/
def State.writeWord (s : State) (w : Requester) (bar : Bar) (off : Nat) (v : Word) : State :=
  match off % 4096 / 1024 with
  | 0 => s.normalWord w bar off v
  | k => s.aliasWord k w bar off v

/-- R530: a write of an access size, or a refused access. -/
def State.writeReg (s : State) (w : Requester) (bar : Bar) (off size : Nat) (v : DWord) : State :=
  if size = 4 ∧ off % 4 = 0 then s.writeWord w bar off (BitVec.ofNat 32 v.toNat)
  else if size = 8 ∧ off % 8 = 0 then
    (s.writeWord w bar off (BitVec.ofNat 32 v.toNat)).writeWord w bar (off + 4) (BitVec.ofNat 32 (v.toNat / 2 ^ 32))
  else s.bumpDie (s.dieOf w) 1

/-- R529, R530: an alias write of four bytes; one that is not aligned is ignored and counted. -/
def State.aliasWrite (s : State) (kind : Nat) (w : Requester) (bar : Bar) (off : Nat) (v : Word) : State :=
  if off % 4 = 0 then s.aliasWord kind w bar off v else s.bumpDie (s.dieOf w) 1

/-- Whether register accesses reach the module: it is out of reset, and the requester's port is up. -/
def State.reached (s : State) (w : Requester) : Bool :=
  s.powered && !s.mreset && (match w with
    | .port p => (s.die p.val).portUp && !(s.die p.val).failed
    | .firmware => true)

/-- R626: whether a write takes effect: the module is ready, and the requester's port is up. -/
def State.regsUp (s : State) (w : Requester) : Bool :=
  s.ready && (match w with
    | .port p => (s.die p.val).portUp && !(s.die p.val).failed
    | .firmware => true)

/-! ### Rows -/

/-- STATUS_WORD_WRITE (R532). -/
def execStatusWordWrite (w : Requester) (unit : Word) (value : Word) (s : State) : Host.Outcome State Fault Refusal :=
  if s.regsUp w && pathValid unit && decide (pathLevel unit ≤ 3) && (pathLevel unit != 0 || s.tileLive (pathTile unit)) then
    .next (s.writeStatus unit value)
  else .next s

/-- SET_ALIAS_WRITE (R529, R530). -/
def execSetAliasWrite (w : Requester) (bar : Bar) (off : BitVec 31) (value : Word) (s : State) :
    Host.Outcome State Fault Refusal :=
  if s.regsUp w then .next (s.aliasWrite 1 w bar off.toNat value) else .next s

/-- CLEAR_ALIAS_WRITE (R529, R530). -/
def execClearAliasWrite (w : Requester) (bar : Bar) (off : BitVec 31) (value : Word) (s : State) :
    Host.Outcome State Fault Refusal :=
  if s.regsUp w then .next (s.aliasWrite 2 w bar off.toNat value) else .next s

/-- INVERT_ALIAS_WRITE (R529, R530). -/
def execInvertAliasWrite (w : Requester) (bar : Bar) (off : BitVec 31) (value : Word) (s : State) :
    Host.Outcome State Fault Refusal :=
  if s.regsUp w then .next (s.aliasWrite 3 w bar off.toNat value) else .next s

/-- DOORBELL_WRITE (R500). -/
def execDoorbellWrite (p : DieId) (ring : Fin 8) (value : Word) (s : State) : Host.Outcome State Fault Refusal :=
  if s.regsUp (.port p) then .next (s.doorbell p.val ring.val (value.toNat % 4096)) else .next s

/-- COMPLETION_HEAD_WRITE (R501, R504). -/
def execCompletionHeadWrite (p : DieId) (ring : Fin 9) (value : Word) (s : State) : Host.Outcome State Fault Refusal :=
  if s.regsUp (.port p) then .next (s.compHead p.val ring.val (value.toNat % 4096)) else .next s

/-- OUTPUT_HEAD_WRITE (R501, R545). -/
def execOutputHeadWrite (p : DieId) (ring : Fin 16) (value : Word) (s : State) : Host.Outcome State Fault Refusal :=
  if s.regsUp (.port p) then .next (s.outHead p.val ring.val (value.toNat % 2 ^ 24)) else .next s

/-- RING_SIZE_WRITE (R544, R545). -/
def execRingSizeWrite (p : DieId) (ring : RingRef) (value : Word) (s : State) : Host.Outcome State Fault Refusal :=
  let n := match ring with
    | .output _ => value.toNat % 32
    | _ => value.toNat % 16
  if s.regsUp (.port p) then .next (s.ringSize p.val ring n) else .next s

/-- FLOGR_WRITE (R538). -/
def execFlogrWrite (value : Word) (s : State) : Host.Outcome State Fault Refusal :=
  if s.ready then .next (s.writeFlogR value.toNat) else .next s

/-- HOLDLIM_WRITE (R537). -/
def execHoldlimWrite (value : Word) (s : State) : Host.Outcome State Fault Refusal :=
  if s.ready then .next (s.writeHoldLim (value.toNat % 2 ^ 22)) else .next s

/-- WDOG_WRITE (R537). -/
def execWdogWrite (value : Word) (s : State) : Host.Outcome State Fault Refusal :=
  if s.ready then .next (s.writeWdog (value.toNat % 2 ^ 18)) else .next s

/-- UNIT_SET_ENTRY_WRITE (R539). -/
def execUnitSetEntryWrite (set : UnitSetAccess) (entry : Fin 64) (value : Word) (s : State) :
    Host.Outcome State Fault Refusal :=
  if s.regsUp set.w then .next (s.writeSet (s.dieOf set.w) set.num.val entry.val value) else .next s

/-- CTRL_STOP_WRITE (R35, R37). -/
def execCtrlStopWrite (unit : Word) (value : Word) (s : State) : Host.Outcome State Fault Refusal :=
  if s.ready && pathValid unit && decide (pathLevel unit ≤ 3) && (pathLevel unit != 0 || s.tileLive (pathTile unit)) then
    .next (s.writeCtrl unit value)
  else .next s

/-- CLASS_GOAL_WRITE (R470, R540). -/
def execClassGoalWrite (cls : Fin 8) (field : GoalField) (value : Word) (s : State) : Host.Outcome State Fault Refusal :=
  if s.ready then .next (s.writeGoal cls.val field value) else .next s

/-- EVENT_COUNTER_WRITE (R535): the written value is stored and the overflow bit stays. -/
def execEventCounterWrite (w : Requester) (bar : Bar) (off : BitVec 31) (value : Word) (s : State) :
    Host.Outcome State Fault Refusal :=
  if s.regsUp w then .next (s.writeReg w bar off.toNat 4 (BitVec.ofNat 64 value.toNat)) else .next s

/-- LOW_WORD_READ (R530, R533, R626): a read of registers; of the low word of a 64-bit value it latches the high word. -/
def execLowWordRead (w : Requester) (bar : Bar) (off : ReadAt) (s : State) : Host.Outcome State Fault Refusal :=
  if s.reached w then .next (s.readReg w bar off.off.toNat off.size) else .next s

/-- HIGH_WORD_WRITE (R533): both halves of a 64-bit register are stored. -/
def execHighWordWrite (w : Requester) (bar : Bar) (off : BitVec 31) (value : Word) (s : State) :
    Host.Outcome State Fault Refusal :=
  if s.regsUp w then .next (s.writeReg w bar off.toNat 4 (BitVec.ofNat 64 value.toNat)) else .next s

/-- PEERSEL_WRITE (R542). -/
def execPeerselWrite (value : Word) (s : State) : Host.Outcome State Fault Refusal :=
  if s.ready then .next { s with peerSel := BitVec.ofNat 14 value.toNat } else .next s

/-- REGISTER_WRITE (R529–R531). -/
def execRegisterWrite (w : Requester) (bar : Bar) (off : BitVec 31) (size : Nat) (value : DWord) (s : State) :
    Host.Outcome State Fault Refusal :=
  if s.regsUp w then .next (s.writeReg w bar off.toNat size value) else .next s

end Sys2Proof.Machine
end

