-- ==== Sys2Proof/Machine/Commands.lean ====
section
/-! DEFINITION. Command packets (chapter 17): fetching (R500–R502), decoding and its checks (R508–R515), and the commands
on units, gears and peers (R516, R521–R525, R575, R588, R621). -/

namespace Sys2Proof.Machine

/-! ### Commands and their checks (R506–R508) -/

/-- R516: a field of a command: its first bit, its width in bits and its value. -/
structure Field where
  at_ : Nat
  width : Nat
  value : Nat
  deriving DecidableEq, Repr

/-- A field of whole bytes. -/
def byteField (off bytes value : Nat) : Field := ⟨8 * off, 8 * bytes, value⟩

/-- R508, R516: what the decoding and the checks of one command use: its opcode, the minor that introduced it, whether it accepts
SET, the paths whose level it accepts, the offset of its first parameter outside its range, and its parameters where its 64 bytes
hold them. -/
structure CmdSpec where
  opc : Byte
  since : Nat
  sets : Bool
  level : Word → Bool
  bad : Option Nat
  par : List Field := []

/-- The level M of R516: the module path. -/
def onModule (p : Word) : Bool := p == modulePath
/-- A command on the module path without SET. -/
def CmdSpec.onM (opc : Byte) (bad : Option Nat) (par : List Field := []) : CmdSpec := ⟨opc, 0, false, onModule, bad, par⟩

/-- The least of the offsets that are present. -/
def firstBad (l : List (Option Nat)) : Option Nat :=
  (l.filterMap id).foldl (fun (o : Option Nat) n => match o with
    | none => some n
    | some m => some (min m n)) none

/-- An offset, where a field is out of its range. -/
def badAt (b : Bool) (off : Nat) : Option Nat := if b then some off else none

/-- R506, FLAGS [0]: the unit field names a set. -/
def isSet (h : CmdHdr) : Bool := h.flags.getLsbD 0
/-- R506, FLAGS [1]. -/
def isOrder (h : CmdHdr) : Bool := h.flags.getLsbD 1

/-- R39: the members of a unit set. -/
def State.setMembers (s : State) (k : Nat) : List Word :=
  ((List.range 64).map (fun j => Tbl.get 0xFFFFFFFF s.unitSets (64 * k + j))).filter (· != 0xFFFFFFFF)

/-- R41: the units that lie within no other of the list, each once. -/
def outermost (us : List Word) : List Word :=
  us.eraseDups.filter (fun u => !(us.any (fun v => v != u && unitWithin v u)))

/-- R31, R39, R41: the units on which a command acts, each by one path only: a member of a set that lies within another
member is acted on through that one. A level-4 path acts on the local module. -/
def State.unitsOf (s : State) (h : CmdHdr) : List Word :=
  if isSet h then outermost (s.setMembers h.unit.toNat)
  else if pathLevel h.unit = 4 then [modulePath] else [h.unit]

/-- R26, R508: a unit that is absent or benched. -/
def State.absentUnit (s : State) (p : Word) : Bool :=
  (pathLevel p == 0 && !(s.tileLive (pathTile p))) ||
    (decide (pathLevel p ≤ 2) && (s.floor (pathFloor p)).mode == .benched)

/-- R514, R515: the command-set minor that a port has negotiated; before that, the highest one supported. -/
def State.minorOf (s : State) (d : Nat) : Nat :=
  match (s.die d).neg with
  | some n => n.1
  | none => 2

/-- R508: the status of the first check that fails, of checks 1 to 7. -/
def State.check (s : State) (h : CmdHdr) (k : CmdSpec) : Option (Nat × List Byte) :=
  let m := s.minorOf h.port.val
  let set := isSet h
  let bad := firstBad [badAt (decide (4 ≤ h.flags.toNat) || (set && (!k.sets || decide (m < 2)))) 2,
    badAt (h.tag == 0xFFFF) 4, h.rsv, badAt (set && decide (64 ≤ h.unit.toNat)) 8, k.bad]
  if (s.die h.port.val).neg.isNone && k.opc != 0x01 then some (0x0102, [])
  else if m < k.since then some (0x0100, [])
  else if m < h.minor.toNat then some (0x0101, [])
  else match bad with
  | some off => some (0x0103, leBytes 2 off)
  | none =>
    if set then (if (s.setMembers h.unit.toNat).any s.absentUnit then some (0x0106, []) else none)
    else if !(pathValid h.unit) then some (0x0104, [])
    else if !(k.level h.unit) then some (0x0105, [])
    else if s.absentUnit h.unit then some (0x0106, [])
    else none

/-! ### Fetching (R500–R502) -/

/-- The opcode of a packet. -/
def pktOpc (p : BitVec 512) : Nat := p.toNat % 256
/-- The TAG of a packet. -/
def pktTag (p : BitVec 512) : Nat := p.toNat / 2 ^ 32 % 65536
/-- Byte i of a packet. -/
def pktByte (p : BitVec 512) (i : Nat) : Nat := p.toNat / 2 ^ (8 * i) % 256

/-- R516: the opcodes assigned. -/
def opcodes : List Nat :=
  [0x01, 0x02, 0x10, 0x11, 0x12, 0x20, 0x21, 0x22, 0x28, 0x30, 0x31, 0x32, 0x33, 0x38, 0x40, 0x41, 0x48, 0x49, 0x4A, 0x50,
    0x58, 0x60, 0x61]

/-- Whether a packet is a command of R516; a JOURNAL of an ACTION that R516 does not give is none. -/
def assigned (p : BitVec 512) : Bool := opcodes.contains (pktOpc p) && !(pktOpc p == 0x58 && decide (2 ≤ pktByte p 16))

/-- The header of a packet from a ring. -/
def pktHdr (d : DieId) (i : Fin 8) (p : BitVec 512) : CmdHdr :=
  { port := d, ring := i, minor := BitVec.ofNat 8 (pktByte p 1), flags := BitVec.ofNat 16 (p.toNat / 2 ^ 16)
    tag := BitVec.ofNat 16 (pktTag p), unit := BitVec.ofNat 32 (p.toNat / 2 ^ 64)
    rsv := [6, 7, 12, 13, 14, 15].find? (fun i => pktByte p i != 0), hostErr := none }

/-- R510: whether the firmware of the lead edge die decodes a command: not CANCEL and ABORT on the urgent ring, nor the
commands on sessions, which hardware of the port's own die decodes. -/
def byLead (opc : Byte) (ring : Fin 8) : Bool :=
  !([0x30, 0x31, 0x32, 0x33, 0x38].contains opc.toNat || (opc == 0x41 && ring == 0))

/-- R506, FLAGS [1]: whether a command waits for the earlier commands of its ring to complete. -/
def State.orderWaits (s : State) (h : CmdHdr) : Bool :=
  isOrder h && s.cmds.any (fun c => !c.mute && c.h.port == h.port && c.h.ring == h.ring)

/-- R510, R591: whether a command waits for a lead edge die, whose firmware decodes it. -/
def State.leadWaits (s : State) (opc : Byte) (ring : Fin 8) : Bool := byLead opc ring && (s.die s.lead.val).failed

/-- R508: the answer to a packet that is no command: bad opcode, or the checks of JOURNAL with a bad ACTION. -/
def State.refusePkt (s : State) (d : DieId) (i : Fin 8) (p : BitVec 512) : State :=
  let h := pktHdr d i p
  let opc := BitVec.ofNat 8 (pktOpc p)
  if pktOpc p = 0x58 then
    match s.check h (.onM opc (some 16)) with
    | some r => s.reply h opc r.1 r.2
    | none => s
  else if (s.die d.val).neg.isNone then s.reply h opc 0x0102 []
  else s.reply h opc 0x0100 []

/-- R502, R506, R508, R510: answers the packets at the front of a ring that are no commands, as their decoders come to them. -/
def State.skipBad : Nat → State → DieId → Fin 8 → State
  | 0, s, _, _ => s
  | k + 1, s, d, i =>
    let e := s.die d.val
    let q := e.subRing i.val
    match q.fetched with
    | p :: rest =>
      if assigned p || s.leadWaits (BitVec.ofNat 8 (pktOpc p)) i || (q.mute == 0 && s.orderWaits (pktHdr d i p)) then s
      else
        let t := s.setDie d.val (e.setSub i.val { q with fetched := rest, mute := q.mute - 1 })
        State.skipBad k (if q.mute = 0 then t.refusePkt d i p else t) d i
    | [] => s

/-- The packets that are no commands and whose turn has come, on every ring: those that waited for a lead or for earlier commands
among them. -/
def State.refuseDue (s : State) : State :=
  (List.finRange 4).foldl (fun (s : State) (d : DieId) =>
    (List.finRange 8).foldl (fun (s : State) (i : Fin 8) => s.skipBad 4097 d i) s) s

/-- R501: whether a ring has a command to fetch and a free entry for its reply. -/
def Die.fetchable (e : Die) (i : Nat) : Bool :=
  let q := e.subRing i
  let r := e.compRing i
  q.size != 0 && decide (0 < q.avail) && decide (r.used + q.open_ < ringEntries r.size)

/-- R502: the ring fetched next: the urgent ring, else the normal ones round-robin. -/
def Die.nextRing (e : Die) : Option Nat :=
  if e.fetchable 0 then some 0
  else (List.range 7).map (fun j => 1 + (e.pollNext + 6 + j) % 7) |>.find? e.fetchable

/-- R500–R502: an edge die that has fetched a command of a ring; `ps` are the ring's packets fetched and not yet decoded. -/
def Die.fetched (e : Die) (i : Nat) (ps : List (BitVec 512)) : Die :=
  let q := e.subRing i
  let q := { q with head := (q.head + 1) % ringEntries q.size, avail := q.avail - 1, open_ := q.open_ + 1, fetched := ps }
  { e.setSub i q with pollNext := if i = 0 then e.pollNext else i % 7 + 1 }

/-- R500–R502, R653: whether an edge die fetches a command of a ring now. -/
def State.fetches (s : State) (d i : Nat) : Bool :=
  let e := s.die d
  s.ready && !s.resetting && !e.failed && e.portUp && !e.d3 && e.nextRing == some i

/-- R500–R502: fetches the packet at the head of a ring. -/
def State.fetch (s : State) (d : DieId) (i : Fin 8) (p : BitVec 512) : State :=
  if s.fetches d.val i.val then
    (s.setDie d.val ((s.die d.val).fetched i.val (((s.die d.val).subRing i.val).fetched ++ [p]))).skipBad 4097 d i
  else s

/-- COMMAND_FETCH (R500–R502). -/
def execCommandFetch (port : DieId) (ring : Fin 8) (pkt : BitVec 512) (s : State) : Host.Outcome State Fault Refusal :=
  .next (s.fetch port ring pkt)

/-! ### Decoding (R508, R510) -/

/-- A field of a packet. -/
def pktField (p : BitVec 512) (x : Field) : Nat := p.toNat / 2 ^ x.at_ % 2 ^ x.width

/-- R506, R516: the bits of a command that the table or its opcode assigns. -/
def CmdSpec.assigns (k : CmdSpec) : BitVec 512 :=
  k.par.foldl (fun (m : BitVec 512) x => m ||| BitVec.ofNat 512 (2 ^ x.at_ * (2 ^ x.width - 1)))
    (BitVec.ofNat 512 (2 ^ 48 - 1 + 2 ^ 64 * (2 ^ 32 - 1)))

/-- R506, R516: whether a packet's 64 bytes are a command with its header and parameters. -/
def spells (p : BitVec 512) (h : CmdHdr) (k : CmdSpec) : Bool :=
  pktOpc p == k.opc.toNat && pktHdr h.port h.ring p == { h with rsv := (pktHdr h.port h.ring p).rsv, hostErr := none } &&
  (List.range 64).find? (fun i => pktByte (p &&& ~~~k.assigns) i != 0) == h.rsv && k.par.all (fun x => pktField p x == x.value)

/-- R501, R502, R506, R510, R591: a decoder takes a command: the packet at the front of its ring, whose bytes spell it. Where
nothing has been fetched the command stands for its own fetch as well, and is taken where that fetch comes next (log entry 12). The
firmware's commands wait while the lead has failed. -/
def State.takeCmd (s : State) (h : CmdHdr) (k : CmdSpec) : Option State :=
  let e := s.die h.port.val
  let q := e.subRing h.ring.val
  if !s.ready || s.resetting || e.failed || !e.portUp || s.orderWaits h || s.leadWaits k.opc h.ring || q.mute != 0 then none
  else match q.fetched with
  | [] => if s.fetches h.port.val h.ring.val then some { s.setDie h.port.val (e.fetched h.ring.val []) with silent := none } else none
  | p :: rest =>
    if spells p h k then some { s.setDie h.port.val (e.setSub h.ring.val { q with fetched := rest }) with silent := none }
    else none

/-- R652: a decoder takes a command that its port's reset found fetched. -/
def State.takeMute (s : State) (h : CmdHdr) (k : CmdSpec) : Option State :=
  let e := s.die h.port.val
  let q := e.subRing h.ring.val
  if q.mute = 0 || !s.ready || s.resetting || e.failed || s.leadWaits k.opc h.ring then none
  else match q.fetched with
  | [] => none
  | p :: rest =>
    if spells p h k then some (s.setDie h.port.val (e.setSub h.ring.val { q with fetched := rest, mute := q.mute - 1 }))
    else none

/-- R508: the checks of a command, and then its effect. -/
def State.checked (s : State) (h : CmdHdr) (k : CmdSpec) (run : State → State) : State :=
  match s.check h k with
  | some r => s.reply h k.opc r.1 r.2
  | none => run s

/-- R652: a command runs to its end, and its reply is not written, now or later. -/
def State.muted (s : State) (h : CmdHdr) (run : State → State) : State :=
  let d := h.port.val
  let neg := (s.die d).neg
  let old := s.cmds
  let s := run { s.setDie d { s.die d with neg := (s.die d).negWas } with silent := some h.id }
  { s.setDie d { s.die d with neg := neg } with
    silent := none, cmds := s.cmds.map (fun (c : Cmd) => if c.h == h && !old.contains c then { c with mute := true } else c) }

/-- R508, R510, R652: decodes a command. -/
def State.decode (s : State) (h : CmdHdr) (k : CmdSpec) (run : State → State) : State :=
  match s.takeMute h k with
  | some s => (s.muted h (fun s => s.checked h k run)).skipBad 4097 h.port h.ring
  | none =>
    match s.takeCmd h k with
    | none => s
    | some s => (s.checked h k run).skipBad 4097 h.port h.ring

/-- Adds a command to those in progress. -/
def State.begin_ (s : State) (h : CmdHdr) (opc : Byte) (w : Work) : State :=
  { s with cmds := s.cmds ++ [{ h := h, opc := opc, tick := s.pkt, work := w, mute := false }] }

/-- R511: the opcode of the module command in progress. -/
def State.moduleBusy (s : State) : Option Byte :=
  (s.cmds.find? (fun c => match c.work with
    | .floorReset _ => true
    | .gear _ => true
    | .load _ _ => true
    | _ => false)).map (·.opc)

/-- R511: a module command runs, or completes with the busy status. -/
def State.moduleCmd (s : State) (h : CmdHdr) (opc : Byte) (run : State → State) : State :=
  match s.moduleBusy with
  | some o => s.reply h opc 0x0109 [o]
  | none => run s

/-- R509: a command's record is written to host memory and the command completes; where the write fails it completes with the
host-memory status instead. -/
def State.writeHost (s : State) (h : CmdHdr) (opc : Byte) (a : DWord) (b : List Byte) (status : Nat) (detail : List Byte) : State :=
  match h.hostErr with
  | some f => s.reply h opc 0x0108 (leBytes 8 f.toNat)
  | none => (s.emitWrite h.port.val a b).reply h opc status detail

/-! ### NEGOTIATE (R513–R515) -/

/-- R513: the highest minor of interfaces 0 to 2 within major 1. -/
def ownMinor (i : Nat) : Nat := if i = 0 then 2 else if i = 1 then 1 else 0

/-- R514: the minor chosen for an interface. -/
def chooseMinor (i : Nat) (r : VerRange) : Option Nat :=
  let hi := min (ownMinor i) r.hi.toNat
  if r.major = 1 ∧ r.lo.toNat ≤ hi then some hi else none

/-- R514. -/
def State.negotiate (s : State) (h : CmdHdr) (r0 r1 r2 : VerRange) : State :=
  match chooseMinor 0 r0, chooseMinor 1 r1, chooseMinor 2 r2 with
  | some a, some b, some c =>
    let s := s.reply h 0x01 0 (leBytes 1 a ++ leBytes 1 b ++ leBytes 1 c ++ [0, 1, 0, 1])
    s.setDie h.port.val { s.die h.port.val with neg := some (a, b, c) }
  | none, _, _ => s.reply h 0x01 0x0101 [0]
  | _, none, _ => s.reply h 0x01 0x0101 [1]
  | _, _, none => s.reply h 0x01 0x0101 [2]

/-- R514: the parameters of NEGOTIATE. -/
def parNegotiate (r0 r1 r2 : VerRange) : List Field :=
  [(0, r0), (1, r1), (2, r2)].flatMap (fun (q : Nat × VerRange) =>
    [byteField (16 + 4 * q.1) 1 q.2.major.toNat, byteField (17 + 4 * q.1) 1 q.2.lo.toNat, byteField (18 + 4 * q.1) 1 q.2.hi.toNat])

/-- NEGOTIATE (R514, R515). -/
def execNegotiate (h : CmdHdr) (r0 r1 r2 : VerRange) (s : State) : Host.Outcome State Fault Refusal :=
  .next (s.decode h (.onM 0x01 none (parNegotiate r0 r1 r2)) (fun s => s.negotiate h r0 r1 r2))

/-! ### QUERY (R521) -/

/-- R521: the words of the record that ITEM selects. -/
def State.queryWords (s : State) (h : CmdHdr) (item index : Nat) : List Nat :=
  match item with
  | 0 => if isSet h then s.setFace (s.setMembers h.unit.toNat) else s.face (if pathLevel h.unit = 4 then modulePath else h.unit)
  | 1 => (List.range 10).map (fun i => (s.invOf index).reg (4 * i))
  | 2 => (s.sess (index % 8192)).words
  | 3 => [0, 1].flatMap (fun b => (List.range 5).map (fun i => (s.bank (2 * index + b)).reg (4 * i)))
  | 4 => s.peerWords (pathModule h.unit)
  | _ => (List.range 4).map (fun d => s.dieReg d 4)

/-- Whether a path names another module at level 4 (R31). -/
def State.isPeer (s : State) (p : Word) : Bool := pathLevel p == 4 && !(s.isLocal p)

/-- R521: ITEM and INDEX in range. -/
def queryBad (minor item index : Nat) (qaddr : DWord) : Option Nat :=
  firstBad [badAt (decide (5 < item) || (item == 4 && decide (minor < 2))) 16,
    badAt (match item with
      | 1 => decide (16 ≤ index)
      | 2 => false
      | 3 => decide (64 ≤ index)
      | _ => decide (index ≠ 0)) 20,
    badAt (decide (qaddr.toNat % 64 ≠ 0)) 24]

/-- R516: the parameters of QUERY. -/
def parQuery (item : Byte) (index : Word) (qaddr : DWord) (qlen : Word) : List Field :=
  [byteField 16 1 item.toNat, byteField 20 4 index.toNat, byteField 24 8 qaddr.toNat, byteField 32 4 qlen.toNat]

/-- QUERY (R521): the record is written at QADDR, at most QLEN bytes of it. -/
def execQuery (h : CmdHdr) (item : Byte) (index : Word) (qaddr : DWord) (qlen : Word) (s : State) :
    Host.Outcome State Fault Refusal :=
  let k : CmdSpec := { opc := 0x02, since := 0, sets := item == 0
                       level := fun p => if item = 0 then decide (pathLevel p ≤ 4) && !(s.isPeer p)
                         else if item = 4 then s.isPeer p else onModule p
                       bad := queryBad (s.minorOf h.port.val) item.toNat index.toNat qaddr
                       par := parQuery item index qaddr qlen }
  .next (s.decode h k (fun s =>
    if item = 2 ∧ (s.sessionOf index).isNone then s.reply h 0x02 0x0400 []
    else
      let b := ((s.queryWords h item.toNat index.toNat).flatMap (fun w => leBytes 4 w)).take qlen.toNat
      s.writeHost h 0x02 qaddr b 0 (leBytes 4 b.length)))

/-! ### STOP (R35, R37, R516, R525, R588) -/

/-- R588: the lowest floor that is fenced or resetting, where every unit lies on such a floor. -/
def State.downFloor (s : State) (us : List Word) : Option Nat :=
  if us.isEmpty || us.any (fun u => 3 ≤ pathLevel u || s.floorUp (pathFloor u)) then none
  else (List.range 16).find? (fun f => us.any (fun u => pathFloor u == f))

/-- The levels 0 to 3. -/
def inModule (p : Word) : Bool := decide (pathLevel p ≤ 3)

/-- STOP, set or clear. -/
def State.stopCmd (s : State) (h : CmdHdr) (set : Bool) : State :=
  s.decode h ⟨0x40, 0, true, inModule, none, [⟨128, 1, bit1 set⟩]⟩ (fun s =>
    match s.downFloor (s.unitsOf h) with
    | some f => s.reply h 0x40 0x010C (leBytes 1 f)
    | none => s.requestStop (s.unitsOf h) set h 0x40 false)

/-- STOP_SET (R35, R37, R525, R588). -/
def execStopSet (h : CmdHdr) (s : State) : Host.Outcome State Fault Refusal := .next (s.stopCmd h true)

/-- STOP_CLEAR (R35). -/
def execStopClear (h : CmdHdr) (s : State) : Host.Outcome State Fault Refusal := .next (s.stopCmd h false)

/-! ### ABORT (R522–R525) -/

/-- R525: whether some tile of some units runs a program. -/
def State.runsProgram (s : State) (us : List Word) : Bool :=
  s.tiles.any (fun q => q.2.phase == .running && us.any (fun u => unitHas u q.1))

/-- R37, R525: the aborts in progress of a unit, or of one that contains it: their units, the rooms not yet quiet, and their
floors that have been fenced meanwhile. -/
def State.abortsOver (s : State) (u : Word) : List (List Word × List Nat × BitVec 16) :=
  s.cmds.filterMap (fun c => match c.work with
    | .abort vs _ rs m _ => if vs.any (fun v => unitWithin v u) then some (vs, rs, m) else none
    | _ => none)

/-- R512: whether an abort of some units reaches a tile: one that is live, on a floor that is up. -/
def State.reaches (s : State) (us : List Word) : Bool :=
  s.tiles.any (fun q => s.floorUp (tileFloor q.1) && us.any (fun u => unitHas u q.1))

/-- R36, R37, R512, R522, R523, R525: an ABORT of some units. Those that an abort in progress already ends are waited for with it; to
the live rooms of the others it is announced. Of units none of which runs a program it completes at once, and sets no
ABORTED (DESIGN CHOICE, log entry 83: R525 tells only the completion). -/
def State.abortUnits (s : State) (h : CmdHdr) (us : List Word) : State :=
  match s.downFloor us with
  | some f => s.reply h 0x41 0x010C (leBytes 2 f)
  | none =>
    let s := if s.reaches us then s.endLoad 1 else s
    let old := us.flatMap s.abortsOver
    let own := us.filter (fun u => (s.abortsOver u).isEmpty)
    if old.isEmpty && !(s.runsProgram us) then s.reply h 0x41 0 (leBytes 8 0)
    else
      let pairs := own.flatMap (fun u => ((unitRooms u).filter (fun r => s.floorUp (roomFloor r))).map (fun r => (r, u)))
      let s := { s with aborting := s.aborting ++ pairs.filter (fun q => !s.aborting.contains q) }
      s.begin_ h 0x41 (.abort (own ++ old.flatMap (·.1)).eraseDups own (pairs.map (·.1) ++ old.flatMap (·.2.1)).eraseDups
        (old.foldl (fun m q => m ||| q.2.2) 0) 0)

/-- ABORT (R36, R37, R522–R525, R588). -/
def execAbort (h : CmdHdr) (s : State) : Host.Outcome State Fault Refusal :=
  .next (s.decode h ⟨0x41, 0, true, fun p => !(s.isPeer p), none, []⟩ (fun s => s.abortUnits h (s.unitsOf h)))

/-- The command in progress of an identity. -/
def State.cmdOf (s : State) (c : CmdId) : Option Cmd :=
  s.cmds.find? (fun k => k.h.port == c.port && k.h.ring == c.ring && k.h.tag == c.tag)

/-- R522, R523: room r reports quiet for the aborts whose announcements have taken effect in it. -/
def State.roomQuiet (s : State) (r : Nat) : State :=
  let s := { s with cmds := s.cmds.map (fun (k : Cmd) => match k.work with
    | .abort vs own rs m _ =>
      if rs.contains r && !(vs.any (fun u => s.aborting.contains (r, u))) then
        { k with work := .abort vs own (rs.filter (· != r)) m s.pkt }
      else k
    | _ => k) }
  s.abortDone

/-- QUIET_REPORT (R522, R523): once the announcement has taken effect in the room. -/
def execQuietReport (c : CmdId) (r : RoomId) (s : State) : Host.Outcome State Fault Refusal :=
  match s.cmdOf c with
  | some k => match k.work with
    | .abort us _ rs _ _ =>
      if rs.contains r.val && !(us.any (fun u => s.aborting.contains (r.val, u))) then .next (s.roomQuiet r.val) else .next s
    | _ => .next s
  | none => .next s

/-- R523: the quiet limit in ticks: 30 µs where the units lie on one floor, 100 µs otherwise. -/
def quietLimit (us : List Word) : Nat :=
  if us.all (fun u => decide (pathLevel u ≤ 2)) ∧ (us.map pathFloor).eraseDups.length = 1 then 750 else 2500

/-- A mask of numbers below 16. -/
def mask16 (l : List Nat) : Nat := l.eraseDups.foldl (fun m n => m + 2 ^ n) 0

/-- R523, R574: the floors of the rooms not quiet are fenced and reset, and the ABORT completes escalated. -/
def State.escalate (s : State) (us : List Word) (rs : List Nat) (die : Nat) : State :=
  let fs := (List.range 16).filter (fun f => rs.any (fun r => roomFloor r == f))
  let low := fs.headD 0
  let isIt (k : Cmd) : Bool := match k.work with
    | .abort vs _ _ _ _ => vs == us
    | _ => false
  let done := s.cmds.filter isIt
  let s := { s with cmds := s.cmds.filter (fun k => !isIt k) }
  let p := match us with
    | [u] => u
    | _ => modulePath
  let s := s.record (s.unitRec p 0x7C 0 2 5 die (leBytes 2 (mask16 fs) ++
    leBytes 2 (mask16 ((rs.filter (fun r => roomFloor r == low)).map (· % 16)))))
  let s := us.foldl (fun (s : State) (u : Word) => s.event u evEscalated) s
  let s := fs.foldl (fun (s : State) (f : Nat) => s.fenceReset f) s
  done.foldl (fun (s : State) (k : Cmd) => s.finish k 2 (leBytes 2 (mask16 fs) ++ leBytes 2 0 ++ leBytes 4 0xFFFFFFFF)) s

/-- QUIET_LIMIT (R523, R574). -/
def execQuietLimit (c : CmdId) (s : State) : Host.Outcome State Fault Refusal :=
  match s.cmdOf c with
  | some k => match k.work with
    | .abort us _ rs _ _ =>
      let first := (s.cmds.filter (fun (x : Cmd) => match x.work with
        | .abort vs _ _ _ _ => vs == us
        | _ => false)).foldl (fun n (x : Cmd) => min n x.tick) k.tick
      if rs.isEmpty || decide (s.pkt < first + quietLimit us) then .next s else .next (s.escalate us rs k.h.port.val)
    | _ => .next s
  | none => .next s

/-! ### FENCE and FLOOR RESET (R575–R588) -/

/-- The level of a floor. -/
def onFloor (p : Word) : Bool := pathLevel p == 2

/-- FENCE (R575, R576, R588). -/
def execFence (h : CmdHdr) (s : State) : Host.Outcome State Fault Refusal :=
  .next (s.decode h ⟨0x48, 0, false, onFloor, none, []⟩ (fun s =>
    s.moduleCmd h 0x48 (fun s => (s.fence (pathFloor h.unit)).reply h 0x48 0 [])))

/-- FLOOR_RESET (R575, R582, R588): it completes when the floor has rejoined or is benched. -/
def execFloorReset (h : CmdHdr) (env : StartEnv) (s : State) : Host.Outcome State Fault Refusal :=
  .next (s.decode h ⟨0x49, 0, false, onFloor, none, []⟩ (fun s =>
    s.moduleCmd h 0x49 (fun s =>
      let f := pathFloor h.unit
      ((s.begin_ h 0x49 (.floorReset f)).fence f).resetFloor (some env.attempts) f)))

/-- FLOOR_REJOIN (R586, R587): of a floor whose reset has ended, once every live room has stopped. -/
def execFloorRejoin (f : FloorId) (s : State) : Host.Outcome State Fault Refusal := .next (s.rejoin f.val)

/-! ### GEAR (R64–R66, R388, R395) -/

/-- R66, R388, R395: a GEAR to a target gear. -/
def State.gearCmd (s : State) (h : CmdHdr) (g : Nat) : State :=
  match s.change with
  | some c => s.reply h 0x50 0x0500 (leBytes 1 (c.chain.getLastD 0))
  | none =>
    s.moduleCmd h 0x50 (fun s =>
      let s := { s with cgear := BitVec.ofNat 2 g }
      if (match s.throttled with
        | some t => decide (t < g)
        | none => false) then s.reply h 0x50 3 (leBytes 1 s.gear.toNat ++ leBytes 1 g)
      else if s.gear.toNat = g then s.reply h 0x50 0 (leBytes 1 g)
      else
        (s.begin_ h 0x50 (.gear g)).beginGear
          { chain := gearChain s.gear.toNat g, target := none, awaiting := false, since := s.pkt, thermal := false })

/-- GEAR (R64, R66, R388, R395, R511). -/
def execGear (h : CmdHdr) (target : Byte) (s : State) : Host.Outcome State Fault Refusal :=
  .next (s.decode h (.onM 0x50 (badAt (decide (3 < target.toNat)) 16) [byteField 16 1 target.toNat]) (fun s => s.gearCmd h target.toNat))

/-! ### PEER FENCED and PEER RESTORED (R594, R621) -/

/-- R621: whether a module belongs to the started image's gang: its number lies below parameter 1 (R403). -/
def State.inGang (s : State) (n : Nat) : Bool := s.started.isSome && decide (n < (s.params.headD 0).toNat)

/-- PEER_FENCED (R621, R578). -/
def execPeerFenced (h : CmdHdr) (s : State) : Host.Outcome State Fault Refusal :=
  .next (s.decode h ⟨0x60, 0, false, s.isPeer, none, []⟩ (fun s =>
    let n := pathModule h.unit
    let g := s.inGang n
    let s := s.fencePeer n
    (if g then s.endRun else s).reply h 0x60 0 []))

/-- PEER_RESTORED (R621). -/
def execPeerRestored (h : CmdHdr) (s : State) : Host.Outcome State Fault Refusal :=
  .next (s.decode h ⟨0x61, 0, false, s.isPeer, none, []⟩ (fun s =>
    let n := pathModule h.unit
    (if (s.peer n).state = 3 then s.restorePeer n else s).reply h 0x61 0 []))

end Sys2Proof.Machine
end

