-- ==== Sys2Proof/Machine/Image.lean ====
section
/-! DEFINITION. Kreoz images (chapter 13): their container and records (R397–R410), the verifier's report (R414), and the
checks of R415 that need no timing: container, version, signature, target, parameters, encoding, static control flow,
format combinations, allocation and the graph records of the wait-cycle check (R416). -/

namespace Sys2Proof.Machine

/-! ### The container (R397–R400) -/

/-- R399: a directory entry. -/
structure Sect where
  ty : Nat
  var : Nat
  len : Nat
  off : Nat
  deriving DecidableEq, Repr

/-- An image under verification: its bytes, its directory and the module's live-row count (R401). -/
structure Img where
  b : Array Byte
  dir : List Sect
  live : Nat

/-- A field of n bytes at an offset of the image. -/
def Img.rd (m : Img) (a n : Nat) : Nat := leNat ((List.range n).map (fun i => m.b.getD (a + i) 0))

/-- R399: the directory of the bytes of an image. -/
def Img.ofBytes (b : Array Byte) (live : Nat) : Img :=
  let m : Img := ⟨b, [], live⟩
  { m with dir := (List.range (min 64 (m.rd 10 2))).map (fun k =>
      ⟨m.rd (64 + 16 * k) 2, m.rd (66 + 16 * k) 2, m.rd (68 + 16 * k) 4, m.rd (72 + 16 * k) 8⟩) }

/-- R398: GRADE. -/
def Img.grade (m : Img) : Nat := m.rd 12 1
/-- R398: NMOD. -/
def Img.nmod (m : Img) : Nat := m.rd 13 1
/-- R398: PERIOD. -/
def Img.period (m : Img) : Nat := m.rd 20 4
/-- R398: PSPAN. -/
def Img.pspan (m : Img) : Nat := m.rd 24 8
/-- R401: a parameterised image. -/
def Img.param (m : Img) : Bool := m.grade == 0xFF

/-- R401: the section of a type that the module uses. -/
def Img.view (m : Img) (ty : Nat) : Option Sect := m.dir.find? (fun x => x.ty == ty && (x.var == 0 || x.var == m.live))
/-- Its offset. -/
def Img.base (m : Img) (ty : Nat) : Nat := ((m.view ty).map (·.off)).getD 0
/-- Its length. -/
def Img.len (m : Img) (ty : Nat) : Nat := ((m.view ty).map (·.len)).getD 0
/-- A field of a section. -/
def Img.at (m : Img) (ty off n : Nat) : Nat := m.rd (m.base ty + off) n

/-! ### The report (R414) -/

/-- R414: a verifier report. -/
structure Report where
  code : Nat
  sub : Nat
  sect : Nat := 0xFFFF
  pat : Nat := 0xFFFF
  off : Nat := 2 ^ 64 - 1
  x : Nat := 0xFFFF
  y : Nat := 0xFFFF
  addr : Nat := 0xFFFF
  det : Nat := 0xFFFF
  tread : Nat := 2 ^ 64 - 1
  deriving DecidableEq, Repr

/-- R414: its 32 bytes. -/
def Report.bytes (r : Report) : List Byte :=
  leBytes 2 r.code ++ leBytes 2 r.sub ++ leBytes 2 r.sect ++ leBytes 2 r.pat ++ leBytes 8 r.off ++ leBytes 2 r.x ++
    leBytes 2 r.y ++ leBytes 2 r.addr ++ leBytes 2 r.det ++ leBytes 8 r.tread

/-- R414: SUB of a check that has no subcode: all ones. -/
def noSub : Nat := 0xFFFF

/-- A failing location: its place in the image, its logical tile in row-major order, and its report. -/
structure Bad where
  at_ : Nat
  tile : Nat
  r : Report
  deriving DecidableEq, Repr

/-- R414: the failing location with the lowest section offset, and then the lowest logical tile. -/
def leastBad (l : List Bad) : Option Report :=
  (l.foldl (fun (o : Option Bad) b => match o with
    | none => some b
    | some c => if b.at_ < c.at_ ∨ (b.at_ = c.at_ ∧ b.tile < c.tile) then some b else o) none).map (·.r)

/-- A failing record of a section. -/
def Img.bad (m : Img) (code sub ty off : Nat) : Bad :=
  ⟨m.base ty + off, 0, { code := code, sub := sub, sect := ty, off := off }⟩

/-- A list with one element where a condition fails. -/
def failIf (c : Bool) (b : Bad) : List Bad := if c then [b] else []

/-- A failing location that names a logical tile. -/
def Bad.on (b : Bad) (k : Nat) : Bad := { b with tile := k, r := { b.r with x := k % 640, y := k / 640 } }

/-! ### Check 0x0101: the container -/

/-- R400: the section types. -/
def sectTypes : List Nat := [1, 2, 3, 4, 5, 6, 7, 8, 9, 10, 11, 12, 15]
/-- R400: the required ones. -/
def requiredTypes : List Nat := [3, 4, 5, 6, 7, 10, 12, 15]
/-- R400: the variant-capable ones. -/
def variantTypes : List Nat := [3, 4, 5, 6, 7, 8, 9, 10, 11, 12]

/-- R398, R401: a legal header, MAGIC apart. -/
def Img.headerOk (m : Img) : Bool :=
  m.rd 8 2 == 64 && decide (2 ≤ m.rd 10 2) && decide (m.rd 10 2 ≤ 64) && (decide (m.grade ≤ 2) || m.param) &&
  decide (m.nmod ≤ 16) && (if m.param then m.rd 14 2 == 0 else decide (1 ≤ m.rd 14 2) && decide (m.rd 14 2 ≤ 256)) &&
  m.period % 4096 == 0 && decide (1 ≤ m.pspan) && decide (m.pspan ≤ 2 ^ 48) && m.rd 32 8 == m.b.size &&
  m.rd 40 24 == 0

/-- R399: where a section ends. -/
def Sect.stop (x : Sect) : Nat := x.off + x.len

/-- Whether the bytes from a up to b are zero. -/
def Img.zeros (m : Img) (a b : Nat) : Bool := (List.range (b - a)).all (fun i => m.b.getD (a + i) 0 == 0)

/-- R397: the bytes between sections are zero. -/
def Img.gapsOk (m : Img) : Bool :=
  let ends := (64 + 16 * m.dir.length) :: m.dir.map Sect.stop
  ends.all (fun e =>
    let next := ((m.dir.map (·.off)).filter (fun o => decide (e ≤ o))).foldl min m.b.size
    m.dir.any (fun x => decide (x.off < e) && decide (e < x.stop)) || m.zeros e next)

/-- R397, R399, R400, R401: what a directory entry breaks; k is its number. -/
def Img.entryBad (m : Img) (k : Nat) (x : Sect) : Option Nat :=
  let later := m.dir.drop (k + 1)
  let rises := match later with
    | [] => true
    | y :: _ => decide (x.ty < y.ty) || (x.ty == y.ty && decide (x.var < y.var))
  let clear := later.all (fun y => decide (x.stop ≤ y.off) || decide (y.stop ≤ x.off))
  if !rises || !clear || x.off % 64 != 0 || decide (x.off < 64 + 16 * m.dir.length) || decide (m.b.size < x.stop) ||
      (x.ty == 15 && x.stop != m.b.size) then some 3
  else if !(sectTypes.contains x.ty) then some 5
  else if x.var != 0 && (!m.param || !(variantTypes.contains x.ty) || !([118, 116, 112].contains x.var) ||
      m.dir.any (fun y => y.ty == x.ty && y.var == 0)) then some 5
  else none

/-- R400: the types that the image must have. -/
def Img.needs (m : Img) : List Nat :=
  requiredTypes ++ (if m.param then [1] else []) ++ (if m.nmod = 0 then [] else [2])

/-- The first container failure: MAGIC, header, directory. -/
def Img.shell (m : Img) : Option Report :=
  if m.rd 0 4 ≠ 0x495A524B then some { code := 0x0101, sub := 1 }
  else if !m.headerOk then some { code := 0x0101, sub := 2 }
  else match (m.dir.zip (List.range 64)).findSome? (fun q => (m.entryBad q.2 q.1).map (fun c => (q.1, c))) with
  | some (x, c) => some { code := 0x0101, sub := c, sect := x.ty }
  | none =>
    if !m.gapsOk then some { code := 0x0101, sub := 3 }
    else (m.needs.find? (fun t => !(m.dir.any (fun x => x.ty == t)))).map (fun t => { code := 0x0101, sub := 4, sect := t })

/-- R400: the record size of a section type; 1 where it has none. -/
def recSize (ty : Nat) : Nat :=
  match ty with
  | 2 => 16 | 3 => 64 | 4 => 16 | 5 => 8 | 6 => 2048 | 7 => 8 | 8 => 64 | 9 => 128 | 11 => 16 | 12 => 8 | 15 => 128
  | _ => 1

/-- R402: the parameter records: offset, ID, NFIX; `fuel` bounds them. -/
def Img.params (m : Img) : Nat → Nat → List (Nat × Nat × Nat)
  | 0, _ => []
  | fuel + 1, o =>
    if m.len 1 ≤ o then [] else (o, m.at 1 o 2, m.at 1 (o + 2) 2) :: Img.params m fuel (o + 16 + 16 * m.at 1 (o + 2) 2)

/-- All of them. -/
def Img.paramRecs (m : Img) : List (Nat × Nat × Nat) := m.params (m.len 1 / 16 + 1) 0

/-- R400–R410: the reserved bits of a record, as (offset in the record, bytes, mask of the bits that are zero). -/
def reservedOf (ty : Nat) : List (Nat × Nat × Nat) :=
  match ty with
  | 2 => [(12, 4, 0xFFFFFFFF)]
  | 3 => [(27, 1, 0xFF), (32, 32, 2 ^ 256 - 1)]
  | 8 => (List.range 8).map (fun i => (8 * i, 8, 0xFFFFFFFF4800F800))
  | 12 => [(0, 1, 0x88), (1, 1, 0xF0), (6, 2, 0xFFFF)]
  | 15 => [(2, 2, 0xFFFF), (100, 28, 2 ^ 224 - 1)]
  | _ => []

/-- R24, R405: the length of a tile index of the variant of a section: 16 bytes for each logical tile. -/
def Img.indexLen (m : Img) (x : Sect) : Nat :=
  10240 * 4 * (if x.var ≠ 0 then x.var else if m.param then m.live else Config.liveRows (Fin.ofNat 3 m.grade))

/-- R24, R400–R410: sizes and reserved fields of a section, of every variant. A tile index that is shorter than the grid lacks
records, and fails as a size; one that is longer names positions outside R24, which `Img.outside` reports. -/
def Img.sectBad (m : Img) (x : Sect) : List Bad :=
  let z := recSize x.ty
  let mk (sub off : Nat) : Bad := ⟨x.off + off, 0, { code := 0x0101, sub := sub, sect := x.ty, off := off }⟩
  let size := x.len % z == 0 && (x.ty != 2 || x.len == 16 * m.nmod) && (x.ty != 15 || x.len == 128) &&
    (x.ty != 4 || decide (m.indexLen x ≤ x.len)) && (x.ty != 3 || decide (x.len ≤ 64 * 65535))
  failIf (!size) (mk 6 0) ++
  (if (reservedOf x.ty).isEmpty then [] else (List.range (x.len / z)).flatMap (fun i =>
    failIf ((reservedOf x.ty).any (fun q => (m.rd (x.off + z * i + q.1) q.2.1) &&& q.2.2 != 0)) (mk 2 (z * i))))

/-! ### Patterns, tiles and allocation classes (R404–R408) -/

/-- R404: a pattern. -/
structure Pat where
  num : Nat
  prog : Nat
  plen : Nat
  entry : Nat
  desc : Nat
  alloc : Nat
  graph : Nat
  glen : Nat
  shelf : Nat
  amask : BitVec 16
  pipe : Byte
  bmask : Word
  deriving DecidableEq, Repr

/-- Pattern k of the pattern table. -/
def Img.pat (m : Img) (k : Nat) : Pat :=
  let f (o n : Nat) : Nat := m.at 3 (64 * k + o) n
  { num := k, prog := f 0 4, plen := f 4 2, entry := f 6 2, desc := f 8 4, alloc := f 12 4, graph := f 16 4, glen := f 20 2
    shelf := f 22 2, amask := BitVec.ofNat 16 (f 24 2), pipe := BitVec.ofNat 8 (f 26 1), bmask := BitVec.ofNat 32 (f 28 4) }

/-- The pattern table. -/
def Img.pats (m : Img) : List Pat := (List.range (m.len 3 / 64)).map m.pat

/-- R405: the entry of a tile that has a pattern: its logical number, pattern, bases, route and window table. -/
structure TileEnt where
  log : Nat
  pat : Nat
  kbase : Nat
  slbase : Nat
  route : Nat
  rlen : Nat
  win : Nat
  deriving DecidableEq, Repr

/-- The entry of logical tile k, if it has a pattern. -/
def Img.tileEnt (m : Img) (k : Nat) : Option TileEnt :=
  let f (o n : Nat) : Nat := m.at 4 (16 * k + o) n
  if f 0 2 = 0xFFFF then none
  else some { log := k, pat := f 0 2, kbase := f 2 2, slbase := f 4 4, route := f 8 4, rlen := f 12 2, win := f 14 2 }

/-- The tiles that have a pattern, in row-major order. -/
def Img.tileEnts (m : Img) : List TileEnt := (List.range (m.len 4 / 16)).filterMap m.tileEnt

/-- R406: a cellar block record: KIND, MODEL, NUM, and whether its other bits are zero. -/
structure Block where
  kind : Nat
  model : Nat
  num : Nat
  clean : Bool
  deriving DecidableEq, Repr

/-- Block b of an allocation class. -/
def Img.block (m : Img) (alloc b : Nat) : Block :=
  let w := m.at 10 (alloc + 8 * b) 8
  let k := w % 4
  { kind := k, model := w / 16 % 16, num := w / 256 % 2 ^ 32
    clean := w / 4 % 4 == 0 && w / 2 ^ 40 == 0 && (k == 1 || w / 16 % 16 == 0) &&
      (k == 1 || (k == 2 && w / 2 ^ 24 == 0) || w / 256 % 2 ^ 32 == 0) }

/-- R406: an attic range record. -/
structure Range where
  off : Nat
  first : Nat
  last : Nat
  owner : Nat
  tfirst : Nat
  tlast : Nat
  deriving DecidableEq, Repr

/-- R406: the attic ranges of an allocation class. -/
def Img.ranges (m : Img) (alloc : Nat) : List Range :=
  (List.range (min (m.at 10 (alloc + 512) 4) (m.len 10 / 32))).map (fun i =>
    let o := alloc + 520 + 32 * i
    ⟨o, m.at 10 o 2, m.at 10 (o + 2) 2, m.at 10 (o + 4) 2, m.at 10 (o + 6) 6, m.at 10 (o + 12) 6⟩)

/-- R405: a shelf range of a shelf set. -/
def Img.shelves (m : Img) (k : Nat) : List Shelf :=
  if k = 0xFFFF then []
  else (List.range 8).filterMap (fun i =>
    let w := BitVec.ofNat 64 (m.at 8 (64 * k + 8 * i) 8)
    if w.getLsbD 31 then some ⟨fld w 0 11, fld w 16 11, !(w.getLsbD 28), w.getLsbD 29⟩ else none)

/-- R285: word i of a window table. -/
def Img.window (m : Img) (win i : Nat) : DWord := if win = 0xFFFF then 0 else BitVec.ofNat 64 (m.at 9 (128 * win + 8 * i) 8)

/-- R408: the rests of the image: record number, room and rest. -/
def Img.rests (m : Img) : List (Nat × Nat × Rest) :=
  (List.range (m.len 11 / 16)).map (fun i =>
    let f (o n : Nat) : Nat := m.at 11 (16 * i + o) n
    (i, f 0 1, { first := f 10 6, len := f 4 4, ramp := f 8 2, t1 := f 1 1, t2 := f 2 1, t3 := f 3 1 }))

/-- R407: the model list. -/
def Img.models (m : Img) : List (DWord × Nat) :=
  (List.range m.nmod).map (fun k => (BitVec.ofNat 64 (m.at 2 (16 * k) 8), m.at 2 (16 * k + 8) 4))

/-- References and indices of a pattern that lie within their sections (check 0x0101, subcode 6). -/
def Img.patRefsOk (m : Img) (p : Pat) : Bool :=
  decide (1 ≤ p.plen) && decide (p.plen ≤ 1024) && decide (8 * (p.prog + p.plen) ≤ m.len 5) &&
  decide (2048 * (p.desc + 1) ≤ m.len 6) && decide (8 * (p.graph + p.glen) ≤ m.len 12) &&
  (p.shelf == 0xFFFF || decide (64 * (p.shelf + 1) ≤ m.len 8)) &&
  decide (p.alloc + 520 ≤ m.len 10) && decide (p.alloc + 520 + 32 * m.at 10 (p.alloc + 512) 4 ≤ m.len 10)

/-- R406: the ranges of a class are legal and in ascending order. -/
def rangesOk : List Range → Bool
  | [] => true
  | r :: l => decide (r.first ≤ r.last) && decide (r.last ≤ 2047) && decide (r.tfirst ≤ r.tlast) &&
    (match l with
     | [] => true
     | q :: _ => decide (r.first < q.first) || (r.first == q.first && decide (r.tfirst ≤ q.tfirst))) && rangesOk l

/-- R13, R406: the reserved fields of the allocation class of a pattern. -/
def Img.classRsv (m : Img) (p : Pat) : List Bad :=
  (List.range 64).flatMap (fun b => failIf (!(m.block p.alloc b).clean) (m.bad 0x0101 2 10 (p.alloc + 8 * b))) ++
  failIf (m.at 10 (p.alloc + 516) 4 != 0) (m.bad 0x0101 2 10 (p.alloc + 512)) ++
  (m.ranges p.alloc).flatMap (fun r => failIf (m.at 10 (r.off + 18) 14 != 0) (m.bad 0x0101 2 10 r.off))

/-- R13, R401: the same for the grade variants that the module does not use: the classes that a pattern of the variant
names and that lie within its pool. -/
def Img.otherRsv (m : Img) : List Bad :=
  ([118, 116, 112].filter (fun v => v != m.live && m.dir.any (fun x => (x.ty == 3 || x.ty == 10) && x.var == v))).flatMap (fun v =>
    let n : Img := { m with live := v }
    (n.pats.filter (fun p => decide (p.alloc + 520 + 32 * n.at 10 (p.alloc + 512) 4 ≤ n.len 10))).flatMap n.classRsv)

/-- R404–R406: the records that the module uses. -/
def Img.refsBad (m : Img) : List Bad :=
  m.pats.flatMap (fun p =>
    failIf (!(m.patRefsOk p)) { m.bad 0x0101 6 3 (64 * p.num) with r := { (m.bad 0x0101 6 3 (64 * p.num)).r with pat := p.num } } ++
    if !(m.patRefsOk p) then [] else
      m.classRsv p ++
      failIf (!(rangesOk (m.ranges p.alloc))) (m.bad 0x0101 6 10 (p.alloc + 512))) ++
  m.tileEnts.flatMap (fun t =>
    failIf (!(decide (64 * (t.pat + 1) ≤ m.len 3) && decide (1 ≤ t.rlen) && decide (t.rlen ≤ 512) &&
      decide (8 * (t.route + t.rlen) ≤ m.len 7) && (t.win == 0xFFFF || decide (128 * (t.win + 1) ≤ m.len 9))))
      ((m.bad 0x0101 6 4 (16 * t.log)).on t.log)) ++
  m.paramRecs.flatMap (fun q =>
    failIf (decide (m.len 1 < q.1 + 16 + 16 * q.2.2)) (m.bad 0x0101 6 1 q.1) ++
    failIf (m.at 1 (q.1 + 12) 4 != 0) (m.bad 0x0101 2 1 q.1) ++
    (List.range q.2.2).flatMap (fun i => failIf (m.at 1 (q.1 + 16 + 16 * i + 12) 4 != 0) (m.bad 0x0101 2 1 (q.1 + 16 + 16 * i))))

/-- Check 0x0101. -/
def Img.container (m : Img) : Option Report :=
  match m.shell with
  | some r => some r
  | none =>
    leastBad (m.dir.flatMap m.sectBad ++ m.otherRsv ++ if m.needs.all (fun t => (m.view t).isSome) then m.refsBad else [])

/-! ### Checks 0x0102 to 0x0105 -/

/-- Check 0x0102 (R401, R514, R515). -/
def Img.version (m : Img) (minor : Nat) : Option Report :=
  if m.rd 4 2 ≠ 1 then some { code := 0x0102, sub := 1 }
  else if minor < m.rd 6 2 ∨ 1 < m.rd 6 2 then some { code := 0x0102, sub := 2 }
  else if m.rd 6 2 = 0 && (m.param || m.dir.any (fun x => x.ty == 1 || x.var != 0)) then some { code := 0x0102, sub := 3 }
  else none

/-- Check 0x0103 (R410). -/
def Img.signature (m : Img) (key : Nat → Option (BitVec 768)) : Option Report :=
  let o := m.base 15
  match (if 3 < m.rd o 2 then none else key (m.rd o 2)) with
  | none => some { code := 0x0103, sub := 1, sect := 15, off := 0 }
  | some k =>
    let sig := key768 ((List.range 96).map (fun i => m.b.getD (o + 4 + i) 0))
    if ecdsaOk k sig (sha384 (m.b.toList.take o)) then none else some { code := 0x0103, sub := 2, sect := 15, off := 4 }

/-- R402: the record of a parameter. -/
def Img.paramRec (m : Img) (id : Nat) : Option Nat := (m.paramRecs.find? (fun q => q.2.1 == id)).map (·.1)

/-- R24: the entries of a tile index beyond the grid, which name logical positions outside it (0x0104 subcode 5). -/
def Img.outside (m : Img) : List Bad :=
  (m.dir.filter (fun x => x.ty == 4 && decide (m.indexLen x < x.len))).map (fun x =>
    ⟨x.off + m.indexLen x, 0, { code := 0x0104, sub := 5, sect := 4, off := m.indexLen x }⟩)

/-- Check 0x0104: `floorBad` tells the logical tiles that lie on benched floors. -/
def Img.target (m : Img) (grade count : Nat) (floorBad : Nat → Bool) : Option Report :=
  if !m.param && m.grade != grade then some { code := 0x0104, sub := 1 }
  else
    let countBad := if m.param then
        (match m.paramRec 1 with
         | some o => decide (count < m.at 1 (o + 4) 4) || decide (m.at 1 (o + 8) 4 < count)
         | none => false)
      else m.rd 14 2 != count
    if countBad then some { code := 0x0104, sub := 2, det := 1 }
    else match m.needs.find? (fun t => (m.view t).isNone) with
    | some t => some { code := 0x0104, sub := 3, sect := t }
    | none => leastBad (m.outside ++ m.tileEnts.flatMap (fun t => failIf (floorBad t.log)
        (let b := (m.bad 0x0104 4 4 (16 * t.log)).on t.log
         { b with r := { b.r with pat := t.pat } })))

/-- R402, R515, R517: whether the command or the fuses supply a parameter: a command of minor version 0 brings only the first of
the five that R402 takes from it. -/
def paramGiven (minor id : Nat) : Bool := id != 0 && (decide (1 ≤ minor) || decide (id < 2) || decide (5 < id))

/-- R402: the value of a parameter: 1 to 5 from the command, 6 and 7 from the fuses. -/
def paramValue (ps : List Word) (live grade id : Nat) : Nat :=
  if id = 6 then live else if id = 7 then grade else (ps.getD (id - 1) 0).toNat

/-- R403: value × MUL + ADD of a fix-up record at an offset. -/
def Img.fixValue (m : Img) (v o : Nat) : Int :=
  (v : Int) * (BitVec.ofNat 32 (m.at 1 (o + 4) 4)).toInt + (BitVec.ofNat 32 (m.at 1 (o + 8) 4)).toInt

/-- Word a of a pattern's program. -/
def Img.word (m : Img) (p : Pat) (a : Nat) : DWord := BitVec.ofNat 64 (m.at 5 (8 * (p.prog + a)) 8)

/-- A place of a pattern's program: its address, its words and what they decode to. -/
structure Place where
  a : Nat
  w0 : DWord
  w1 : DWord
  ins : Option (Guard × TileInstr)
  deriving DecidableEq, Repr

/-- Whether the place holds an engine instruction. -/
def Place.eng (q : Place) : Bool := isEngineWord q.w0
/-- The address after it. -/
def Place.next (q : Place) : Nat := q.a + if q.eng then 2 else 1

/-- The instructions of a program from an address on, one after another. -/
def Img.sweep (m : Img) (p : Pat) : Nat → Nat → List Place
  | 0, _ => []
  | k + 1, a =>
    if p.plen ≤ a then []
    else
      let w0 := m.word p a
      let w1 := if isEngineWord w0 && decide (a + 1 < p.plen) then m.word p (a + 1) else 0
      let q : Place := ⟨a, w0, w1, decodeInstr w0 w1⟩
      q :: Img.sweep m p k q.next

/-- The instructions of a pattern's program. -/
def Img.code (m : Img) (p : Pat) : List Place := m.sweep p p.plen 0

/-- R402, R403: whether a pattern's program has an LI at an address. -/
def Img.liAt (m : Img) (p : Pat) (a : Nat) : Bool :=
  (m.code p).any (fun q => q.a == a && (match q.ins with
    | some (_, .li _ _) => true
    | _ => false))

/-- Check 0x0105 (R401–R403): `given` says which parameters are supplied. -/
def Img.parameters (m : Img) (given : Nat → Bool) (value : Nat → Nat) : Option Report :=
  let recs := m.paramRecs
  let l := recs.flatMap (fun q =>
    let o := q.1
    let id := q.2.1
    let b (sub off : Nat) : Bad :=
      let c := m.bad 0x0105 sub 1 off
      { c with r := { c.r with det := id } }
    let lo := m.at 1 (o + 4) 4
    let hi := m.at 1 (o + 8) 4
    failIf (id == 0 || decide (7 < id) || (recs.any (fun r => r.2.1 == id && decide (r.1 < o))) ||
      (!m.param && decide (id < 6))) (b 1 o) ++
    failIf (!(given id) || decide (value id < lo) || decide (hi < value id) || (m.param && id == 1 && (decide (lo < 257) || decide (16384 < hi))))
      (b 2 o) ++
    (List.range q.2.2).flatMap (fun i =>
      let fo := o + 16 + 16 * i
      let pn := m.at 1 fo 2
      let a := m.at 1 (fo + 2) 2
      let v := m.fixValue (value id) fo
      let c := b 3 fo
      failIf (decide (m.len 3 / 64 ≤ pn) || !(m.liAt (m.pat pn) a) || decide (v < 0) ||
        decide (4294967296 ≤ v)) { c with r := { c.r with pat := pn, addr := a } }))
  match leastBad l with
  | some r => some r
  | none => if m.param && (m.paramRec 1).isNone then some { code := 0x0105, sub := 2, sect := 1, det := 1 } else none

/-- R403: the image with its fix-ups applied. -/
def Img.fixed (m : Img) (value : Nat → Nat) : Img :=
  { m with b := m.paramRecs.foldl (fun (b : Array Byte) q => (List.range q.2.2).foldl (fun (b : Array Byte) i =>
      let fo := q.1 + 16 + 16 * i
      let p := m.pat (m.at 1 fo 2)
      let a := m.base 5 + 8 * (p.prog + m.at 1 (fo + 2) 2)
      (List.range 4).foldl (fun (b : Array Byte) j =>
        b.setIfInBounds (a + j) (BitVec.ofInt 32 (m.fixValue (value q.2.1) fo) >>> (8 * j)).toNat) b) b) m.b }

/-! ### Check 0x0201: encoding -/

/-- R92: the scalar opcodes. -/
def scalarOpcodes : List Nat :=
  [0x00, 0x01, 0x02, 0x10, 0x11, 0x12, 0x13, 0x14, 0x15, 0x16, 0x17, 0x18, 0x19, 0x1A, 0x1B, 0x1C, 0x20, 0x22, 0x23, 0x24,
    0x25, 0x26, 0x27, 0x28, 0x30, 0x31, 0x34, 0x40, 0x41, 0x48, 0x49, 0x50, 0x51, 0x52, 0x58, 0x59, 0x60, 0x64, 0x65, 0x68,
    0x69]

/-- The subcode of check 0x0201 that an instruction fails. -/
def Place.encBad (q : Place) (plen : Nat) (amask : BitVec 16) : Option Nat :=
  let o := (opcOf q.w0).toNat
  let sub := (subOf q.w0).toNat
  if !(if q.eng then (engOfOpc (opcOf q.w0)).isSome else scalarOpcodes.contains o) then some 1
  else if q.eng && (q.a % 2 == 1 || decide (plen < q.next)) then some 3
  else if (o == 0x68 || o == 0x69) && (q.w0.getLsbD 55) then some 4
  else if ((o == 0x30 || o == 0x31 || o == 0x34) && decide (6 ≤ sub)) || (o == 0x59 && decide (5 ≤ sub)) then some 5
  else match q.ins with
  | none => some 2
  | some (_, .setf f) => if amask.getLsbD f.toNat then some 6 else none
  | some (_, .bara _ f) => if amask.getLsbD f.toNat then none else some 6
  | some (_, .reds _ _ _ _ f) => if amask.getLsbD f.toNat then none else some 6
  | some (_, .engine _ h _) => if h.den && amask.getLsbD h.df.toNat then some 6 else none
  | some _ => none

/-- The failing location of an instruction of a pattern. -/
def Img.badAt (m : Img) (code sub : Nat) (p : Pat) (a : Nat) : Bad :=
  let b := m.bad code sub 5 (8 * (p.prog + a))
  { b with r := { b.r with pat := p.num, addr := a } }

/-- The words of a tile's route schedule; every address from RLEN on holds END (R312). -/
def Img.route (m : Img) (t : TileEnt) : Tbl DWord :=
  (List.range 512).map (fun i =>
    (i, if i < t.rlen then BitVec.ofNat 64 (m.at 7 (8 * (t.route + i)) 8) else (3 : DWord) <<< 62))

/-- R314: a route word with at most two passes and runs of one tread: what R317 asks of the order of words is the same. -/
def shortRoute (w : DWord) : DWord :=
  if rwKind w = 0 then w &&& ~~~((0xFFF : DWord) <<< 34)
  else if rwKind w = 1 ∧ 1 ≤ fld w 9 16 then (w &&& ~~~((0xFFFF : DWord) <<< 9)) ||| ((1 : DWord) <<< 9)
  else w

/-- R314: the last word of a LOOP's body must be a STEP that follows it. -/
def loopEndOk (ws : Tbl DWord) (a : Nat) (w : DWord) : Bool :=
  rwKind w != 1 || (decide (a < fld w 0 9) && rwKind (Tbl.get 0 ws (fld w 0 9)) == 0)

/-- Follows a route to its END; the fault of the sequencer, if there is one. -/
def routeWalk : Nat → Tile → Option TFault
  | 0, _ => none
  | k + 1, t =>
    match routeEnd t with
    | (_, some f) => some f
    | (t', none) => if t'.rseq.stopped then none else routeWalk k t'

/-- R313–R317: the first address of a route schedule with an illegal word. -/
def routeIllegal (ws : Tbl DWord) (rlen : Nat) : Option Nat :=
  match (ws.take rlen).find? (fun q => (rwKind q.2 == 0 && !(stepLegal q.2)) || !(loopEndOk ws q.1 q.2) ||
      (rwKind q.2 == 1 && fld q.2 25 37 != 0) || (rwKind q.2 == 2 && (fld q.2 22 40 != 0 || decide (2047 < fld q.2 0 11 + fld q.2 11 11))) ||
      (rwKind q.2 == 3 && fld q.2 0 62 != 0)) with
  | some q => some q.1
  | none =>
    let t := { Tile.reset with routes := ws.map (fun q => (q.1, shortRoute q.2)) }
    match routeTake 8 t 0 with
    | (_, some f) => some (f.ra.getD 0)
    | (t, none) => if t.rseq.stopped then none else ((routeWalk 4096 t).map (fun f => f.ra.getD 0))

/-- A descriptor table of the pool. -/
def Img.descs (m : Img) (k : Nat) : Tbl Word :=
  ((List.range 512).map (fun i => (i, BitVec.ofNat 32 (m.at 6 (2048 * k + 4 * i) 4)))).filter (fun q => q.2 != 0)

/-- Handles that a program rewrites by DSW. -/
def rewritten (code : List Place) : List Nat :=
  code.filterMap (fun q => match q.ins with
    | some (_, .dsw _ h _) => some h.toNat
    | _ => none)

/-- The engine instructions of a program with the operands that the image's descriptors give them. -/
def engineOps (code : List Place) (ds : Tbl Word) : List (Place × EngOp × EngHdr × DWord × List Latched) :=
  code.filterMap (fun q => match q.ins with
    | some (_, .engine op h p) => some (q, op, h, p, (usedHandles op h).map (fun x => latch ds x.1 x.2))
    | _ => none)

/-- Whether one of the handles is that of an operand, or of its scale or index descriptor. -/
def Latched.changed (l : Latched) (rw : List Nat) : Bool :=
  rw.contains l.h || (l.scale.any (fun x => rw.contains x.1)) || (l.index.any (fun x => rw.contains x.1))

/-- Check 0x0201 on a pattern. -/
def Img.encodingOf (m : Img) (live : Nat → Bool) (p : Pat) : List Bad :=
  let code := m.code p
  let ds := m.descs p.desc
  let rw := rewritten code
  let used := (engineOps code ds).flatMap (fun q => q.2.2.2.2.map (·.h))
  code.flatMap (fun q => (q.encBad p.plen p.amask).toList.map (fun sub =>
    let b := m.badAt 0x0201 sub p q.a
    if sub = 6 then
      let f := match q.ins with
        | some (_, .setf f) => f.toNat
        | some (_, .bara _ f) => f.toNat
        | some (_, .reds _ _ _ _ f) => f.toNat
        | some (_, .engine _ h _) => h.df.toNat
        | _ => 0xFFFF
      { b with r := { b.r with det := f } }
    else b)) ++
  (List.range 64).flatMap (fun h =>
    let l := latch ds 0 h
    -- a descriptor that a DSW completes must still hold zero in its reserved fields (R13)
    (if rw.contains h then (if l.desc.rsvOk then [] else [2])
     else if l.data.all (· == 0) && !(used.contains h) then []
     else match l.check live with
      | some (0, c) => [c]
      | _ => []).map (fun c =>
        let b := m.bad 0x0201 8 6 (2048 * p.desc + 32 * h)
        { b with r := { b.r with pat := p.num, det := c } }))

/-! ### Check 0x0202: what the code alone shows (R98–R100) -/

/-- R99: the instructions that may not end a body. -/
def isControl (i : TileInstr) : Bool :=
  match i with
  | .br _ => true
  | .call _ => true
  | .ret => true
  | .loop _ _ => true
  | .loopi _ _ => true
  | .halt => true
  | _ => false

/-- R99: the bodies of a program's loops: the LOOP's address, the first and the last address. -/
def bodies (code : List Place) : List (Nat × Nat × Nat) :=
  code.filterMap (fun q => match q.ins with
    | some (_, .loop _ e) => some (q.a, q.a + 1, e.toNat)
    | some (_, .loopi _ e) => some (q.a, q.a + 1, e.toNat)
    | _ => none)

/-- Subcodes 1 to 3 of check 0x0202. -/
def Img.flowOf (m : Img) (p : Pat) : List Bad :=
  let code := m.code p
  let start (a : Nat) : Bool := code.any (fun q => q.a == a)
  let inside (a f e : Nat) : Bool := decide (f ≤ a) && decide (a ≤ e)
  failIf (!(start p.entry)) (let b := m.badAt 0x0202 1 p p.entry
                             { b with r := { b.r with sect := 3, off := 64 * p.num }, at_ := m.base 3 + 64 * p.num }) ++
  code.flatMap (fun q =>
    let goes (t : Nat) (br : Bool) : List Bad :=
      if !(start t) then [m.badAt 0x0202 1 p q.a]
      else failIf (br && (bodies code).any (fun x => inside t x.2.1 x.2.2 && !(inside q.a x.2.1 x.2.2))) (m.badAt 0x0202 2 p q.a)
    let body (e : Nat) : List Bad :=
      if !(start e) || decide (e ≤ q.a) then [m.badAt 0x0202 1 p q.a]
      else failIf (code.any (fun x => x.a == e && (match x.ins with
        | some (_, i) => isControl i
        | none => false))) (m.badAt 0x0202 3 p q.a)
    match q.ins with
    | some (_, .br t) => goes t.toNat true
    | some (_, .call t) => goes t.toNat false
    | some (_, .loop _ e) => body e.toNat
    | some (_, .loopi _ e) => body e.toNat
    | _ => [])

/-! ### Check 0x0203: format combinations -/

/-- R147: a destination in the own cellar whose bounds cover a weight block of the image. -/
def Img.weightDest (m : Img) (p : Pat) (op : EngOp) (l : Latched) : Bool :=
  let d := l.desc
  isDest op l.role && d.loc == 1 && d.idim == 7 &&
  (List.range (d.bhi / 128 + 1 - d.blo / 128)).any (fun i => (m.block p.alloc (d.blo / 128 + i)).kind == 1)



/-! ### Check 0x0304: the wait-cycle check (R409, R416) -/

/-- R409: a graph record. -/
structure GraphRec where
  off : Nat
  wagent : Nat
  sagent : Nat
  flag : Nat
  waddr : Nat
  saddr : Nat
  deriving DecidableEq, Repr

/-- The graph records of a pattern. -/
def Img.graph (m : Img) (p : Pat) : List GraphRec :=
  (List.range p.glen).map (fun i =>
    let o := 8 * (p.graph + i)
    let w := m.at 12 o 1
    ⟨o, w % 8, w / 16 % 8, m.at 12 (o + 1) 1, m.at 12 (o + 2) 2, m.at 12 (o + 4) 2⟩)

/-- R409: the agent of an instruction: 0 the sequencer, 1 to 4 the engines. -/
def agentOf (i : TileInstr) : Nat :=
  match i with
  | .engine op _ _ => engQueue op + 1
  | _ => 0

/-- The flag on which an instruction waits. -/
def waitsOn (i : TileInstr) : Option Nat :=
  match i with
  | .waitf f _ => some f.toNat
  | .engine _ h _ => if h.wen then some h.wf.toNat else none
  | _ => none

/-- The local flag that an instruction sets. -/
def setsFlag (i : TileInstr) : Option Nat :=
  match i with
  | .setf f => some f.toNat
  | .engine _ h _ => if h.den then some h.df.toNat else none
  | _ => none

/-- The instruction at an address. -/
def insAt (code : List Place) (a : Nat) : Option TileInstr := (code.find? (fun q => q.a == a)).bind (fun q => q.ins.map (·.2))

/-- R409, R416: whether a record agrees with the code. -/
def GraphRec.ok (r : GraphRec) (code : List Place) (amask : BitVec 16) : Bool :=
  (match insAt code r.waddr with
   | some i => agentOf i == r.wagent && waitsOn i == some r.flag
   | none => false) &&
  (if r.sagent = 7 then r.saddr == 0 && amask.getLsbD r.flag
   else !(amask.getLsbD r.flag) && (match insAt code r.saddr with
     | some i => agentOf i == r.sagent && setsFlag i == some r.flag
     | none => false))

/-- R416: the node of an instruction by its agent: 2a for what the sequencer issues at address a, 2a + 1 for the queue
instruction that it dispatches. -/
def waitNode (agent a : Nat) : Nat := if agent = 0 then 2 * a else 2 * a + 1

end Sys2Proof.Machine
end

