-- ==== Sys2Proof/Machine/Timing.lean ====
section
/-! DEFINITION. The timing model of the loader's verifier (R411, R413): the paths of a pattern's program, its engines'
treads, and the scheduled mesh of the whole image; and the checks of R415 that rest on them. -/

namespace Sys2Proof.Machine

/-! ### Paths of a program (R413) -/

/-- An engine instruction on a path: its queue, its entry with its start tread, and the handles whose descriptors the
path does not know. -/
structure EngRun where
  q : Nat
  e : QEntry
  start : Nat
  unk : List Nat
  deriving DecidableEq, Repr

/-- The tread in which it completes (R106). -/
def EngRun.done (r : EngRun) : Nat := r.start + r.e.dur

/-- A scheduled event of R103: its tread, kind (0 HALT, 1 barrier arrival, 2 stair transfer), value, and address. -/
structure SchedEv where
  tread : Nat
  kind : Nat
  value : Nat
  pc : Nat
  deriving DecidableEq, Repr

/-- How a path ends. -/
inductive PathEnd where
  | open_ | halted | trapped
  | bad (sub addr : Nat)
  deriving DecidableEq, Repr

/-- A path through a program: the sequencer, with `none` for a value that depends on data; the tread of its next issue;
and what has been issued, newest first. `old` gives for each DSW its tread, the word it wrote and what stood there, `none` where
the path does not know it; an access of `accs` is `none` where its address depends on data. `free` is the tread from which each queue is free, `waits` the register and flag
writes under way as (issue tread, tread from which they are visible), `reds` the reductions whose wait has not come. -/
structure Path where
  pc : Nat
  next : Nat
  regs : Tbl (Option Word)
  preds : Tbl (Option Bool)
  desc : Tbl Word
  old : List (Nat × Nat × Option Word)
  unk : List Nat
  link : Option Nat
  linkLoops : Nat
  loops : List LoopEnt
  free : Tbl Nat
  issues : List (Nat × Nat)
  evs : List SchedEv
  runs : List EngRun
  accs : List (Nat × Option Acc)
  waits : List (Nat × Nat)
  reds : List (Nat × Nat)
  restWaits : List Nat
  fin : PathEnd

/-- R83: a path at program tread 0; s30 and s31 depend on the tile. -/
def Path.start (entry : Nat) (ds : Tbl Word) : Path :=
  { pc := entry, next := 0, regs := [(30, none), (31, none)], preds := [], desc := ds, old := [], unk := [], link := none
    linkLoops := 0, loops := [], free := [], issues := [], evs := [], runs := [], accs := [], waits := [], reds := []
    restWaits := [], fin := .open_ }

/-- A register on a path. -/
def Path.reg (p : Path) (r : BitVec 5) : Option Word := if r = 0 then some 0 else Tbl.get (some 0) p.regs r.toNat
/-- Writes a register. -/
def Path.setReg (p : Path) (r : BitVec 5) (v : Option Word) : Path :=
  if r = 0 then p else { p with regs := Tbl.set (some 0) p.regs r.toNat v }
/-- A predicate on a path. -/
def Path.pred (p : Path) (i : BitVec 3) : Option Bool := Tbl.get (some false) p.preds i.toNat
/-- Writes a predicate. -/
def Path.setPred (p : Path) (i : BitVec 3) (v : Option Bool) : Path := { p with preds := Tbl.set (some false) p.preds i.toNat v }

/-- R100, R101: how many loops a path has entered since the CALL in force, or at all where there is none. -/
def Path.since (p : Path) : Nat := if p.link.isSome then p.loops.length - p.linkLoops else p.loops.length

/-- R85, R99, R100: passes on to the next instruction. -/
def Path.advance (p : Path) (n words treads : Nat) : Path :=
  let r := loopNext 2 (p.loops.take p.since) p.pc (p.pc + words)
  { p with pc := r.1, loops := r.2 ++ p.loops.drop p.since, next := n + treads }

/-- A result is known where both operands are. -/
def bothKnown {α β γ : Type} (f : α → β → γ) (left : Option α) (right : Option β) : Option γ :=
  left.bind (fun x => right.map (f x))

/-- R97: a wait on flag f that proceeds in tread n, by which the reductions that it ends write their registers. -/
def Path.reduced (p : Path) (f n : Nat) : Path :=
  { p with reds := p.reds.filter (fun x => x.2 != f)
           waits := (p.reds.filter (fun x => x.2 == f)).map (fun x => (x.1, n + 1)) ++ p.waits }

/-- R81, R92: word k of the descriptor table as it stands in tread n: a DSW is written in the tread two after its issue. -/
def Path.descAt (p : Path) (h k n : Nat) : Option Word :=
  match (p.old.filter (fun x => x.2.1 == k && decide (n ≤ x.1 + 2))).getLast? with
  | some x => x.2.2
  | none => if p.unk.contains h then none else some (Tbl.get 0 p.desc k)

/-- R81, R92: a DSW issued in tread n; without a value the path no longer knows the descriptor. -/
def Path.setDesc (p : Path) (h k n : Nat) (v : Option Word) : Path :=
  let q := { p with old := (n, k, if p.unk.contains h then none else some (Tbl.get 0 p.desc k)) :: p.old }
  match v with
  | some v => { q with desc := Tbl.set 0 p.desc k v }
  | none => { q with unk := h :: p.unk }

/-- R81: the attic access of an LD or ST issued in tread n; none where its address is not an attic word. -/
def Path.touch (p : Path) (n : Nat) (wr : Bool) (addr : Option Word) : Path :=
  match addr with
  | some a => if scalarAddrOk a then { p with accs := (n + 2, some ⟨agSeq, wr, false, a.toNat, 4⟩) :: p.accs } else p
  | none => { p with accs := (n + 2, none) :: p.accs }

/-- R104–R106: an engine instruction issued in tread n. -/
def Path.engine (p : Path) (n : Nat) (op : EngOp) (h : EngHdr) (w : DWord) : Path :=
  let d : Dispatch := { op := op, hdr := h, param := w, pc := p.pc, tread := n, k := 0, ib := 0 }
  let ops := (usedHandles op h).map (fun x => latch p.desc x.1 x.2)
  let q := engQueue op
  let s := max (n + 3) (Tbl.get 0 p.free q)
  let e : QEntry := { d := d, ops := ops, entry := n + 2, dur := durationOf d ops, start := some s, bad := false, poi := false, run := .zero }
  let p := (writtenRegs d).foldl (fun (p : Path) r => p.setReg (BitVec.ofNat 5 r) none) p
  let p := if h.wen then p.reduced h.wf.toNat s else p
  { p with runs := ⟨q, e, s, p.unk⟩ :: p.runs, free := Tbl.set 0 p.free q (s + e.dur) }.advance n 2 1

/-- R99: a LOOP with a count issued in tread n. -/
def Path.loop (p : Path) (code : List Place) (n count e : Nat) : Path :=
  if count = 0 then
    { p with pc := ((code.find? (fun q => q.a == e)).map Place.next).getD (e + 1), next := n + 2 }
  else if 2 ≤ p.loops.length then { p with fin := .bad 4 p.pc }
  else { p with pc := p.pc + 1, loops := ⟨p.pc + 1, e, count⟩ :: p.loops, next := n + 1 }

/-- What an instruction that is guarded on does in tread n; a LOOP whose count depends on data gives a path for every
count up to the span. A flag that a BARA will set counts as awaiting a write until the arrival has left in t + 2, no longer
(DESIGN CHOICE, log entry 85: R121 does not say when it ceases to), as the wait on it is counted for itself. -/
def Path.issue (p : Path) (code : List Place) (span n : Nat) (i : TileInstr) : List Path :=
  let r := p.reg
  let go (p : Path) : List Path := [p.advance n 1 1]
  let later (p : Path) (v : Nat) : Path := { p with waits := (n, n + v) :: p.waits }
  match i with
  | .nop => go p
  | .halt => [{ p with evs := ⟨n, 0, 0, p.pc⟩ :: p.evs, fin := .halted }]
  | .trap _ => [{ p with fin := .trapped }]
  | .alu op rd ra rb => go (p.setReg rd (bothKnown (aluFn op) (r ra) (r rb)))
  | .mul rd ra rb => go (later (p.setReg rd (bothKnown (· * ·) (r ra) (r rb))) 3)
  | .alui op rd ra imm => go (p.setReg rd ((r ra).map (fun a => aluFn (AluOfImm op) a imm)))
  | .li rd imm => go (p.setReg rd (some imm))
  | .cmp pd ra rb cc => go (p.setPred pd ((bothKnown (condHolds cc) (r ra) (r rb)).bind id))
  | .cmpi pd ra imm cc => go (p.setPred pd ((r ra).bind (fun a => condHolds cc a imm)))
  | .plog pd pa pb fn => go (p.setPred pd ((bothKnown (plogFn fn) (p.pred pa) (p.pred pb)).bind id))
  | .ld rd ra imm => go (later ((p.touch n false ((r ra).map (· + imm))).setReg rd none) 4)
  | .st ra _ imm => go (p.touch n true ((r ra).map (· + imm)))
  | .dsw rb h w => go (p.setDesc h.toNat (h.toNat * 8 + w.toNat) n (r rb))
  | .dsr rd h w => go (p.setReg rd (p.descAt h.toNat (h.toNat * 8 + w.toNat) n))
  | .setf _ => go (later p 3)
  | .clrf _ => go (later p 3)
  | .waitf f _ => go (p.reduced f.toNat n)
  | .bara b _ => go (later { p with evs := ⟨n + 2, 1, b.toNat, p.pc⟩ :: p.evs } 3)
  | .reds rd _ _ b f =>
    go (later { p.setReg rd none with evs := ⟨n + 2, 1, b.toNat, p.pc⟩ :: p.evs, reds := (n, f.toNat) :: p.reds } 3)
  | .br t => [{ p with pc := t.toNat, loops := loopsKept t.toNat (p.loops.take p.since) ++ p.loops.drop p.since, next := n + 2 }]
  | .call t =>
    if p.link.isSome then [{ p with fin := .bad 5 p.pc }]
    else [{ p with pc := t.toNat, link := some (p.pc + 1), linkLoops := p.loops.length, next := n + 2 }]
  | .ret =>
    match p.link with
    | none => [{ p with fin := .bad 5 p.pc }]
    | some a => if p.linkLoops < p.loops.length then [{ p with fin := .bad 5 p.pc }] else [{ p with pc := a, link := none, next := n + 2 }]
  | .loop ra e =>
    match r ra with
    | some c => [p.loop code n c.toNat e.toNat]
    | none => (List.range (span + 2)).map (fun c => p.loop code n c e.toNat)
  | .loopi c e => [p.loop code n c.toNat e.toNat]
  | .engine op h w => [p.engine n op h w]

/-- R121: the tread of an issue that is due in tread n: the wake tread where n is rested. -/
def wakeOf (rests : List Rest) (n : Nat) : Nat :=
  match rests.find? (fun x => decide (x.first ≤ n) && decide (n < x.first + x.len)) with
  | some x => x.first + x.len
  | none => n

/-- R90, R411, R413: the next instruction of a path; where its guard depends on data, both paths are followed. What the rests put
off to the span or past it is not issued before the span ends. -/
def Path.step (p : Path) (code : List Place) (rests : List Rest) (span : Nat) : List Path :=
  match code.find? (fun q => q.a == p.pc) with
  | none => [{ p with fin := .bad 6 p.pc }]
  | some q =>
    match q.ins with
    | none => [{ p with fin := .bad 6 p.pc }]
    | some (g, i) =>
      let n := wakeOf rests p.next
      let isWait := match i with
        | .waitf _ _ => true
        | _ => false
      if span ≤ n then [{ p with next := n, restWaits := if isWait && n != p.next then p.next :: p.restWaits else p.restWaits }] else
      let p := { p with issues := (n, p.pc) :: p.issues }
      let on (p : Path) : Path := if isWait && n != p.next then { p with restWaits := p.next :: p.restWaits } else p
      let off (p : Path) : List Path := match i with
        | .br _ => [p.advance n 1 2]
        | .call _ => [p.advance n 1 2]
        | .ret => [p.advance n 1 2]
        | i => [p.advance n i.words 1]
      if !g.en then (on p).issue code span n i
      else match p.pred g.p with
      | some v => if v != g.neg then (on p).issue code span n i else off p
      | none => (on (p.setPred g.p (some (!g.neg)))).issue code span n i ++ off (p.setPred g.p (some g.neg))

/-- Whether a path ends, or has reached the span. -/
def Path.past (p : Path) (span : Nat) : Bool := p.fin != .open_ || decide (span ≤ p.next)

/-- All paths of a program, each to its end or to the span; every round passes at least one tread of each. -/
def allPaths (code : List Place) (rests : List Rest) (span : Nat) : Nat → List Path → List Path → List Path
  | 0, live, done => done ++ live
  | k + 1, live, done =>
    let l := live.flatMap (fun p => p.step code rests span)
    match l.filter (fun p => !(p.past span)) with
    | [] => done ++ l
    | open_ => allPaths code rests span k open_ (done ++ l.filter (fun p => p.past span))

/-! ### What a path uses in each tread -/

/-- The use of a tile in one tread: attic accesses, whether an access whose address depends on data is among them, stair bytes of the draw core and the haul engine, stair bytes that R217
moves into the tread, MACs, vector treads, and the (queue, address) of the instructions at work. -/
structure Use where
  accs : List Acc
  blind : Bool
  draw : Nat
  haul : Nat
  moved : Nat
  mac : Nat
  vec : Nat
  who : List (Nat × Nat)
  deriving DecidableEq, Repr

/-- A tread without use. -/
def Use.none_ : Use := ⟨[], false, 0, 0, 0, 0, 0, []⟩

/-- The use of two agents in a tread. -/
def Use.add (a b : Use) : Use :=
  ⟨a.accs ++ b.accs, a.blind || b.blind, a.draw + b.draw, a.haul + b.haul, a.moved + b.moved, a.mac + b.mac, max a.vec b.vec, a.who ++ b.who⟩

/-- R374: its metered energy at G2, in fJ, mesh words apart. -/
def Use.energy (u : Use) : Nat := 16 * u.mac + 200 * (u.draw + u.haul) + 800 * u.vec

/-- The engine of queue q in tread n, on a tile whose memories are zero. -/
def engineStep (q : Nat) (e : QEntry) (x n : Nat) : StepOut :=
  match q with
  | 0 => pressStep .reset [] e x n
  | 1 => drawStep .reset [] e x n
  | 2 => vecStep .reset [] e x n
  | _ => haulStep .reset e x n

/-- R217: the stair bytes that a draw instruction moves into tread n: those of the calibration slot in the prefetch tread,
and those held over it in the tread after. -/
def movedBytes (e : QEntry) (x n : Nat) : Nat :=
  if isPrefetch n then (drawStep .reset [] e x n).stairDraw - (drawStep .reset [] e x 1).stairDraw
  else if n % 4096 = 0 then (drawStep .reset [] e x n).stairDraw - (drawStep .reset [] { e with run := { e.run with post := [] } } x n).stairDraw
  else 0

/-- Descriptor words whose bounds hold no address: BLO is the last line and BHI the first. -/
def noBounds (w : List Word) : List Word :=
  (w.set 1 (w.getD 1 0 ||| (0xFFF80000 : Word))).set 7 (w.getD 7 0 &&& ~~~(0x1FFF : Word))

/-- Descriptor words whose bounds hold every line. -/
def allBounds (w : List Word) : List Word :=
  (w.set 1 (w.getD 1 0 &&& (0x7FFFF : Word))).set 7 (w.getD 7 0 ||| (0x1FFF : Word))

/-- R418: an operand with new bounds for the accesses that the verifier cannot know: those whose address depends on data, of the
data and the scales of an indirect operand, and those of a descriptor that a DSW has changed in a way the path does not know. -/
def Latched.unsure (bounds : List Word → List Word) (l : Latched) (unk : List Nat) : Latched :=
  let off (h : Nat) (w : List Word) : List Word := if unk.contains h || l.desc.idim ≤ 4 then bounds w else w
  { l with data := off l.h l.data
           scale := l.scale.map (fun x => (x.1, if unk.contains l.h then bounds x.2 else off x.1 x.2))
           index := l.index.map (fun x => (x.1, if unk.contains l.h || unk.contains x.1 then bounds x.2 else x.2)) }

/-- The treads of an engine instruction. Its accesses are those that are known (R418); what it moves over the stair and whether
it reaches the attic do not depend on the others' addresses (R106), which stand as if their bounds held every line. -/
def EngRun.uses (r : EngRun) : List (Nat × Use) :=
  let sure := r.e.ops.map (fun l => l.unsure noBounds r.unk)
  let open_ := r.e.ops.map (fun l => l.unsure allBounds r.unk)
  let body := ((List.range r.e.dur).foldl (fun (a : (Run × Run) × List (Nat × Use)) x =>
    let e := { r.e with run := a.1.1, ops := open_ }
    let n := r.start + x
    let o := engineStep r.q e x n
    let k := engineStep r.q { r.e with run := a.1.2, ops := sure } x n
    let accs := k.accs ++ k.writes.map MemWr.acc
    let u : Use := {
      accs := accs
      blind := decide (sure ≠ open_) && (o.accs ++ o.writes.map MemWr.acc).any (fun a => !a.cellar)
      draw := o.stairDraw
      haul := o.stairHaul
      moved := if r.q = 1 then movedBytes e x n else 0
      mac := o.mac
      vec := 0
      who := [(r.q, r.e.d.pc)] }
    ((o.run, k.run), (n, u) :: a.2)) ((r.e.run, r.e.run), [])).2
  if r.q = 2 then body ++ (List.range r.e.dur).map (fun x => (r.start + 1 + x, { Use.none_ with vec := 1 })) else body

/-- What a path uses, by tread. -/
def Path.use (p : Path) : Tbl Use :=
  let l := p.runs.reverse.flatMap EngRun.uses ++ p.accs.reverse.map (fun a =>
    (a.1, { Use.none_ with accs := a.2.toList, blind := a.2.isNone }))
  l.foldl (fun (t : Tbl Use) x => Tbl.put t x.1 ((Tbl.get .none_ t x.1).add x.2)) []

/-- R103: the scheduled events of a path, in order. -/
def Path.events (p : Path) (use : Tbl Use) (span : Nat) : List SchedEv :=
  p.evs.reverse ++ (use.filter (fun u => decide (0 < u.2.draw + u.2.haul) && decide (u.1 < span))).map (fun u =>
    ⟨u.1, 2, u.2.draw + u.2.haul, ((u.2.who.find? (fun w => w.1 == 1 || w.1 == 3)).map (·.2)).getD 0⟩)

/-! ### Patterns with the rests of their rooms -/

/-- A pattern as the tiles of rooms with the same rests run it: its code and its paths with their use; `used` tells a pattern
that some tile runs from one that none does, which is checked as in a room without rests. -/
structure Group where
  p : Pat
  used : Bool
  rests : List Rest
  code : List Place
  paths : List (Path × Tbl Use)

/-- R118, R121: the rests of a room. -/
def Img.restsOf (m : Img) (room : Nat) : List Rest := (m.rests.filter (fun q => q.2.1 == room)).map (fun q => q.2.2)

/-- The groups of an image, given each tile's room. -/
def Img.groups (m : Img) (room : Nat → Nat) : List Group :=
  let mine := (m.tileEnts.map (fun t => (t.pat, m.restsOf (room t.log)))).eraseDups
  let idle := ((m.pats.map (·.num)).filter (fun k => !(mine.any (fun q => q.1 == k)))).map (fun k => (k, ([] : List Rest)))
  (mine ++ idle).map (fun k =>
    let p := m.pat k.1
    let code := m.code p
    let ps := allPaths code k.2 m.pspan (m.pspan + 1) [Path.start p.entry (m.descs p.desc)] []
    ⟨p, mine.contains k, k.2, code, ps.map (fun q => (q, q.use))⟩)

/-- The engine instructions of a pattern with their operands: as the image's descriptors give them, those apart that a DSW
changes, and as each path of it latches them, those apart that the path does not know. -/
def Group.engines (g : Group) (m : Img) : List (Nat × EngOp × EngHdr × List Latched × List Latched) :=
  let rw := rewritten g.code
  (engineOps g.code (m.descs g.p.desc)).map (fun q => (q.1.a, q.2.1, q.2.2.1, q.2.2.2.2, q.2.2.2.2.filter (fun l => !(l.changed rw)))) ++
  (g.paths.flatMap (fun q => q.1.runs.reverse)).map (fun r =>
    (r.e.d.pc, r.e.d.op, r.e.d.hdr, r.e.ops, r.e.ops.filter (fun l => !(l.changed r.unk))))

/-- Subcodes 4 to 7 of check 0x0202. A path of a finite image that ends in a TRAP has issued no HALT (R411). -/
def Img.pathFlow (m : Img) (g : Group) : List Bad :=
  g.paths.flatMap (fun q => match q.1.fin with
    | .bad sub a => [m.badAt 0x0202 sub g.p a]
    | .halted => []
    | _ => failIf (m.period == 0) (m.badAt 0x0202 7 g.p q.1.pc))

/-! ### Descriptors as the paths latch them (checks 0x0201 and 0x0203) -/

/-- Subcode 8 of check 0x0201: an operand that a path latches and that fails R146. -/
def Img.latchedBad (m : Img) (live : Nat → Bool) (g : Group) : List Bad :=
  (g.paths.flatMap (fun q => q.1.runs.reverse)).flatMap (fun r =>
    (r.e.ops.filter (fun l => !(l.changed r.unk))).flatMap (fun l => (l.check live).toList.map (fun c =>
      let b := m.badAt 0x0201 8 g.p r.e.d.pc
      { b with r := { b.r with det := c.2 } })))

/-- Check 0x0201 (R91, R112, R146, R313–R317). -/
def Img.encoding (m : Img) (live : Nat → Bool) (gs : List Group) : Option Report :=
  leastBad (m.pats.flatMap (m.encodingOf live) ++ gs.flatMap (m.latchedBad live) ++
    m.tileEnts.flatMap (fun t => (routeIllegal (m.route t) t.rlen).toList.map (fun a =>
      let b := (m.bad 0x0201 7 7 (8 * (t.route + a))).on t.log
      { b with r := { b.r with pat := t.pat, addr := a } })))

/-- Check 0x0203: the operands that an engine does not accept; it has no subcode. -/
def Img.formatsOf (m : Img) (g : Group) : List Bad :=
  (g.engines m).flatMap (fun q =>
    failIf (q.2.2.2.1.length == q.2.2.2.2.length &&
        q.2.2.2.1.any (fun l => !(accepts q.2.1 q.2.2.1 q.2.2.2.1 l && scaleLocOk q.2.1 l))) (
      let b := m.badAt 0x0203 noSub g.p q.1
      { b with r := { b.r with det := engQueue q.2.1 + 1 } }))

/-! ### Check 0x0204: allocation -/

/-- Whether every line from a to b lies in a range live from tread f to tread l. -/
def covered (rs : List Range) (a b f l : Nat) : Bool :=
  (List.range (b + 1 - a)).all (fun i => rs.any (fun r =>
    decide (r.first ≤ a + i) && decide (a + i ≤ r.last) && decide (r.tfirst ≤ f) && (r.tlast == 2 ^ 48 - 1 || decide (l ≤ r.tlast))))

/-- R299: whether a descriptor's bounds lie within allocations over the life of an instruction. -/
def Img.placed (m : Img) (p : Pat) (rs : List Range) (r : EngRun) (d : Desc) : Bool :=
  match d.loc with
  | 0 => covered rs d.blo d.bhi r.e.entry r.done
  | 1 => (List.range (d.bhi / 128 + 1 - d.blo / 128)).all (fun i =>
      let k := (m.block p.alloc (d.blo / 128 + i)).kind
      k == 1 || k == 2)
  | _ => true

/-- The descriptors of a latched operand. -/
def Latched.descs (l : Latched) : List Desc := l.desc :: (l.sdesc.toList ++ l.idesc.toList)

/-- Subcode 1 of check 0x0204. -/
def Img.boundsOf (m : Img) (g : Group) : List Bad :=
  let rs := m.ranges g.p.alloc
  g.paths.flatMap (fun q => q.1.runs.reverse.flatMap (fun r =>
    (r.e.ops.filter (fun l => !(l.changed r.unk))).flatMap (fun l =>
      failIf (l.static.isSome || !(l.descs.all (m.placed g.p rs r))) (
        let b := m.badAt 0x0204 1 g.p r.e.d.pc
        { b with r := { b.r with det := l.h, tread := r.e.entry } }))))

/-- Subcodes 2, 3 and 4 of check 0x0204 on a pattern. -/
def Img.allocOf (m : Img) (g : Group) : List Bad :=
  let p := g.p
  let rs := m.ranges p.alloc
  let pb (b : Bad) : Bad := { b with r := { b.r with pat := p.num } }
  let clash (a b : Range) : Bool :=
    decide (a.first ≤ b.last) && decide (b.first ≤ a.last) && decide (a.tfirst ≤ b.tlast) && decide (b.tfirst ≤ a.tlast)
  let sh := m.shelves p.shelf
  let lines (x : Shelf) : Bool := decide (x.first ≤ x.last) && decide (x.last ≤ 2047) &&
    rs.any (fun r => decide (r.first ≤ x.first) && decide (x.last ≤ r.last) && r.tfirst == 0 && r.tlast == 2 ^ 48 - 1)
  rs.flatMap (fun r => failIf (rs.any (fun x => decide (r.off < x.off) && clash r x)) (pb (m.bad 0x0204 2 10 r.off))) ++
  (List.range 64).flatMap (fun b =>
    let k := m.block p.alloc b
    failIf (k.kind == 3 || (k.kind == 1 && decide (m.nmod ≤ k.model))) (pb (m.bad 0x0204 3 10 (p.alloc + 8 * b)))) ++
  (g.engines m).flatMap (fun q => failIf (q.2.2.2.2.any (m.weightDest p q.2.1)) (m.badAt 0x0204 3 p q.1)) ++
  failIf (sh.any (fun x => !(lines x) || (sh.filter (fun y => decide (x.first ≤ y.last) && decide (y.first ≤ x.last))).length != 1))
    (pb (m.bad 0x0204 4 8 (64 * p.shelf)))

/-- R407: resolved slice numbers of a tile's weight blocks (subcode 3). -/
def Img.slicesOf (m : Img) (t : TileEnt) : List Bad :=
  let p := m.pat t.pat
  (List.range 64).flatMap (fun b =>
    let k := m.block p.alloc b
    failIf (k.kind == 1 && decide (k.model < m.nmod) && decide (((m.models.map (·.2)).getD k.model 0) ≤ k.num + t.slbase))
      (let x := (m.bad 0x0204 3 10 (p.alloc + 8 * b)).on t.log
       { x with r := { x.r with pat := p.num } }))

/-- R13, R285: whether a window entry is well formed; its reserved bit is zero in an entry that is not valid too. -/
def windowOk (w : DWord) (z : DWord) : Bool :=
  let v := fld z 31 1 == 1
  let edge := fld z 29 1 == 1
  let cel := fld z 26 1 == 1
  fld z 30 1 == 0 &&
  (!v || (decide (fld z 0 13 ≤ fld z 13 13) && (cel || decide (fld z 13 13 ≤ 2047)) && !(cel && fld z 28 1 == 1) &&
    (if edge then fld w 4 28 == 0 else pathValid (BitVec.ofNat 32 (fld w 0 32)) && decide (pathLevel (BitVec.ofNat 32 (fld w 0 32)) ≤ 3))))

/-- Words 0 and 1 of entry i of a window table. -/
def Img.winEntry (m : Img) (win i : Nat) : DWord × DWord :=
  (BitVec.ofNat 64 (fld (m.window win i) 0 32), BitVec.ofNat 64 (fld (m.window win i) 32 32))

/-- Subcode 6 of check 0x0204. -/
def Img.windowsOf (m : Img) : List Bad :=
  (List.range (m.len 9 / 128)).flatMap (fun k => (List.range 16).flatMap (fun i =>
    failIf (!(windowOk (m.winEntry k i).1 (m.winEntry k i).2)) (m.bad 0x0204 6 9 (128 * k + 8 * i))))

/-- R286: whether a window table admits an access of a source tile to a line. -/
def Img.admits (m : Img) (win src : Nat) (cellar wr : Bool) (a : Nat) : Bool :=
  (List.range 16).any (fun i =>
    let w := BitVec.ofNat 32 (fld (m.winEntry win i).1 0 32)
    let z := (m.winEntry win i).2
    fld z 31 1 == 1 && fld z 29 1 == 0 && unitHas w src && (fld z 26 1 == 1) == cellar &&
      (if wr then fld z 28 1 == 1 else fld z 27 1 == 1) && decide (fld z 0 13 ≤ a) && decide (a ≤ fld z 13 13))

/-- Subcode 5 of check 0x0204: the lines of a tile's scheduled remote accesses, those apart that index values choose (R418); `log`
gives a physical tile's logical number. -/
def Img.remotesOf (m : Img) (phys : Nat → Nat) (log : Nat → Option Nat) (g : Group) (t : TileEnt) : List Bad :=
  (g.engines m).flatMap (fun q =>
    (q.2.2.2.2.filter (fun l => decide (2 ≤ l.desc.loc))).flatMap (fun l =>
      let d := l.desc
      let lines := if d.idim ≤ 4 then [] else ((List.range (d.rows * (rowBytes d / 32))).filterMap (haulAddr l .zero)).map (·.toNat / 32)
      let win := match ((dtileOf d.rtile).bind log).bind m.tileEnt with
        | some u => u.win
        | none => 0xFFFF
      failIf (!(lines.all (m.admits win (phys t.log) (d.loc == 3) (l.role == 0)))) (
        let x := (m.badAt 0x0204 5 g.p q.1).on t.log
        { x with r := { x.r with det := l.h } })))

/-- The tiles of a group: those that run its pattern in a room with its rests. -/
def Group.tiles (g : Group) (m : Img) (phys : Nat → Nat) : List TileEnt :=
  if g.used then m.tileEnts.filter (fun t => t.pat == g.p.num && m.restsOf (tileRoom (phys t.log)) == g.rests) else []

/-! ### Check 0x0304: waits on a path (R416) -/

/-- R416: the instructions that a path issues, in the order in which it first issues them. -/
def Path.order (p : Path) : List Nat := (p.issues.reverse.map (·.2)).eraseDups

/-- R416: the waits-on edges of a node, `order` being the instructions of a path in the order of their issue. -/
def waitEdges (code : List Place) (order : List Nat) (recs : List GraphRec) (n : Nat) : List Nat :=
  let a := n / 2
  let before := if order.contains a then (order.takeWhile (· != a)).reverse else []
  let mine := ((insAt code a).map agentOf).getD 0
  let own := if n % 2 = 0 then (before.head?.map (2 * ·)).toList
    else 2 * a :: ((before.find? (fun b => (insAt code b).map agentOf == some mine)).map (2 * · + 1)).toList
  own ++ (recs.filter (fun r => waitNode r.wagent r.waddr == n && r.sagent != 7)).map (fun r => waitNode r.sagent r.saddr)

/-- The nodes that some nodes reach; `fuel` bounds the search. -/
def reach (next : Nat → List Nat) : Nat → List Nat → List Nat → List Nat
  | 0, _, seen => seen
  | k + 1, todo, seen =>
    match (todo.flatMap next).eraseDups.filter (fun a => !seen.contains a) with
    | [] => seen
    | new => reach next k new (seen ++ new)

/-- R416: of each cycle of the waits of a path, the record with the lowest WADDR. -/
def cyclesOf (code : List Place) (recs : List GraphRec) (order : List Nat) : List GraphRec :=
  let from_ (r : GraphRec) : List Nat :=
    let z := waitNode r.sagent r.saddr
    reach (waitEdges code order recs) 2048 [z] [z]
  let on := (recs.filter (fun r => r.sagent != 7)).map (fun r => (r, from_ r))
  let turns (x y : GraphRec × List Nat) : Bool :=
    x.2.contains (waitNode y.1.wagent y.1.waddr) && y.2.contains (waitNode x.1.wagent x.1.waddr)
  (on.filter (fun x => turns x x && on.all (fun y => !(turns x y && turns y y) || decide (x.1.waddr ≤ y.1.waddr)))).map (·.1)

/-- Check 0x0304 on a pattern. -/
def Img.waitsOf (m : Img) (g : Group) : List Bad :=
  let p := g.p
  let code := g.code
  let recs := m.graph p
  let bad (sub off : Nat) : Bad :=
    let b := m.bad 0x0304 sub 12 off
    { b with r := { b.r with pat := p.num } }
  let waits := code.filterMap (fun q => q.ins.bind (fun i => (waitsOn i.2).map (fun f => (q.a, f))))
  let shape := recs.flatMap (fun r =>
    let twin := recs.find? (fun x => x.waddr == r.waddr && x.flag == r.flag && decide (x.off < r.off))
    let b := bad (match twin with
      | some _ => if p.amask.getLsbD r.flag then 1 else 3
      | none => 1) r.off
    let order := recs.all (fun x => decide (r.off ≤ x.off) || decide (x.waddr < r.waddr) ||
      (x.waddr == r.waddr && decide (x.flag ≤ r.flag)))
    failIf (!(r.ok code p.amask) || twin.isSome || !order) { b with r := { b.r with addr := r.waddr, det := r.flag } })
  let missing := (waits.filter (fun w => !(recs.any (fun r => r.waddr == w.1 && r.flag == w.2)))).map (fun w =>
    let b := bad 1 (8 * p.graph)
    { b with r := { b.r with addr := w.1, det := w.2 } })
  let cycles := (g.paths.flatMap (fun q => cyclesOf code recs q.1.order)).map (fun r =>
    let b := bad 2 r.off
    { b with r := { b.r with addr := r.waddr, det := r.flag } })
  shape ++ missing ++ cycles

/-! ### Checks 0x0301, 0x0303 and 0x0305 -/

/-- The first place at which two lists of events differ. -/
def firstDiff : List SchedEv → List SchedEv → Option (Option SchedEv × Option SchedEv)
  | [], [] => none
  | a :: l, b :: r => if a.tread = b.tread ∧ a.kind = b.kind ∧ a.value = b.value then firstDiff l r else some (some a, some b)
  | [], b :: _ => some (none, some b)
  | a :: _, [] => some (some a, none)

/-- Check 0x0301 (R103): paths that end in a TRAP run no further. -/
def Img.pathTiming (m : Img) (g : Group) : List Bad :=
  let ls := (g.paths.filter (fun q => q.1.fin != .trapped)).map (fun q => (q.1.evs.reverse, (q.1.events q.2 m.pspan).drop q.1.evs.length))
  match ls with
  | [] => []
  | x :: l => l.flatMap (fun y =>
      ((firstDiff x.1 y.1).or (firstDiff x.2 y.2)).toList.map (fun d =>
        let e := (d.2.or d.1).getD ⟨0, 0, 0, 0⟩
        let b := m.badAt 0x0301 noSub g.p e.pc
        { b with r := { b.r with det := ((d.2.bind (fun _ => d.1)).map (·.pc)).getD 0xFFFF, tread := e.tread } }))

/-- R297: the first tread of a run of 4,096 consecutive treads with a bank in use in each; `run` treads end before n. An access
whose address depends on data takes a slot of some bank. -/
def noIdle : Tbl Use → Nat → Nat → Option Nat
  | [], _, _ => none
  | (n, u) :: l, prev, run =>
    if !u.blind && u.accs.all (fun a => a.cellar) then noIdle l n 0
    else
      let run := if n = prev + 1 then run + 1 else 1
      if 4096 ≤ run then some (n - 4095) else noIdle l n run

/-- Check 0x0303 on a group. -/
def Img.stairs (m : Img) (g : Group) : List Bad :=
  g.paths.flatMap (fun q =>
    let mk (sub n queue : Nat) (u : Use) : Bad :=
      let b := m.badAt 0x0303 sub g.p (((u.who.find? (fun w => w.1 == queue)).or u.who.head?).map (·.2) |>.getD 0)
      { b with r := { b.r with tread := n } }
    q.2.flatMap (fun u =>
      failIf (isSlot u.1 && decide (0 < u.2.haul)) (mk 1 u.1 3 u.2) ++
      failIf (decide (0 < u.2.haul) && decide (0 < u.2.moved)) (mk 2 u.1 3 u.2) ++
      failIf (decide (32 < u.2.draw + u.2.haul)) (mk 3 u.1 3 u.2) ++
      failIf (bankFault u.2.accs).isSome (mk 4 u.1 0 u.2)) ++
    (noIdle q.2 0 0).toList.map (fun n => mk 5 n 0 (Tbl.get .none_ q.2 n)))

/-- R121: whether a path breaks the rule at a rest's first tread. The flag of a done field awaits its write up to the tread in
which the instruction completes. -/
def Path.breaksRest (p : Path) (first : Nat) : Bool :=
  p.runs.any (fun r => decide (r.e.d.tread < first) && (decide (first < r.done) || (r.e.d.hdr.den && first == r.done))) ||
  p.waits.any (fun w => decide (w.1 < first) && decide (first < w.2)) ||
  p.reds.any (fun w => decide (w.1 < first)) || p.restWaits.contains first

/-- Check 0x0305: rests that break R121 on a path of a pattern of the room (subcode 1), or that overlap, or whose ramp is
longer than the rest (subcode 2). -/
def Img.restBad (m : Img) (gs : List Group) : List Bad :=
  m.rests.flatMap (fun q =>
    let x := q.2.2
    let b (sub : Nat) : Bad := m.bad 0x0305 sub 11 (16 * q.1)
    let mine := gs.filter (fun g => g.used && g.rests == m.restsOf q.2.1)
    failIf (mine.any (fun g => g.paths.any (fun z => z.1.breaksRest x.first))) (
      { b 1 with r := { (b 1).r with tread := x.first } }) ++
    failIf (decide (x.len < x.ramp) || m.rests.any (fun y => y.2.1 == q.2.1 && decide (y.1 < q.1) &&
      decide (y.2.2.first < x.first + x.len) && decide (x.first < y.2.2.first + y.2.2.len))) (b 2))

/-! ### The mesh of the whole image (check 0x0302) -/

/-- A tile of the mesh model: its entry, its physical tile, the tiles at its ports with whether a hatch lies between, its
route sequencer, and the rests of its room. -/
structure MeshTile where
  t : TileEnt
  phys : Nat
  room : Nat
  ports : List (Option (Nat × Bool))
  v : Tile
  rests : List Rest

/-- The state of the mesh model: its tiles, what each tile's outputs drove in the last three treads as the treads in which
the words set out, newest first; failures; words driven, by tread × 256 + room; and the words in force. -/
structure MeshSim where
  tiles : List MeshTile
  hist : List (Tbl (List (Option Nat)))
  bads : List Bad
  driven : Tbl Nat
  words : List (List Nat)

/-- The tile that a physical tile is, if it has a pattern. -/
def MeshSim.hasTile (x : MeshSim) (u : Nat) : Bool := x.tiles.any (fun q => q.phys == u)

/-- R308, R326: the word at an input in tread n. -/
def MeshSim.input (x : MeshSim) (q : MeshTile) (d n : Nat) : Option Nat :=
  match (q.ports.getD d none) with
  | none => none
  | some (u, hatch) =>
    if hatch && n % 4096 == 2 then none
    else (Tbl.get [] (x.hist.getD (if hatch then 2 else 0) []) u).getD (opp d) none

/-- One tread of a tile of the mesh model: its outputs and its failures. -/
def MeshSim.tile (x : MeshSim) (m : Img) (n : Nat) (q : MeshTile) : List (Option Nat) × List Bad :=
  let inp (d : Nat) : Option Nat := x.input q d n
  let mk (sub : Nat) : Bad :=
    let b := (m.bad 0x0302 sub 7 (8 * (q.t.route + q.v.rseq.stepAddr))).on q.t.log
    { b with r := { b.r with pat := q.t.pat, addr := q.v.rseq.stepAddr, tread := n } }
  let rested := q.rests.any (fun r => decide (r.first ≤ n) && decide (n < r.first + r.len))
  match q.v.rseq.step with
  | none => ([none, none, none, none], failIf ([0, 1, 2, 3].any (fun d => (inp d).isSome)) (mk 1) ++ failIf rested (mk 8))
  | some w =>
    let src (k : Nat) : Option Nat := if k = 0 then none else if k ≤ 4 then inp (k - 1) else some n
    let takes (d : Nat) : Bool := [0, 1, 2, 3].any (fun o => rwOut w o == d + 1) || rwDst w 0 == d + 1 || rwDst w 1 == d + 1
    let hatch (d : Nat) : Bool := ((q.ports.getD d none).map (·.2)).getD false
    let writes := [0, 1].flatMap (fun k =>
      let s := rwDst w k
      if s = 0 then []
      else match inp (s - 1) with
      | none => if hatch (s - 1) && n % 4096 == 2 then [mk 7] else [mk 2]
      | some b => if 255 < n - b ∨ n = b then [mk 4] else failIf (rwAge w k != n - b) (mk 3))
    let outs := [0, 1, 2, 3].flatMap (fun o =>
      if rwOut w o = 0 then []
      else match q.ports.getD o none with
      | none => [mk 5]
      | some (u, _) => failIf (!(x.hasTile u)) (mk 5) ++ failIf (hatch o && n % 4096 == 4095) (mk 6))
    let twice := decide (rwDst w 0 != 0) && decide (rwDst w 1 != 0) && q.v.rseq.wx == q.v.rseq.wy
    (([0, 1, 2, 3].map (fun o => src (rwOut w o))),
      failIf ([0, 1, 2, 3].any (fun d => (inp d).isSome && !(takes d))) (mk 1) ++ writes ++ outs ++
      failIf (rested && (fld w 0 18 != 0 || fld w 60 1 != 0)) (mk 8) ++ failIf twice (mk 9))

/-- One tread of the mesh model. -/
def MeshSim.step (m : Img) (x : MeshSim) (n : Nat) : MeshSim :=
  let rs := x.tiles.map (fun q => (q, x.tile m n q))
  let outs : Tbl (List (Option Nat)) := rs.foldl (fun (o : Tbl (List (Option Nat))) r => Tbl.set [] o r.1.phys r.2.1) []
  { tiles := x.tiles.map (fun q => { q with v := (routeEnd q.v).1 })
    hist := (outs :: x.hist).take 3
    bads := x.bads ++ rs.flatMap (fun r => r.2.2)
    driven := rs.foldl (fun (d : Tbl Nat) r =>
      let c := (r.2.1.filter (·.isSome)).length
      let k := 256 * n + r.1.room
      if c = 0 then d else Tbl.put d k (Tbl.get 0 d k + c)) x.driven
    words := (x.tiles.map (fun q => if q.v.rseq.step.isSome then q.v.rseq.stepAddr else 512)) :: x.words }

/-- The mesh model through the span. -/
def MeshSim.run (m : Img) (x : MeshSim) : MeshSim := (List.range m.pspan).foldl (MeshSim.step m) x

/-- R312: the mesh model at program tread 0. -/
def Img.mesh (m : Img) (phys : Nat → Nat) (ports : Nat → List (Option (Nat × Bool))) : MeshSim :=
  { tiles := m.tileEnts.map (fun t =>
      { t := t, phys := phys t.log, room := tileRoom (phys t.log), ports := ports (phys t.log)
        v := (routeTake 8 { Tile.reset with routes := m.route t } 0).1, rests := m.restsOf (tileRoom (phys t.log)) })
    hist := [], bads := [], driven := [], words := [] }

/-- R411: in a finite image every route reaches its END before the span. -/
def MeshSim.unended (x : MeshSim) (m : Img) : List Bad :=
  if m.period ≠ 0 then []
  else (x.tiles.filter (fun q => !q.v.rseq.stopped)).map (fun q =>
    let b := (m.bad 0x0202 7 7 (8 * (q.t.route + q.v.rseq.stepAddr))).on q.t.log
    { b with r := { b.r with pat := q.t.pat, addr := q.v.rseq.stepAddr } })

/-! ### Check 0x0306: power (R417) -/

/-- The greatest energy of a group's paths in a tread. -/
def Group.energy (g : Group) (n : Nat) : Nat := (g.paths.map (fun q => (Tbl.get .none_ q.2 n).energy)).foldl max 0

/-- R374, R413: the metered energy of a room in program tread n, in fJ; `ks` counts the room's tiles of each group. -/
def roomEnergy (ks : List (Group × Nat)) (driven : Tbl Nat) (room n : Nat) : Nat :=
  (ks.map (fun k => k.2 * k.1.energy n)).foldl (· + ·) (100 * Tbl.get 0 driven (256 * n + room))

/-- R378, R380: the first tread in which the credit of a room falls below zero. -/
def creditBad (energy : Nat → Nat) (span : Nat) : Option Nat :=
  ((List.range span).foldl (fun (a : Nat × Option Nat) n =>
    let d := a.1 - 1200 * Config.budget 2 + energy n
    (d, if a.2.isNone && decide (fullCredit 2 < d) then some n else a.2)) (0, none)).2

/-- R387, R417: the treads of spine events of the image's rests: each rest entry and each ramp start. -/
def Img.spineTreads (m : Img) : List Nat :=
  m.rests.flatMap (fun q => [q.2.2.first, q.2.2.first + q.2.2.len - q.2.2.ramp])

/-- R417: the treads over which the energy of an image is computed: the span, and in a finite image also those in which
instructions that were queued within it still run. -/
def Img.horizon (m : Img) (gs : List Group) : Nat :=
  if m.period ≠ 0 then m.pspan
  else ((gs.filter (·.used)).flatMap (fun g => g.paths.flatMap (fun q => q.1.runs.map (fun r => r.done + 2)))).foldl max m.pspan

/-- Check 0x0306. -/
def Img.power (m : Img) (gs : List Group) (x : MeshSim) : List Bad :=
  let rooms := (x.tiles.map (·.room)).eraseDups
  let groupsOf (r : Nat) : List (Group × Nat) := (gs.filter (fun g => g.used && g.rests == m.restsOf r)).map (fun g =>
    (g, (x.tiles.filter (fun q => q.room == r && q.t.pat == g.p.num)).length))
  let credit := rooms.flatMap (fun r => (creditBad (roomEnergy (groupsOf r) x.driven r) (m.horizon gs)).toList.map (fun n =>
    (⟨0, r, { code := 0x0306, sub := 1, det := r, tread := n }⟩ : Bad)))
  let evs := m.spineTreads
  let spine := (evs.filter (fun n => decide (46 < (evs.filter (fun k => decide (n ≤ k) && decide (k < n + 8060))).length))).map (fun n =>
    (⟨0, n, { code := 0x0306, sub := 2, tread := n }⟩ : Bad))
  let ramps := m.rests.flatMap (fun q =>
    let w := q.2.2
    let wake := w.first + w.len
    let e : Nat := ((List.range 64).map (fun i => roomEnergy (groupsOf q.2.1) x.driven q.2.1 (wake + i))).foldl (· + ·) 0
    failIf (decide (96 < w.t1) || decide (96 < w.t3) || decide (135 < w.t2)) (m.bad 0x0306 3 11 (16 * q.1)) ++
    failIf (decide (100 * w.ramp < 15625 * w.t2) || decide (w.t2 * 76800000 < 16 * e)) (m.bad 0x0306 4 11 (16 * q.1)))
  if credit.isEmpty && spine.isEmpty then ramps else credit ++ spine

/-! ### Check 0x0307: the periodic claim (R411) -/

/-- R411: what the periodic claim compares of the use of a tread: the banks whose read and whose write slot is taken, and whether
an access takes one that depends on data; the stair and the energy; and the instructions at work. -/
structure Slots where
  reads : List Nat
  writes : List Nat
  blind : Bool
  bytes : List Nat
  who : List (Nat × Nat)
  deriving DecidableEq, Repr

/-- The same of the use of a tread. -/
def Use.slots (u : Use) : Slots :=
  let banks (l : List (Nat × Nat)) : List Nat := [0, 1, 2, 3].filter (fun b => l.any (fun x => x.2 % 4 == b))
  ⟨banks (readSlots u.accs), banks (writeSlots u.accs), u.blind, [u.draw, u.haul, u.moved, u.energy], u.who⟩

/-- What a path does in the P treads from tread a, relative to a: issues, queue starts and completions, and use. -/
def pathWindow (q : Path × Tbl Use) (a p : Nat) : List (Nat × Nat) × List (Nat × Nat × Nat × Nat) × List (Nat × Slots) :=
  let inw (n : Nat) : Bool := decide (a ≤ n) && decide (n < a + p)
  ((q.1.issues.reverse.filter (fun x => inw x.1)).map (fun x => (x.1 - a, x.2)),
   q.1.runs.reverse.flatMap (fun r => (if inw r.start then [(0, r.q, r.start - a, r.e.d.pc)] else []) ++
     (if inw r.done then [(1, r.q, r.done - a, r.e.d.pc)] else [])),
   (q.2.filter (fun u => inw u.1)).map (fun u => (u.1 - a, u.2.slots)))

/-- Check 0x0307: no subcode. -/
def Img.periodic (m : Img) (gs : List Group) (x : MeshSim) : Option Report :=
  let p := m.period
  let r : Report := { code := 0x0307, sub := noSub }
  if p = 0 then none
  else if m.pspan < 2 * p then some r
  else
    let a := m.pspan - 2 * p
    let b := m.pspan - p
    let words := x.words.reverse
    let ev (k : Nat) : List Nat := (m.spineTreads.filter (fun n => decide (k ≤ n) && decide (n < k + p))).map (· - k)
    -- the words that the rooms' tiles drive, which R374 meters, by tread and room
    let drive (k : Nat) : List (Nat × Nat) :=
      (x.driven.filter (fun q => decide (256 * k ≤ q.1) && decide (q.1 < 256 * (k + p)))).map (fun q => (q.1 - 256 * k, q.2))
    match gs.find? (fun g => g.used && g.paths.any (fun q => q.1.fin != .trapped && decide (pathWindow q a p ≠ pathWindow q b p))) with
    | some g => some { r with sect := 3, pat := g.p.num, off := 64 * g.p.num }
    | none => if (words.drop a).take p ≠ (words.drop b).take p ∨ drive a ≠ drive b ∨ ev a ≠ ev b then some r else none

end Sys2Proof.Machine
end

