-- ==== Sys2Proof/Machine/Loader.lean ====
section
/-! DEFINITION. The loader: verification in order of code (R412–R415), writing the tiles (R412), and the commands IMAGE LOAD,
IMAGE START and IMAGE STOP (R436–R438, R449, R511, R517, R518, R555, R581, R591). -/

namespace Sys2Proof.Machine

/-! ### Verification (R414, R415) -/

/-- The physical tile of a logical number in row-major order. -/
def State.physNum (s : State) (k : Nat) : Nat := (s.physOf (k % 640) (k / 640)).getD 0
/-- The logical number of a physical tile. -/
def State.logNum (s : State) (t : Nat) : Option Nat := (s.logOf t).map (fun p => p.1 + 640 * p.2)

/-- The tiles at a tile's ports, with whether a hatch lies between. -/
def State.portsOf (s : State) (t : Nat) : List (Option (Nat × Bool)) :=
  [0, 1, 2, 3].map (fun d => (s.nbr t d).map (fun u => (u, tileRoom u != tileRoom t)))

/-- The first check that fails, in order. -/
def firstReport : List (Unit → Option Report) → Option Report
  | [] => none
  | c :: l => match c () with
    | some r => some r
    | none => firstReport l

/-- R412, R415: the checks of an image before its parameters are resolved; `minor` and `cmd` are the minor versions of the
image format and of the commands that the port negotiated. -/
def State.verifyRaw (s : State) (m : Img) (minor cmd : Nat) (ps : List Word) : Option Report :=
  let grade := s.fuses.grade.val
  let value := paramValue ps m.live grade
  firstReport [
    fun _ => m.container,
    fun _ => m.version minor,
    fun _ => m.signature (fun k => Tbl.get none s.ownerKeys k),
    fun _ => m.target grade (value 1) (fun k => (s.floor (tileFloor (s.physNum k))).mode == .benched),
    fun _ => m.parameters (paramGiven cmd) value]

/-- R412, R415: the checks of the resolved image. -/
def State.verifyResolved (s : State) (m : Img) : Option Report :=
  let gs := m.groups (fun k => tileRoom (s.physNum k))
  let x := (m.mesh s.physNum s.portsOf).run m
  let pats := m.pats
  let live (t : Nat) : Bool := s.tileLive t && s.floorUp (tileFloor t)
  firstReport [
    fun _ => m.encoding live gs,
    fun _ => leastBad (pats.flatMap m.flowOf ++ gs.flatMap m.pathFlow ++ x.unended m),
    fun _ => leastBad (gs.flatMap m.formatsOf),
    fun _ => leastBad (gs.flatMap m.allocOf ++ gs.flatMap m.boundsOf ++ m.tileEnts.flatMap m.slicesOf ++
      gs.flatMap (fun g => (g.tiles m s.physNum).flatMap (m.remotesOf s.physNum s.logNum g)) ++ m.windowsOf),
    fun _ => leastBad (gs.flatMap m.pathTiming),
    fun _ => leastBad x.bads,
    fun _ => leastBad (gs.flatMap m.stairs),
    fun _ => leastBad (gs.flatMap m.waitsOf),
    fun _ => leastBad (m.restBad gs),
    fun _ => leastBad (m.power gs x),
    fun _ => m.periodic gs x]

/-- R412: the resolved image, or the report of the first failure. -/
def State.verify (s : State) (bytes : List Byte) (minor cmd : Nat) (ps : List Word) : Except Report Img :=
  let live := Config.liveRows s.fuses.grade
  let m := Img.ofBytes bytes.toArray live
  match s.verifyRaw m minor cmd ps with
  | some r => .error r
  | none =>
    let m := m.fixed (paramValue ps live s.fuses.grade.val)
    match s.verifyResolved m with
    | some r => .error r
    | none => .ok m

/-! ### The image store (R581) -/

/-- The verified image as the loader keeps it. -/
def State.imageOf (s : State) (m : Img) : Image :=
  let blocks := m.tileEnts.flatMap (fun t => (List.range 64).map (fun b => (t, b, m.block (m.pat t.pat).alloc b)))
  { bytes := m.b.toList, live := m.live, nmod := m.nmod, gbar := BitVec.ofNat 32 (m.rd 16 4), period := m.period
    pspan := m.pspan, models := m.models, tiles := m.tileEnts.map (fun t => s.physNum t.log)
    kept := (blocks.filter (fun q => q.2.2.kind == 2)).map (fun q => (s.physNum q.1.log, q.2.1,
      if q.2.2.num = 0xFFFF then 0xFFFF else (q.2.2.num + q.1.kbase) % 65536))
    weights := (blocks.filter (fun q => q.2.2.kind == 1)).map (fun q => (s.physNum q.1.log, q.2.1, q.2.2.model, q.2.2.num + q.1.slbase))
    ichk := BitVec.ofNat 32 (m.rd (m.base 15 + 4) 4) }

/-- The image in the store, as the loader reads it. -/
def Image.img (im : Image) : Img := Img.ofBytes im.bytes.toArray im.live

/-! ### Writing the tiles (R412) -/

/-- R266: the tags of shelf lines at program start. -/
def shelfTags (l : List Shelf) : Tbl Bool :=
  l.foldl (fun (t : Tbl Bool) x => if x.full then (List.range (x.last + 1 - x.first)).foldl (fun (t : Tbl Bool) i =>
    Tbl.set false t (x.first + i) true) t else t) []

/-- What a load leaves of a tile: its memories, block kinds, counts and trained settings, and what its service port still serves. -/
def Tile.unloaded (v : Tile) : Tile :=
  { Tile.reset with
    attic := v.attic, atticMark := v.atticMark, cellar := v.cellar, cellarMark := v.cellarMark, kinds := v.kinds
    stairAdj := v.stairAdj, stairCorr := v.stairCorr, stairClean := v.stairClean, suppressed := v.suppressed
    bounces := v.bounces, bounceSent := v.bounceSent, origins := v.origins, originCount := v.originCount, corrA := v.corrA
    corrC := v.corrC, corrB := v.corrB, ovf := v.ovf, choice := v.choice, scrubWeight := v.scrubWeight, scrubWhole := v.scrubWhole
    scrubAttic := v.scrubAttic, eject := v.eject, portFree := v.portFree, cellJobs := v.cellJobs, zero := v.zero
    stairFree := v.stairFree }

/-- R83, R412: a tile with its program, descriptors, routes, shelves, windows and masks; s30 and s31 as at program start. -/
def Tile.loaded (m : Img) (t : TileEnt) (u : Nat) (v : Tile) : Tile :=
  let p := m.pat t.pat
  let prog : Tbl DWord := ((List.range p.plen).map (fun a => (a, m.word p a))).filter (fun q => q.2 != 0)
  let regs := Tbl.set 0 (Tbl.set 0 ([] : Tbl Word) 30 (tilePath u)) 31 (BitVec.ofNat 32 (t.log % 640 + 65536 * (t.log / 640)))
  let q : Seq := { Seq.reset with regs := regs, pc := p.entry, prog := prog, desc := m.descs p.desc }
  let sh := m.shelves p.shelf
  { v.unloaded with
    member := p.bmask, pipe := p.pipe, lead := q, trail := q, past := [], begun := none, arrMask := p.amask, shelves := sh
    tags := shelfTags sh
    windows := (List.range 16).foldl (fun (w : Tbl DWord) i => Tbl.set 0 w i (m.window t.win i)) []
    routes := (m.route t).filter (fun q => q.2 != 0) }

/-- R272, R406, R438, R442: the kind of a block once an image is loaded: blocks of a model that is not Empty go on as they
stood; every other block takes the kind of the allocation map, but that firmware sets the blocks of adapter banks to Loading. -/
def State.loadedKind (s : State) (im : Image) (t b : Nat) : Nat :=
  if s.ownedBlock t b then (s.tile t).kind b
  else match im.kept.find? (fun x => x.1 == t && x.2.1 == b) with
  | some x => if 0xFF00 ≤ x.2.2 ∧ x.2.2 ≤ 0xFF7F then 3 else 2
  | none => if im.weights.any (fun x => x.1 == t && x.2.1 == b) then 1 else 0

/-- R405, R412: writes every tile; `kinds` says whether block kinds are written too. -/
def State.writeTiles (s : State) (im : Image) (kinds : Bool) : State :=
  let m := im.img
  let kind (t : Nat) (v : Tile) : Tile := if !kinds then v else
    { v with kinds := (List.range 64).foldl (fun (k : Tbl Nat) b => Tbl.set 0 k b (s.loadedKind im t b)) [] }
  let s1 := (s.tiles.filter (fun q => !im.tiles.contains q.1)).foldl (fun (z : State) (q : Nat × Tile) =>
    z.setTile q.1 (kind q.1 q.2.unloaded)) s
  let s2 := m.tileEnts.foldl (fun (z : State) (t : TileEnt) =>
    let u := s.physNum t.log
    z.setTile u (kind u ((s.tile u).loaded m t u))) s1
  (List.range 256).foldl (fun (z : State) (r : Nat) => z.setRoom r { z.room r with rests := m.restsOf r, start := none }) s2

/-- R442, R673: every bank Free, with its blocks in slice order; crates on their way to a bank are abandoned. -/
def State.freeBanks (s : State) (im : Image) : State :=
  { (List.range 128).foldl (fun (s : State) (i : Nat) => s.abandonCrates true i) s with banks := (List.range 128).foldl (fun (b : Tbl Bank) i => Tbl.set Bank.reset b i
      { Bank.reset with place := (im.kept.filter (fun x => x.2.2 == 0xFF00 + i)).map (fun x => (x.1, x.2.1)) }) [] }

/-! ### IMAGE LOAD (R412, R438, R517, R518) -/

/-- R438: whether an image finds its blocks free, or placed as it places them. -/
def State.spaceOk (s : State) (im : Image) : Bool :=
  let entry (k : Nat) : Option Inv := (s.inv.map (·.2)).find? (fun v => v.state != 0 && v.ident == ((im.models.map (·.1)).getD k 0))
  let same (a b : List (Nat × Nat × Nat)) : Bool := a.all b.contains && b.all a.contains
  (List.range im.nmod).all (fun k => match entry k with
    | some v => same v.place (im.placement k)
    | none => true) &&
  s.inv.all (fun q => q.2.state == 0 || (im.models.map (·.1)).contains q.2.ident ||
    !(q.2.place.any (fun x => im.kept.any (fun y => y.1 == x.1 && y.2.1 == x.2.1) || im.weights.any (fun y => y.1 == x.1 && y.2.1 == x.2.1))))

/-- The state code that a unit-state status reports (R509, R33). -/
def State.moduleCode (s : State) : List Byte := leBytes 1 s.stateWord

/-- R498, R546: what a pipeline keeps from image to image: its counters and their overflow bits, which only a reset clears
(R14). -/
def Pipe.counters (p : Pipe) : Pipe :=
  { Pipe.reset with verif := p.verif, offered := p.offered, accepted := p.accepted, turnoff := p.turnoff, retry := p.retry
                    ovf := p.ovf, home := p.home }

/-- The pipelines' counters, all else of them as before a first step. -/
def State.keptCounters (s : State) : Tbl Pipe :=
  s.pstate.foldl (fun (m : Tbl Pipe) (q : Nat × Pipe) => Tbl.set Pipe.reset m q.1 q.2.counters) []

/-- R546: the home of each pipeline of a table of records. -/
def homePipes (m : Tbl Pipe) (recs : List PipeRec) : Tbl Pipe :=
  recs.foldl (fun (m : Tbl Pipe) (r : PipeRec) => Tbl.set Pipe.reset m r.pipe { Tbl.get Pipe.reset m r.pipe with home := some r.home }) m

/-- The module holds image `im` with the parameters `ps`, and no run of it has started. -/
def State.holdImage (s : State) (im : Image) (ps : List Word) : State :=
  let n (i : Nat) : Nat := (ps.getD i 0).toNat
  { s with image := some im, runEnded := false, moduleNo := n 1, coords := (n 2, n 3, n 4), params := ps, pipes := [], pstate := s.keptCounters }

/-- R412: writes the tiles from a verified image, which the module then holds. -/
def State.putImage (s : State) (im : Image) (ps : List Word) : State :=
  ((s.writeTiles im true).freeBanks im).holdImage im ps

/-- R412, R516: the IMAGE LOAD in progress has written every tile. -/
def State.loadDone (s : State) : State :=
  match s.cmds.findSome? Cmd.loading with
  | some (im, ps) => (s.putImage im ps).finishAll (fun c => c.loading.isSome) (fun _ => (0, []))
  | none => s

/-- R412, R438, R512, R517, R518: an IMAGE LOAD that has passed the checks of R508. From the acceptance of its image on it
writes tiles, until the next always-on tick (DESIGN CHOICE, log entry 90), and no image is loaded. -/
def State.loadImage (s : State) (h : CmdHdr) (ilen : DWord) (ps : List Word) (raddr : DWord) (data : HostRead) : State :=
  if s.started.isSome then s.reply h 0x10 0x010A s.moduleCode
  else match data with
  | .error a => s.reply h 0x10 0x0108 (leBytes 8 a.toNat)
  | .bytes l =>
    if fieldAt l 32 8 ≠ ilen.toNat then s.reply h 0x10 0x0103 (leBytes 2 24)
    else match s.verify l (((s.die h.port.val).neg.map (fun n => n.2.1)).getD 0) (s.minorOf h.port.val) ps with
    | .error r => s.writeHost h 0x10 raddr r.bytes 0x0200 (leBytes 2 r.code ++ leBytes 2 r.sub)
    | .ok m =>
      if !(s.spaceOk (s.imageOf m)) then s.reply h 0x10 0x0201 (leBytes 1 s.candidate)
      else { s with image := none }.begin_ h 0x10 (.load (s.imageOf m) ps)

/-- R516: the parameters of IMAGE LOAD. -/
def parImageLoad (iaddr ilen : DWord) (p1 p2 p3 p4 p5 : Word) (raddr : DWord) : List Field :=
  [byteField 16 8 iaddr.toNat, byteField 24 8 ilen.toNat, byteField 32 4 p1.toNat, byteField 36 4 p2.toNat, byteField 40 4 p3.toNat,
    byteField 44 4 p4.toNat, byteField 48 4 p5.toNat, byteField 56 8 raddr.toNat]

/-- IMAGE_LOAD (R412, R511, R513, R517, R518, R581, R610). Parameters 2 to 5 came with minor 1, and lie in 0 to 16,383. -/
def execImageLoad (h : CmdHdr) (iaddr ilen : DWord) (p1 p2 p3 p4 p5 : Word) (raddr : DWord) (data : HostRead) (s : State) :
    Host.Outcome State Fault Refusal :=
  let old := decide (s.minorOf h.port.val = 0)
  let far : Word → Bool := fun p => (old && p != 0) || decide (16383 < p.toNat)
  let bad := firstBad [badAt (decide (iaddr.toNat % 64 ≠ 0)) 16, badAt (decide (2 ^ 30 < ilen.toNat)) 24,
    badAt (far p2) 36, badAt (far p3) 40, badAt (far p4) 44, badAt (far p5) 48,
    badAt (decide (raddr.toNat % 64 ≠ 0)) 56]
  .next (s.decode h (.onM 0x10 bad (parImageLoad iaddr ilen p1 p2 p3 p4 p5 raddr)) (fun s =>
    s.moduleCmd h 0x10 (fun s => s.loadImage h ilen [p1, p2, p3, p4, p5] raddr data)))

/-! ### IMAGE START (R84, R436, R438, R449, R518, R555, R578, R581) -/

/-- R449: a pipeline record, its cover apart. -/
def pipeRecAt (l : List Byte) (k : Nat) : PipeRec :=
  let f (o n : Nat) : Nat := fieldAt l (64 * k + o) n
  { pipe := f 0 1, home := f 1 1, spec := f 2 1 % 2 == 1, seats := f 4 2, seat0 := f 6 2, tline := f 8 2, rline := f 10 2
    rpath := BitVec.ofNat 32 (f 12 4), ipath := BitVec.ofNat 32 (f 16 4), iline := f 20 2, ilen := f 22 2
    opath := BitVec.ofNat 32 (f 24 4), oline := f 28 2, olen := f 30 2, prows := f 32 2, model := f 34 1, dmodel := f 35 1
    resv := f 36 4, cover := [] }

/-- The tiles of a loaded image that hold a pipeline. -/
def State.pipeTiles (s : State) (im : Image) (p : Nat) : List Nat := im.tiles.filter (fun t => (s.tile t).pipe.toNat == p)

/-- R449: whether n lines from a are shelf lines of a tile of the image in the direction given. -/
def State.shelfLines (s : State) (im : Image) (t a n : Nat) (inbound : Bool) : Bool :=
  im.tiles.contains t && decide (1 ≤ n) && (List.range n).all (fun i => ((s.tile t).shelfOf (a + i)).map (·.inbound) == some inbound)

/-- R449: whether a unit path names a tile of the image. -/
def namesTile (im : Image) (p : Word) : Bool := pathLevel p == 0 && pathValid p && im.tiles.contains (pathTile p)

/-- R449, R591, R633: the offset of the first field of record k that breaks a condition. -/
def State.recordBad (s : State) (im : Image) (l : List Byte) (k : Nat) : Option Nat :=
  let r := pipeRecAt l k
  let f (o n : Nat) : Nat := fieldAt l (64 * k + o) n
  let ts := s.pipeTiles im r.pipe
  let rt := pathTile r.rpath
  let it := pathTile r.ipath
  let ot := pathTile r.opath
  firstBad [badAt (r.pipe == 255 || ts.isEmpty || (List.range k).any (fun j => f 0 1 == fieldAt l (64 * j) 1)) 0,
    badAt (decide (4 ≤ r.home) || (s.die (r.home % 4)).failed || !(s.die (r.home % 4)).portUp) 1,
    badAt (decide (2 ≤ f 2 1)) 2, badAt (f 3 1 != 0) 3,
    badAt (r.seats == 0 || decide (2048 < r.seats)) 4, badAt (decide (0xFF00 < r.seat0 + r.seats)) 6,
    badAt (!(ts.all (fun t => s.shelfLines im t r.tline 5 true))) 8,
    badAt (!(namesTile im r.rpath)) 12, badAt (namesTile im r.rpath && !(s.shelfLines im rt r.rline 1 false)) 10,
    badAt (!(namesTile im r.ipath)) 16, badAt (namesTile im r.ipath && !(s.shelfLines im it r.iline r.ilen true)) 20,
    badAt (!(namesTile im r.opath)) 24, badAt (namesTile im r.opath && !(s.shelfLines im ot r.oline r.olen false)) 28,
    badAt (decide (4096 < r.prows)) 32, badAt (decide (im.nmod ≤ r.model)) 34,
    badAt (r.dmodel != 255 && decide (im.nmod ≤ r.dmodel)) 35,
    ((List.range 24).map (· + 40)).find? (fun o => f o 1 != 0)]

/-- R335, R449: the cover of a pipeline's tiles: for each floor row one form, over the floors, rooms and rectangle that hold
them. Tiles of other pipelines within a form take no part (R464), so four forms always do. -/
def coverOf (ts : List Nat) (tline : Nat) : List Multicast :=
  (List.range 4).filterMap (fun row =>
    let l := ts.filter (fun t => tileFloor t / 4 == row)
    let mask (w : Nat) (f : Nat → Nat) : BitVec w := l.foldl (fun m t => m ||| BitVec.ofNat w (2 ^ f t)) 0
    let cs := l.map (fun t => t % 1200 % 40)
    let rs := l.map (fun t => t % 1200 / 40)
    if l.isEmpty then none
    else some { ax := 1, fi := BitVec.ofNat 4 row, fm := mask 4 (fun t => tileFloor t % 4), rm := mask 16 (fun t => tileRoom t % 16)
                clo := BitVec.ofNat 6 (cs.foldl min 63), chi := BitVec.ofNat 6 (cs.foldl max 0)
                rlo := BitVec.ofNat 5 (rs.foldl min 31), rhi := BitVec.ofNat 5 (rs.foldl max 0)
                line := BitVec.ofNat 11 tline, half := false })

/-- R84, R518: the start count: the least multiple of 4,096 at least 65,536 treads above the module tread count. -/
def startCount (n : Nat) : Nat := (n + 65536 + 4095) / 4096 * 4096

/-- R84, R107, R200, R293, R348: the tiles of the image stand ready for their first issue at the start count, with no slot valid, no
origin held, and their draw benches, stream tables and deferral stores empty. -/
def State.armTiles (s : State) (im : Image) (n : Nat) : State :=
  let s := im.tiles.foldl (fun (s : State) (t : Nat) =>
    let v := s.tile t
    s.setTile t { v with phase := .running, nextIssue := n, slotValid := 0, drawBench := [], drawMark := [], slotEvs := [], tags := shelfTags v.shelves
                         origins := [], originCount := 0, streams := [], deferred := [] }) s
  im.tiles.foldl (fun (s : State) (t : Nat) =>
    let r := tileRoom t
    s.setRoom r { s.room r with start := some n, debit := 0 }) s

/-- R436, R449, R518, R578, R611: starts the loaded image. -/
def State.startImage (s : State) (h : CmdHdr) (im : Image) (l : List Byte) (npipe : Nat) : State :=
  let s := if s.runEnded then s.writeTiles im false else s
  let recs := (List.range npipe).map (fun k =>
    let r := pipeRecAt l k
    { r with cover := coverOf (s.pipeTiles im r.pipe) r.tline })
  let n := startCount s.moduleTread
  let s := (s.armTiles im n).imageRefs true
  let s := { s with started := some n, runEnded := false, pipes := recs, pstate := homePipes s.keptCounters recs, voids := [], barriers := [], gangs := []
                    aborting := [], sendRings := [] }
  let s := s.sendHellos.reply h 0x11 0 (leBytes 8 n)
  -- R463, R465, R469: the table of step 0 of each pipeline, in ascending PIPE order
  ((List.range 255).filterMap s.pipeRec).foldl (fun s r => s.boundary r) s

/-- R438: the first model of the list that is not Resident. -/
def State.notResident (s : State) (im : Image) : Option Nat :=
  (List.range im.nmod).find? (fun k => match s.modelEntry k with
    | some e => (s.invOf e).state != 3
    | none => true)

/-- R438, R449, R518, R555, R581: an IMAGE START that has passed the checks of R508. -/
def State.tryStart (s : State) (h : CmdHdr) (npipe : Nat) (data : HostRead) : State :=
  match s.image with
  | none => s.reply h 0x11 0x010A s.moduleCode
  | some im =>
    let fs := (im.tiles.map tileFloor).eraseDups
    if s.started.isSome ∨ s.testMode then s.reply h 0x11 0x010A s.moduleCode
    else if fs.any (fun f => (s.floor f).mode == .benched) then s.reply h 0x11 0x010A (leBytes 1 8)
    else match (List.range 16).find? (fun f => fs.contains f && !(s.floorUp f)) with
    | some f => s.reply h 0x11 0x010C (leBytes 1 f)
    | none =>
      match s.notResident im with
      | some k => s.reply h 0x11 0x0202 (leBytes 1 k)
      | none =>
        if s.banks.any (fun q => q.2.state == 5) then
          -- R587: the status names a model; of a bank that is Repairing the manual gives no number (log entry 110)
          { s with free := s.free + 1 }.reply h 0x11 0x0202 [BitVec.ofNat 8 (Config.freeValue s.free).toNat]
        else match data with
        | .error a => s.reply h 0x11 0x0108 (leBytes 8 a.toNat)
        | .bytes l =>
          -- a run that has ended left the shelves and masks of the tiles to the image store
          let z := if s.runEnded then s.writeTiles im false else s
          match (List.range npipe).findSome? (fun k => (z.recordBad im l k).map (fun o => (k, o))) with
          | some (k, o) => s.reply h 0x11 0x0203 (leBytes 1 k ++ leBytes 1 o)
          | none => s.startImage h im l npipe

/-- IMAGE_START (R84, R436, R438, R449, R511, R518, R555, R581, R591, R611). -/
def execImageStart (h : CmdHdr) (taddr : DWord) (npipe : BitVec 16) (data : HostRead) (s : State) :
    Host.Outcome State Fault Refusal :=
  let bad := firstBad [badAt (decide (taddr.toNat % 64 ≠ 0)) 16, badAt (npipe == 0 || decide (255 < npipe.toNat)) 24]
  .next (s.decode h (.onM 0x11 bad [byteField 16 8 taddr.toNat, byteField 24 2 npipe.toNat]) (fun s => s.moduleCmd h 0x11 (fun s => s.tryStart h npipe.toNat data)))

/-! ### IMAGE STOP (R436, R518) -/

/-- R518: ends every tile's program without records; the image stays loaded. -/
def State.stopImage (s : State) (h : CmdHdr) : State :=
  match s.started with
  | none => s.reply h 0x12 0x010A s.moduleCode
  | some _ =>
    let open_ := (s.ledger.filter (fun q => q.2.state != .free)).length
    if 0 < open_ then s.reply h 0x12 0x0301 (leBytes 2 open_)
    else
      let rooms := s.imageRooms
      let s := (s.tiles.filter (fun q => q.2.phase == .running || q.2.phase == .complete)).foldl
        (fun (s : State) (q : Nat × Tile) => s.abortTile q.1) s
      let s := rooms.foldl (fun (s : State) (r : Nat) => (s.setRoom r { s.room r with start := none, rests := [] }).rampDown r) s
      let s := s.imageRefs false
      let s := { s with started := none, runEnded := true, pipes := [], pstate := s.keptCounters, voids := [], barriers := [], gangs := [] }
      s.dropHeld.holdPorts.reply h 0x12 0 []

/-- IMAGE_STOP (R436, R511, R518). -/
def execImageStop (h : CmdHdr) (s : State) : Host.Outcome State Fault Refusal :=
  .next (s.decode h (.onM 0x12 none) (fun s => s.moduleCmd h 0x12 (fun s => s.stopImage h)))

end Sys2Proof.Machine
end

