-- ==== Sys2Proof/Machine/Serving.lean ====
section
/-! DEFINITION. The serving commands (R451–R460, R479–R492, R520), the reads and writes of the pipelines' rings (R457,
R458, R462), and the commands of weights and adapters (R428–R447, R519, R673). -/

namespace Sys2Proof.Machine

/-! ### SESSION OPEN (R451, R455, R545) -/

/-- R455: the pipelines of a route word, which 0xFF ends. -/
def routePipes (w : Word) : List Nat := ((List.range 4).map (fun i => w.toNat / 2 ^ (8 * i) % 256)).takeWhile (· != 255)

/-- R455: the lowest seat of a pipeline bound to no session and not among some seats. -/
def State.freeSeat (s : State) (r : PipeRec) (taken : List (Nat × Nat)) : Option Nat :=
  (List.range r.seats).find? (fun k => (s.seatOwner r.pipe k).isNone && !(taken.contains (r.pipe, k)))

/-- R455: a seat in each pipeline of a route, or the first pipeline without one. -/
def State.takeSeats (s : State) : List PipeRec → List (Nat × Nat) → Except Nat (List (Nat × Nat))
  | [], got => .ok got
  | r :: rs, got => match s.freeSeat r got with
    | some k => s.takeSeats rs (got ++ [(r.pipe, k)])
    | none => .error r.pipe

/-- R452, R453, R455, R496: the entry of a session just opened. -/
def State.openEntry (s : State) (i : Nat) (cls urg aslot oring : Byte) (seats : List (Nat × Nat)) (seed : DWord) : Sess :=
  let old := s.sess i
  { Sess.reset with
    seq := old.seq + 1, state := .opened, cls := cls.toNat, urg := urg == 1, gen := old.gen + 1, seed := seed
    routeLen := seats.length, aslot := aslot.toNat, oring := oring.toNat
    route := seats.map (fun q => { RoutePos.reset with
      pipe := BitVec.ofNat 8 q.1, seat := BitVec.ofNat 16 q.2, trk := ⟨true, 0, 0⟩ }) }

/-- R455: a SESSION OPEN that has passed the checks of R508. -/
def State.openSession (s : State) (h : CmdHdr) (cls urg aslot oring : Byte) (route : Word) (seed : DWord) : State :=
  let ps := routePipes route
  let rs := ps.filterMap s.pipeRec
  if s.started.isNone then s.reply h 0x30 0x010A s.moduleCode
  else match ps.findIdx? (fun p => (s.pipeRec p).isNone) with
  | some k => s.reply h 0x30 0x0103 (leBytes 2 (20 + k))
  | none =>
    match rs.find? (fun r => r.home != h.port.val) with
    | some r => s.reply h 0x30 0x0107 (leBytes 1 r.home)
    | none =>
      match (List.range 2048).find? (fun e => (s.sess (2048 * h.port.val + e)).state == .free) with
      | none => s.reply h 0x30 0x0401 []
      | some e =>
        match s.takeSeats rs [] with
        | .error p => s.reply h 0x30 0x0402 (leBytes 1 p)
        | .ok seats =>
          let i := 2048 * h.port.val + e
          let v := s.openEntry i cls urg aslot oring seats seed
          let es := ((s.routeModels v.route).filterMap s.modelEntry).eraseDups
          let s := (s.setSess i { v with entries := es }).addRefs true es
          s.reply h 0x30 0 (leBytes 4 (s.handleOf i).toNat ++ [v.gen] ++ leBytes 3 0 ++ seats.flatMap (fun q => leBytes 2 q.2))

/-- R516: the parameters of SESSION OPEN. -/
def parOpen (cls urg aslot oring : Byte) (route : Word) (seed : DWord) : List Field :=
  [byteField 16 1 cls.toNat, byteField 17 1 urg.toNat, byteField 18 1 aslot.toNat, byteField 19 1 oring.toNat, byteField 20 4 route.toNat,
    byteField 24 8 seed.toNat]

/-- SESSION_OPEN (R451–R455, R545). -/
def execSessionOpen (h : CmdHdr) (cls urg aslot oring : Byte) (route : Word) (seed : DWord) (s : State) :
    Host.Outcome State Fault Refusal :=
  let ring := (s.die h.port.val).outRing oring.toNat
  let bad := firstBad [badAt (decide (8 ≤ cls.toNat)) 16, badAt (decide (2 ≤ urg.toNat)) 17,
    badAt (decide (64 ≤ aslot.toNat) && aslot != 0x7F) 18, badAt (decide (16 ≤ oring.toNat) || ring.size == 0) 19,
    badAt (routePipes route).isEmpty 20]
  .next (s.decode h (.onM 0x30 bad (parOpen cls urg aslot oring route seed)) (fun s => s.openSession h cls urg aslot oring route seed))

/-! ### FEED and MARK (R447, R454, R457, R459, R520) -/

/-- The edge die that a handle names (R452). -/
def handleDie (handle : Word) : Nat := handle.toNat / 2048 % 4

/-- R451, R452, R508: the session of a command: the wrong port, a stale handle, or its number. -/
def State.onSession (s : State) (h : CmdHdr) (opc : Byte) (handle : Word) (run : State → Nat → State) : State :=
  if handleDie handle ≠ h.port.val then s.reply h opc 0x0107 (leBytes 1 (handleDie handle))
  else match s.sessionOf handle with
  | none => s.reply h opc 0x0400 []
  | some i => run s i

/-- R459: whether a FEED or MARK has come for the next turn, whose request has then been admitted. -/
def Sess.nextTaken (e : Sess) : Bool := e.fedNext || e.markq

/-- R454, R459: what a FEED does to its session's state. -/
def State.feedState (s : State) (i : Nat) : State :=
  let e := s.sess i
  match e.state with
  | .opened => (s.setSess i { e with state := .listening }).pinModels i
  | .listening => s
  | _ =>
    let s := if e.nextTaken then s else s.admitTurn i
    s.setSess i { s.sess i with fedNext := true }

/-- R454, R459: what a MARK does to its session's state. -/
def State.markState (s : State) (i : Nat) : State :=
  let e := s.sess i
  match e.state with
  | .opened => (s.setSess i { e with state := .thinking, tMark := s.pkt }).pinModels i
  | .listening => s.setSess i { e with state := .thinking, tMark := s.pkt }
  | _ =>
    let s := if e.nextTaken then s else s.admitTurn i
    s.setSess i { s.sess i with markq := true, markNext := s.pkt }

/-- R457: an input record for route position 0, whose last line completes the command. -/
def State.inputRecord (s : State) (h : CmdHdr) (opc : Byte) (handle : Word) (i kind rows : Nat) (payload : List Byte) : State :=
  ((s.begin_ h opc (.record handle s.recIds)).putRecord i 0 kind rows payload false).1

/-- The pipeline of route position 0 of a session. -/
def State.inputPipe (s : State) (i : Nat) : Option PipeRec := ((s.sess i).route.head?).bind (fun q => s.pipeRec q.pipe.toNat)

/-- R447, R459, R520: whether a session's next FEED or MARK would take in a request that has no adapter. -/
def State.notAdmitted (s : State) (i : Nat) : Bool :=
  let e := s.sess i
  (e.state == .opened || (e.state != .listening && !e.nextTaken)) && s.adapterMissing e

/-- FEED of a session. The session of a pipeline that the started image does not serve takes none: a bad field, HANDLE (DESIGN
CHOICE, log entry 106). -/
def State.feed (s : State) (h : CmdHdr) (handle : Word) (rows bytes : BitVec 16) (data : HostRead) (i : Nat) : State :=
  match s.inputPipe i with
  | none => s.reply h 0x31 0x0103 (leBytes 2 16)
  | some r =>
    if (s.sess i).state = .closing then s.reply h 0x31 0x0406 []
    else if 32 * r.ilen < bytes.toNat + 8 then s.reply h 0x31 0x0103 (leBytes 2 22)
    else if s.notAdmitted i then s.reply h 0x31 0x0407 (leBytes 1 (s.sess i).aslot)
    else match data with
    | .error a => s.reply h 0x31 0x0108 (leBytes 8 a.toNat)
    | .bytes l => (s.feedState i).inputRecord h 0x31 handle i 0 rows.toNat (padTo bytes.toNat l)

/-- R516: the parameters of FEED. -/
def parFeed (handle : Word) (rows bytes : BitVec 16) (daddr : DWord) : List Field :=
  [byteField 16 4 handle.toNat, byteField 20 2 rows.toNat, byteField 22 2 bytes.toNat, byteField 24 8 daddr.toNat]

/-- R516: a parameter HANDLE. -/
def parHandle (handle : Word) : List Field := [byteField 16 4 handle.toNat]

/-- FEED (R447, R454, R457, R459, R520). -/
def execFeed (h : CmdHdr) (handle : Word) (rows bytes : BitVec 16) (daddr : DWord) (data : HostRead) (s : State) :
    Host.Outcome State Fault Refusal :=
  .next (s.decode h (.onM 0x31 (badAt (decide (daddr.toNat % 64 ≠ 0)) 24) (parFeed handle rows bytes daddr)) (fun s =>
    s.onSession h 0x31 handle (fun s i => s.feed h handle rows bytes data i)))

/-- MARK of a session; as for FEED, its pipeline must be served. -/
def State.mark (s : State) (h : CmdHdr) (handle : Word) (rows : BitVec 16) (i : Nat) : State :=
  match s.inputPipe i with
  | none => s.reply h 0x32 0x0103 (leBytes 2 16)
  | some _ =>
    if (s.sess i).state = .closing then s.reply h 0x32 0x0406 []
    else if (s.sess i).markq then s.reply h 0x32 0x0403 []
    else if s.notAdmitted i then s.reply h 0x32 0x0407 (leBytes 1 (s.sess i).aslot)
    else (s.markState i).inputRecord h 0x32 handle i 1 rows.toNat []

/-- MARK (R447, R454, R457, R459, R520). -/
def execMark (h : CmdHdr) (handle : Word) (rows : BitVec 16) (s : State) : Host.Outcome State Fault Refusal :=
  .next (s.decode h (.onM 0x32 none (parHandle handle ++ [byteField 20 2 rows.toNat])) (fun s => s.onSession h 0x32 handle (fun s i => s.mark h handle rows i)))

/-! ### CANCEL (R479–R489) -/

/-- R481, R484: an ordinary cancellation begins. -/
def State.cancelOrdinary (s : State) (h : CmdHdr) (handle : Word) (i : Nat) : State :=
  let s := s.beginCancel i
  let s := s.setSess i { s.sess i with state := .ending }
  (s.begin_ h 0x38 (.cancel handle false)).tryCancel i

/-- R485–R489: an urgent cancellation begins, or upgrades the ordinary one of a session in Ending. -/
def State.cancelUrgent (s : State) (h : CmdHdr) (handle : Word) (i : Nat) : State :=
  let s := if (s.sess i).state = .ending then s else s.beginCancel i
  ((s.formVoids i).begin_ h 0x38 (.cancel handle true)).tryCancel i

/-- R480: a CANCEL of a session by its state at the decode tick. -/
def State.cancel (s : State) (h : CmdHdr) (urgent : Bool) (handle : Word) (i : Nat) : State :=
  match (s.sess i).state with
  | .closing => s.reply h 0x38 0x0406 []
  | .thinking => if s.cancelling i true then s.reply h 0x38 0x0405 []
    else if urgent then s.cancelUrgent h handle i else s.cancelOrdinary h handle i
  | .speaking => if s.cancelling i true then s.reply h 0x38 0x0405 []
    else if urgent then s.cancelUrgent h handle i else s.cancelOrdinary h handle i
  | .ending => if urgent then s.cancelUrgent h handle i else s.reply h 0x38 0x0405 []
  | _ => s.reply h 0x38 0x0404 []

/-- ORDINARY_CANCELLATION (R479–R484): a CANCEL on a normal ring. -/
def execOrdinaryCancellation (h : CmdHdr) (handle : Word) (s : State) : Host.Outcome State Fault Refusal :=
  if h.ring = 0 then .next s
  else .next (s.decode h (.onM 0x38 none (parHandle handle)) (fun s => s.onSession h 0x38 handle (fun s i => s.cancel h false handle i)))

/-- URGENT_CANCELLATION (R479–R489): a CANCEL on the urgent ring. -/
def execUrgentCancellation (h : CmdHdr) (handle : Word) (s : State) : Host.Outcome State Fault Refusal :=
  if h.ring ≠ 0 then .next s
  else .next (s.decode h (.onM 0x38 none (parHandle handle)) (fun s => s.onSession h 0x38 handle (fun s i => s.cancel h true handle i)))

/-! ### SESSION CLOSE (R459, R460, R492) -/

/-- R460, R492: cancels the request in progress on the urgent path; the session is Closing from then on. -/
def State.beginClose (s : State) (i : Nat) : State :=
  let s := match (s.sess i).state with
    | .listening => (s.beginCancel i).formVoids i
    | .thinking => if s.cancelling i true then s else (s.beginCancel i).formVoids i
    | .speaking => if s.cancelling i true then s else (s.beginCancel i).formVoids i
    | .ending => s.formVoids i
    | _ => s
  let s := (s.endRequest i).dropNext i
  (s.setSess i { s.sess i with state := .closing }).cancelDone i 0x0406

/-- R290, R450, R460: the ZERO request for one kept block. -/
def State.sendZero (s : State) (i : Nat) (q : Nat × Nat) : State :=
  s.dieSend (Fin.ofNat 4 (sessDie i)) .zero
    { dtile := BitVec.ofNat 19 (dtileField q.1), cellar := true, line := BitVec.ofNat 13 (128 * q.2), half := false, cnt := 0 }
    1 (padTo 16 (leBytes 2 128)) (.zero i)

/-- R460: closes a session: its kept blocks are zeroed, and it is freed once they are. -/
def State.closeSession (s : State) (i : Nat) : State :=
  let bs := ((s.sess i).route.flatMap (fun q => s.seatBlocks q.pipe.toNat q.seat.toNat)).eraseDups
  let s := s.beginClose i
  let s := s.setSess i { s.sess i with zeroLeft := bs.length }
  if bs.isEmpty then s.freeSession i else bs.foldl (fun (s : State) (q : Nat × Nat) => s.sendZero i q) s

/-- SESSION_CLOSE (R460, R492): a second one completes with the first. -/
def execSessionClose (h : CmdHdr) (handle : Word) (s : State) : Host.Outcome State Fault Refusal :=
  .next (s.decode h (.onM 0x33 none (parHandle handle)) (fun s => s.onSession h 0x33 handle (fun s i =>
    let closing := (s.sess i).state == .closing
    let s := s.begin_ h 0x33 (.close handle)
    if closing then s else s.closeSession i)))

/-! ### Rings of the pipelines (R457, R458, R462) -/

/-- A read or write by the home edge die of a pipeline. -/
def State.atHome (s : State) (pipe : Byte) (run : State → PipeRec → State) : State :=
  match s.pipeRec pipe.toNat with
  | none => s
  | some r => if !s.ready || s.resetting || (s.die r.home).failed then s else run s r

/-- STEP_REPORT_READ (R462–R469): a read that meets an empty line bounces. -/
def execStepReportRead (pipe : Byte) (s : State) : Host.Outcome State Fault Refusal :=
  .next (s.atHome pipe (fun s r =>
    let w := s.dieRead r.home (pathTile r.rpath) r.rline
    match w.2 with
    | none => w.1
    | some l => w.1.report r l))

/-- OUTPUT_RING_READ (R458, R459, R505). -/
def execOutputRingRead (pipe : Byte) (s : State) : Host.Outcome State Fault Refusal :=
  .next (s.atHome pipe (fun s r => s.readOutput 4096 r))

/-- INPUT_RECORD_RESEND (R457). -/
def execInputRecordResend (pipe : Byte) (s : State) : Host.Outcome State Fault Refusal :=
  .next (s.atHome pipe (fun s r => s.pumpInput 4096 r.pipe))

/-! ### Crates and models (R428–R439, R519) -/

/-- The lowest floor that is not up among those of some blocks. -/
def State.downBlock (s : State) (bs : List (Nat × Nat)) : Option Nat :=
  (List.range 16).find? (fun f => !(s.floorUp f) && bs.any (fun q => tileFloor q.1 == f))

/-- R428: whether the unpacker of its port is still receiving the crate of a CRATE LOAD. -/
def State.receiving (s : State) (h : CmdHdr) : Bool := (s.crateCmds h.port.val).any (fun c => c.h == h)

/-- R428, R509: what a read of host memory brings of a crate under way: more bytes, or the end of its CRATE LOAD. -/
def State.crateRead (s : State) (h : CmdHdr) (data : HostRead) : State :=
  match data with
  | .bytes l => s.crateBytes h l
  | .error a => (s.finishAll (fun c => c.h == h) (fun _ => (0x0108, leBytes 8 a.toNat))).unpack (s.cmds.length + 1) h.port.val

/-- CRATE_LOAD (R428–R430, R519, R673): the command with the bytes of the crate that have come, or further bytes of one that is under
way (DESIGN CHOICE, log entry 89). -/
def execCrateLoad (h : CmdHdr) (caddr : DWord) (clen : Word) (data : HostRead) (s : State) : Host.Outcome State Fault Refusal :=
  if s.receiving h then .next (s.crateRead h data)
  else .next (s.decode h (.onM 0x20 (badAt (decide (caddr.toNat % 64 ≠ 0)) 16) [byteField 16 8 caddr.toNat, byteField 24 4 clen.toNat]) (fun s =>
    (s.begin_ h 0x20 (.crate clen.toNat [] none)).crateRead h data))

/-- R435, R673: a RESIDE that starts a load in entry e; crates of a load before it are abandoned. -/
def State.startLoad (s : State) (h : CmdHdr) (e : Nat) (ident : DWord) (place : List (Nat × Nat × Nat)) : State :=
  match s.downBlock (placeBlocks place) with
  | some f => s.reply h 0x21 0x010C (leBytes 1 f)
  | none => ((s.abandonCrates false e).beginLoad e ident place).begin_ h 0x21 (.reside e)

/-- R435, R437: RESIDE of model list number m of the loaded image. -/
def State.reside (s : State) (h : CmdHdr) (m : Nat) : State :=
  match s.image with
  | none => s.reply h 0x21 0x010A s.moduleCode
  | some im =>
    match im.models[m]? with
    | none => s.reply h 0x21 0x0103 (leBytes 2 16)
    | some (ident, _) =>
      let place := im.placement m
      match s.modelEntry m with
      | some e =>
        match (s.invOf e).state with
        | 3 => s.reply h 0x21 0 (leBytes 1 e)
        | 5 => s.reply h 0x21 0x0109 [0x22]
        | 2 => s.startLoad h e ident place
        | _ => s.begin_ h 0x21 (.reside e)
      | none =>
        match (List.range 16).find? (fun e => (s.invOf e).state == 0) with
        | none => s.reply h 0x21 0x0201 (leBytes 1 s.candidate)
        | some e =>
          if place.any (fun q => s.ownedBlock q.1 q.2.1) then s.reply h 0x21 0x0201 (leBytes 1 s.candidate)
          else s.startLoad h e ident place

/-- RESIDE (R435, R437, R673). -/
def execReside (h : CmdHdr) (model : Byte) (s : State) : Host.Outcome State Fault Refusal :=
  .next (s.decode h (.onM 0x21 none [byteField 16 1 model.toNat]) (fun s => s.reside h model.toNat))

/-- R437, R439, R673: EVICT of an entry: its blocks are Loading from then on, and a load of it ends. -/
def State.evict (s : State) (h : CmdHdr) (e : Nat) : State :=
  let v := s.invOf e
  if v.state = 0 then s.reply h 0x22 0 []
  else if 0 < v.refs then s.reply h 0x22 0x0301 (leBytes 2 v.refs)
  else if v.state = 5 then s.begin_ h 0x22 (.evict e)
  else
    match s.downBlock (placeBlocks v.place) with
    | some f => s.reply h 0x22 0x010C (leBytes 1 f)
    | none =>
      let s := ((s.setKinds (placeBlocks v.place) 3).setInv e { v with state := 5 }).abandonCrates false e
      (s.finishSet (.model e) 0x0300 (leBytes 4 0xFFFFFFFF ++ leBytes 1 0)).begin_ h 0x22 (.evict e)

/-- EVICT (R437, R439, R673). -/
def execEvict (h : CmdHdr) (entry : Byte) (s : State) : Host.Outcome State Fault Refusal :=
  .next (s.decode h (.onM 0x22 (badAt (decide (16 ≤ entry.toNat)) 16) [byteField 16 1 entry.toNat]) (fun s => s.evict h entry.toNat))

/-- EVICTION_COMPLETE (R439): of an entry whose blocks can all be reached. -/
def execEvictionComplete (entry : Fin 16) (s : State) : Host.Outcome State Fault Refusal :=
  if s.ready && (s.downBlock (placeBlocks (s.invOf entry.val).place)).isNone then .next (s.endEvict entry.val) else .next s

/-! ### Adapters (R442–R447) -/

/-- R445, R446: ADAPTER LOAD of an identifier other than zero. -/
def State.loadAdapter (s : State) (h : CmdHdr) (slot : Nat) (version : BitVec 16) (ident : DWord) : State :=
  let st (b : Nat) : Nat := (s.bank (2 * slot + b)).state
  if [0, 1].any (fun b => st b == 1 || st b == 4) then s.reply h 0x28 0x0109 [0x28]
  else match [0, 1].find? (fun b => st b == 0) with
  | none =>
    let refs := (([0, 1].find? (fun b => st b == 3)).map (fun b => (s.bank (2 * slot + b)).refs)).getD 0
    s.reply h 0x28 1 (leBytes 2 refs)
  | some b =>
    let v := s.bank (2 * slot + b)
    match s.downBlock v.place with
    | some f => s.reply h 0x28 0x010C (leBytes 1 f)
    | none =>
      (s.setBank (2 * slot + b) { v with state := 1, ident := ident, version := version, refs := 0
                                         set := { CrateSet.reset with since := s.pkt } }).begin_ h 0x28 (.adapter slot b)

/-- R445, R446: ADAPTER LOAD with identifier zero clears the slot. -/
def State.clearAdapter (s : State) (h : CmdHdr) (slot : Nat) : State :=
  match s.currentBank slot with
  | none => s.reply h 0x28 0 [0]
  | some b => ((s.markEdge slot).retireBank (2 * slot + b)).reply h 0x28 0 (leBytes 1 b)

/-- R516: the parameters of ADAPTER LOAD. -/
def parAdapter (slot : Byte) (version : BitVec 16) (ident : DWord) : List Field :=
  [byteField 16 1 slot.toNat, byteField 18 2 version.toNat, byteField 24 8 ident.toNat]

/-- ADAPTER_LOAD (R445, R446), which came with minor 1. -/
def execAdapterLoad (h : CmdHdr) (slot : Byte) (version : BitVec 16) (ident : DWord) (s : State) :
    Host.Outcome State Fault Refusal :=
  let k : CmdSpec := ⟨0x28, 1, false, onModule, badAt (decide (64 ≤ slot.toNat)) 16, parAdapter slot version ident⟩
  .next (s.decode h k (fun s =>
    if ident = 0 then s.clearAdapter h slot.toNat else s.loadAdapter h slot.toNat version ident))

/-- BANK_ZEROING_DONE (R445): of a bank whose blocks can all be reached. -/
def execBankZeroingDone (slot : Fin 64) (bank : Fin 2) (s : State) : Host.Outcome State Fault Refusal :=
  let i := 2 * slot.val + bank.val
  if s.ready && (s.downBlock (s.bank i).place).isNone then .next (s.endZeroing i) else .next s

/-- CRATE_ARRIVAL_TIMEOUT (R431, R432). -/
def execCrateArrivalTimeout (c : SetRef) (s : State) : Host.Outcome State Fault Refusal :=
  if !s.ready then .next s
  else match c with
  | .model e => .next (s.arrivalTimeout (.model e.val))
  | .bank slot b => .next (s.arrivalTimeout (.bank (2 * slot.val + b.val)))

end Sys2Proof.Machine
end

