-- ==== Sys2Proof/Machine/Startup.lean ====
section
/-! DEFINITION. Start-up (R623–R633, R640–R644), the module reset (R526, R589, R590), the journal's copies (R636, R639),
the control pins and the port resets (R624, R625, R652, R653). -/

namespace Sys2Proof.Machine

/-! ### Journal entries (R634, R636, R639) -/

/-- R634: the 16 bytes of an entry. -/
def JEnt.bytes (e : JEnt) : List Byte :=
  let b := leBytes 2 e.start.toNat ++ leBytes 1 e.step ++
    leBytes 1 (e.kind + (if e.alt then 8 else 0) + 16 * e.result + (if e.fr then 128 else 0)) ++ leBytes 1 e.unit ++
    leBytes 1 e.attempts ++ leBytes 2 e.fail.toNat ++ leBytes 4 e.time.toNat
  b ++ leBytes 4 (crc32c b)

/-- R636: the oldest entry that waits reaches the flash; a full ring first loses its oldest sector. -/
def State.flashWrite (s : State) : State :=
  match s.jQueue with
  | [] => s
  | e :: q =>
    let l := if 8192 ≤ s.jFlash.length then s.jFlash.drop 256 else s.jFlash
    { s with jFlash := l ++ [e], jQueue := q }

/-- JOURNAL_FLASH_WRITE (R636). -/
def execJournalFlashWrite (s : State) : Host.Outcome State Fault Refusal :=
  if s.powered then .next s.flashWrite else .next s

/-- R516: the parameters of JOURNAL. -/
def parJournal (action jaddr jlen : Nat) : List Field := [byteField 16 1 action, byteField 24 8 jaddr, byteField 32 4 jlen]

/-- R516, R517: JADDR and JLEN of the packet at the front of a ring, of which a JOURNAL that clears uses only the alignment of the
address. A command that has not been fetched has them 0. -/
def State.journalFields (s : State) (h : CmdHdr) : Nat × Nat :=
  match ((s.die h.port.val).subRing h.ring.val).fetched with
  | p :: _ => (pktField p (byteField 24 8 0), pktField p (byteField 32 4 0))
  | [] => (0, 0)

/-- JOURNAL_COPY (R639): the flash entries, oldest first, in whole entries up to JLEN bytes. -/
def execJournalCopy (h : CmdHdr) (jaddr : DWord) (jlen : Word) (s : State) : Host.Outcome State Fault Refusal :=
  .next (s.decode h (.onM 0x58 (badAt (decide (jaddr.toNat % 64 ≠ 0)) 24) (parJournal 0 jaddr.toNat jlen.toNat)) (fun s =>
    let b := ((s.jFlash.take (jlen.toNat / 16)).map JEnt.bytes).flatten
    s.writeHost h 0x58 jaddr b 0 (leBytes 4 b.length)))

/-- JOURNAL_CLEAR (R517, R639). -/
def execJournalClear (h : CmdHdr) (s : State) : Host.Outcome State Fault Refusal :=
  let j := s.journalFields h
  .next (s.decode h (.onM 0x58 (badAt (decide (j.1 % 64 ≠ 0)) 24) (parJournal 1 j.1 j.2)) (fun s =>
    { s with jAon := [], jFlash := [], jQueue := [] }.reply h 0x58 0 (leBytes 4 0)))

/-! ### Firmware and keys (R640–R644) -/

/-- R642: header bytes 0 to 111 of a firmware copy. -/
def fwHeader (c : FirmwareCopy) : List Byte :=
  leBytes 4 c.magic.toNat ++ leBytes 2 c.svn.toNat ++ leBytes 1 (if c.commit then 1 else 0) ++ leBytes 1 0 ++
    leBytes 4 c.bodyLen.toNat ++ leBytes 4 0 ++ keyBytes c.key

/-- R638, R642: the failure code of a firmware copy that step 4 does not accept. -/
def State.firmwareBad (s : State) (flashMiB : Nat) (c : FirmwareCopy) : Option (BitVec 16) :=
  if flashMiB < 64 ∨ c.magic ≠ 0x57464B58 ∨ !c.zeroRest ∨ 2 ^ 24 < 256 + c.bodyLen.toNat ∨ c.body.length ≠ c.bodyLen.toNat ∨
      c.svn.toNat < s.fuses.svn then some 4
  else if beNat (sha384 (keyBytes c.key)) ≠ s.fuses.vkey.toNat ∨ !(ecdsaOk c.key c.sig (sha384 (fwHeader c ++ c.body))) then some 3
  else none

/-- R644: the keys as step 4 unseals them: slot 0 is empty where its key is not that of OKEY0. -/
def State.unseal (s : State) (k : KeyRecords) : State :=
  let own (i : Nat) : Option (BitVec 768) := match k.owner.getD i none with
    | some v => if i = 0 ∧ beNat (sha384 (keyBytes v)) ≠ s.fuses.okey0.toNat then none else some v
    | none => none
  { s with ownerKeys := [0, 1, 2, 3].foldl (fun (t : Tbl (Option (BitVec 768))) i => Tbl.set none t i (own i)) []
           crateKeys := [0, 1, 2, 3].foldl (fun (t : Tbl (Option (BitVec 256))) i => Tbl.set none t i (k.crate.getD i none)) []
           nonce := k.counter }

/-! ### Steps and units (R627–R629) -/

/-- R589, R627: the steps of a start and of a module reset, by their numbers in the journal. -/
def bootSteps (kind : Nat) : List Nat :=
  if kind = 0 then [1, 2, 3, 4, 5, 6, 7, 8, 9, 10, 11, 12] else [1, 2, 3, 4, 5, 6, 7, 8, 9, 13, 10, 11, 12]

/-- The units of a kind, in order. -/
def unitsOfKind (k : Fin 5) (n : Nat) : List BootUnit := (List.range n).map (fun i => ⟨k, BitVec.ofNat 8 i⟩)

/-- R627, R635: the units of a step. -/
def bootUnits (step : Nat) : List BootUnit :=
  match step with
  | 1 => unitsOfKind 1 4
  | 9 => unitsOfKind 2 16 ++ [⟨0, 0⟩]
  | 10 => unitsOfKind 4 4
  | 11 => unitsOfKind 3 32
  | 5 => unitsOfKind 2 16
  | 6 => unitsOfKind 2 16
  | 7 => unitsOfKind 2 16
  | 8 => unitsOfKind 2 16
  | 13 => unitsOfKind 2 16
  | _ => [⟨0, 0⟩]

/-- R629: whether a unit is benched, or its edge die is. -/
def State.unitBenched (s : State) (u : BootUnit) : Bool :=
  let n := u.num.toNat
  match u.kind.val with
  | 1 => (s.die n).failed
  | 2 => (s.floor n).mode == .benched
  | 3 => (s.die (n / 8)).failed
  | 4 => (s.die n).failed
  | _ => false

/-- R627: the lead that an election by either method gives. -/
def State.electLead (s : State) (alt : Bool) : DieId :=
  let live := (List.range 4).filter (fun d => !(s.die d).failed)
  let pick := if alt then live.find? (fun d => s.failedLead.map (·.val) != some d) else live.head?
  Fin.ofNat 4 (pick.getD (live.headD 0))

/-- R638: what the model itself checks of an attempt at a step. -/
def State.bootCheck (s : State) (b : Boot) (step : Nat) (alt : Bool) : Option (BitVec 16) :=
  if step = 4 ∧ b.kind ≠ 2 then s.firmwareBad b.env.flashMiB (if alt then b.env.copyB else b.env.copyA) else none

/-- R441, R590: re-verifies a floor's blocks in a module reset; a block that does not match loses its V. -/
def State.recheckFloor (s : State) (f : Nat) : State :=
  let lost := (s.floor f).vsramLow
  (s.digestTable.filter (fun q => q.2.v && tileFloor (q.1 / 64) == f)).foldl (fun (s : State) (q : Nat × Digest) =>
    let v := s.tile (q.1 / 64)
    let hurt := (List.range 512).any (fun w => poisonMark (Tbl.get 0 v.cellarMark (512 * (q.1 % 64) + w)))
    if lost ∨ hurt ∨ crc64 (v.block (q.1 % 64)) ≠ q.2.crc.toNat then s.setDigest q.1 { q.2 with v := false } else s) s

/-- R590: a model after a module reset: Resident where every block of it still matches, else Incomplete; one that was
being evicted is gone. -/
def State.keepModel (s : State) (e : Nat) : State :=
  let v := s.invOf e
  let whole := v.state == 3 && v.place.all (fun q => s.floorUp (tileFloor q.1) && (s.digest (64 * q.1 + q.2.1)).v)
  if v.state = 0 ∨ whole then s
  else
    let s := (placeBlocks v.place).foldl (fun (s : State) (q : Nat × Nat) => s.setDigest (64 * q.1 + q.2) .reset) s
    if v.state = 5 then s.setInv e .reset
    else s.setInv e { v with state := 2, set := .reset, slices := 0, crates := 0, bad := 0 }

/-- R590: zeros in every block that is no Weight block of a Resident model, and the kinds of the blocks. -/
def State.keepWeights (s : State) : State :=
  let s := (List.range 16).foldl (fun (s : State) (e : Nat) => s.keepModel e) s
  let place (k : Nat) : List (Nat × Nat) := (s.inv.filter (fun q => q.2.state == k)).flatMap (fun q => placeBlocks q.2.place)
  let kept := place 3
  let part := place 2
  let s := (s.tiles.map (·.1)).foldl (fun (s : State) (t : Nat) =>
    let v := s.tile t
    let mine (b : Nat) : Bool := kept.contains (t, b)
    s.setTile t { v with cellar := v.cellar.filter (fun c => mine (c.1 / 4096))
                         cellarMark := v.cellarMark.filter (fun q => mine (q.1 / 512)), kinds := [] }) s
  let s := s.setKinds kept 1
  s.setKinds part 3

/-- The mask of the links that ended step 11 benched or Absent gains one. -/
def State.linkLost (s : State) (i : Nat) : State := { s with linksDown := s.linksDown ||| BitVec.ofNat 32 (2 ^ i) }

/-- R632: whether any floor, edge die, port or link is benched, or a link Absent. -/
def State.anyDown (s : State) : Bool :=
  (List.range 16).any (fun f => (s.floor f).mode == .benched) || (List.range 4).any (fun d => (s.die d).failed) ||
    s.portsDown != 0 || s.linksDown != 0

/-- R642: the firmware copy that step 4 of this start accepted raises the fuse where it says so. -/
def State.commitSvn (s : State) (b : Boot) : State :=
  let alt := (s.jAon.filter (fun e => e.step == 4 && e.kind == 0 && e.result == 0)).getLast?.map (·.alt)
  let c := if alt = some true then b.env.copyB else b.env.copyA
  if b.kind ≠ 2 ∧ c.commit ∧ s.fuses.svn < c.svn.toNat then { s with fuses := { s.fuses with svn := c.svn.toNat } } else s

/-- R627 step 12, R632, R590: the module is ready, at G2. -/
def State.bootReady (s : State) (b : Boot) : State :=
  let s := if b.kind = 0 then s else s.keepWeights
  let s := (s.commitSvn b).writeVcore 2
  { s with ready := true, resetting := false, boot := none, holdAll := false, gear := 2, cgear := 2, failStep := 0, failCode := 0
           degraded := s.anyDown, alertDegraded := s.alertDegraded || s.anyDown }

/-- R276: the trained settings of a floor's stairs. -/
def trainedOf (l : List (Nat × Nat)) (f : Nat) (m : Tbl Nat) : Tbl Nat :=
  (l.filter (fun q => tileFloor q.1 == f)).foldl (fun (m : Tbl Nat) (q : Nat × Nat) => Tbl.set 0 m q.1 q.2) m

/-- R55: the sampling phases that the alignment of a floor's receiving lanes has set, each at the centre of the window in
which its 256 pattern words read correctly. The read pointer of a lane lies three landings behind its write pointer: the word
of tread n is read in tread n + 3 (R51). -/
def trainedLanes (l : List (Nat × Int)) (f : Nat) (m : Tbl Int) : Tbl Int :=
  (l.filter (fun q => tileFloor (q.1 / 4) == f)).foldl (fun (m : Tbl Int) (q : Nat × Int) => Tbl.set 0 m q.1 q.2) m

/-- R627, R589: what a passed attempt at a step does for its unit. -/
def State.bootWork (s : State) (b : Boot) (step : Nat) (u : BootUnit) (alt : Bool) : State :=
  let n := u.num.toNat
  match step with
  | 3 => { s with lead := s.electLead alt }
  | 4 =>
    if b.kind = 2 then s
    else
      let c := if alt then b.env.copyB else b.env.copyA
      let s := { s with firmware := (c.fwMajor, c.fwMinor) }
      if b.kind = 0 then s.unseal b.env.keys else s
  | 5 => ({ s with vsram := 700 }.writeVcore 2).lockPll n alt
  | 7 => if b.kind = 2 then s else { s with stairTrained := trainedOf b.env.stair n s.stairTrained }
  | 8 => if b.kind = 2 then s else { s with hatchPhase := trainedLanes b.env.phases n s.hatchPhase }
  | 10 => s.setDie n { s.die n with portUp := true }
  | 11 => s.setLink n { Link.reset with mode := .training 4, alt := alt }
  | 12 => s.bootReady b
  | 13 => s.recheckFloor n
  | _ => s

/-! ### Running the steps (R628–R630) -/

/-- R630: a start that fails stops at its step, and asserts ALERT_N. -/
def State.bootFail (s : State) (step : Nat) (code : BitVec 16) : State :=
  { s with ready := false, boot := none, resetting := true, holdAll := true, gear := 0, failStep := step, failCode := code
           alertFailed := true
           failedLead := if step ≤ 3 then s.failedLead else some s.lead }

/-- R629: benches a unit. -/
def State.benchUnit (s : State) (u : BootUnit) (alt : Bool) : State :=
  let n := u.num.toNat
  match u.kind.val with
  | 1 => { s.setDie n { s.die n with failed := true } with benchedDies := s.benchedDies ||| BitVec.ofNat 4 (2 ^ n) }
  | 2 => s.benchFloor n
  | 3 => (s.setLink n { Link.reset with alt := alt }).linkLost n
  | 4 => { s with portsDown := s.portsDown ||| BitVec.ofNat 4 (2 ^ n) }
  | _ => s

/-- R630: whether a unit that has just been benched ends the start. -/
def State.benchStops (s : State) (u : BootUnit) : Bool :=
  u.kind == 0 || decide (4 < ((List.range 16).filter (fun f => (s.floor f).mode == .benched)).length)

/-- What a unit of a step leads to: the next, a stop with a failure code, or a wait in an attempt. -/
inductive BootGo where
  | go
  | stop (code : BitVec 16)
  | wait (attempt : Nat)
  deriving DecidableEq, Repr

/-- R629: what the result of a step on a unit leads to. -/
def State.bootSettle (s : State) (b : Boot) (step : Nat) (u : BootUnit) (res : StepRes) (alt : Bool) : State × BootGo :=
  match res with
  | .passed => (s.bootWork b step u alt, .go)
  | .absent => (if step = 11 then (s.setLink u.num.toNat { Link.reset with alt := alt }).linkLost u.num.toNat else s, .go)
  | .failed c =>
    let s := s.benchUnit u alt
    (s, if s.benchStops u then .stop c else .go)
  | .hung n => (s, .wait n)

/-- R629, R652: a step on one unit; a benched one is skipped, and a port in reset holds its step 10. -/
def State.bootUnit (s : State) (b : Boot) (step : Nat) (u : BootUnit) : State × BootGo :=
  if s.unitBenched u then (s.journal step u (s.firstMethod step u) 3 0 false 1, .go)
  else if step = 10 ∧ (s.die u.num.toNat).perst then (s, .wait 0)
  else
    let r := s.runUnit b.env.attempts step u false (fun alt => s.bootCheck b step alt)
    r.1.bootSettle b step u r.2.1 r.2.2

/-- R630: the conditions on the units of a step taken together, once it has ended. -/
def State.stepFails (s : State) (step : Nat) : Option (BitVec 16) :=
  let live := (List.range 4).filter (fun d => !(s.die d).failed)
  if step = 1 ∧ live.length < 3 then some 7
  else if step = 10 ∧ live.all (fun d => !(s.die d).portUp) then
    some ((s.jAon.filter (fun e => e.step == 10 && e.result == 1)).getLast?.map (·.fail) |>.getD 2)
  else none

/-- R636: at the start of step 4 the lead takes the flash copy where the always-on one was lost. -/
def State.takeJournal (s : State) (b : Boot) (step : Nat) : State :=
  if step = 4 ∧ b.kind = 0 ∧ !b.env.vaonKept then
    let l := s.jFlash ++ s.jQueue
    { s with jAon := l.drop (l.length - 1024) }
  else s

/-- R55, R625: the hatches of every floor are aligned, and all tread counters are released together, at G2. -/
def State.releaseCounters (s : State) : State := { s with holdAll := false, gear := 2 }

/-- R628–R630: runs steps on units in order. -/
def State.bootRun (s : State) (b : Boot) : List (Nat × BootUnit) → State
  | [] => s
  | (step, u) :: rest =>
    let r := (s.takeJournal b step).bootUnit b step u
    match r.2 with
    | .stop c => r.1.bootFail step c
    | .wait n => { r.1 with boot := some { b with step := step, hung := some (step, u, n) } }
    | .go =>
      let ends := (rest.head?).map (·.1) != some step
      match (if ends then r.1.stepFails step else none) with
      | some c => r.1.bootFail step c
      | none => (if ends && step == 8 then r.1.releaseCounters else r.1).bootRun b rest

/-- The units of the steps that follow a step, after the given unit of it. -/
def bootRest (kind step : Nat) (after : List BootUnit) : List (Nat × BootUnit) :=
  after.map (fun u => (step, u)) ++
    (((bootSteps kind).dropWhile (· != step)).drop 1).flatMap (fun k => (bootUnits k).map (fun u => (k, u)))

/-- All the units of all the steps. -/
def bootAll (kind : Nat) : List (Nat × BootUnit) := (bootSteps kind).flatMap (fun k => (bootUnits k).map (fun u => (k, u)))

/-- Goes on after a unit whose step has been settled. -/
def State.bootAfter (r : State × BootGo) (b : Boot) (step : Nat) (u : BootUnit) : State :=
  match r.2 with
  | .stop c => r.1.bootFail step c
  | .wait n => { r.1 with boot := some { b with step := step, hung := some (step, u, n) } }
  | .go =>
    let after := ((bootUnits step).dropWhile (· != u)).drop 1
    match (if after.isEmpty then r.1.stepFails step else none) with
    | some c => r.1.bootFail step c
    | none => ({ (if after.isEmpty && step == 8 then r.1.releaseCounters else r.1) with boot := none }).bootRun b
        (bootRest b.kind step after)

/-- START_STEP_TIMEOUT (R628, R629, R638): the attempt in progress fails with the timeout code. -/
def execStartStepTimeout (s : State) : Host.Outcome State Fault Refusal :=
  match s.boot with
  | none => .next s
  | some b =>
    match b.hung with
    | none => .next s
    | some (step, u, n) =>
      if n = 0 then .next s
      else
        let alt := (s.jAon.filter (fun e => e.step == step && e.kind == u.kind.val && e.unit == u.num.toNat)).getLast?.map (·.alt) |>.getD false
        let s := s.journal step u alt 1 1 false n
        let r : State × BootGo := if n = 1 then
            let b' := if twoMethods step then !alt else alt
            let q := s.attempt b.env.attempts step u false b' 2 (s.bootCheck b step b')
            q.1.bootSettle b step u q.2 b'
          else s.bootSettle b step u (.failed 1) alt
        .next (State.bootAfter r b step u)

/-! ### The start (R624, R625, R636) -/

/-- What stands outside the machine and outlasts it: what waits in its queue, what it has issued, and the free values. -/
def State.outside (s new : State) : State :=
  { new with pending := s.pending, hostOut := s.hostOut, readOut := s.readOut, smbOut := s.smbOut, free := s.free }

/-- The edge dies of a module that restarts: only the level of each PERST_N is known. -/
def State.freshDies (s : State) : Tbl Die :=
  (List.range 4).foldl (fun (t : Tbl Die) d => Tbl.set Die.reset t d { Die.reset with perst := (s.die d).perst }) []

/-- What every restart keeps: the fuses, the flash, the always-on journal, the trims of R394, the fault log (R536), the
manufacturing test mode (R555), and the count of starts. -/
def State.restarted (s : State) : State :=
  s.outside { State.reset with
    fuses := s.fuses, jAon := s.jAon, jFlash := s.jFlash, jQueue := s.jQueue, trims := s.trims, startNo := s.startNo + 1
    failedLead := s.failedLead, testMode := s.testMode, flog := s.flog, flogW := s.flogW, flogR := s.flogR, flogLost := s.flogLost
    dies := s.freshDies, powered := true, mreset := false, pwrgd := true, resetting := true, holdAll := true }

/-- VAON fell: the part of the journal and the trims that it feeds are lost. -/
def State.vaonLost (s : State) : State := { s with jAon := [], trims := [] }

/-- R624, R625, R627: a start: every state but that of `restarted` is cleared, and the twelve steps run. -/
def State.beginStart (s : State) (env : StartEnv) : State :=
  let s := if env.vaonKept then s else s.vaonLost
  { s.restarted with vcore := 600, vsram := 750 }.bootRun { step := 1, hung := none, env := env, kind := 0 } (bootAll 0)

/-- R625: whether a room's ramp-down has not ended. -/
def State.ramping (s : State) : Bool := s.rooms.any (fun q => decide (0 < q.2.fall.getD 0))

/-- R624: MRESET_N is deasserted: the start begins, or waits while PWRGD_IN is low. -/
def State.released (s : State) (env : StartEnv) : State :=
  if env.pwrgd then s.beginStart env else { s with powered := true, mreset := false, pwrgd := false }

/-- R625: a deassertion that came during the ramp-down takes effect at its end. -/
def State.startDue (s : State) : State :=
  match s.startWait with
  | some env => if s.ramping ∨ s.tripped then s else { s with startWait := none }.released env
  | none => s

/-- START (R624, R625, R627): the deassertion of MRESET_N; it waits for the end of a ramp-down, and the start waits while PWRGD_IN
is low. -/
def execStart (env : StartEnv) (s : State) : Host.Outcome State Fault Refusal :=
  if !s.mreset || s.tripped then .next s
  else if s.ramping then .next { s with startWait := some env }
  else .next (s.released env)

/-- ALLOWANCE_TICK (R69, R70, R381, R384): an always-on tick; an image being loaded is in place by then (R512), and a start
that waits for the end of a ramp-down begins (R625). -/
def execAllowanceTick (s : State) : Host.Outcome State Fault Refusal :=
  if !s.powered then .next s
  else
    let s := { s with pkt := s.pkt + 1 }
    let s := (s.rooms.map (·.1)).foldl (fun (s : State) (r : Nat) =>
      let s := if s.clockRuns r then s.setRoom r (s.room r).heldTick else s
      let s := s.allowTick r
      if s.pkt % 64 = 0 then s.setRoom r (s.room r).endInterval else s) s
    let s := s.gearTick.loadDone.startDue.unpackAll
    let s := (List.range 16).foldl (fun (s : State) (f : Nat) => s.resetDue f) s
    .next { s with limsIn := (s.holdLim, s.wdog), goalsIn := s.classes }.refuseDue


/-- PWRGD_IN_RISE (R624): it begins the start that waits for it. -/
def execPwrgdInRise (env : StartEnv) (s : State) : Host.Outcome State Fault Refusal :=
  if s.tripped then .next s
  else if s.mreset then .next { s with pwrgd := true, startWait := s.startWait.map (fun e => { e with pwrgd := true }) }
  else if s.pwrgd then .next s
  else .next (s.beginStart env)

/-- Takes away every command and packet that the edge dies hold. -/
def State.dropCommands (s : State) : State :=
  (List.range 4).foldl (fun (s : State) (d : Nat) =>
    let e := s.die d
    s.setDie d { e with sub := e.sub.foldl (fun (t : Tbl SubRing) q => Tbl.set .reset t q.1 { q.2 with fetched := [], mute := 0 }) e.sub })
    { s with cmds := [] }

/-- MRESET_N_ASSERT (R625, R657): every command ends without a reply, every room ramps down, every clock stops. -/
def execMresetNAssert (s : State) : Host.Outcome State Fault Refusal :=
  if s.mreset then .next { s with startWait := none }
  else
    let s := s.dropCommands
    let s := s.upRooms.foldl (fun (s : State) (r : Nat) => s.rampDown r) s
    .next { s with mreset := true, ready := false, resetting := true, boot := none, holdAll := true, change := none, restart := none
                   alertFailed := false }

/-- POWER_REMOVAL (R536, R555, R623, R625): what is not in the fuses or the flash is lost. -/
def execPowerRemoval (s : State) : Host.Outcome State Fault Refusal :=
  .next (s.outside { State.reset with
    fuses := s.fuses, jFlash := s.jFlash, startNo := s.startNo, failedLead := s.failedLead
    dies := s.freshDies, powered := false, pwrgd := false })

/-! ### The module reset (R526, R589, R590) -/

/-- An environment of an event that carries none: every attempt passes. -/
def bareEnv : StartEnv :=
  let c : FirmwareCopy := { magic := 0, svn := 0, commit := false, bodyLen := 0, key := 0, sig := 0, zeroRest := true, body := []
                            fwMajor := 0, fwMinor := 0 }
  { attempts := [], pwrgd := true, vaonKept := true, copyA := c, copyB := c, keys := ⟨[], [], 0⟩, flashMiB := 64, stair := [], phases := [] }

/-- R512, R526: a module reset ends the commands in progress: those of port p without a reply. -/
def State.interruptAll (s : State) (p : Option Nat) : State :=
  ({ s with cmds := s.cmds.filter (fun c => some c.h.port.val != p) }).finishAll (fun _ => true) (fun _ => (0x010B, [3]))

/-- R590: what a module reset keeps. -/
def State.resetKept (s : State) : State :=
  let kept (t : Tile) : Tile := { Tile.reset with cellar := t.cellar, cellarMark := t.cellarMark, kinds := t.kinds }
  { s.restarted with
    inv := s.inv.map (fun q => (q.1, { q.2 with refs := 0, useOvf := false }))
    digests := s.digestTable.filter (fun q => q.2.ownerKind == 1), mirrors := s.digestTable.filter (fun q => q.2.ownerKind == 1)
    tiles := s.tiles.foldl (fun (t : Tbl Tile) q => Tbl.set Tile.reset t q.1 (kept q.2)) []
    floors := s.floors.foldl (fun (t : Tbl Floor) q => Tbl.set Floor.reset t q.1 { Floor.reset with vsramLow := q.2.vsramLow }) []
    ownerKeys := s.ownerKeys, crateKeys := s.crateKeys, nonce := s.nonce, firmware := s.firmware, stairTrained := s.stairTrained, hatchPhase := s.hatchPhase
    vcore := s.vcore, vsram := s.vsram, lead := s.lead, alertThrottle := s.alertThrottle
    throttleSeen := s.throttleSeen, alertDegraded := s.alertDegraded }

/-- R589, R590: a module reset; `env` is absent where its event carries none. -/
def State.moduleReset (s : State) (p : Option Nat) (env : Option StartEnv) : State :=
  let kind := if env.isSome then 1 else 2
  (s.interruptAll p).resetKept.bootRun { step := 1, hung := none, env := env.getD bareEnv, kind := kind } (bootAll kind)

/-- MODULE_RESET (R511, R526, R589): the reply is written first. -/
def execModuleReset (h : CmdHdr) (env : StartEnv) (s : State) : Host.Outcome State Fault Refusal :=
  .next (s.decode h (.onM 0x4A none) (fun s =>
    s.moduleCmd h 0x4A (fun s => (s.reply h 0x4A 0 []).moduleReset (some h.port.val) (some env))))

/-! ### Ports (R652, R653) -/

/-- Whether a command is a CRATE LOAD of port p. -/
def Cmd.crateOf (c : Cmd) (p : Nat) : Bool :=
  match c.work with
  | .crate _ _ _ => c.h.port.val == p
  | _ => false

/-- R652: what a port reset does: commands that have been fetched run to their end without a reply, but for a crate under way,
which counts as not arrived. The rings are disabled, and their bases and indices stand (R544, R545). -/
def State.portReset (s : State) (p : Nat) (perst : Bool) : State :=
  let left := s.cmds.filter (fun (c : Cmd) => !c.crateOf p)
  let s := { s with cmds := left.map (fun (c : Cmd) => if c.h.port.val = p then { c with mute := true } else c) }
  let e := s.die p
  let sub := e.sub.foldl (fun (t : Tbl SubRing) q =>
    Tbl.set .reset t q.1 { q.2 with size := 0, avail := 0, open_ := 0, mute := q.2.fetched.length }) []
  let comp := e.comp.foldl (fun (t : Tbl CompRing) q => Tbl.set .reset t q.1 { q.2 with size := 0 }) []
  let outp := e.outp.foldl (fun (t : Tbl OutRing) q => Tbl.set .reset t q.1 { q.2 with size := 0 }) []
  let s := s.setDie p { e with sub := sub, comp := comp, outp := outp, neg := none, negWas := e.neg.or e.negWas, deferred := []
                               d3 := false, perst := e.perst || perst, portUp := e.portUp && !perst }
  (s.ledger.filter (fun q => sessDie q.1 == p && q.2.state != .free && q.2.state != .closing)).foldl
    (fun (s : State) (q : Nat × Sess) => s.closeSession q.1) s

/-- PORT_RESET (R652). -/
def execPortReset (p : DieId) (cause : PortResetCause) (s : State) : Host.Outcome State Fault Refusal :=
  if !s.powered then .next s else .next (s.portReset p.val (cause == .perst))

/-- PERST_N_DEASSERT (R652): the port's link can come up, and a start that waits for it goes on. -/
def execPerstNDeassert (p : DieId) (env : StartEnv) (s : State) : Host.Outcome State Fault Refusal :=
  let s := s.setDie p.val { s.die p.val with perst := false }
  let u : BootUnit := ⟨4, BitVec.ofNat 8 p.val⟩
  match s.boot with
  | some b =>
    if b.hung = some (10, u, 0) then
      let b := { b with env := { b.env with attempts := env.attempts } }
      .next (State.bootAfter (s.bootUnit b 10 u) b 10 u)
    else .next s
  | none =>
    if s.ready && !(s.die p.val).failed && !(s.portsDown.getLsbD p.val) then .next (s.setDie p.val { s.die p.val with portUp := true })
    else .next s

/-- D3HOT_ENTRY (R653). -/
def execD3hotEntry (p : DieId) (s : State) : Host.Outcome State Fault Refusal :=
  let e := s.die p.val
  if e.failed || !e.portUp then .next s else .next (s.setDie p.val { e with d3 := true })

/-- D0_RETURN (R653): the writes that wait are issued in their original order. -/
def execD0Return (p : DieId) (s : State) : Host.Outcome State Fault Refusal :=
  let e := s.die p.val
  if !e.d3 then .next s
  else .next (e.deferred.foldl (fun (s : State) (op : HostOp) => s.emit p.val op) (s.setDie p.val { e with d3 := false, deferred := [] }))

end Sys2Proof.Machine
end

