-- ==== Sys2Proof/Machine/Faults.lean ====
section
/-! DEFINITION. The timeouts of a held room (R61, R568–R574), the loss of clocks (R68, R561), the failure of an edge die and
the takeover of the lead (R560, R591, R631), the test mode (R555), scrub reads (R296–R298) and a loss of VSRAM (R583). -/

namespace Sys2Proof.Machine

/-! ### Recovery in progress (R573) -/

/-- R573: whether the current work of link i names a tile: it brings a record to it, or it sends on a record of its send ring. -/
def State.linkNames (s : State) (i t : Nat) : Bool :=
  match s.portOf i with
  | none => false
  | some k =>
    (s.port k).begun.any (fun r => pathLevel r.dpath == 0 && pathTile r.dpath == t) ||
      (!((s.port k).txQ.isEmpty) && (s.sendRingsOf (i / 8)).any (fun q => q.1 == t))

/-- R573: whether a recovery-in-progress bit names a tile, its floor, or a delivery into it. -/
def State.recovering (s : State) (t : Nat) : Bool :=
  let resends (v : Tile) (p : Req → Bool) : Bool := v.reqs.any (fun (q : Nat × Option Req) => match q.2 with
    | some r => r.waiting && p r
    | none => false)
  !(s.floorUp (tileFloor t)) || s.aborting.any (fun a => a.1 == tileRoom t && unitHas a.2 t) ||
    resends (s.tile t) (fun _ => true) ||
    s.tiles.any (fun (q : Nat × Tile) => resends q.2 (fun r => r.pkt.destTile == some t)) ||
    s.links.any (fun (q : Nat × Link) => (q.2.retrying || q.2.nakking) && s.linkNames q.1 t)

/-! ### The hold limit (R61) -/

/-- HOLD_LIMIT (R61, R567, R568): a record only, which names the tile and the source. -/
def execHoldLimit (r : RoomId) (s : State) : Host.Outcome State Fault Refusal :=
  let m := s.room r.val
  match m.holdSrcs with
  | [] => .next s
  | h :: _ =>
    if s.ready && s.floorUp (roomFloor r.val) && decide (s.limsIn.1 ≤ m.holdTicks) && !m.holdFired then
      let act := if s.recovering h.tile then 5 else 0
      let det := leBytes 1 h.kind ++ leBytes 2 h.what ++ leBytes 4 m.holdTicks
      let s := s.record { s.tileRec h.tile 0x72 0 act none none det with rec_ := 1 }
      .next ((s.setRoom r.val { s.room r.val with holdFired := true }).event (roomPath r.val) evHoldLimit)
    else .next s

/-! ### The hang watchdog (R569, R570) -/

/-- Whether an entered haul instruction pushes to tile T and sets its flag f. -/
def QEntry.setsFlag (e : QEntry) (T f : Nat) : Bool :=
  haulKind e.d.op e.ops == .push && hFL e.d.hdr && hTF e.d.hdr == f &&
    (match findOp e.ops 0 with
    | some o => dtileOf o.desc.rtile == some T
    | none => false)

/-- Whether an operand of entered work covers an attic line. -/
def Latched.coversLine (o : Latched) (l : Nat) : Bool := o.desc.inBounds (32 * l) 32

/-- R569: whether entered work of tile t writes (or, for an outbound line, reads) shelf line l of tile T. -/
def QEntry.serves (e : QEntry) (t T l : Nat) (write : Bool) : Bool :=
  let kind := haulKind e.d.op e.ops
  let dst := findOp e.ops 0
  let src := findOp e.ops 1
  let names (o : Option Latched) : Bool := match o with
    | some o => dtileOf o.desc.rtile == some T && o.coversLine l
    | none => false
  let own (o : Option Latched) : Bool := match o with
    | some o => o.coversLine l
    | none => false
  if write then (kind == .push && names dst) || (kind == .pull && t == T && own dst) else kind == .pull && names src

/-- R569: the tiles that a hold source awaits. -/
def State.awaitedTiles (s : State) (h : HoldSrc) : List Nat :=
  let having (p : Nat → QEntry → Bool) : List Nat :=
    (s.tiles.filter (fun (q : Nat × Tile) => (q.2.queue 3).any (p q.1))).map (·.1)
  match h.kind with
  | 1 =>
    let bars := s.barriers.filter (fun (q : Nat × List Arrival) => q.2.any (fun a => a.tile == h.tile && a.flag == h.what))
    (having (fun _ e => e.setsFlag h.tile h.what) ++ bars.flatMap (fun (q : Nat × List Arrival) =>
      (s.members q.1).filter (fun t => !(q.2.any (fun a => a.tile == t))))).eraseDups
  | 2 => having (fun t e => e.serves t h.tile h.what true)
  | _ => having (fun t e => e.serves t h.tile h.what false)

/-- Whether a hold source waits on a line of the slot table of its tile's pipeline. -/
def State.slotWait (s : State) (h : HoldSrc) : Option PipeRec :=
  if h.kind = 2 then
    (s.pipeRec (s.tile h.tile).pipe.toNat).bind (fun r => if r.tline ≤ h.what ∧ h.what < r.tline + 5 then some r else none)
  else none

/-- Whether a line lies in a ring of `len` lines from line `first`. -/
def inRing (first len line : Nat) : Bool := decide (first ≤ line) && decide (line < first + len)

/-- R569: the edge-die deliveries that are to fill line l of tile T: each with its die and whether it waits on the host or a link.
They are a slot table on its way, input records, and records of links, of which the last under reception waits on its link. A slot
table waits on the host where the output ring that stops its pipeline's host output is full; one whose report was discarded, or
whose delivery was abandoned, is an outside wait too, as R570 treats it (DEDUCED, log entry 108). -/
def State.fillingDies (s : State) (T l : Nat) : List (Nat × Bool) :=
  let table := s.pipes.filterMap (fun r =>
    let q := s.pipe r.pipe
    if (s.tile T).pipe.toNat != r.pipe || !(inRing r.tline 5 l) then none
    else if q.outHeld || q.waitFault || q.sends.any (·.abandoned) then some (r.home, true)
    else if q.sends.any (fun x => x.floor == tileFloor T && !x.acked) then some (r.home, false) else none)
  let input := s.pipes.filterMap (fun r =>
    if pathTile r.ipath == T && inRing r.iline r.ilen l && !((s.pipe r.pipe).inRecs.isEmpty) then some (r.home, false) else none)
  let covers (r : LinkRec) : Bool := pathLevel r.dpath == 0 && pathTile r.dpath == T && inRing r.dline (r.payload.length / 32) l
  let links := s.ports.filterMap (fun (q : Nat × Port) =>
    if (q.2.inFlight.toList ++ q.2.waiting).any covers then some (q.1 / 4, false)
    else if q.2.begun.any covers then some (q.1 / 4, true) else none)
  table ++ input ++ links

/-- R569: the edge-die reads that are to empty line l of tile T: an output ring's, which waits on the host while its host output ring
is full, and a send ring's, which waits on a link while no live port reaches its module or the port has bytes it cannot send. -/
def State.drainingDies (s : State) (T l : Nat) : List (Nat × Bool) :=
  let output := s.pipes.filterMap (fun r =>
    let q := s.pipe r.pipe
    if pathTile r.opath == T && inRing r.oline r.olen l && !q.outPart.isEmpty then some (r.home, q.outHeld) else none)
  let sends := [0, 1, 2, 3].flatMap (fun d => (s.sendRingsOf d).zipIdx.filterMap (fun q =>
    let part := (s.sendRing d q.2).part
    if q.1.1 != T || part.isEmpty || !(decide (q.1.2.1 ≤ l)) || !(decide (l ≤ q.1.2.2)) then none
    else some (d, match s.portTo d (leNat (part.take 8) % 2 ^ 14) with
      | none => headerLegal (part.take 32)
      | some k => !((s.port k).txQ.isEmpty))))
  output ++ sends

/-- R569: the edge die that a hold source awaits where it awaits no tile, and whether that die waits on the host or a link: it is
the lead, waiting on the links of the gang, for a gang barrier at which the module's own members have all arrived. -/
def State.awaitedDie (s : State) (h : HoldSrc) : Option (Nat × Bool) :=
  match h.kind with
  | 1 => if s.barriers.any (fun (q : Nat × List Arrival) => s.gangBars.contains q.1 &&
      q.2.any (fun a => a.tile == h.tile && a.flag == h.what)) then some (s.lead.val, true) else none
  | k =>
    let l := if k = 2 then s.fillingDies h.tile h.what else s.drainingDies h.tile h.what
    match l.find? (·.2) with
    | some q => some q
    | none => l.head?

/-- A node of the wait graph: its hold source, what it awaits, and its class: 1 on a cycle, 2 outside the module, 3
unresolved, 0 none of these. -/
structure HangNode where
  src : HoldSrc
  tiles : List Nat
  die : Option Nat
  cls : Nat
  deriving DecidableEq, Repr

/-- The places reached from some places in at most a number of steps. -/
def reachFrom (next : Nat → List Nat) : Nat → List Nat → List Nat
  | 0, l => l
  | n + 1, l => reachFrom next n (l ++ l.flatMap next).eraseDups

/-- R569: the wait graph of the held tiles of the module. -/
def State.waitGraph (s : State) : List HangNode :=
  let srcs := s.upRooms.flatMap (fun r => (s.room r).holdSrcs)
  let held := (srcs.map (·.tile)).eraseDups
  let aw := srcs.map (fun h => (h, s.awaitedTiles h))
  let next (t : Nat) : List Nat := (aw.filter (fun q => q.1.tile == t)).flatMap (fun q => q.2.filter held.contains)
  aw.map (fun q =>
    let die := if q.2.isEmpty then s.awaitedDie q.1 else none
    let back := (q.2.filter held.contains).any (fun u => (reachFrom next held.length [u]).contains q.1.tile)
    ⟨q.1, q.2, die.map (·.1), if back then 1 else match die with
      | some d => if d.2 then 2 else 0
      | none => if q.2.isEmpty then 3 else 0⟩)

/-- R569, R570: the reports in order: cycles, waits outside the module, unresolved waits. -/
def State.hangReports (s : State) : List (List HangNode) :=
  let g := s.waitGraph
  let cyc := g.filter (fun n => n.cls == 1)
  let held := (cyc.map (·.src.tile)).eraseDups
  let next (t : Nat) : List Nat := (cyc.filter (fun n => n.src.tile == t)).flatMap (fun n => n.tiles.filter held.contains)
  let meets (a b : Nat) : Bool := (reachFrom next held.length [a]).contains b && (reachFrom next held.length [b]).contains a
  let groups := (held.map (fun t => held.filter (fun u => meets t u))).eraseDups
  groups.map (fun ts => cyc.filter (fun n => ts.contains n.src.tile)) ++
    (g.filter (fun n => n.cls == 2)).map (fun n => [n]) ++ (g.filter (fun n => n.cls == 3)).map (fun n => [n])

/-- R567: the wait kind of a hang record. -/
def State.waitKind (s : State) (h : HoldSrc) : Nat :=
  match h.kind with
  | 1 => if s.barriers.any (fun (q : Nat × List Arrival) => q.2.any (fun a => a.tile == h.tile && a.flag == h.what)) then 5
    else if h.waiter = 4 then 1 else 2
  | 2 => 3
  | _ => 4

/-- R567: the detail of a hang record. -/
def State.hangDetail (s : State) (n : HangNode) (first count : Nat) : List Byte :=
  let party := match n.die, n.tiles.head? with
    | some d, _ => leBytes 4 d
    | none, some t => leBytes 4 (tilePath t).toNat
    | none, none => leBytes 4 0xFFFFFFFF
  leBytes 1 (s.waitKind n.src) ++ leBytes 1 n.src.waiter ++ leBytes 2 n.src.what ++ party ++ leBytes 2 first ++ leBytes 2 count

/-- R570: the floors that a wait on a slot table fences: those that hold held tiles of a pipeline whose report was
discarded or whose table was abandoned. -/
def State.slotFloors (s : State) (n : HangNode) : List Nat :=
  match s.slotWait n.src with
  | some r =>
    let q := s.pipe r.pipe
    if q.waitFault || q.sends.any (·.abandoned) then
      (((s.upRooms.flatMap (fun r => (s.room r).holdSrcs)).filter (fun h => (s.tile h.tile).pipe.toNat == r.pipe)).map
        (fun h => tileFloor h.tile)).eraseDups
    else []
  | none => []

/-- R570: acts on a report: aborts its tiles, or fences and resets floors. -/
def State.hangAct (s : State) (tiles floors : List Nat) : State :=
  let s := tiles.foldl (fun (s : State) (t : Nat) => if (s.tile t).phase == .running then s.abortTile t else s) s
  floors.foldl (fun (s : State) (f : Nat) => s.fenceReset f) s

/-- R570, R573: writes the records of one report, and acts on it or defers the action; a wait outside the module only
re-arms the watchdog of its room. -/
def State.hangReport (s : State) (l : List HangNode) : State :=
  match l with
  | [] => s
  | n :: _ =>
    let tiles := if n.cls = 2 then [] else (l.map (·.src.tile)).eraseDups
    let floors := s.slotFloors n
    let late := l.any (fun m => s.recovering m.src.tile)
    let act := if late then 5 else if !floors.isEmpty then 2 else if n.cls = 2 then 0 else 1
    let first := s.flogW.toNat
    let room := tileRoom n.src.tile
    let s := l.foldl (fun (s : State) (m : HangNode) =>
      (s.record { s.tileRec m.src.tile 0x73 n.cls act none none (s.hangDetail m first l.length) with
        rec_ := 6, edge := s.lead.val }).event (tilePath m.src.tile) evHang) s
    if tiles.isEmpty && floors.isEmpty then s.setRoom room { s.room room with wdogTicks := 0 }
    else if late then { s with hangWait := s.hangWait ++ [⟨room, tiles, floors⟩] }
    else s.hangAct tiles floors

/-- R573: what a deferred report waits for: whether each tile that it names still holds, and whether no recovery in progress names
one. A report that only fences floors names the held tiles of those floors. -/
def State.hangDue (s : State) (w : Deferred) : Bool × Bool :=
  let holds (t : Nat) : Bool := s.floorUp (tileFloor t) && (s.room (tileRoom t)).holdSrcs.any (fun h => h.tile == t)
  let named := if w.tiles.isEmpty then
      (s.upRooms.flatMap (fun r => (s.room r).holdSrcs.map (·.tile))).filter (fun t => w.floors.contains (tileFloor t))
    else w.tiles
  (!named.isEmpty && named.all holds, named.all (fun t => !(s.recovering t)))

/-- R573: takes up the deferred reports: those whose hold has ended are dropped, those whose recovery has ended act. -/
def State.hangAgain (s : State) : State :=
  s.hangWait.foldl (fun (s : State) (w : Deferred) =>
    match s.hangDue w with
    | (false, _) => s
    | (true, true) => s.hangAct w.tiles w.floors
    | (true, false) => { s with hangWait := s.hangWait ++ [w] }) { s with hangWait := [] }

/-- HANG_WATCHDOG (R568–R570, R573): of a room; a report of it that is deferred is taken up first. -/
def execHangWatchdog (r : RoomId) (s : State) : Host.Outcome State Fault Refusal :=
  let m := s.room r.val
  if s.ready && s.floorUp (roomFloor r.val) && !m.holdSrcs.isEmpty && decide (s.limsIn.2 ≤ m.wdogTicks) then
    if s.hangWait.any (fun w => w.room == r.val) then .next s.hangAgain
    else .next (s.hangReports.foldl (fun (s : State) (l : List HangNode) => s.hangReport l) s)
  else .next s

/-! ### Clocks (R68, R561) -/

/-- R567: the record of a clock loss; `r` and `e` are its recorder and edge-die code, `ago` how many ticks before it the last good
edge was (DEDUCED, log entry 96: the 5 µs of R561 for a room, none for the loss of a reference or a lock). -/
def State.clockFault (s : State) (p : Word) (sub act r e floor room ago : Nat) : State :=
  s.record (s.unitRec p 0x75 sub act r e (leBytes 1 floor ++ leBytes 1 room ++ leBytes 8 (s.pkt - ago)))

/-- REFERENCE_LOSS (R68, R561): the always-on domain runs on its own oscillator, every PLL stops and every room holds. -/
def execReferenceLoss (s : State) : Host.Outcome State Fault Refusal :=
  if !s.powered || s.refLost then .next s
  else
    let s := s.clockFault modulePath 1 3 4 0 0xFF 0xFF 0
    let s := (List.range 16).foldl (fun (s : State) (f : Nat) => s.setFloor f { s.floor f with pllLock := false }) s
    let s := s.upRooms.foldl (fun (s : State) (r : Nat) => s.setRoom r { s.room r with fellBack := true }) s
    .next { s with refLost := true, fallback := true }

/-- REFERENCE_RETURN (R68, R561): a module reset follows. -/
def execReferenceReturn (env : StartEnv) (s : State) : Host.Outcome State Fault Refusal :=
  if !s.refLost then .next s
  else
    let s := { s with refLost := false, fallback := false }
    if !s.powered || s.mreset || s.tripped || !s.pwrgd then .next s
    else .next (s.moduleReset none (some env))

/-- PLL_UNLOCK (R561). -/
def execPllUnlock (f : FloorId) (s : State) : Host.Outcome State Fault Refusal :=
  if s.ready && s.floorUp f.val && !s.refLost then
    let s := s.clockFault (floorPath f.val) 2 2 3 0 f.val 0xFF 0
    .next ((s.setFloor f.val { s.floor f.val with pllLock := false }).fenceReset f.val)
  else .next s

/-- ROOM_CLOCK_ABSENT (R561): no edge of a room for 5 µs while its gear is above G0. -/
def execRoomClockAbsent (r : RoomId) (s : State) : Host.Outcome State Fault Refusal :=
  if s.clockRuns r.val then
    .next ((s.clockFault (roomPath r.val) 3 2 1 0 (roomFloor r.val) (r.val % 16) 125).fenceReset (roomFloor r.val))
  else .next s

/-! ### Edge dies (R560, R591, R631) -/

/-- R591, R631: the live die with the next code, counted modulo 4. -/
def State.nextLead (s : State) (d : Nat) : DieId :=
  Fin.ofNat 4 (([d + 1, d + 2, d + 3].find? (fun e => !(s.die (e % 4)).failed)).getD d)

/-- R591: the failed die's links go down. -/
def State.dieLinks (s : State) (d : Nat) : State :=
  let s := [0, 1, 2, 3].foldl (fun (s : State) (k : Nat) =>
    let p := s.port (4 * d + k)
    (s.setPort (4 * d + k) { p with rxBytes := [], waiting := [], inFlight := none }).portDown (4 * d + k) (8 * d)) s
  (List.range 8).foldl (fun (s : State) (l : Nat) => s.setLink (8 * d + l) .reset) s

/-- R591: frees a session of a failed die; the new lead zeroes the kept blocks of its seats. -/
def State.orphan (s : State) (i : Nat) (lead : DieId) : State :=
  let bs := ((s.sess i).route.flatMap (fun q => s.seatBlocks q.pipe.toNat q.seat.toNat)).eraseDups
  let s := s.freeSession i
  bs.foldl (fun (s : State) (q : Nat × Nat) => s.dieSend lead .zero
    { dtile := BitVec.ofNat 19 (dtileField q.1), cellar := true, line := BitVec.ofNat 13 (128 * q.2), half := false, cnt := 0 }
    1 (padTo 16 (leBytes 2 128)) .freed) s

/-- The failed die leaves service: its failed mark, its benched bit and the count of failures. -/
def State.dieDown (s : State) (d : Nat) : State :=
  { s.setDie d { s.die d with failed := true } with
    benchedDies := s.benchedDies ||| BitVec.ofNat 4 (2 ^ d), dieFailures := s.dieFailures + 1 }

/-- What stood at the failed die's port goes with it: its commands, its edge accesses, its received records and the
streams of its rings. -/
def State.dieLost (s : State) (d : Nat) : State :=
  { s with cmds := s.cmds.filter (fun (c : Cmd) => c.h.port.val != d)
           edgeReqs := s.edgeReqs.filter (fun (r : EdgeReq) => r.die.val != d)
           inbox := s.inbox.filter (fun q => q.1.val != d)
           voids := s.voids.filter (fun (v : VoidOut) => v.die != d)
           edgeStreams := s.edgeStreams.filter (fun (e : EdgeStream) => e.die != d)
           sendRings := s.sendRings.filter (fun (r : SendRing) => r.die != d) }

/-- The rest of a first die failure: its links, its sessions, the run, and a boot that has too few dies left. -/
def State.dieRest (s : State) (d : Nat) : State :=
  let s := s.dieLinks d
  let lead := if s.lead.val = d then s.nextLead d else s.lead
  let s := ((s.ledger.filter (fun q => sessDie q.1 == d && q.2.state != .free)).map (·.1)).foldl
    (fun (s : State) (i : Nat) => s.orphan i lead) s
  let s := s.endRun
  match s.boot with
  | some b => if ((List.range 4).filter (fun e => !(s.die e).failed)).length < 3 then s.bootFail b.step 7 else s
  | none => s

/-- R560, R591, R440: what the failure of an edge die does; a second one before a module reset brings that. -/
def State.dieFails (s : State) (d : Nat) : State :=
  let s := s.dieDown d
  if 2 ≤ s.dieFailures then s.moduleReset none none else (s.dieLost d).dieRest d

/-- Whether an edge die works: the module has its supplies, is not held in reset, and the die has not failed. -/
def State.dieWorks (s : State) (d : Nat) : Bool := s.powered && !s.mreset && !(s.die d).failed

/-- EDGE_DIE_FAILURE (R559, R560, R591, R631). -/
def execEdgeDieFailure (d : DieId) (sub : Fin 5) (addr : Word) (s : State) : Host.Outcome State Fault Refusal :=
  if s.dieWorks d.val then
    .next ((s.record (s.unitRec modulePath 0x7A (sub.val + 1) 4 5 d.val (leBytes 4 addr.toNat))).dieFails d.val)
  else .next s

/-- FIRMWARE_WATCHDOG (R557, R560, R567): the edge die fails. -/
def execFirmwareWatchdog (d : DieId) (pc : Word) (s : State) : Host.Outcome State Fault Refusal :=
  if s.dieWorks d.val then
    .next ((s.record (s.unitRec modulePath 0x7B 0 4 5 d.val (leBytes 1 d.val ++ leBytes 4 pc.toNat))).dieFails d.val)
  else .next s

/-- R512, R591: whether the lead's firmware carries out a command in progress. -/
def Cmd.ofLead (c : Cmd) : Bool :=
  match c.work with
  | .stopSet _ => true
  | .stopClear _ => true
  | .abort _ _ _ _ _ => c.h.ring != 0
  | .floorReset _ => true
  | .gear _ => true
  | .reside _ => true
  | .evict _ => true
  | .adapter _ _ => true
  | .record _ _ => false
  | .close _ => false
  | .crate _ _ _ => false
  | .cancel _ _ => false
  | .load _ _ => true

/-- LEAD_TAKEOVER (R591, R631): the next live die takes over from a failed lead; a gear change not yet announced ends with
its command; a start past step 3 resumes from the beginning of its step. -/
def execLeadTakeover (s : State) : Host.Outcome State Fault Refusal :=
  if !s.powered || s.mreset || !(s.die s.lead.val).failed then .next s
  else
    let d := s.nextLead s.lead.val
    if (s.die d.val).failed then .next s
    else
      let s := { s.setDie d.val { s.die d.val with took := true } with lead := d }
      let s := s.finishAll Cmd.ofLead (fun _ => (0x010B, [4]))
      let s := { s with change := s.change.filter (fun (c : GearChange) => c.target.isSome) }
      match s.boot with
      | some b =>
        if 3 < b.step then
          let s := { s with boot := none }
          .next (s.bootRun { b with hung := none } (bootRest b.kind b.step (bootUnits b.step)))
        else .next s
      | none => .next s

/-! ### Test mode, scrubbing, VSRAM -/

/-- TEST_MODE_ENTRY (R555, R660): while MRESET_N is asserted. -/
def execTestModeEntry (s : State) : Host.Outcome State Fault Refusal :=
  if s.powered && s.mreset then .next { s with testMode := true } else .next s

/-- R296: the line that the walk of a tile's weight blocks stands at: the first at or after its pointer in a block of kind Weight. -/
def Tile.scrubTarget (v : Tile) : Option Nat :=
  if v.kind (v.scrubWeight / 128) = 1 then some v.scrubWeight
  else (((List.range 64).map (fun i => (v.scrubWeight / 128 + 1 + i) % 64)).find? (fun b => v.kind b == 1)).map (· * 128)

/-- R275, R296: a tile after the scrub read of a line at one of its pointers: of a cellar line, in two transfers that the users
before the scrub have left in the last periods, of an attic line in slots of its bank that the last period left: the walks that
stand there go on. `none` where no walk stands at the line, or there was no room for it. -/
def Tile.scrubStep (v : Tile) (cellar : Bool) (line : Nat) : Option Tile :=
  if cellar then
    let weight := v.scrubTarget == some line
    let whole := v.scrubWhole == line
    if (weight || whole) && v.stairFree == 2 then
      some { v with stairFree := 0, scrubWeight := if weight then (line + 1) % 8192 else v.scrubWeight
                    scrubWhole := if whole then (line + 1) % 8192 else v.scrubWhole }
    else none
  else if v.scrubAttic = line ∧ !(v.banksUsed.getLsbD (line % 4)) then
    some { v with scrubAttic := (line + 1) % 2048, banksUsed := v.banksUsed ||| BitVec.ofNat 4 (2 ^ (line % 4)) }
  else none

/-- SCRUB_READ (R275, R296–R298): of a line of a live tile's attic or cellar at which a scrubber stands. -/
def execScrubRead (t : TileId) (cellar : Bool) (line : BitVec 13) (s : State) : Host.Outcome State Fault Refusal :=
  if !(s.tileOn t.val) then .next s
  else match (s.tile t.val).scrubStep cellar line.toNat with
  | some v => .next ((s.setTile t.val v).scrubLine t.val cellar line.toNat)
  | none => .next s

/-- VSRAM_BELOW_RANGE (R583, R663): every block of a floor fails its next re-verification; that of a floor which stands at
the rejoin stop is made again. -/
def execVsramBelowRange (s : State) : Host.Outcome State Fault Refusal :=
  if !s.powered then .next s
  else
    .next ((List.range 16).foldl (fun (s : State) (f : Nat) =>
      let s := s.setFloor f { s.floor f with vsramLow := true }
      if (s.floor f).atRejoin then (s.reverifyFloor f).restoreKinds f else s) s)

end Sys2Proof.Machine
end

