-- ==== Sys2Proof/Machine/Sideband.lean ====
section
/-! DEFINITION. SMBus (R654–R656) and the provisioning messages of owner and crate keys (R645–R647). -/

namespace Sys2Proof.Machine

/-! ### Block reads (R654, R655) -/

/-- An answer over SMBus, which the module gives while it has its supplies and MRESET_N is deasserted. -/
def State.smbus (s : State) (b : List Byte) : State :=
  if s.powered && !s.mreset then { s with smbOut := s.smbOut ++ [b] } else s

/-- R654: the identity block. -/
def State.identity (s : State) : List Byte :=
  leBytes 2 0x1620 ++ leBytes 1 s.fuses.grade.val ++ leBytes 1 (Config.liveRows s.fuses.grade) ++ leBytes 8 s.fuses.serial.toNat ++
    [s.fuses.stepping, s.firmware.1, s.firmware.2, 0]

/-- R655: the status block. -/
def State.statusBlock (s : State) : List Byte :=
  let flags := (if s.ready then 1 else 0) + (if s.degraded then 2 else 0) + (if s.failStep ≠ 0 then 4 else 0) +
    (if s.throttleSeen then 8 else 0) + (if s.tripped then 16 else 0)
  let down := ((List.range 4).filter (fun d => (s.die d).failed || !(s.die d).portUp)).foldl (fun m d => m + 2 ^ d) 0
  leBytes 1 (s.unitCode modulePath) ++ leBytes 1 flags ++ leBytes 2 s.startNo.toNat ++ leBytes 2 (s.floorMask (· == .benched)) ++
    leBytes 1 (s.benchedDies.toNat + 16 * down) ++ leBytes 1 s.failStep ++ leBytes 2 s.failCode.toNat ++
    leBytes 4 s.linksDown.toNat ++ leBytes 2 0

/-- R548, R654: the highest reading of each floor. -/
def State.temperatures (s : State) : List Byte :=
  (List.range 16).flatMap (fun f => leBytes 2 ((highest ((s.floor f).readings f)).2.2 % 65536).toNat)

/-- SMBUS_IDENTITY_READ (R654). -/
def execSmbusIdentityRead (s : State) : Host.Outcome State Fault Refusal := .next (s.smbus s.identity)

/-- R655, R657: what a status read clears: the degraded cause, and the throttled one once no sensor reads above 95 °C. -/
def State.statusRead (s : State) : State :=
  if s.powered && !s.mreset then
    { s with alertDegraded := false, throttleSeen := false, alertThrottle := s.alertThrottle && decide (1520 < (highest s.readings).2.2) }
  else s

/-- R657: whether ALERT_N is asserted. -/
def State.alert (s : State) : Bool := s.alertDegraded || s.alertFailed || s.alertThrottle || s.tripped

/-- SMBUS_STATUS_READ (R632, R655, R657). -/
def execSmbusStatusRead (s : State) : Host.Outcome State Fault Refusal := .next (s.smbus s.statusBlock).statusRead

/-- SMBUS_TEMPERATURE_READ (R548, R654). -/
def execSmbusTemperatureRead (s : State) : Host.Outcome State Fault Refusal := .next (s.smbus s.temperatures)

/-! ### Messages (R645–R647) -/

/-- The reply of a message, which stands until the next one. -/
def State.msgReply (s : State) (b : List Byte) : State := { s with msg := { s.msg with reply := b } }

/-- The key of an owner slot. -/
def State.ownerKey (s : State) (i : Nat) : Option (BitVec 768) := if i < 4 then Tbl.get none s.ownerKeys i else none
/-- Puts an owner slot. -/
def State.setOwner (s : State) (i : Nat) (k : Option (BitVec 768)) : State := { s with ownerKeys := Tbl.set none s.ownerKeys i k }
/-- The key of a crate slot. -/
def State.crateKey (s : State) (i : Nat) : Option (BitVec 256) := Tbl.get none s.crateKeys i
/-- Puts a crate slot. -/
def State.setCrateKey (s : State) (i : Nat) (k : Option (BitVec 256)) : State := { s with crateKeys := Tbl.set none s.crateKeys i k }

/-- R645: the status with which a signed message is refused, or 0: the module not ready, a slot illegal or empty, the
signature, the NONCE. -/
def State.msgCheck (s : State) (slotOk : Bool) (signer : Nat) (nonce : Word) (body : List Byte) (sig : BitVec 768) : Nat :=
  if !s.ready then 4
  else if !slotOk then 5
  else match s.ownerKey signer with
    | none => 5
    | some k =>
      if !(ecdsaOk k sig (sha384 (leBytes 8 s.fuses.serial.toNat ++ body))) then 1
      else if nonce.toNat ≤ s.nonce.toNat then 2 else 0

/-- R645: an accepted message sets the counter to its NONCE; a refused one has only its status. -/
def State.signed (s : State) (status : Nat) (nonce : Word) (run : State → State) : State :=
  if status = 0 then ({ run s with nonce := nonce }).msgReply [0] else s.msgReply (leBytes 1 status)

/-- R645: DEVICE KEY READ. -/
def State.deviceKeyRead (s : State) : State :=
  if !s.ready then s.msgReply [4]
  else s.msgReply (0 :: leBytes 8 s.fuses.serial.toNat ++ keyBytes Config.devicePublic)

/-- R645: OWNER CLAIM: once, while OKEY0 is all zero. -/
def State.ownerClaim (s : State) (key : BitVec 768) : State :=
  if !s.ready then s.msgReply [4]
  else if s.fuses.okey0 ≠ 0 then s.msgReply [1]
  else
    let h := BitVec.ofNat 384 (beNat (sha384 (keyBytes key)))
    (({ s with fuses := { s.fuses with okey0 := h } }).setOwner 0 (some key)).msgReply [0]

/-- R645: OWNER SET of slots 1 to 3. -/
def State.ownerSet (s : State) (slot : Byte) (nonce : Word) (key sig : BitVec 768) : State :=
  let k := slot.toNat
  let st := s.msgCheck (decide (1 ≤ k) && decide (k < 4)) 0 nonce ([3, slot] ++ leBytes 4 nonce.toNat ++ keyBytes key) sig
  s.signed st nonce (fun s => s.setOwner k (some key))

/-- R645: OWNER CLEAR of slots 1 to 3. -/
def State.ownerClear (s : State) (slot : Byte) (nonce : Word) (sig : BitVec 768) : State :=
  let k := slot.toNat
  let ok := decide (1 ≤ k) && decide (k < 4) && (s.ownerKey k).isSome
  s.signed (s.msgCheck ok 0 nonce ([4, slot] ++ leBytes 4 nonce.toNat) sig) nonce (fun s => s.setOwner k none)

/-- R646: the key that CRATE KEY SET unwraps. -/
def State.unwrap (s : State) (slot : Byte) (e : BitVec 768) (iv : BitVec 96) (wrapped : BitVec 256) (gtag : BitVec 128) :
    Option (BitVec 256) :=
  let p := keyHalves e
  if !(onCurve p.1 p.2) then none
  else
    let x := beBytes 48 (Config.deviceShared e).toNat
    let kek := (sha384 (x ++ leBytes 8 s.fuses.serial.toNat ++ [slot])).take 32
    (gcmOpen kek (beBytes 12 iv.toNat) [] (beBytes 32 wrapped.toNat) (beBytes 16 gtag.toNat)).map (fun b => BitVec.ofNat 256 (beNat b))

/-- R645, R646: CRATE KEY SET. -/
def State.crateKeySet (s : State) (slot signer : Byte) (nonce : Word) (e : BitVec 768) (iv : BitVec 96) (wrapped : BitVec 256)
    (gtag : BitVec 128) (sig : BitVec 768) : State :=
  let body := [5, slot, signer] ++ leBytes 4 nonce.toNat ++ keyBytes e ++ beBytes 12 iv.toNat ++ beBytes 32 wrapped.toNat ++
    beBytes 16 gtag.toNat
  let st := s.msgCheck (decide (slot.toNat < 4)) signer.toNat nonce body sig
  match (if st = 0 then s.unwrap slot e iv wrapped gtag else none) with
  | some k => s.signed st nonce (fun s => s.setCrateKey slot.toNat (some k))
  | none => s.signed (if st = 0 then 3 else st) nonce id

/-- R645: CRATE KEY CLEAR. -/
def State.crateKeyClear (s : State) (slot signer : Byte) (nonce : Word) (sig : BitVec 768) : State :=
  let k := slot.toNat
  let ok := decide (k < 4) && (s.crateKey k).isSome
  s.signed (s.msgCheck ok signer.toNat nonce ([6, slot, signer] ++ leBytes 4 nonce.toNat) sig) nonce (fun s => s.setCrateKey k none)

/-- R645, R656: a whole message executes; one of no listed code and length has no effect and no reply. -/
def State.message (s : State) (b : List Byte) : State :=
  let at_ (i n : Nat) : List Byte := (b.drop i).take n
  let num (i n : Nat) : Nat := leNat (at_ i n)
  let byte (i : Nat) : Byte := b.getD i 0
  let word (i : Nat) : Word := BitVec.ofNat 32 (num i 4)
  let key (i : Nat) : BitVec 768 := key768 (at_ i 96)
  match (byte 0).toNat, b.length with
  | 1, 1 => s.deviceKeyRead
  | 2, 97 => s.ownerClaim (key 1)
  | 3, 198 => s.ownerSet (byte 1) (word 2) (key 6) (key 102)
  | 4, 102 => s.ownerClear (byte 1) (word 2) (key 6)
  | 5, 259 => s.crateKeySet (byte 1) (byte 2) (word 3) (key 7) (BitVec.ofNat 96 (beNat (at_ 103 12)))
      (BitVec.ofNat 256 (beNat (at_ 115 32))) (BitVec.ofNat 128 (beNat (at_ 147 16))) (key 163)
  | 6, 103 => s.crateKeyClear (byte 1) (byte 2) (word 3) (key 7)
  | _, _ => s.msgReply []

/-- R656: a fragment: sequence 0 begins a message, the next one expected continues it, any other discards it; the last
executes it. -/
def State.fragment (s : State) (fb : Byte) (body : List Byte) : State :=
  let q := fb.toNat % 128
  let m := s.msg
  if q = 0 ∨ q = m.next then
    let parts := (if q = 0 then [] else m.parts) ++ body
    if fb.getLsbD 7 then ({ s with msg := { m with parts := [], next := 0 } }).message parts
    else { s with msg := { m with parts := parts, next := q + 1 } }
  else { s with msg := { m with parts := [], next := 0 } }

/-- MESSAGE_FRAGMENT (R654, R656): a block write whose PEC is wrong has no effect. -/
def execMessageFragment (fb : Byte) (body : List Byte) (pecGood : Bool) (s : State) : Host.Outcome State Fault Refusal :=
  if s.powered && !s.mreset && pecGood && decide (1 ≤ body.length) && decide (body.length ≤ 254) then .next (s.fragment fb body)
  else .next s

/-- MESSAGE_REPLY_READ (R656). -/
def execMessageReplyRead (s : State) : Host.Outcome State Fault Refusal :=
  .next (s.smbus (if s.msg.reply.isEmpty then [0xFF] else s.msg.reply))

/-- DEVICE_KEY_READ (R645). -/
def execDeviceKeyRead (s : State) : Host.Outcome State Fault Refusal := .next s.deviceKeyRead

/-- OWNER_CLAIM (R645). -/
def execOwnerClaim (key : BitVec 768) (s : State) : Host.Outcome State Fault Refusal := .next (s.ownerClaim key)

/-- OWNER_SET (R645, R647). -/
def execOwnerSet (slot : Byte) (nonce : Word) (key sig : BitVec 768) (s : State) : Host.Outcome State Fault Refusal :=
  .next (s.ownerSet slot nonce key sig)

/-- OWNER_CLEAR (R645, R647). -/
def execOwnerClear (slot : Byte) (nonce : Word) (sig : BitVec 768) (s : State) : Host.Outcome State Fault Refusal :=
  .next (s.ownerClear slot nonce sig)

/-- CRATE_KEY_SET (R645–R647). -/
def execCrateKeySet (slot signer : Byte) (nonce : Word) (e : BitVec 768) (iv : BitVec 96) (wrapped : BitVec 256)
    (gtag : BitVec 128) (sig : BitVec 768) (s : State) : Host.Outcome State Fault Refusal :=
  .next (s.crateKeySet slot signer nonce e iv wrapped gtag sig)

/-- CRATE_KEY_CLEAR (R645, R647). -/
def execCrateKeyClear (slot signer : Byte) (nonce : Word) (sig : BitVec 768) (s : State) : Host.Outcome State Fault Refusal :=
  .next (s.crateKeyClear slot signer nonce sig)

end Sys2Proof.Machine
end

