-- ==== Sys2Proof/Machine/TileRows.lean ====
section
/-! DEFINITION. The rows of CLOCK_PERIOD and of a tile's instructions (chapters 03, 06–09): the tile's leader issues the
instruction in its room's current tread, and the engines' starts and completions. -/

namespace Sys2Proof.Machine

/-- CLOCK_PERIOD (R44): one clock period of a room; a difference at the module hub or a sync port resets the module (R360). -/
def execClockPeriod (r : RoomId) (margin : Margin) (cal : List CalResult) (us : List Upset) (s : State) :
    Host.Outcome State Fault Refusal :=
  if s.ready && us.any Machine.Upset.resetsModule then
    .next (((us.filter Machine.Upset.resetsModule).foldl (fun (s : State) (u : Upset) => s.roomUpset r.val u) s).moduleReset none none)
  else .next (s.period r.val margin cal us)

/-- Whether the leader of tile t issues in its room's current tread: the room goes on to the tread, its program treads have
begun, it does not rest, its tile spine is on, and the leader is ready (R84, R85, R121). -/
def State.issues (s : State) (t : TileId) : Bool :=
  let m := s.room (tileRoom t.val)
  s.canTread (tileRoom t.val) && m.begun && (m.restAt m.tread).isNone && !m.spineOff && (s.tile t.val).ready m.tread

/-- R78: tile t becomes `v`, with the leader as it stood before the issue kept for the trailer. -/
def State.issued (s : State) (t : Nat) (v : Tile) : State := s.setTile t { v with begun := some (s.tile t).lead }

/-- R85, R120: the leader of tile t issues an instruction in its room's current tread; a fault of the issue is recorded
and aborts the tile. Where the leader issues nothing, nothing changes. -/
def State.issueRow (s : State) (t : TileId) (g : Guard) (i : TileInstr) : State :=
  if s.issues t then
    match (s.tile t.val).issueAt (s.room (tileRoom t.val)).tread g i with
    | .ok v => s.issued t.val v
    | .fault f => (s.tileFaults t.val 1 [f]).abortTile t.val
    | .waits => s
  else s

/-- The guard of an instruction without one. -/
def noGuard : Guard := ⟨false, false, 0⟩

/-- NOP (R92). -/
def execNop (t : TileId) (g : Guard) (s : State) : Host.Outcome State Fault Refusal :=
  .next (s.issueRow t g .nop)

/-- HALT (R92, R107). -/
def execHalt (t : TileId) (g : Guard) (s : State) : Host.Outcome State Fault Refusal :=
  .next (s.issueRow t g .halt)

/-- TRAP (R92). -/
def execTrap (t : TileId) (g : Guard) (code : BitVec 16) (s : State) : Host.Outcome State Fault Refusal :=
  .next (s.issueRow t g (.trap code))

/-- ADD (R92). -/
def execAdd (t : TileId) (g : Guard) (rd ra rb : BitVec 5) (s : State) : Host.Outcome State Fault Refusal :=
  .next (s.issueRow t g (.alu .add rd ra rb))

/-- SUB (R92). -/
def execSub (t : TileId) (g : Guard) (rd ra rb : BitVec 5) (s : State) : Host.Outcome State Fault Refusal :=
  .next (s.issueRow t g (.alu .sub rd ra rb))

/-- AND (R92). -/
def execAnd (t : TileId) (g : Guard) (rd ra rb : BitVec 5) (s : State) : Host.Outcome State Fault Refusal :=
  .next (s.issueRow t g (.alu .and rd ra rb))

/-- OR (R92). -/
def execOr (t : TileId) (g : Guard) (rd ra rb : BitVec 5) (s : State) : Host.Outcome State Fault Refusal :=
  .next (s.issueRow t g (.alu .or rd ra rb))

/-- XOR (R92). -/
def execXor (t : TileId) (g : Guard) (rd ra rb : BitVec 5) (s : State) : Host.Outcome State Fault Refusal :=
  .next (s.issueRow t g (.alu .xor rd ra rb))

/-- SHL (R92). -/
def execShl (t : TileId) (g : Guard) (rd ra rb : BitVec 5) (s : State) : Host.Outcome State Fault Refusal :=
  .next (s.issueRow t g (.alu .shl rd ra rb))

/-- SHR (R92). -/
def execShr (t : TileId) (g : Guard) (rd ra rb : BitVec 5) (s : State) : Host.Outcome State Fault Refusal :=
  .next (s.issueRow t g (.alu .shr rd ra rb))

/-- SRA (R92). -/
def execSra (t : TileId) (g : Guard) (rd ra rb : BitVec 5) (s : State) : Host.Outcome State Fault Refusal :=
  .next (s.issueRow t g (.alu .sra rd ra rb))

/-- MIN (R92). -/
def execMin (t : TileId) (g : Guard) (rd ra rb : BitVec 5) (s : State) : Host.Outcome State Fault Refusal :=
  .next (s.issueRow t g (.alu .min rd ra rb))

/-- MAX (R92). -/
def execMax (t : TileId) (g : Guard) (rd ra rb : BitVec 5) (s : State) : Host.Outcome State Fault Refusal :=
  .next (s.issueRow t g (.alu .max rd ra rb))

/-- MINU (R92). -/
def execMinu (t : TileId) (g : Guard) (rd ra rb : BitVec 5) (s : State) : Host.Outcome State Fault Refusal :=
  .next (s.issueRow t g (.alu .minu rd ra rb))

/-- MAXU (R92). -/
def execMaxu (t : TileId) (g : Guard) (rd ra rb : BitVec 5) (s : State) : Host.Outcome State Fault Refusal :=
  .next (s.issueRow t g (.alu .maxu rd ra rb))

/-- MUL (R92, R96). -/
def execMul (t : TileId) (g : Guard) (rd ra rb : BitVec 5) (s : State) : Host.Outcome State Fault Refusal :=
  .next (s.issueRow t g (.mul rd ra rb))

/-- ADDI (R92). -/
def execAddi (t : TileId) (g : Guard) (rd ra : BitVec 5) (imm : Word) (s : State) : Host.Outcome State Fault Refusal :=
  .next (s.issueRow t g (.alui .addi rd ra imm))

/-- ANDI (R92). -/
def execAndi (t : TileId) (g : Guard) (rd ra : BitVec 5) (imm : Word) (s : State) : Host.Outcome State Fault Refusal :=
  .next (s.issueRow t g (.alui .andi rd ra imm))

/-- ORI (R92). -/
def execOri (t : TileId) (g : Guard) (rd ra : BitVec 5) (imm : Word) (s : State) : Host.Outcome State Fault Refusal :=
  .next (s.issueRow t g (.alui .ori rd ra imm))

/-- XORI (R92). -/
def execXori (t : TileId) (g : Guard) (rd ra : BitVec 5) (imm : Word) (s : State) : Host.Outcome State Fault Refusal :=
  .next (s.issueRow t g (.alui .xori rd ra imm))

/-- SHLI (R92): the distance is IMM[4:0]. -/
def execShli (t : TileId) (g : Guard) (rd ra imm : BitVec 5) (s : State) : Host.Outcome State Fault Refusal :=
  .next (s.issueRow t g (.alui .shli rd ra (imm.setWidth 32)))

/-- SHRI (R92): the distance is IMM[4:0]. -/
def execShri (t : TileId) (g : Guard) (rd ra imm : BitVec 5) (s : State) : Host.Outcome State Fault Refusal :=
  .next (s.issueRow t g (.alui .shri rd ra (imm.setWidth 32)))

/-- SRAI (R92): the distance is IMM[4:0]. -/
def execSrai (t : TileId) (g : Guard) (rd ra imm : BitVec 5) (s : State) : Host.Outcome State Fault Refusal :=
  .next (s.issueRow t g (.alui .srai rd ra (imm.setWidth 32)))

/-- LI (R92). -/
def execLi (t : TileId) (g : Guard) (rd : BitVec 5) (imm : Word) (s : State) : Host.Outcome State Fault Refusal :=
  .next (s.issueRow t g (.li rd imm))

/-- CMP (R92, R93). -/
def execCmp (t : TileId) (g : Guard) (pd : BitVec 3) (ra rb : BitVec 5) (cc : BitVec 4) (s : State) : Host.Outcome State Fault Refusal :=
  .next (s.issueRow t g (.cmp pd ra rb cc))

/-- CMPI (R92, R93). -/
def execCmpi (t : TileId) (g : Guard) (pd : BitVec 3) (ra : BitVec 5) (imm : Word) (cc : BitVec 4) (s : State) : Host.Outcome State Fault Refusal :=
  .next (s.issueRow t g (.cmpi pd ra imm cc))

/-- PLOG (R92). -/
def execPlog (t : TileId) (g : Guard) (pd pa pb : BitVec 3) (fn : BitVec 4) (s : State) : Host.Outcome State Fault Refusal :=
  .next (s.issueRow t g (.plog pd pa pb fn))

/-- LD (R94). -/
def execLd (t : TileId) (g : Guard) (rd ra : BitVec 5) (imm : Word) (s : State) : Host.Outcome State Fault Refusal :=
  .next (s.issueRow t g (.ld rd ra imm))

/-- ST (R94). -/
def execSt (t : TileId) (g : Guard) (ra rb : BitVec 5) (imm : Word) (s : State) : Host.Outcome State Fault Refusal :=
  .next (s.issueRow t g (.st ra rb imm))

/-- DSW (R95). -/
def execDsw (t : TileId) (g : Guard) (rb : BitVec 5) (hn : BitVec 6) (w : BitVec 3) (s : State) : Host.Outcome State Fault Refusal :=
  .next (s.issueRow t g (.dsw rb hn w))

/-- DSR (R92). -/
def execDsr (t : TileId) (g : Guard) (rd : BitVec 5) (hn : BitVec 6) (w : BitVec 3) (s : State) : Host.Outcome State Fault Refusal :=
  .next (s.issueRow t g (.dsr rd hn w))

/-- SETF (R92, R113). -/
def execSetf (t : TileId) (g : Guard) (f : BitVec 4) (s : State) : Host.Outcome State Fault Refusal :=
  .next (s.issueRow t g (.setf f))

/-- CLRF (R92, R117). -/
def execClrf (t : TileId) (g : Guard) (f : BitVec 4) (s : State) : Host.Outcome State Fault Refusal :=
  .next (s.issueRow t g (.clrf f))

/-- WAITF (R115). -/
def execWaitf (t : TileId) (g : Guard) (f : BitVec 4) (keep : Bool) (s : State) : Host.Outcome State Fault Refusal :=
  .next (s.issueRow t g (.waitf f keep))

/-- BARA (R363). -/
def execBara (t : TileId) (g : Guard) (b : BitVec 5) (f : BitVec 4) (s : State) : Host.Outcome State Fault Refusal :=
  .next (s.issueRow t g (.bara b f))

/-- REDS (R366). -/
def execReds (t : TileId) (g : Guard) (rd ra : BitVec 5) (op : BitVec 4) (b : BitVec 5) (f : BitVec 4) (s : State) : Host.Outcome State Fault Refusal :=
  .next (s.issueRow t g (.reds rd ra op b f))

/-- BR (R98, R100). -/
def execBr (t : TileId) (g : Guard) (target : BitVec 10) (s : State) : Host.Outcome State Fault Refusal :=
  .next (s.issueRow t g (.br target))

/-- CALL (R98, R101). -/
def execCall (t : TileId) (g : Guard) (target : BitVec 10) (s : State) : Host.Outcome State Fault Refusal :=
  .next (s.issueRow t g (.call target))

/-- RET (R98, R101). -/
def execRet (t : TileId) (g : Guard) (s : State) : Host.Outcome State Fault Refusal :=
  .next (s.issueRow t g .ret)

/-- LOOP (R99). -/
def execLoop (t : TileId) (ra : BitVec 5) (endA : BitVec 10) (s : State) : Host.Outcome State Fault Refusal :=
  .next (s.issueRow t noGuard (.loop ra endA))

/-- LOOPI (R99). -/
def execLoopi (t : TileId) (count : BitVec 16) (endA : BitVec 10) (s : State) : Host.Outcome State Fault Refusal :=
  .next (s.issueRow t noGuard (.loopi count endA))

/-- PMUL (R174, R185): dispatched to its queue, which it enters at t + 2 (R104). -/
def execPmul (t : TileId) (h : EngHdr) (param : DWord) (s : State) : Host.Outcome State Fault Refusal :=
  .next (s.issueRow t h.g (.engine .pmul h param))

/-- PDRN (R174, R190): dispatched to its queue, which it enters at t + 2 (R104). -/
def execPdrn (t : TileId) (h : EngHdr) (param : DWord) (s : State) : Host.Outcome State Fault Refusal :=
  .next (s.issueRow t h.g (.engine .pdrn h param))

/-- DLOAD (R201, R207): dispatched to its queue, which it enters at t + 2 (R104). -/
def execDload (t : TileId) (h : EngHdr) (param : DWord) (s : State) : Host.Outcome State Fault Refusal :=
  .next (s.issueRow t h.g (.engine .dload h param))

/-- DMUL (R201, R213): dispatched to its queue, which it enters at t + 2 (R104). -/
def execDmul (t : TileId) (h : EngHdr) (param : DWord) (s : State) : Host.Outcome State Fault Refusal :=
  .next (s.issueRow t h.g (.engine .dmul h param))

/-- DDRN (R201, R214): dispatched to its queue, which it enters at t + 2 (R104). -/
def execDdrn (t : TileId) (h : EngHdr) (param : DWord) (s : State) : Host.Outcome State Fault Refusal :=
  .next (s.issueRow t h.g (.engine .ddrn h param))

/-- DKV (R201, R215): dispatched to its queue, which it enters at t + 2 (R104). -/
def execDkv (t : TileId) (h : EngHdr) (param : DWord) (s : State) : Host.Outcome State Fault Refusal :=
  .next (s.issueRow t h.g (.engine .dkv h param))

/-- VMAP (R230, R238): dispatched to its queue, which it enters at t + 2 (R104). -/
def execVmap (t : TileId) (h : EngHdr) (param : DWord) (s : State) : Host.Outcome State Fault Refusal :=
  .next (s.issueRow t h.g (.engine .vmap h param))

/-- VRED (R230, R250): dispatched to its queue, which it enters at t + 2 (R104). -/
def execVred (t : TileId) (h : EngHdr) (param : DWord) (s : State) : Host.Outcome State Fault Refusal :=
  .next (s.issueRow t h.g (.engine .vred h param))

/-- VTOPK (R230, R253): dispatched to its queue, which it enters at t + 2 (R104). -/
def execVtopk (t : TileId) (h : EngHdr) (param : DWord) (s : State) : Host.Outcome State Fault Refusal :=
  .next (s.issueRow t h.g (.engine .vtopk h param))

/-- VQNT (R230, R255): dispatched to its queue, which it enters at t + 2 (R104). -/
def execVqnt (t : TileId) (h : EngHdr) (param : DWord) (s : State) : Host.Outcome State Fault Refusal :=
  .next (s.issueRow t h.g (.engine .vqnt h param))

/-- HMOV (R277, R281): dispatched to its queue, which it enters at t + 2 (R104). -/
def execHmov (t : TileId) (h : EngHdr) (param : DWord) (s : State) : Host.Outcome State Fault Refusal :=
  .next (s.issueRow t h.g (.engine .hmov h param))

/-- HFILL (R277): dispatched to its queue, which it enters at t + 2 (R104). -/
def execHfill (t : TileId) (h : EngHdr) (param : DWord) (s : State) : Host.Outcome State Fault Refusal :=
  .next (s.issueRow t h.g (.engine .hfill h param))

/-- HZERO (R277): dispatched to its queue, which it enters at t + 2 (R104). -/
def execHzero (t : TileId) (h : EngHdr) (param : DWord) (s : State) : Host.Outcome State Fault Refusal :=
  .next (s.issueRow t h.g (.engine .hzero h param))

/-- HREL (R277): dispatched to its queue, which it enters at t + 2 (R104). -/
def execHrel (t : TileId) (h : EngHdr) (param : DWord) (s : State) : Host.Outcome State Fault Refusal :=
  .next (s.issueRow t h.g (.engine .hrel h param))

/-- ENGINE_INSTRUCTION_START (R106, R115): the head of queue q starts in its room's current tread, if it is due and its
wait proceeds; a wait on an unset local flag aborts the tile (R115). -/
def execEngineInstructionStart (t : TileId) (q : Fin 4) (s : State) : Host.Outcome State Fault Refusal :=
  .next (
    if s.canTread (tileRoom t.val) then
      match (s.tile t.val).startRow (s.room (tileRoom t.val)).tread q.val with
      | (v, none) => s.setTile t.val v
      | (_, some f) => (s.tileFaults t.val 1 [f]).abortTile t.val
    else s)

/-- ENGINE_INSTRUCTION_COMPLETE (R106, R108): the head of queue q completes in its room's current tread, if its duration
has passed: it leaves the queue, its pending marks go and its done flag is set (R113, R114). -/
def execEngineInstructionComplete (t : TileId) (q : Fin 4) (s : State) : Host.Outcome State Fault Refusal :=
  .next (
    let n := (s.room (tileRoom t.val)).tread
    let v := s.tile t.val
    if s.canTread (tileRoom t.val) && (v.completing n).contains q.val then
      match (v.retire q.val).applySets (v.doneFlags [q.val]) with
      | (w, none) => s.setTile t.val w.checkDone
      | (_, some f) => (s.tileFaults t.val 1 [f]).abortTile t.val
    else s)

end Sys2Proof.Machine
end

