-- ==== Sys2Proof/Machine/Dispatch.lean ====
section
/-! DEFINITION. The effect of each command on everything but the queue: one arm for each row of the table. -/

namespace Sys2Proof.Machine

/-- The effect of one command. -/
def exec (i : Instr) (s : State) : Host.Outcome State Fault Refusal :=
  match i with
  | .commandFetch port ring pkt => Sys2Proof.Machine.execCommandFetch port ring pkt s
  | .negotiate h r0 r1 r2 => Sys2Proof.Machine.execNegotiate h r0 r1 r2 s
  | .query h item index qaddr qlen => Sys2Proof.Machine.execQuery h item index qaddr qlen s
  | .imageLoad h iaddr ilen p1 p2 p3 p4 p5 raddr data => Sys2Proof.Machine.execImageLoad h iaddr ilen p1 p2 p3 p4 p5 raddr data s
  | .imageStart h taddr npipe data => Sys2Proof.Machine.execImageStart h taddr npipe data s
  | .imageStop h => Sys2Proof.Machine.execImageStop h s
  | .crateLoad h caddr clen data => Sys2Proof.Machine.execCrateLoad h caddr clen data s
  | .reside h model => Sys2Proof.Machine.execReside h model s
  | .evict h entry => Sys2Proof.Machine.execEvict h entry s
  | .evictionComplete entry => Sys2Proof.Machine.execEvictionComplete entry s
  | .adapterLoad h slot version ident => Sys2Proof.Machine.execAdapterLoad h slot version ident s
  | .bankZeroingDone slot bank => Sys2Proof.Machine.execBankZeroingDone slot bank s
  | .sessionOpen h cls urg aslot oring route seed => Sys2Proof.Machine.execSessionOpen h cls urg aslot oring route seed s
  | .feed h handle rows bytes daddr data => Sys2Proof.Machine.execFeed h handle rows bytes daddr data s
  | .mark h handle rows => Sys2Proof.Machine.execMark h handle rows s
  | .sessionClose h handle => Sys2Proof.Machine.execSessionClose h handle s
  | .ordinaryCancellation h handle => Sys2Proof.Machine.execOrdinaryCancellation h handle s
  | .urgentCancellation h handle => Sys2Proof.Machine.execUrgentCancellation h handle s
  | .stopSet h => Sys2Proof.Machine.execStopSet h s
  | .stopClear h => Sys2Proof.Machine.execStopClear h s
  | .abort h => Sys2Proof.Machine.execAbort h s
  | .fence h => Sys2Proof.Machine.execFence h s
  | .floorReset h env => Sys2Proof.Machine.execFloorReset h env s
  | .floorRejoin f => Sys2Proof.Machine.execFloorRejoin f s
  | .moduleReset h env => Sys2Proof.Machine.execModuleReset h env s
  | .gear h target => Sys2Proof.Machine.execGear h target s
  | .gearConfirmation => Sys2Proof.Machine.execGearConfirmation s
  | .journalCopy h jaddr jlen => Sys2Proof.Machine.execJournalCopy h jaddr jlen s
  | .journalClear h => Sys2Proof.Machine.execJournalClear h s
  | .peerFenced h => Sys2Proof.Machine.execPeerFenced h s
  | .peerRestored h => Sys2Proof.Machine.execPeerRestored h s
  | .clockPeriod r margin cal upsets => Sys2Proof.Machine.execClockPeriod r margin cal upsets s
  | .nop t g => Sys2Proof.Machine.execNop t g s
  | .halt t g => Sys2Proof.Machine.execHalt t g s
  | .trap t g code => Sys2Proof.Machine.execTrap t g code s
  | .add t g rd ra rb => Sys2Proof.Machine.execAdd t g rd ra rb s
  | .sub t g rd ra rb => Sys2Proof.Machine.execSub t g rd ra rb s
  | .and t g rd ra rb => Sys2Proof.Machine.execAnd t g rd ra rb s
  | .or t g rd ra rb => Sys2Proof.Machine.execOr t g rd ra rb s
  | .xor t g rd ra rb => Sys2Proof.Machine.execXor t g rd ra rb s
  | .shl t g rd ra rb => Sys2Proof.Machine.execShl t g rd ra rb s
  | .shr t g rd ra rb => Sys2Proof.Machine.execShr t g rd ra rb s
  | .sra t g rd ra rb => Sys2Proof.Machine.execSra t g rd ra rb s
  | .min t g rd ra rb => Sys2Proof.Machine.execMin t g rd ra rb s
  | .max t g rd ra rb => Sys2Proof.Machine.execMax t g rd ra rb s
  | .minu t g rd ra rb => Sys2Proof.Machine.execMinu t g rd ra rb s
  | .maxu t g rd ra rb => Sys2Proof.Machine.execMaxu t g rd ra rb s
  | .mul t g rd ra rb => Sys2Proof.Machine.execMul t g rd ra rb s
  | .addi t g rd ra imm => Sys2Proof.Machine.execAddi t g rd ra imm s
  | .andi t g rd ra imm => Sys2Proof.Machine.execAndi t g rd ra imm s
  | .ori t g rd ra imm => Sys2Proof.Machine.execOri t g rd ra imm s
  | .xori t g rd ra imm => Sys2Proof.Machine.execXori t g rd ra imm s
  | .shli t g rd ra imm => Sys2Proof.Machine.execShli t g rd ra imm s
  | .shri t g rd ra imm => Sys2Proof.Machine.execShri t g rd ra imm s
  | .srai t g rd ra imm => Sys2Proof.Machine.execSrai t g rd ra imm s
  | .li t g rd imm => Sys2Proof.Machine.execLi t g rd imm s
  | .cmp t g pd ra rb cc => Sys2Proof.Machine.execCmp t g pd ra rb cc s
  | .cmpi t g pd ra imm cc => Sys2Proof.Machine.execCmpi t g pd ra imm cc s
  | .plog t g pd pa pb fn => Sys2Proof.Machine.execPlog t g pd pa pb fn s
  | .ld t g rd ra imm => Sys2Proof.Machine.execLd t g rd ra imm s
  | .st t g ra rb imm => Sys2Proof.Machine.execSt t g ra rb imm s
  | .dsw t g rb hn w => Sys2Proof.Machine.execDsw t g rb hn w s
  | .dsr t g rd hn w => Sys2Proof.Machine.execDsr t g rd hn w s
  | .setf t g f => Sys2Proof.Machine.execSetf t g f s
  | .clrf t g f => Sys2Proof.Machine.execClrf t g f s
  | .waitf t g f keep => Sys2Proof.Machine.execWaitf t g f keep s
  | .bara t g b f => Sys2Proof.Machine.execBara t g b f s
  | .reds t g rd ra op b f => Sys2Proof.Machine.execReds t g rd ra op b f s
  | .br t g target => Sys2Proof.Machine.execBr t g target s
  | .call t g target => Sys2Proof.Machine.execCall t g target s
  | .ret t g => Sys2Proof.Machine.execRet t g s
  | .loop t ra endA => Sys2Proof.Machine.execLoop t ra endA s
  | .loopi t count endA => Sys2Proof.Machine.execLoopi t count endA s
  | .pmul t h param => Sys2Proof.Machine.execPmul t h param s
  | .pdrn t h param => Sys2Proof.Machine.execPdrn t h param s
  | .dload t h param => Sys2Proof.Machine.execDload t h param s
  | .dmul t h param => Sys2Proof.Machine.execDmul t h param s
  | .ddrn t h param => Sys2Proof.Machine.execDdrn t h param s
  | .dkv t h param => Sys2Proof.Machine.execDkv t h param s
  | .vmap t h param => Sys2Proof.Machine.execVmap t h param s
  | .vred t h param => Sys2Proof.Machine.execVred t h param s
  | .vtopk t h param => Sys2Proof.Machine.execVtopk t h param s
  | .vqnt t h param => Sys2Proof.Machine.execVqnt t h param s
  | .hmov t h param => Sys2Proof.Machine.execHmov t h param s
  | .hfill t h param => Sys2Proof.Machine.execHfill t h param s
  | .hzero t h param => Sys2Proof.Machine.execHzero t h param s
  | .hrel t h param => Sys2Proof.Machine.execHrel t h param s
  | .engineInstructionStart t q => Sys2Proof.Machine.execEngineInstructionStart t q s
  | .engineInstructionComplete t q => Sys2Proof.Machine.execEngineInstructionComplete t q s
  | .correctionPulse => Sys2Proof.Machine.execCorrectionPulse s
  | .allowanceTick => Sys2Proof.Machine.execAllowanceTick s
  | .holdLimit r => Sys2Proof.Machine.execHoldLimit r s
  | .hangWatchdog r => Sys2Proof.Machine.execHangWatchdog r s
  | .replyLimit t e => Sys2Proof.Machine.execReplyLimit t e s
  | .quietLimit c => Sys2Proof.Machine.execQuietLimit c s
  | .quietReport c r => Sys2Proof.Machine.execQuietReport c r s
  | .requestResend t e => Sys2Proof.Machine.execRequestResend t e s
  | .firmwareWatchdog d pc => Sys2Proof.Machine.execFirmwareWatchdog d pc s
  | .crateArrivalTimeout c => Sys2Proof.Machine.execCrateArrivalTimeout c s
  | .regulatorAcknowledgement => Sys2Proof.Machine.execRegulatorAcknowledgement s
  | .regulatorTimeout => Sys2Proof.Machine.execRegulatorTimeout s
  | .thermalPoll readings => Sys2Proof.Machine.execThermalPoll readings s
  | .thermalTrip r => Sys2Proof.Machine.execThermalTrip r s
  | .start env => Sys2Proof.Machine.execStart env s
  | .startStepTimeout => Sys2Proof.Machine.execStartStepTimeout s
  | .pwrgdInRise env => Sys2Proof.Machine.execPwrgdInRise env s
  | .mresetNAssert => Sys2Proof.Machine.execMresetNAssert s
  | .powerRemoval => Sys2Proof.Machine.execPowerRemoval s
  | .portReset p cause => Sys2Proof.Machine.execPortReset p cause s
  | .d3hotEntry p => Sys2Proof.Machine.execD3hotEntry p s
  | .d0Return p => Sys2Proof.Machine.execD0Return p s
  | .referenceLoss => Sys2Proof.Machine.execReferenceLoss s
  | .referenceReturn env => Sys2Proof.Machine.execReferenceReturn env s
  | .pllUnlock f => Sys2Proof.Machine.execPllUnlock f s
  | .roomClockAbsent r => Sys2Proof.Machine.execRoomClockAbsent r s
  | .edgeDieFailure d sub addr => Sys2Proof.Machine.execEdgeDieFailure d sub addr s
  | .leadTakeover => Sys2Proof.Machine.execLeadTakeover s
  | .testModeEntry => Sys2Proof.Machine.execTestModeEntry s
  | .roomRestart r => Sys2Proof.Machine.execRoomRestart r s
  | .scrubRead t cellar line => Sys2Proof.Machine.execScrubRead t cellar line s
  | .smbusIdentityRead => Sys2Proof.Machine.execSmbusIdentityRead s
  | .smbusStatusRead => Sys2Proof.Machine.execSmbusStatusRead s
  | .smbusTemperatureRead => Sys2Proof.Machine.execSmbusTemperatureRead s
  | .messageFragment fb body pecGood => Sys2Proof.Machine.execMessageFragment fb body pecGood s
  | .messageReplyRead => Sys2Proof.Machine.execMessageReplyRead s
  | .deviceKeyRead => Sys2Proof.Machine.execDeviceKeyRead s
  | .ownerClaim key => Sys2Proof.Machine.execOwnerClaim key s
  | .ownerSet slot nonce key sig => Sys2Proof.Machine.execOwnerSet slot nonce key sig s
  | .ownerClear slot nonce sig => Sys2Proof.Machine.execOwnerClear slot nonce sig s
  | .crateKeySet slot signer nonce e iv wrapped gtag sig => Sys2Proof.Machine.execCrateKeySet slot signer nonce e iv wrapped gtag sig s
  | .crateKeyClear slot signer nonce sig => Sys2Proof.Machine.execCrateKeyClear slot signer nonce sig s
  | .statusWordWrite w unit value => Sys2Proof.Machine.execStatusWordWrite w unit value s
  | .setAliasWrite w bar off value => Sys2Proof.Machine.execSetAliasWrite w bar off value s
  | .clearAliasWrite w bar off value => Sys2Proof.Machine.execClearAliasWrite w bar off value s
  | .invertAliasWrite w bar off value => Sys2Proof.Machine.execInvertAliasWrite w bar off value s
  | .doorbellWrite p ring value => Sys2Proof.Machine.execDoorbellWrite p ring value s
  | .completionHeadWrite p ring value => Sys2Proof.Machine.execCompletionHeadWrite p ring value s
  | .outputHeadWrite p ring value => Sys2Proof.Machine.execOutputHeadWrite p ring value s
  | .ringSizeWrite p ring value => Sys2Proof.Machine.execRingSizeWrite p ring value s
  | .flogrWrite value => Sys2Proof.Machine.execFlogrWrite value s
  | .holdlimWrite value => Sys2Proof.Machine.execHoldlimWrite value s
  | .wdogWrite value => Sys2Proof.Machine.execWdogWrite value s
  | .unitSetEntryWrite set entry value => Sys2Proof.Machine.execUnitSetEntryWrite set entry value s
  | .ctrlStopWrite unit value => Sys2Proof.Machine.execCtrlStopWrite unit value s
  | .classGoalWrite cls field value => Sys2Proof.Machine.execClassGoalWrite cls field value s
  | .eventCounterWrite w bar off value => Sys2Proof.Machine.execEventCounterWrite w bar off value s
  | .lowWordRead w bar off => Sys2Proof.Machine.execLowWordRead w bar off s
  | .highWordWrite w bar off value => Sys2Proof.Machine.execHighWordWrite w bar off value s
  | .peerselWrite value => Sys2Proof.Machine.execPeerselWrite value s
  | .registerWrite w bar off size value => Sys2Proof.Machine.execRegisterWrite w bar off size value s
  | .servicePacketRoute t inp chan => Sys2Proof.Machine.execServicePacketRoute t inp chan s
  | .writeRequest t p => Sys2Proof.Machine.execWriteRequest t p s
  | .readRequest t p => Sys2Proof.Machine.execReadRequest t p s
  | .remoteCellarRead t p => Sys2Proof.Machine.execRemoteCellarRead t p s
  | .zeroRequest t p => Sys2Proof.Machine.execZeroRequest t p s
  | .cellarZeroingComplete t => Sys2Proof.Machine.execCellarZeroingComplete t s
  | .deliver t p => Sys2Proof.Machine.execDeliver t p s
  | .ack p => Sys2Proof.Machine.execAck p s
  | .dataReply p => Sys2Proof.Machine.execDataReply p s
  | .bounce p => Sys2Proof.Machine.execBounce p s
  | .refused p => Sys2Proof.Machine.execRefused p s
  | .fencedReply p => Sys2Proof.Machine.execFencedReply p s
  | .branchDropped p => Sys2Proof.Machine.execBranchDropped p s
  | .zeroDone p => Sys2Proof.Machine.execZeroDone p s
  | .floorCombinerReply f p => Sys2Proof.Machine.execFloorCombinerReply f p s
  | .barrierCompletion b => Sys2Proof.Machine.execBarrierCompletion b s
  | .reductionResult b => Sys2Proof.Machine.execReductionResult b s
  | .gearAnnouncement r low gear => Sys2Proof.Machine.execGearAnnouncement r low gear s
  | .stopAnnouncement r unit set => Sys2Proof.Machine.execStopAnnouncement r unit set s
  | .abortAnnouncement r unit => Sys2Proof.Machine.execAbortAnnouncement r unit s
  | .voidAnnouncement r pipe mask => Sys2Proof.Machine.execVoidAnnouncement r pipe mask s
  | .voidAcknowledgement d pipe => Sys2Proof.Machine.execVoidAcknowledgement d pipe s
  | .stepReportRead pipe => Sys2Proof.Machine.execStepReportRead pipe s
  | .slotTableResend pipe f => Sys2Proof.Machine.execSlotTableResend pipe f s
  | .outputRingRead pipe => Sys2Proof.Machine.execOutputRingRead pipe s
  | .inputRecordResend pipe => Sys2Proof.Machine.execInputRecordResend pipe s
  | .sendRingRead d ring => Sys2Proof.Machine.execSendRingRead d ring s
  | .linkRecordWrite d port => Sys2Proof.Machine.execLinkRecordWrite d port s
  | .linkTraining d l peer => Sys2Proof.Machine.execLinkTraining d l peer s
  | .linkTrainingTimeout d l => Sys2Proof.Machine.execLinkTrainingTimeout d l s
  | .dataFlit d l rx h payload => Sys2Proof.Machine.execDataFlit d l rx h payload s
  | .idleFlit d l rx h => Sys2Proof.Machine.execIdleFlit d l rx h s
  | .trainFlit d l rx info => Sys2Proof.Machine.execTrainFlit d l rx info s
  | .hello d l h f => Sys2Proof.Machine.execHello d l h f s
  | .arrive d l h f => Sys2Proof.Machine.execArrive d l h f s
  | .complete d l h f => Sys2Proof.Machine.execComplete d l h f s
  | .linkRetryTimeout d l => Sys2Proof.Machine.execLinkRetryTimeout d l s
  | .laneSignalLoss d l lane => Sys2Proof.Machine.execLaneSignalLoss d l lane s
  | .linkSilenceEnd d l => Sys2Proof.Machine.execLinkSilenceEnd d l s
  | .perstNDeassert p env => Sys2Proof.Machine.execPerstNDeassert p env s
  | .journalFlashWrite => Sys2Proof.Machine.execJournalFlashWrite s
  | .vsramBelowRange => Sys2Proof.Machine.execVsramBelowRange s

end Sys2Proof.Machine
end

