-- ==== Sys2Proof/Safety.lean ====
section
/-!
DEFINITION. What a safe state is, in the terms the statements use: the ranges that R537 gives the two limits that
a host writes, and the readings of State that the statements name.
-/

namespace Sys2Proof.Machine

/-- HOLDLIM and WDOG lie in their ranges (R537). -/
def State.limitsOk (s : State) : Prop :=
  (250 ≤ s.holdLim ∧ s.holdLim ≤ 2500000) ∧ 25 ≤ s.wdog ∧ s.wdog ≤ 250000

/-! ### Tiles -/

/-- The tread that tile t's room is about to take. -/
def State.issueTread (s : State) (t : TileId) : Nat := (s.room (tileRoom t.val)).tread

/-- The leader of tile t is due to issue an instruction with guard g that holds (R85, R91): the room's clock runs, the
program runs, and the program counter is within the store. -/
def State.mayIssue (s : State) (t : TileId) (g : Guard) : Prop :=
  s.issues t = true ∧ (s.tile t.val).lead.pc ≤ 0x3FF ∧ guardOn (s.tile t.val).lead.preds g = true

/-- No register of the list is pending (R96). -/
def Tile.settled (v : Tile) (l : List (BitVec 5)) : Prop := ∀ r ∈ l, v.lead.isPend r = false

/-! ### Ports and their commands -/

/-- Only the edge dies' records, what goes out to the hosts and the mark of a command that runs with no reply (R652) may
differ. -/
def State.portsOnly (s t : State) : Prop := t = { s with dies := t.dies, hostOut := t.hostOut, silent := t.silent }

/-- The command of header h is decoded (R501, R502, R510): its ring gives it up and leaves state a, and it passes the
checks of R508. -/
def State.accepts (s : State) (h : CmdHdr) (k : CmdSpec) (a : State) : Prop :=
  s.takeCmd h k = some a ∧ a.check h k = none

/-- What follows a command on its ring: packets that are no commands are answered where they stand (R508). -/
def State.moveOn (s : State) (h : CmdHdr) : State := s.skipBad 4097 h.port h.ring

/-! ### Starts -/

/-- What a start (R625) or a module reset (R589) leaves of a module that stood in `s`: the start number has advanced, the fault
log (R536) and the test mode (R555) stand, and no image, run or session is left; the module stands at G2 once it is ready. -/
def State.startedFrom (s t : State) : Prop :=
  t.startNo = s.startNo + 1 ∧ t.flog = s.flog ∧ t.testMode = s.testMode ∧ t.fuses.grade = s.fuses.grade ∧
  t.fuses.disabled = s.fuses.disabled ∧ t.powered = true ∧ t.mreset = false ∧ t.pwrgd = true ∧ t.tripped = false ∧
  t.refLost = false ∧ t.image = none ∧ t.started = none ∧ (t.ready = true → t.gear = 2 ∧ t.cgear = 2)

end Sys2Proof.Machine
end

