-- ==== Sys2Proof/Certificates/Slice0/Obligations.lean ====
section
/-! DEFINITION. The statements for the provers, each about commands of the block as Sys2Proof.Machine.exec and
Sys2Proof.Machine.step run them. -/

open Sys2Proof Sys2Proof.Machine

/-- The register operations (R92): the result is in rd in the tread of the issue, and nothing else changes but the
issue itself.

The immediate operations and LI (R92).

DSR (R92): the descriptor word as it stands is in rd in the tread of the issue. -/
def Obligations.RegisterOperations : Prop :=
  (∀ (t : TileId) (g : Guard) (rd ra rb : BitVec 5) (s : State), s.mayIssue t g →
      (s.tile t.val).settled [ra, rb, rd] →
      let v := s.tile t.val
      let a := v.lead.reg ra
      let b := v.lead.reg rb
      let put (x : Word) : Host.Outcome State Fault Refusal :=
        .next (s.issued t.val ({ v with lead := v.lead.setReg rd.toNat x }.advance (s.issueTread t) 1 1))
      exec (.add t g rd ra rb) s = put (a + b) ∧ exec (.sub t g rd ra rb) s = put (a - b) ∧
      exec (.and t g rd ra rb) s = put (a &&& b) ∧ exec (.or t g rd ra rb) s = put (a ||| b) ∧
      exec (.xor t g rd ra rb) s = put (a ^^^ b) ∧
      exec (.shl t g rd ra rb) s = put (a <<< (b.toNat % 32)) ∧
      exec (.shr t g rd ra rb) s = put (a >>> (b.toNat % 32)) ∧
      exec (.sra t g rd ra rb) s = put (a.sshiftRight (b.toNat % 32)) ∧
      exec (.min t g rd ra rb) s = put (if a.toInt ≤ b.toInt then a else b) ∧
      exec (.max t g rd ra rb) s = put (if a.toInt ≤ b.toInt then b else a) ∧
      exec (.minu t g rd ra rb) s = put (if a.toNat ≤ b.toNat then a else b) ∧
      exec (.maxu t g rd ra rb) s = put (if a.toNat ≤ b.toNat then b else a)) ∧
  (∀ (t : TileId) (g : Guard) (rd ra sh : BitVec 5) (imm : Word) (s : State), s.mayIssue t g →
      (s.tile t.val).settled [ra, rd] →
      let v := s.tile t.val
      let a := v.lead.reg ra
      let put (x : Word) : Host.Outcome State Fault Refusal :=
        .next (s.issued t.val ({ v with lead := v.lead.setReg rd.toNat x }.advance (s.issueTread t) 1 1))
      exec (.addi t g rd ra imm) s = put (a + imm) ∧ exec (.andi t g rd ra imm) s = put (a &&& imm) ∧
      exec (.ori t g rd ra imm) s = put (a ||| imm) ∧ exec (.xori t g rd ra imm) s = put (a ^^^ imm) ∧
      exec (.shli t g rd ra sh) s = put (a <<< sh.toNat) ∧ exec (.shri t g rd ra sh) s = put (a >>> sh.toNat) ∧
      exec (.srai t g rd ra sh) s = put (a.sshiftRight sh.toNat) ∧ exec (.li t g rd imm) s = put imm) ∧
  (∀ (t : TileId) (g : Guard) (rd : BitVec 5) (hn : BitVec 6) (w : BitVec 3) (s : State), s.mayIssue t g →
      (s.tile t.val).settled [rd] →
      exec (.dsr t g rd hn w) s = .next (s.issued t.val ({ s.tile t.val with
        lead := (s.tile t.val).lead.setReg rd.toNat (Tbl.get 0 (s.tile t.val).lead.desc (8 * hn.toNat + w.toNat)) }.advance
          (s.issueTread t) 1 1)))

/-- MUL and LD (R92, R96): rd becomes pending with the issue, and the product, or the access at ra + IMM, falls
two treads later.

A register that is pending may be neither read nor written (R96, R109): the tile aborts with the early-read fault or
the pending-store fault that names the register. -/
def Obligations.PendingResults : Prop :=
  (∀ (t : TileId) (g : Guard) (rd ra rb : BitVec 5) (imm : Word) (s : State), s.mayIssue t g →
      (s.tile t.val).settled [ra, rb, rd] →
      let v := s.tile t.val
      let n := s.issueTread t
      let put (f : Fx) : Host.Outcome State Fault Refusal :=
        .next (s.issued t.val ({ v with lead := v.lead.setPend rd.toNat true, fx := v.fx ++ [(n + 2, f)] }.advance n 1 1))
      exec (.mul t g rd ra rb) s = put (.reg rd.toNat (v.lead.reg ra * v.lead.reg rb)) ∧
      exec (.ld t g rd ra imm) s = put (.ldAcc rd.toNat (v.lead.reg ra + imm) v.lead.pc)) ∧
  (∀ (t : TileId) (g : Guard) (rd ra rb : BitVec 5) (s : State), s.mayIssue t g →
      let v := s.tile t.val
      let stop (f : TFault) : Host.Outcome State Fault Refusal := .next ((s.tileFaults t.val 1 [f]).abortTile t.val)
      (v.lead.isPend ra = true →
        exec (.add t g rd ra rb) s = stop (.mkI 0x21 0 v.lead.pc (leBytes 1 ra.toNat)) ∧
        exec (.mul t g rd ra rb) s = stop (.mkI 0x21 0 v.lead.pc (leBytes 1 ra.toNat))) ∧
      (v.lead.isPend ra = false → v.lead.isPend rb = false → v.lead.isPend rd = true →
        exec (.add t g rd ra rb) s = stop (.mkI 0x22 0 v.lead.pc (leBytes 2 rd.toNat)) ∧
        exec (.mul t g rd ra rb) s = stop (.mkI 0x22 0 v.lead.pc (leBytes 2 rd.toNat))))

/-- CMP and CMPI (R93): the six conditions; another condition code is illegal, and the tile aborts.

PLOG (R92): the six functions; another one is illegal, and the tile aborts. -/
def Obligations.PredicateOperations : Prop :=
  (∀ (t : TileId) (g : Guard) (pd : BitVec 3) (ra rb : BitVec 5) (imm : Word) (cc : BitVec 4) (s : State),
      s.mayIssue t g → (s.tile t.val).settled [ra, rb] →
      let v := s.tile t.val
      let cond (a b : Word) : Option Bool :=
        if cc = 0 then some (decide (a = b)) else if cc = 1 then some (decide (a ≠ b))
        else if cc = 2 then some (decide (a.toInt < b.toInt)) else if cc = 3 then some (decide (b.toInt ≤ a.toInt))
        else if cc = 4 then some (decide (a.toNat < b.toNat)) else if cc = 5 then some (decide (b.toNat ≤ a.toNat))
        else none
      let put (x : Option Bool) (i : TileInstr) : Host.Outcome State Fault Refusal :=
        match x with
        | some b => .next (s.issued t.val ({ v with lead := v.lead.setPred pd b }.advance (s.issueTread t) 1 1))
        | none => .next ((s.tileFaults t.val 1 [illegal v ((encodeInstr g i).getD 0 0) (Tbl.get 0 v.lead.prog (v.lead.pc + 1))]).abortTile t.val)
      exec (.cmp t g pd ra rb cc) s = put (cond (v.lead.reg ra) (v.lead.reg rb)) (.cmp pd ra rb cc) ∧
      exec (.cmpi t g pd ra imm cc) s = put (cond (v.lead.reg ra) imm) (.cmpi pd ra imm cc)) ∧
  (∀ (t : TileId) (g : Guard) (pd pa pb : BitVec 3) (fn : BitVec 4) (s : State), s.mayIssue t g →
      let v := s.tile t.val
      let a := v.lead.preds.getLsbD pa.toNat
      let b := v.lead.preds.getLsbD pb.toNat
      exec (.plog t g pd pa pb fn) s =
        match (if fn = 0 then some (a && b) else if fn = 1 then some (a || b) else if fn = 2 then some (a != b)
          else if fn = 3 then some (a && !b) else if fn = 4 then some a else if fn = 5 then some (!a) else none) with
        | some x => .next (s.issued t.val ({ v with lead := v.lead.setPred pd x }.advance (s.issueTread t) 1 1))
        | none => .next ((s.tileFaults t.val 1
            [illegal v ((encodeInstr g (.plog pd pa pb fn)).getD 0 0) (Tbl.get 0 v.lead.prog (v.lead.pc + 1))]).abortTile t.val))

/-- ST, DSW, SETF, CLRF, BARA and REDS (R92, R112): what they do falls two treads after the issue; SETF names a local
flag, BARA and REDS an arrival flag. -/
def Obligations.DelayedEffects : Prop :=
  ∀ (t : TileId) (g : Guard) (rd ra rb : BitVec 5) (imm : Word) (hn : BitVec 6) (w : BitVec 3) (f op : BitVec 4)
    (b : BitVec 5) (s : State), s.mayIssue t g → (s.tile t.val).settled [ra, rb, rd] →
    let v := s.tile t.val
    let n := s.issueTread t
    let put (x : Fx) : Host.Outcome State Fault Refusal :=
      .next (s.issued t.val ({ v with fx := v.fx ++ [(n + 2, x)] }.advance n 1 1))
    exec (.st t g ra rb imm) s = put (.stAcc (v.lead.reg ra + imm) (v.lead.reg rb) v.lead.pc) ∧
    exec (.dsw t g rb hn w) s = put (.dsw hn.toNat w.toNat (v.lead.reg rb)) ∧
    exec (.clrf t g f) s = put (.clrf f.toNat) ∧
    (v.isArrival f.toNat = false → exec (.setf t g f) s = put (.setf f.toNat v.lead.pc)) ∧
    (v.isArrival f.toNat = true → exec (.bara t g b f) s = put (.bara b.toNat f.toNat v.lead.pc)) ∧
    (v.isArrival f.toNat = true → op.toNat ≤ 4 → exec (.reds t g rd ra op b f) s = .next (s.issued t.val
      ({ v with lead := v.lead.setPend rd.toNat true
                fx := v.fx ++ [(n + 2, Fx.reds rd.toNat (v.lead.reg ra) op.toNat b.toNat f.toNat v.lead.pc)] }.advance n 1 1)))

/-- BR, CALL and RET (R98, R100, R101): the leader goes on at the target two treads later; a CALL keeps the address after
it, and RET goes there. -/
def Obligations.Branches : Prop :=
  ∀ (t : TileId) (g : Guard) (target : BitVec 10) (a : BitVec 10) (s : State), s.mayIssue t g →
    let v := s.tile t.val
    let n := s.issueTread t
    exec (.br t g target) s = .next (s.issued t.val { v with
      lead := { v.lead with pc := target.toNat, loops := v.lead.branch target.toNat }, nextIssue := n + 2 }) ∧
    (v.lead.link = none → exec (.call t g target) s = .next (s.issued t.val { v with
      lead := { v.lead with pc := target.toNat, link := some (BitVec.ofNat 10 (v.lead.pc + 1))
                            linkLoops := v.lead.loops.length }, nextIssue := n + 2 })) ∧
    (v.lead.link = some a → v.lead.loops.length ≤ v.lead.linkLoops →
      exec (.ret t g) s = .next (s.issued t.val { v with
        lead := { v.lead with pc := a.toNat, link := none }, nextIssue := n + 2 }))

/-- R101: CALL with a valid link, RET without one, RET while a loop entered after the matching CALL is active, and
a fetch or an issue, of any instruction, from an address above 0x03FF are control faults, and the tile aborts. Sequential
flow past 0x03FF sets the program counter to 0x0400. -/
def Obligations.ControlFaults : Prop :=
  ∀ (t : TileId) (g : Guard) (target a : BitVec 10) (s : State),
    let v := s.tile t.val
    let stop (sub : Nat) : Host.Outcome State Fault Refusal :=
      .next ((s.tileFaults t.val 1 [.mkI 0x26 sub v.lead.pc []]).abortTile t.val)
    (s.mayIssue t g → v.lead.link ≠ none → exec (.call t g target) s = stop 2) ∧
    (s.mayIssue t g → v.lead.link = none → exec (.ret t g) s = stop 3) ∧
    (s.mayIssue t g → v.lead.link = some a → v.lead.linkLoops < v.lead.loops.length → exec (.ret t g) s = stop 5) ∧
    (s.issues t = true → 0x3FF < v.lead.pc →
      v.fetch = .error (.mkI 0x26 1 v.lead.pc []) ∧ (∀ i : TileInstr, stop 1 = .next (s.issueRow t g i)) ∧
      exec (.nop t g) s = stop 1 ∧ exec (.br t g target) s = stop 1 ∧ exec (.call t g target) s = stop 1 ∧
      exec (.ret t g) s = stop 1)

/-- LOOP and LOOPI (R99, R100): a count of zero passes over the body in two treads; otherwise the loop is entered, unless
two are active already, which is a control fault.

What an issue leaves of the loops (R99, R100): at the last address of the innermost loop its body starts again while
passes are left, and otherwise the loop ends, and an outer one that ends there goes round in its place; elsewhere the next
address follows, and so it does in called code in which no loop has been entered since the CALL. -/
def Obligations.Loops : Prop :=
  (∀ (t : TileId) (ra : BitVec 5) (count : BitVec 16) (e : BitVec 10) (s : State), s.issues t = true →
      (s.tile t.val).lead.pc ≤ 0x3FF → (s.tile t.val).settled [ra] →
      let v := s.tile t.val
      let n := s.issueTread t
      let go (k : Nat) : Host.Outcome State Fault Refusal :=
        if k = 0 then .next (s.issued t.val { v with
          lead := { v.lead with pc := e.toNat + v.lead.wordsAt e.toNat }, nextIssue := n + 2 })
        else if v.lead.loops.length < 2 then .next (s.issued t.val { v with
          lead := { v.lead with pc := v.lead.pc + 1
                                loops := { first := v.lead.pc + 1, last := e.toNat, left := k } :: v.lead.loops }
          nextIssue := n + 1 })
        else .next ((s.tileFaults t.val 1 [.mkI 0x26 4 v.lead.pc []]).abortTile t.val)
      exec (.loop t ra e) s = go (v.lead.reg ra).toNat ∧ exec (.loopi t count e) s = go count.toNat) ∧
  (∀ (v : Tile) (n : Nat) (x y : LoopEnt) (l : List LoopEnt), v.lead.loops = x :: l →
      let on (pc : Nat) (k : List LoopEnt) : Tile := { v with lead := { v.lead with pc := pc, loops := k }, nextIssue := n + 1 }
      (v.lead.link = none → x.last = v.lead.pc → 1 < x.left →
        v.advance n 1 1 = on x.first ({ x with left := x.left - 1 } :: l)) ∧
      (v.lead.link = none → x.last = v.lead.pc → x.left ≤ 1 → l = [] → v.advance n 1 1 = on (v.lead.pc + 1) []) ∧
      (v.lead.link = none → x.last = v.lead.pc → x.left ≤ 1 → l = [y] → y.last = v.lead.pc → 1 < y.left →
        v.advance n 1 1 = on y.first [{ y with left := y.left - 1 }]) ∧
      (x.last ≠ v.lead.pc → v.advance n 1 1 = on (v.lead.pc + 1) v.lead.loops) ∧
      (v.lead.link ≠ none → v.lead.loops.length ≤ v.lead.linkLoops → v.advance n 1 1 = on (v.lead.pc + 1) v.lead.loops))

/-- NOP and HALT (R92, R107).

TRAP (R92): a software-trap fault with the code, which aborts the tile.

An instruction whose guard does not hold (R90, R92, R98) does nothing but pass, whatever its operands: a branch, a call and a
return take two treads, an engine instruction passes over both of its words, every other one over its one word in one tread. LOOP and
LOOPI carry no guard. -/
def Obligations.NopHaltTrap : Prop :=
  (∀ (t : TileId) (g : Guard) (s : State), s.mayIssue t g →
      exec (.nop t g) s = .next (s.issued t.val ((s.tile t.val).advance (s.issueTread t) 1 1)) ∧
      exec (.halt t g) s =
        .next (s.issued t.val { (s.tile t.val).advance (s.issueTread t) 1 1 with halted := true })) ∧
  (∀ (t : TileId) (g : Guard) (code : BitVec 16) (s : State), s.mayIssue t g →
      exec (.trap t g code) s = .next
        ((s.tileFaults t.val 1 [.mkI 0x2B 0 (s.tile t.val).lead.pc (leBytes 2 code.toNat)]).abortTile t.val)) ∧
  (∀ (t : TileId) (g : Guard) (rd ra rb sh : BitVec 5) (imm : Word) (code : BitVec 16) (pd pa pb w : BitVec 3) (cc f : BitVec 4)
      (hn : BitVec 6) (keep : Bool) (target : BitVec 10) (h : EngHdr) (p : DWord) (s : State),
      s.issues t = true → (s.tile t.val).lead.pc ≤ 0x3FF → guardOn (s.tile t.val).lead.preds g = false → h.g = g →
      let pass (words treads : Nat) : Host.Outcome State Fault Refusal :=
        .next (s.issued t.val ((s.tile t.val).advance (s.issueTread t) words treads))
      (∀ i ∈ ([.nop t g, .halt t g, .trap t g code, .add t g rd ra rb, .sub t g rd ra rb, .and t g rd ra rb, .or t g rd ra rb,
          .xor t g rd ra rb, .shl t g rd ra rb, .shr t g rd ra rb, .sra t g rd ra rb, .min t g rd ra rb, .max t g rd ra rb,
          .minu t g rd ra rb, .maxu t g rd ra rb, .mul t g rd ra rb, .addi t g rd ra imm, .andi t g rd ra imm, .ori t g rd ra imm,
          .xori t g rd ra imm, .shli t g rd ra sh, .shri t g rd ra sh, .srai t g rd ra sh, .li t g rd imm, .cmp t g pd ra rb cc,
          .cmpi t g pd ra imm cc, .plog t g pd pa pb cc, .ld t g rd ra imm, .st t g ra rb imm, .dsw t g rb hn w, .dsr t g rd hn w,
          .setf t g f, .clrf t g f, .waitf t g f keep, .bara t g sh f, .reds t g rd ra cc sh f] : List Instr),
        exec i s = pass 1 1) ∧
      (∀ i ∈ ([.br t g target, .call t g target, .ret t g] : List Instr), exec i s = pass 1 2) ∧
      (∀ i ∈ ([.pmul t h p, .pdrn t h p, .dload t h p, .dmul t h p, .ddrn t h p, .dkv t h p, .vmap t h p, .vred t h p,
          .vtopk t h p, .vqnt t h p, .hmov t h p, .hfill t h p, .hzero t h p, .hrel t h p] : List Instr), exec i s = pass 2 1))

/-- WAITF (R97, R115, R116, R295), on the flags that phase 1 of the tread leaves: a wait on a set flag proceeds, the flag is
consumed unless KEEP, and the values held for the flag reach their registers, unless one is poisoned; on an unset arrival flag
nothing issues; on an unset local flag the tile aborts with the early-wait fault. -/
def Obligations.FlagWaits : Prop :=
  ∀ (t : TileId) (g : Guard) (f : BitVec 4) (keep : Bool) (s : State), s.mayIssue t g →
    let v := s.tile t.val
    let n := s.issueTread t
    let flags := (v.phase1 n).1.lead.flags
    let mine (h : HeldVal) : Bool := h.flag == f.toNat
    (flags.getLsbD f.toNat = true → v.held.any (fun h => mine h && h.poi) = false →
      exec (.waitf t g f keep) s = .next (s.issued t.val
        ({ v with consume := if keep then v.consume else setBit v.consume f.toNat true
                  held := v.held.filter (fun h => h.flag != f.toNat)
                  fx := v.fx ++ (v.held.filter mine).map (fun (h : HeldVal) => (n, Fx.reg h.rd h.v)) }.advance n 1 1))) ∧
    (flags.getLsbD f.toNat = true → ∀ x, v.heldPoison f.toNat v.lead.pc = some x →
      exec (.waitf t g f keep) s = .next ((s.tileFaults t.val 1 [x]).abortTile t.val)) ∧
    (flags.getLsbD f.toNat = false → v.arrMask.getLsbD f.toNat = true → exec (.waitf t g f keep) s = .next s) ∧
    (flags.getLsbD f.toNat = false → v.arrMask.getLsbD f.toNat = false →
      exec (.waitf t g f keep) s = .next ((s.tileFaults t.val 1 [.mkI 0x23 0 v.lead.pc
        (leBytes 1 f.toNat ++ leBytes 1 4 ++ leBytes 1 (v.setterQueue f.toNat))]).abortTile t.val))

/-- s0 (R82): it reads as zero whatever is written to it, it is never pending, and a write of any other register leaves
every register but that one. -/
def Obligations.ScalarRegisters : Prop :=
  ∀ (q : Seq) (r x : BitVec 5) (w : Word) (b : Bool), Tbl.wf 0 q.regs = true →
    (q.setReg 0 w = q ∧ q.reg 0 = 0 ∧ q.isPend 0 = false ∧ q.setPend 0 b = q) ∧
    (r ≠ 0 → (q.setReg r.toNat w).reg r = w) ∧ (x ≠ r → (q.setReg r.toNat w).reg x = q.reg x) ∧
    Tbl.wf 0 (q.setReg r.toNat w).regs = true

/-- The fourteen engine instructions (R104): a well-formed one is dispatched in the tread of its issue with the registers
it names as they stand, and enters its queue two treads later; the leader passes over its two words. -/
def Obligations.EngineDispatch : Prop :=
  ∀ (t : TileId) (h : EngHdr) (p : DWord) (s : State), s.mayIssue t h.g →
    (h.den = true → (s.tile t.val).isArrival h.df.toNat = false) →
    let v := s.tile t.val
    let n := s.issueTread t
    let ks : BitVec 5 := BitVec.ofNat 5 (h.ctrl.toNat / 2 ^ 8 % 32)
    let ib : BitVec 5 := BitVec.ofNat 5 (p.toNat / 2 ^ 57 % 32)
    let put (op : EngOp) (k i : Word) : Host.Outcome State Fault Refusal :=
      .next (s.issued t.val ({ v with
        fx := v.fx ++ [(n + 2, Fx.enter { op := op, hdr := h, param := p, pc := v.lead.pc, tread := n, k := k, ib := i })]
        }.advance n 2 1))
    (engineWf .pmul h p = true → exec (.pmul t h p) s = put .pmul 0 0) ∧
    (engineWf .pdrn h p = true → exec (.pdrn t h p) s = put .pdrn 0 0) ∧
    (engineWf .dload h p = true → exec (.dload t h p) s = put .dload 0 0) ∧
    (engineWf .dmul h p = true → exec (.dmul t h p) s = put .dmul 0 0) ∧
    (engineWf .ddrn h p = true → exec (.ddrn t h p) s = put .ddrn 0 0) ∧
    (engineWf .dkv h p = true → exec (.dkv t h p) s = put .dkv 0 0) ∧
    (engineWf .hmov h p = true → exec (.hmov t h p) s = put .hmov 0 0) ∧
    (engineWf .hfill h p = true → exec (.hfill t h p) s = put .hfill 0 0) ∧
    (engineWf .hzero h p = true → exec (.hzero t h p) s = put .hzero 0 0) ∧
    (engineWf .hrel h p = true → exec (.hrel t h p) s = put .hrel 0 0) ∧
    (v.lead.isPend ks = false →
      (engineWf .vmap h p = true → exec (.vmap t h p) s = put .vmap (v.lead.reg ks) 0) ∧
      (engineWf .vqnt h p = true → exec (.vqnt t h p) s = put .vqnt (v.lead.reg ks) 0) ∧
      (v.lead.isPend ib = false →
        (engineWf .vred h p = true → exec (.vred t h p) s = put .vred (v.lead.reg ks) (v.lead.reg ib)) ∧
        (engineWf .vtopk h p = true → exec (.vtopk t h p) s = put .vtopk (v.lead.reg ks) (v.lead.reg ib))))

/-- ENGINE_INSTRUCTION_START (R97, R106, R115, R292), on the flags that phase 1 of the tread leaves: the head of a queue that
entered before this tread and has not started starts in it, if it waits for no flag or its flag is set; nothing else of the tile
changes but what the wait consumes and delivers. A queue word of bad parity is delivered poisoned. While the room holds, as it
does for a wait on an unset arrival flag, nothing starts; a wait on an unset local flag aborts the tile.

ENGINE_INSTRUCTION_COMPLETE (R106, R108, R113, R114): an instruction that started in S completes in S + D: it leaves its
queue, its pending marks go, and its done flag, if DEN, is set; a done flag that is already set aborts the tile. -/
def Obligations.EngineRuns : Prop :=
  (∀ (t : TileId) (q : Fin 4) (e : QEntry) (l : List QEntry) (s : State),
      let v := s.tile t.val
      let n := s.issueTread t
      let f := e.d.hdr.wf.toNat
      let flags := (v.phase1 n).1.lead.flags
      let mine (h : HeldVal) : Bool := h.flag == f
      let run (v : Tile) : Host.Outcome State Fault Refusal :=
        let v := v.setQueue q.val ({ e with start := some n, bad := false, poi := e.bad } :: l)
        .next (s.setTile t.val (if e.bad then v.addOrigin ⟨0x14, q.val, n⟩ else v))
      let r := tileRoom t.val
      let a := (s.setRoom r ((s.room r).open_ (s.roomGear r) s.fallback .quiet)).startRoutes r
      ((a.room r).gatedAt (a.room r).tread = false → a.holdsOf r (a.room r).tread ≠ [] →
        exec (.engineInstructionStart t q) s = .next s) ∧
      (s.canTread r = false → exec (.engineInstructionStart t q) s = .next s) ∧
      (s.canTread (tileRoom t.val) = true → v.queue q.val = e :: l → e.start = none → e.entry + 1 ≤ n →
        (e.d.hdr.wen = false → exec (.engineInstructionStart t q) s = run v) ∧
        (e.d.hdr.wen = true → flags.getLsbD f = true → v.held.any (fun h => mine h && h.poi) = false →
          exec (.engineInstructionStart t q) s = run
            { v with consume := if e.d.hdr.wkeep then v.consume else setBit v.consume f true
                     held := v.held.filter (fun h => h.flag != f)
                     fx := v.fx ++ (v.held.filter mine).map (fun (h : HeldVal) => (n, Fx.reg h.rd h.v)) }) ∧
        (e.d.hdr.wen = true → flags.getLsbD f = true → ∀ x, v.heldPoison f e.d.pc = some x →
          exec (.engineInstructionStart t q) s = .next ((s.tileFaults t.val 1 [x]).abortTile t.val)) ∧
        (e.d.hdr.wen = true → flags.getLsbD f = false → v.arrMask.getLsbD f = false →
          exec (.engineInstructionStart t q) s = .next ((s.tileFaults t.val 1 [.mkI 0x23 0 e.d.pc
            (leBytes 1 f ++ leBytes 1 q.val ++ leBytes 1 (v.setterQueue f))]).abortTile t.val)))) ∧
  (∀ (t : TileId) (q : Fin 4) (e : QEntry) (l : List QEntry) (n : Nat) (s : State), s.canTread (tileRoom t.val) = true →
      (s.tile t.val).queue q.val = e :: l → e.start = some n → n + e.dur ≤ s.issueTread t →
      let v := s.tile t.val
      let w := ((destRanges e.d.op e.ops).foldl (fun v r => v.unmarkRange r.1 r.2) v).setQueue q.val l
      let f := e.d.hdr.df.toNat
      (e.d.hdr.den = false → exec (.engineInstructionComplete t q) s = .next (s.setTile t.val w.checkDone)) ∧
      (e.d.hdr.den = true → w.flag f = false →
        exec (.engineInstructionComplete t q) s = .next (s.setTile t.val (w.setFlag f true).checkDone)) ∧
      (e.d.hdr.den = true → w.flag f = true →
        exec (.engineInstructionComplete t q) s = .next ((s.tileFaults t.val 1
          [{ code := 0x24, sub := 0, det := leBytes 1 f ++ leBytes 1 (2 ^ q.val), pc := some e.d.pc, ra := none }]).abortTile t.val)))

/-- NEGOTIATE (R514): where each interface has a common minor, the chosen ones are answered and stay in force on the port;
where one has none, the first such is named and the previous negotiation stays.

JOURNAL (R509, R639): a copy writes whole entries of the flash, oldest first, up to JLEN bytes, and answers how many bytes
it wrote, or the address that could not be written; a clear, whose packet holds an aligned address, empties the journal.

QUERY (R509, R521): the words of the item, as many as QLEN takes, go to host memory, and their count is answered, or the
address that could not be written; an item 2 whose session is not open is a stale handle. -/
def Obligations.PortQueries : Prop :=
  (∀ (h : CmdHdr) (r0 r1 r2 : VerRange) (x y z : Nat) (s a : State), s.accepts h (.onM 0x01 none (parNegotiate r0 r1 r2)) a →
      let none_ (i : Byte) : Host.Outcome State Fault Refusal := .next ((a.reply h 0x01 0x0101 [i]).moveOn h)
      (chooseMinor 0 r0 = some x → chooseMinor 1 r1 = some y → chooseMinor 2 r2 = some z →
        let b := a.reply h 0x01 0 [BitVec.ofNat 8 x, BitVec.ofNat 8 y, BitVec.ofNat 8 z, 0, 1, 0, 1]
        exec (.negotiate h r0 r1 r2) s =
          .next ((b.setDie h.port.val { b.die h.port.val with neg := some (x, y, z) }).moveOn h)) ∧
      (chooseMinor 0 r0 = none → exec (.negotiate h r0 r1 r2) s = none_ 0) ∧
      (chooseMinor 0 r0 = some x → chooseMinor 1 r1 = none → exec (.negotiate h r0 r1 r2) s = none_ 1) ∧
      (chooseMinor 0 r0 = some x → chooseMinor 1 r1 = some y → chooseMinor 2 r2 = none →
        exec (.negotiate h r0 r1 r2) s = none_ 2)) ∧
  (∀ (h : CmdHdr) (jaddr : DWord) (jlen : Word) (s a : State),
      let b := (a.jFlash.take (jlen.toNat / 16)).flatMap JEnt.bytes
      let j := s.journalFields h
      (s.accepts h (.onM 0x58 none (parJournal 0 jaddr.toNat jlen.toNat)) a → jaddr.toNat % 64 = 0 →
        (h.hostErr = none → exec (.journalCopy h jaddr jlen) s =
          .next (((a.emitWrite h.port.val jaddr b).reply h 0x58 0 (leBytes 4 b.length)).moveOn h)) ∧
        (∀ f, h.hostErr = some f → exec (.journalCopy h jaddr jlen) s =
          .next ((a.reply h 0x58 0x0108 (leBytes 8 f.toNat)).moveOn h))) ∧
      (s.accepts h (.onM 0x58 none (parJournal 1 j.1 j.2)) a → j.1 % 64 = 0 → exec (.journalClear h) s =
        .next (({ a with jAon := [], jFlash := [], jQueue := [] }.reply h 0x58 0 (leBytes 4 0)).moveOn h))) ∧
  (∀ (h : CmdHdr) (item : Byte) (index : Word) (qaddr : DWord) (qlen : Word) (s a : State),
      s.accepts h { opc := 0x02, since := 0, sets := item == 0,
                    level := fun p => if item = 0 then decide (pathLevel p ≤ 4) && !(s.isPeer p) else if item = 4 then s.isPeer p
                      else p == modulePath, bad := queryBad (s.minorOf h.port.val) item.toNat index.toNat qaddr
                    par := parQuery item index qaddr qlen } a →
      (item = 2 → a.sessionOf index = none → exec (.query h item index qaddr qlen) s = .next ((a.reply h 0x02 0x0400 []).moveOn h)) ∧
      ((item = 2 → a.sessionOf index ≠ none) →
        let b := ((a.queryWords h item.toNat index.toNat).flatMap (leBytes 4 ·)).take qlen.toNat
        (h.hostErr = none → exec (.query h item index qaddr qlen) s =
          .next (((a.emitWrite h.port.val qaddr b).reply h 0x02 0 (leBytes 4 b.length)).moveOn h)) ∧
        (∀ f, h.hostErr = some f → exec (.query h item index qaddr qlen) s =
          .next ((a.reply h 0x02 0x0108 (leBytes 8 f.toNat)).moveOn h))))

/-- IMAGE LOAD (R412, R415, R509): with no image started and no module command in progress, an image that the verifier
accepts and that has its space is being written, and no image is loaded, and one without its space is refused; the always-on tick
that ends a load puts the image, its parameters and its programs in place (log entry 90 is the model's choice of that tick). Parameters 2 to 5 lie in 0 to 16,383
(R610), and are zero under command minor 0 (R514). An image that the verifier refuses leaves the module as it was, but for the
report in host memory and the answer. -/
def Obligations.ImageLoads : Prop :=
  ∀ (h : CmdHdr) (iaddr ilen : DWord) (p1 p2 p3 p4 p5 : Word) (raddr : DWord) (l : List Byte) (s a : State),
    (s.accepts h (.onM 0x10 none (parImageLoad iaddr ilen p1 p2 p3 p4 p5 raddr)) a → iaddr.toNat % 64 = 0 → ilen.toNat ≤ 2 ^ 30 → raddr.toNat % 64 = 0 →
      (∀ p ∈ [p2, p3, p4, p5], p.toNat ≤ 16383 ∧ (s.minorOf h.port.val = 0 → p = 0)) →
      a.moduleBusy = none → a.started = none → fieldAt l 32 8 = ilen.toNat →
      h.hostErr = none →
      exec (.imageLoad h iaddr ilen p1 p2 p3 p4 p5 raddr (.bytes l)) s = .next (
        (match a.verify l (((a.die h.port.val).neg.map (fun (n : Nat × Nat × Nat) => n.2.1)).getD 0) (a.minorOf h.port.val)
            [p1, p2, p3, p4, p5] with
        | .ok m =>
          if a.spaceOk (a.imageOf m) then
            { a with image := none }.begin_ h 0x10 (.load (a.imageOf m) [p1, p2, p3, p4, p5])
          else a.reply h 0x10 0x0201 (leBytes 1 a.candidate)
        | .error r =>
          (a.emitWrite h.port.val raddr r.bytes).reply h 0x10 0x0200 (leBytes 2 r.code ++ leBytes 2 r.sub)).moveOn h)) ∧
    (∀ (im : Image) (ps : List Word), s.cmds.findSome? Cmd.loading = some (im, ps) →
      (let t := s.loadDone
       t.image = some im ∧ t.params = ps ∧ t.moduleNo = (ps.getD 1 0).toNat ∧
       t.coords = ((ps.getD 2 0).toNat, (ps.getD 3 0).toNat, (ps.getD 4 0).toNat) ∧ t.started = s.started ∧
       t.runEnded = false ∧ t.tiles = ((s.writeTiles im true).freeBanks im).tiles) ∧
      (s.powered = true → s.change = none → s.startWait = none →
        ∃ t, exec .allowanceTick s = .next t ∧ t.image = some im ∧ t.params = ps ∧ t.started = s.started ∧
          t.cmds.findSome? Cmd.loading = none))

/-- IMAGE START (R518): with an image whose floors are up, whose models are resident and whose pipeline records are in
order, the run starts at a tread that every room has still to take; the pipelines are those of the records.

IMAGE STOP (R518): a started image with no open session stops: the module has no run in progress, and its pipelines
keep their counters alone, and its voids, barriers and gang barriers are gone; with a session open it is refused with their number. -/
def Obligations.ImageRuns : Prop :=
  (∀ (h : CmdHdr) (taddr : DWord) (npipe : BitVec 16) (l : List Byte) (im : Image) (s a : State),
      s.accepts h (.onM 0x11 none [byteField 16 8 taddr.toNat, byteField 24 2 npipe.toNat]) a → taddr.toNat % 64 = 0 → npipe ≠ 0 → npipe.toNat ≤ 255 → a.moduleBusy = none →
      a.image = some im → a.started = none → a.testMode = false → a.runEnded = false →
      (∀ t ∈ im.tiles, (a.floor (tileFloor t)).mode = .up) → a.notResident im = none →
      (∀ q ∈ a.banks, q.2.state ≠ 5) →
      (∀ k < npipe.toNat, a.recordBad im l k = none) →
      ∃ t, exec (.imageStart h taddr npipe (.bytes l)) s = .next t ∧ t.started = some (startCount a.moduleTread) ∧
        t.pipes = (List.range npipe.toNat).map (fun k =>
          let r := pipeRecAt l k
          { r with cover := coverOf (a.pipeTiles im r.pipe) r.tline }) ∧ t.image = a.image) ∧
  (∀ (h : CmdHdr) (n : Nat) (s a : State), s.accepts h (.onM 0x12 none) a → a.moduleBusy = none → a.started = some n →
      let sessions := (a.ledger.filter (fun q => q.2.state != .free)).length
      (sessions = 0 → ∃ t, exec (.imageStop h) s = .next t ∧ t.started = none ∧ t.runEnded = true ∧ t.pipes = [] ∧
        t.pstate = a.keptCounters ∧ t.voids = [] ∧ t.barriers = [] ∧ t.gangs = [] ∧ t.image = a.image) ∧
      (0 < sessions → exec (.imageStop h) s = .next ((a.reply h 0x12 0x0301 (leBytes 2 sessions)).moveOn h)))

/-- RESIDE (R435): a model that is resident is answered at once with its entry; one whose entry loads or is repaired is
waited for; one whose entry is evicted is busy with EVICT; a model with no entry takes the first empty one, whose blocks
become kind Loading, are zeroed and lose their digests, and waits for its crates; crates that were on their way to the entry
are abandoned (R673).

EVICT (R439): an empty entry is answered at once; one in use is refused with its references; otherwise its blocks
become kind Loading and the entry is evicting, crates on their way to it are abandoned (R673), and a RESIDE that waits for it
fails.

EVICTION COMPLETE (R439): the blocks of the evicted entry are zero, unallocated and without digests, the entry is empty but
for its overflow bit (R14), and the EVICT commands that wait are answered. -/
def Obligations.ModelResidence : Prop :=
  (∀ (h : CmdHdr) (m : Byte) (im : Image) (ident : DWord) (x : Nat) (e : Nat) (s a : State), s.accepts h (.onM 0x21 none [byteField 16 1 m.toNat]) a →
      a.image = some im → im.models[m.toNat]? = some (ident, x) →
      let blocks := placeBlocks (im.placement m.toNat)
      (a.modelEntry m.toNat = some e → (a.invOf e).state = 3 →
        exec (.reside h m) s = .next ((a.reply h 0x21 0 (leBytes 1 e)).moveOn h)) ∧
      (a.modelEntry m.toNat = some e → (a.invOf e).state = 5 →
        exec (.reside h m) s = .next ((a.reply h 0x21 0x0109 [0x22]).moveOn h)) ∧
      (a.modelEntry m.toNat = some e → (a.invOf e).state = 1 ∨ (a.invOf e).state = 4 →
        exec (.reside h m) s = .next ((a.begin_ h 0x21 (.reside e)).moveOn h)) ∧
      (a.modelEntry m.toNat = none → (List.range 16).find? (fun e => (a.invOf e).state == 0) = some e →
        (∀ q ∈ im.placement m.toNat, a.ownedBlock q.1 q.2.1 = false) → a.downBlock blocks = none →
        let b := blocks.foldl (fun b q => b.setDigest (64 * q.1 + q.2) .reset)
          (((a.abandonCrates false e).setKinds blocks 3).zeroBlocks blocks)
        let c := b.setInv e { b.invOf e with ident := ident, state := 1, place := im.placement m.toNat,
                                             set := { CrateSet.reset with since := b.pkt }, slices := 0, crates := 0, bad := 0 }
        exec (.reside h m) s = .next ((c.begin_ h 0x21 (.reside e)).moveOn h))) ∧
  (∀ (h : CmdHdr) (e : Byte) (s a : State), s.accepts h (.onM 0x22 none [byteField 16 1 e.toNat]) a → e.toNat < 16 →
      let v := a.invOf e.toNat
      (v.state = 0 → exec (.evict h e) s = .next ((a.reply h 0x22 0 []).moveOn h)) ∧
      (v.state ≠ 0 → 0 < v.refs → exec (.evict h e) s = .next ((a.reply h 0x22 0x0301 (leBytes 2 v.refs)).moveOn h)) ∧
      (v.state = 5 → v.refs = 0 → exec (.evict h e) s = .next ((a.begin_ h 0x22 (.evict e.toNat)).moveOn h)) ∧
      (v.state ≠ 0 → v.state ≠ 5 → v.refs = 0 → a.downBlock (placeBlocks v.place) = none →
        let b := (((a.setKinds (placeBlocks v.place) 3).setInv e.toNat { v with state := 5 }).abandonCrates false e.toNat).finishSet
          (.model e.toNat) 0x0300 (leBytes 4 0xFFFFFFFF ++ leBytes 1 0)
        exec (.evict h e) s = .next ((b.begin_ h 0x22 (.evict e.toNat)).moveOn h))) ∧
  (∀ (i : Fin 16) (s : State), s.ready = true → s.downBlock (placeBlocks (s.invOf i.val).place) = none → (s.invOf i.val).state = 5 →
      let blocks := placeBlocks (s.invOf i.val).place
      let b := blocks.foldl (fun b q => b.setDigest (64 * q.1 + q.2) .reset) ((s.zeroBlocks blocks).setKinds blocks 0)
      exec (.evictionComplete i) s = .next ((b.setInv i.val { Inv.reset with useOvf := (s.invOf i.val).useOvf }).finishAll
        (fun c => decide (c.work = .evict i.val)) (fun _ => (0, []))))

/-- ADAPTER LOAD (R445, R446): a load takes the first free bank of its slot, which is loading under the given identity; while
a bank of the slot loads or is zeroed the slot is busy; with no free bank the load is pending on the draining bank's
references. With IDENT 0 the current bank drains while sessions refer to it, and is zeroed otherwise; a slot without a current
bank is answered as it stands.

BANK ZEROING DONE (R445): a bank that is being zeroed, with its blocks on floors that are up, is free: its blocks are zero,
and the hosts are told the slot and the bank. -/
def Obligations.AdapterCommands : Prop :=
  (∀ (h : CmdHdr) (slot : Byte) (ver : BitVec 16) (ident : DWord) (b d : Nat) (s a : State),
      s.accepts h { opc := 0x28, since := 1, sets := false, level := onModule, bad := none, par := parAdapter slot ver ident } a →
      slot.toNat < 64 →
      let bank (j : Nat) := a.bank (2 * slot.toNat + j)
      (ident ≠ 0 → (∀ j < 2, (bank j).state ≠ 1 ∧ (bank j).state ≠ 4) →
        [0, 1].find? (fun j => (bank j).state == 0) = some b → a.downBlock (bank b).place = none →
          exec (.adapterLoad h slot ver ident) s = .next (((a.setBank (2 * slot.toNat + b) { bank b with
            state := 1, ident := ident, version := ver, refs := 0, set := { CrateSet.reset with since := a.pkt } }).begin_
              h 0x28 (.adapter slot.toNat b)).moveOn h)) ∧
      (ident ≠ 0 → b < 2 → (bank b).state = 1 ∨ (bank b).state = 4 →
        exec (.adapterLoad h slot ver ident) s = .next ((a.reply h 0x28 0x0109 [0x28]).moveOn h)) ∧
      (ident ≠ 0 → b < 2 → d < 2 → b ≠ d → (bank b).state = 3 → (bank d).state = 2 →
        exec (.adapterLoad h slot ver ident) s = .next ((a.reply h 0x28 0x0001 (leBytes 2 (bank b).refs)).moveOn h)) ∧
      (ident = 0 → a.currentBank slot.toNat = none →
        exec (.adapterLoad h slot ver ident) s = .next ((a.reply h 0x28 0 [0]).moveOn h)) ∧
      (ident = 0 → a.currentBank slot.toNat = some b →
        let c := (a.markEdge slot.toNat).abandonCrates true (2 * slot.toNat + b)
        let v := c.bank (2 * slot.toNat + b)
        exec (.adapterLoad h slot ver ident) s = .next (((if 0 < v.refs then
          c.setBank (2 * slot.toNat + b) { v with state := 3, current := false }
          else c.zeroBank (2 * slot.toNat + b)).reply h 0x28 0 (leBytes 1 b)).moveOn h))) ∧
  (∀ (i : Fin 64) (k : Fin 2) (s : State), s.ready = true → s.downBlock (s.bank (2 * i.val + k.val)).place = none →
      (s.bank (2 * i.val + k.val)).state = 4 →
      let c := s.zeroBlocks (s.bank (2 * i.val + k.val)).place
      exec (.bankZeroingDone i k) s = .next ((c.setBank (2 * i.val + k.val)
        { Bank.reset with place := (c.bank (2 * i.val + k.val)).place }).notice 0x8001 (leBytes 1 i.val ++ leBytes 1 k.val)))

/-- CRATE LOAD (R428, R429, R519), at an unpacker with no other crate in progress anywhere: the first bytes of a crate, too few
for its header, wait for more; a read that fails is answered with the failing address; and a crate whose checks have come to an
outcome, at the latest when it is whole, is answered with that outcome's status, with what they make of it.

What the checks make of a crate (R429, R430): one whose header is not in order, or that names no set in progress, fails without
any effect, and one whose number the set has, or that another unpacker processes, is a duplicate; a data crate of another number or
length than the manifest's, and one with a trailer CRC that does not match, are asked for again as soon as the bytes that show it
have come; a whole manifest crate that passes its checks gives its set the manifest; and a whole data crate that passes all of them
and reads back as the manifest says writes its slices, which the set then has.

CRATE ARRIVAL TIMEOUT (R431, R432): the crates of a loading set that have stayed away for their 2 s, and stand whole at no
unpacker, are asked for again; where one of them has had its four requests the set fails with that crate and its last failure
code. -/
def Obligations.CrateCommands : Prop :=
  (∀ (h : CmdHdr) (caddr x : DWord) (clen : Word) (l : List Byte) (r : CrateRes) (s a : State),
      s.receiving h = false → s.accepts h (.onM 0x20 none [byteField 16 8 caddr.toNat, byteField 24 4 clen.toNat]) a →
      caddr.toNat % 64 = 0 → (∀ d, a.crateCmds d = []) → (∀ c ∈ a.cmds, c.h ≠ h) →
      let b := a.begin_ h 0x20 (.crate clen.toNat l none)
      let minor := ((a.die h.port.val).neg.map (fun n => n.2.2)).getD 0
      (l.length < 64 → l.length < clen.toNat → exec (.crateLoad h caddr clen (.bytes l)) s = .next (b.moveOn h)) ∧
      exec (.crateLoad h caddr clen (.error x)) s = .next ((a.reply h 0x20 0x0108 (leBytes 8 x.toNat)).moveOn h) ∧
      (min 64 clen.toNat ≤ l.length → b.unpackCrate minor clen.toNat false (l.take clen.toNat) = some r →
        exec (.crateLoad h caddr clen (.bytes l)) s =
          .next (((r.act (a.reply h 0x20 r.status r.detail)).unpack a.cmds.length.succ h.port.val).moveOn h)) ∧
      (l.length = clen.toNat → ∃ q, b.unpackCrate minor clen.toNat false l = some q)) ∧
  (∀ (minor clen : Nat) (l : List Byte) (k : SetId) (m : Manifest) (ws : List (Nat × Nat × List Byte)) (busy : Bool) (s : State),
      let h := crateHdr l
      let body := (l.drop 64).take h.blen
      let v := s.crateSet k
      let r := s.unpackCrate minor clen busy l
      (h.legal minor clen = false → r = some ⟨id, 0x0303, leBytes 4 h.number ++ leBytes 1 1⟩) ∧
      (h.legal minor clen = true → s.findSet (h.flags / 4 % 2 == 1) h.ident = none →
        r = some ⟨id, 0x0303, leBytes 4 h.number ++ leBytes 1 2⟩) ∧
      (h.legal minor clen = true → s.findSet (h.flags / 4 % 2 == 1) h.ident = some k → h.kind = 1 → v.manifest ≠ none →
        busy = true ∨ v.accepted.contains h.number = true → r = some ⟨id, 0x0302, leBytes 4 h.number⟩) ∧
      (h.legal minor clen = true → s.findSet (h.flags / 4 % 2 == 1) h.ident = some k → h.kind = 1 → v.manifest = some m → busy = false →
        v.accepted.contains h.number = false →
        ((m.crates[h.number - 1]?).map (·.1) ≠ some h.blen →
          r = some ⟨fun t => t.retryCrate k h.number 4, 0x0303, leBytes 4 h.number ++ leBytes 1 4⟩) ∧
        ((m.crates[h.number - 1]?).map (·.1) = some h.blen → 64 + h.blen ≤ l.length →
          crcsOk body (l.drop (64 + h.blen)) = false →
          r = some ⟨fun t => t.retryCrate k h.number 5, 0x0303, leBytes 4 h.number ++ leBytes 1 5⟩)) ∧
      (h.legal minor clen = true → s.findSet (h.flags / 4 % 2 == 1) h.ident = some k → h.kind = 0 → v.manifest = none → busy = false →
        l.length = clen → readManifest h (l.take 64) body (fun i => Tbl.get none s.ownerKeys i) (s.expectSlices k) = some m →
        crcsOk body (l.drop (64 + h.blen)) = true →
        r = some ⟨fun t =>
          let u := t.setCrateSet k { v with manifest := some m, since := t.pkt }
          (match k with
            | .model e => u.setInv e { u.invOf e with slices := m.slices.length }
            | .bank _ => u).putBad k, 0, leBytes 8 h.ident ++ leBytes 4 0⟩) ∧
      (h.legal minor clen = true → s.findSet (h.flags / 4 % 2 == 1) h.ident = some k → h.kind = 1 → v.manifest = some m → busy = false →
        v.accepted.contains h.number = false → l.length = clen → (m.crates[h.number - 1]?).map (·.1) = some h.blen →
        crcsOk body (l.drop (64 + h.blen)) = true →
        dataCrate h l m v.wrote (fun i => Tbl.get none s.crateKeys i) = .ok ws →
        let slices := (ws.map (·.1)).eraseDups
        let blocks := (s.setPlace k).filter (fun q => slices.contains q.2.2)
        (∀ q ∈ blocks, s.floorUp (tileFloor q.1) = true) →
        let good := slices.all (fun x => (s.writeSlices ws blocks).sliceBack ws blocks x == (m.slices.getD x 0).toNat)
        r = some (if good then
            ⟨fun t => (t.writeSlices ws blocks).acceptCrate k h.number m slices, 0, leBytes 8 h.ident ++ leBytes 4 h.number⟩
          else ⟨fun t => (t.writeSlices ws blocks).retryCrate k h.number 10, 0x0303, leBytes 4 h.number ++ leBytes 1 10⟩))) ∧
  (∀ (c : SetRef) (m : Manifest) (x : Nat) (s : State), s.ready = true →
      let k : SetId := match c with
        | .model e => .model e.val
        | .bank i j => .bank (2 * i.val + j.val)
      let v := s.crateSet k
      let due := ((List.range m.crates.length).map (· + 1)).filter (fun n =>
        !(v.accepted.contains n) && (v.late n s.pkt && !(s.arrived k n)))
      s.repairing k = false → s.setState k = 1 → v.manifest = some m →
      ((∀ n ∈ due, Tbl.get 0 v.tries n < 4) →
        exec (.crateArrivalTimeout c) s = .next (due.foldl (fun b n =>
          b.retryCrate k n (Tbl.get 0 (b.crateSet k).last n)) s)) ∧
      (due.find? (fun n => decide (4 ≤ Tbl.get 0 v.tries n)) = some x →
        exec (.crateArrivalTimeout c) s = .next (s.failSet k x (Tbl.get 0 v.last x))))

/-- SESSION OPEN (R455): with an image started, the pipelines of the route homed on the port, a free entry of the die's
ledger and a free seat in each pipeline, the lowest such entry is open with its SEQ and GEN advanced and its seats bound,
the models of its route are referred to once more, and the handle, GEN and seats are answered. -/
def Obligations.SessionOpens : Prop :=
  ∀ (h : CmdHdr) (cls urg aslot oring : Byte) (route : Word) (seed : DWord) (n e : Nat) (seats : List (Nat × Nat)) (s a : State),
    s.accepts h (.onM 0x30 none (parOpen cls urg aslot oring route seed)) a → cls.toNat < 8 → urg.toNat < 2 → (aslot.toNat < 64 ∨ aslot = 0x7F) →
    oring.toNat < 16 → ((s.die h.port.val).outRing oring.toNat).size ≠ 0 → routePipes route ≠ [] → a.started = some n →
    (∀ p ∈ routePipes route, ∃ r, a.pipeRec p = some r ∧ r.home = h.port.val) →
    (List.range 2048).find? (fun e => (a.sess (2048 * h.port.val + e)).state == .free) = some e →
    a.takeSeats ((routePipes route).filterMap a.pipeRec) [] = .ok seats →
    let i := 2048 * h.port.val + e
    let v : Sess := { Sess.reset with
      seq := (a.sess i).seq + 1, state := .opened, cls := cls.toNat, urg := urg == 1, gen := (a.sess i).gen + 1, seed := seed,
      routeLen := seats.length, aslot := aslot.toNat, oring := oring.toNat,
      route := seats.map (fun q => { RoutePos.reset with
        pipe := BitVec.ofNat 8 q.1, seat := BitVec.ofNat 16 q.2, trk := ⟨true, 0, 0⟩ }) }
    let models := ((a.routeModels v.route).filterMap a.modelEntry).eraseDups
    let b := (a.setSess i { v with entries := models }).addRefs true models
    exec (.sessionOpen h cls urg aslot oring route seed) s = .next
      ((b.reply h 0x30 0 (leBytes 4 (b.handleOf i).toNat ++ [v.gen] ++ leBytes 3 0 ++ seats.flatMap (fun q => leBytes 2 q.2))).moveOn h)

/-- FEED and MARK (R454, R457, R459): of a session that is open, FEED begins its listening, and MARK its thinking, with the
adapter bank and the models of the request pinned; of one that listens, FEED changes nothing in it and MARK begins its
thinking; of one that thinks, speaks or ends, FEED and MARK are noted for the next turn, whose request the first of them admits:
its adapter bank and route positions are the ones it finds. In each case an input record of the route's first pipeline takes the
payload, and the command waits for that record. A request whose adapter slot has no current bank is refused (R447, R520); a closing
session refuses both. -/
def Obligations.FeedAndMark : Prop :=
  ∀ (h : CmdHdr) (handle : Word) (rows bytes : BitVec 16) (daddr : DWord) (l : List Byte) (i : Nat) (r : PipeRec) (s a : State),
    daddr.toNat % 64 = 0 → handleDie handle = h.port.val → a.sessionOf handle = some i → a.inputPipe i = some r →
    let e := a.sess i
    let next := if e.nextTaken then a else a.admitTurn i
    let put (x : State) (opc : Byte) (kind : Nat) (payload : List Byte) : Host.Outcome State Fault Refusal :=
      .next ((((x.begin_ h opc (.record handle x.recIds)).putRecord i 0 kind rows.toNat payload false).1).moveOn h)
    (s.accepts h (.onM 0x31 none (parFeed handle rows bytes daddr)) a → e.state = .opened → a.adapterMissing e = false → bytes.toNat + 8 ≤ 32 * r.ilen →
      exec (.feed h handle rows bytes daddr (.bytes l)) s =
        put ((a.setSess i { e with state := .listening }).pinModels i) 0x31 0 (padTo bytes.toNat l)) ∧
    (s.accepts h (.onM 0x31 none (parFeed handle rows bytes daddr)) a → e.state = .listening → bytes.toNat + 8 ≤ 32 * r.ilen →
      exec (.feed h handle rows bytes daddr (.bytes l)) s = put a 0x31 0 (padTo bytes.toNat l)) ∧
    (s.accepts h (.onM 0x32 none (parHandle handle ++ [byteField 20 2 rows.toNat])) a → e.state = .opened → a.adapterMissing e = false → e.markq = false →
      exec (.mark h handle rows) s = put ((a.setSess i { e with state := .thinking, tMark := a.pkt }).pinModels i) 0x32 1 []) ∧
    (s.accepts h (.onM 0x32 none (parHandle handle ++ [byteField 20 2 rows.toNat])) a → e.state = .listening → e.markq = false →
      exec (.mark h handle rows) s = put (a.setSess i { e with state := .thinking, tMark := a.pkt }) 0x32 1 []) ∧
    (s.accepts h (.onM 0x31 none (parFeed handle rows bytes daddr)) a → e.state = .thinking ∨ e.state = .speaking ∨ e.state = .ending →
      e.nextTaken = true ∨ a.adapterMissing e = false → bytes.toNat + 8 ≤ 32 * r.ilen → exec (.feed h handle rows bytes daddr (.bytes l)) s =
        put (next.setSess i { next.sess i with fedNext := true }) 0x31 0 (padTo bytes.toNat l)) ∧
    (s.accepts h (.onM 0x32 none (parHandle handle ++ [byteField 20 2 rows.toNat])) a → e.state = .thinking ∨ e.state = .speaking ∨ e.state = .ending →
      e.markq = false → e.nextTaken = true ∨ a.adapterMissing e = false →
      exec (.mark h handle rows) s = put (next.setSess i { next.sess i with markq := true, markNext := next.pkt }) 0x32 1 []) ∧
    (e.state = .opened ∨ ((e.state = .thinking ∨ e.state = .speaking ∨ e.state = .ending) ∧ e.nextTaken = false) →
      a.adapterMissing e = true →
      (s.accepts h (.onM 0x31 none (parFeed handle rows bytes daddr)) a → bytes.toNat + 8 ≤ 32 * r.ilen →
        exec (.feed h handle rows bytes daddr (.bytes l)) s = .next ((a.reply h 0x31 0x0407 (leBytes 1 e.aslot)).moveOn h)) ∧
      (s.accepts h (.onM 0x32 none (parHandle handle ++ [byteField 20 2 rows.toNat])) a → e.markq = false →
        exec (.mark h handle rows) s = .next ((a.reply h 0x32 0x0407 (leBytes 1 e.aslot)).moveOn h))) ∧
    (s.accepts h (.onM 0x31 none (parFeed handle rows bytes daddr)) a → e.state = .closing →
      exec (.feed h handle rows bytes daddr (.bytes l)) s = .next ((a.reply h 0x31 0x0406 []).moveOn h)) ∧
    (s.accepts h (.onM 0x32 none (parHandle handle ++ [byteField 20 2 rows.toNat])) a → e.state = .closing →
      exec (.mark h handle rows) s = .next ((a.reply h 0x32 0x0406 []).moveOn h))

/-- SESSION CLOSE and CANCEL (R460, R480, R481, R484, R485): a close begins the session's closing, for which it and a second
close wait. A cancellation of a session that thinks or speaks advances its GEN and drops what its route wants: after the
ordinary one the session is ending, the urgent one forms its voids at once, and either completes once no step holds the session.
An urgent one of a session that is ending forms its voids, whether or not one is in progress; an ordinary one finds the cancellation under way. A session with
no request in progress has nothing to cancel, and one that closes is refused. -/
def Obligations.CloseAndCancel : Prop :=
  ∀ (h : CmdHdr) (handle : Word) (i : Nat) (s a : State), handleDie handle = h.port.val → a.sessionOf handle = some i →
    let e := a.sess i
    let dropped := a.setSess i { e with gen := e.gen + 1, route := e.route.map (fun q => { q with want := false }) }
    (s.accepts h (.onM 0x33 none (parHandle handle)) a → e.state ≠ .closing →
      exec (.sessionClose h handle) s = .next (((a.begin_ h 0x33 (.close handle)).closeSession i).moveOn h)) ∧
    (s.accepts h (.onM 0x33 none (parHandle handle)) a → e.state = .closing →
      exec (.sessionClose h handle) s = .next ((a.begin_ h 0x33 (.close handle)).moveOn h)) ∧
    (s.accepts h (.onM 0x38 none (parHandle handle)) a → e.state = .thinking ∨ e.state = .speaking → a.cancelling i true = false →
      (h.ring ≠ 0 → exec (.ordinaryCancellation h handle) s = .next
        ((((dropped.setSess i { dropped.sess i with state := .ending }).begin_ h 0x38 (.cancel handle false)).tryCancel i).moveOn h)) ∧
      (h.ring = 0 → exec (.urgentCancellation h handle) s = .next
        ((((dropped.formVoids i).begin_ h 0x38 (.cancel handle true)).tryCancel i).moveOn h))) ∧
    (s.accepts h (.onM 0x38 none (parHandle handle)) a → e.state = .opened ∨ e.state = .listening →
      (h.ring ≠ 0 → exec (.ordinaryCancellation h handle) s = .next ((a.reply h 0x38 0x0404 []).moveOn h)) ∧
      (h.ring = 0 → exec (.urgentCancellation h handle) s = .next ((a.reply h 0x38 0x0404 []).moveOn h))) ∧
    (s.accepts h (.onM 0x38 none (parHandle handle)) a → e.state = .ending →
      (h.ring ≠ 0 → exec (.ordinaryCancellation h handle) s = .next ((a.reply h 0x38 0x0405 []).moveOn h)) ∧
      (h.ring = 0 → exec (.urgentCancellation h handle) s = .next
        ((((a.formVoids i).begin_ h 0x38 (.cancel handle true)).tryCancel i).moveOn h))) ∧
    (s.accepts h (.onM 0x38 none (parHandle handle)) a → e.state = .closing →
      (h.ring ≠ 0 → exec (.ordinaryCancellation h handle) s = .next ((a.reply h 0x38 0x0406 []).moveOn h)) ∧
      (h.ring = 0 → exec (.urgentCancellation h handle) s = .next ((a.reply h 0x38 0x0406 []).moveOn h)))

/-- STOP (R35, R37, R516, R588): a set raises the unit's stop request and waits for the rooms that do not hold it yet; a clear
of a unit that no abort holds withdraws it, takes it from the sets that still wait for it, and waits for the rooms that hold it. Of a
unit set, a STOP_SET raises the request of each unit that can be stopped, and a STOP_CLEAR withdraws it of each that no abort
holds. Where every unit lies on a floor that is down, both are refused with the floor. An announcement of either puts the request in
force in its room, or in its keeper while the room has no clock, and commands whose last room it was complete.

ABORT (R36, R37, R512, R522, R523, R588), of a unit or a set: an image load under way that the units reach ends first.
Where no unit runs a program and no abort holds them, the command is answered at once; otherwise the abort is announced to the
rooms, on floors that are up, of the units that no abort in progress already holds, and the command waits for those rooms and
for those of the aborts in progress to be quiet. The announcement aborts the unit's tiles in its room, or is kept while the
room has no clock; each room then reports quiet. At the quiet limit the rooms that are not quiet escalate. -/
def Obligations.StopsAndAborts : Prop :=
  (∀ (h : CmdHdr) (r : RoomId) (set : Bool) (f : Nat) (s a : State),
      let u := h.unit
      let us := a.unitsOf h
      let m := s.room r.val
      let k (b : Bool) : CmdSpec := { opc := 0x40, since := 0, sets := true, level := inModule, bad := none, par := [⟨128, 1, bit1 b⟩] }
      let cmd (w : Work) : Cmd := { h := h, opc := 0x40, tick := a.pkt, mute := false, work := w }
      let b := a.setUnit u { a.unit u with stop := true }
      let c := a.setUnit u { a.unit u with stop := false }
      (s.accepts h (k true) a → isSet h = false → pathLevel u ≤ 3 → a.downFloor [u] = none → a.stoppable [u] = [u] →
        exec (.stopSet h) s = .next (({ b with cmds := b.cmds ++ [cmd (.stopSet [⟨u, !(a.unit u).stop,
          a.stopRooms u (fun r => !((a.unit u).stop && (a.room r).stopsNow.contains u))⟩])] } : State).stopsDone.moveOn h)) ∧
      (s.accepts h (k false) a → isSet h = false → pathLevel u ≤ 3 → a.downFloor [u] = none → a.aborts u = false →
        exec (.stopClear h) s = .next (({ c with
          cmds := c.cmds.map (fun (q : Cmd) => q.withdrawn [u] (fun v => a.stopRooms v (fun _ => true))) ++
            [cmd (.stopClear [⟨u, false, a.stopRooms u (fun r => (a.room r).stopsNow.contains u)⟩])] } : State).stopsDone.moveOn h)) ∧
      (s.accepts h (k true) a → a.downFloor us = none →
        ∃ t, exec (.stopSet h) s = .next t ∧ ∀ v, (t.unit v).stop = ((a.unit v).stop || (a.stoppable us).any (fun w => w == v))) ∧
      (s.accepts h (k false) a → a.downFloor us = none →
        ∃ t, exec (.stopClear h) s = .next t ∧
          ∀ v, (t.unit v).stop = ((a.unit v).stop && !(us.any (fun w => w == v && !(a.aborts w))))) ∧
      (s.accepts h (k true) a → a.downFloor us = some f →
        exec (.stopSet h) s = .next ((a.reply h 0x40 0x010C (leBytes 1 f)).moveOn h)) ∧
      (s.accepts h (k false) a → a.downFloor us = some f →
        exec (.stopClear h) s = .next ((a.reply h 0x40 0x010C (leBytes 1 f)).moveOn h)) ∧
      (s.ready = true → s.floorUp (roomFloor r.val) = true → (unitRooms u).contains r.val = true → (s.unit u).stop = set →
        (m.clockOff = false → exec (.stopAnnouncement r u set) s =
          .next ((s.setRoom r.val { m with stops := stopIn m.stops u set }).stopAdvance r.val)) ∧
        (m.clockOff = true → exec (.stopAnnouncement r u set) s =
          .next ((s.setRoom r.val { m with keeper := m.keeper ++ [.stop u set] }).stopAdvance r.val)))) ∧
  (∀ (h : CmdHdr) (r : RoomId) (u : Word) (c : CmdId) (k : Cmd) (us own : List Word) (rs : List Nat) (x : BitVec 16) (y f : Nat)
      (s a : State),
      let spec : CmdSpec := { opc := 0x41, since := 0, sets := true, level := fun p => !(s.isPeer p), bad := none, par := [] }
      let vs := a.unitsOf h
      let b := if a.reaches vs then a.endLoad 1 else a
      let old := vs.flatMap b.abortsOver
      let new := vs.filter (fun u => (b.abortsOver u).isEmpty)
      let pairs := new.flatMap (fun u => ((unitRooms u).filter (fun r => b.floorUp (roomFloor r))).map (fun r => (r, u)))
      let t : State := { s with aborting := s.aborting.erase (r.val, u) }
      (s.accepts h spec a → a.downFloor vs = some f →
        exec (.abort h) s = .next ((a.reply h 0x41 0x010C (leBytes 2 f)).moveOn h)) ∧
      (s.accepts h spec a → a.downFloor vs = none → old = [] → b.runsProgram vs = false →
        exec (.abort h) s = .next ((b.reply h 0x41 0 (leBytes 8 0)).moveOn h)) ∧
      (s.accepts h spec a → a.downFloor vs = none → old ≠ [] ∨ b.runsProgram vs = true →
        exec (.abort h) s = .next ((({ b with
          aborting := b.aborting ++ pairs.filter (fun q => !b.aborting.contains q) } : State).begin_ h 0x41
            (.abort (new ++ old.flatMap (·.1)).eraseDups new (pairs.map (·.1) ++ old.flatMap (·.2.1)).eraseDups
              (old.foldl (fun m q => m ||| q.2.2) 0) 0)).moveOn h)) ∧
      (s.aborting.contains (r.val, u) = true → s.floorUp (roomFloor r.val) = true → (s.room r.val).clockOff = false →
        exec (.abortAnnouncement r u) s = .next (t.abortRoom r.val u)) ∧
      (s.aborting.contains (r.val, u) = true → s.floorUp (roomFloor r.val) = true → (s.room r.val).clockOff = true →
        exec (.abortAnnouncement r u) s =
          .next (t.setRoom r.val { t.room r.val with keeper := (t.room r.val).keeper ++ [.abort u] })) ∧
      (s.cmdOf c = some k → k.work = .abort us own rs x y → rs.contains r.val = true →
        (∀ v ∈ us, s.aborting.contains (r.val, v) = false) → exec (.quietReport c r) s = .next (s.roomQuiet r.val)) ∧
      (s.cmdOf c = some k → k.work = .abort us own rs x y → rs ≠ [] →
        (∀ z ∈ s.cmds, ∀ own' rs' x' y', z.work = .abort us own' rs' x' y' → k.tick ≤ z.tick) → k.tick + quietLimit us ≤ s.pkt →
          exec (.quietLimit c) s = .next (s.escalate us rs k.h.port.val)))

/-- FENCE (R576, R578, R588): a floor that is up is fenced, and the command is answered; where the floor holds a tile of the
started image, its run ends. A floor that is not up stays as it is. While a module command is in progress the command is busy
(R511).

FLOOR RESET (R582): the command waits while the floor, fenced first where it is up, is reset: its steps stand due until its
clocks have fallen (R576, R389), and where every attempt of theirs passes the floor is then at its rejoin stop.

FLOOR REJOIN (R387, R586, R587): once a floor has passed its reset, every live room has stopped at the rejoin stop, no gear
change is pending and its rooms' spines may start, the floor is up again and its stop is cleared; each of its rooms has its new tread,
no allowance, and the stop requests that stand. Until then nothing changes. -/
def Obligations.FloorRecovery : Prop :=
  (∀ (h : CmdHdr) (o : Byte) (s a : State),
      let f := pathFloor h.unit
      let spec : CmdSpec := { opc := 0x48, since := 0, sets := false, level := onFloor, bad := none, par := [] }
      (s.accepts h spec a → a.moduleBusy = some o → exec (.fence h) s = .next ((a.reply h 0x48 0x0109 [o]).moveOn h)) ∧
      (s.accepts h spec a → a.moduleBusy = none → a.floorUp f = false →
        exec (.fence h) s = .next ((a.reply h 0x48 0 []).moveOn h)) ∧
      (s.accepts h spec a → a.moduleBusy = none → a.floorUp f = true →
        exec (.fence h) s = .next (((a.fence f).reply h 0x48 0 []).moveOn h) ∧
        (a.fence f).floors = (a.setFloor f { a.floor f with mode := .fenced, atRejoin := false }).floors ∧ (a.fence f).image = a.image ∧
        (a.fence f).started =
          (if (a.image.map (fun im => im.tiles.any (fun t => tileFloor t == f))).getD false then none else a.started))) ∧
  (∀ (h : CmdHdr) (env : StartEnv) (f : FloorId) (o : Byte) (s a : State),
      let g := pathFloor h.unit
      let spec : CmdSpec := { opc := 0x49, since := 0, sets := false, level := onFloor, bad := none, par := [] }
      let b := ((a.begin_ h 0x49 (.floorReset g)).fence g).resetFloor (some env.attempts) g
      (s.accepts h spec a → a.moduleBusy = some o → exec (.floorReset h env) s = .next ((a.reply h 0x49 0x0109 [o]).moveOn h)) ∧
      (s.accepts h spec a → a.moduleBusy = none → exec (.floorReset h env) s = .next (b.moveOn h)) ∧
      ((a.floor g).mode = .up ∨ (a.floor g).mode = .fenced →
        (b.floor g).mode = .resetting ∧ (b.floor g).due = some (some env.attempts)) ∧
      ((s.floor f.val).due = some (some []) → s.tripped = false → s.mreset = false →
        (∀ i < 16, (s.room (16 * f.val + i)).fall = none) →
        let t := s.resetDue f.val
        (t.floor f.val).mode = (s.floor f.val).mode ∧ (t.floor f.val).due = none ∧ (t.floor f.val).atRejoin = true ∧
          f.val ∈ t.rejoinStop)) ∧
  (∀ (f : FloorId) (s : State),
      ((s.floor f.val).atRejoin = true → s.change = none → (∀ r ∈ s.upRooms, s.atRejoinStop r = true) →
        s.spinesFit s.gear.toNat 16 = true →
        ∃ t, exec (.floorRejoin f) s = .next t ∧ (t.floor f.val).mode = .up ∧ (t.floor f.val).atRejoin = false ∧
          t.rejoinStop = s.rejoinStop.filter (· ≠ f.val) ∧
          ∀ r, roomFloor r = f.val → (t.room r).tread = s.rejoinCount r ∧ (t.room r).allow = 0 ∧ (t.room r).stops = s.stopsOf r) ∧
      ((s.floor f.val).atRejoin = false ∨ s.change ≠ none ∨ (∃ r ∈ s.upRooms, s.atRejoinStop r = false) ∨
          s.spinesFit s.gear.toNat 16 = false →
        exec (.floorRejoin f) s = .next s))

/-- START, PWRGD_IN_RISE and REFERENCE_RETURN (R561, R624, R625, R627): a start begins when MRESET_N is deasserted with
PWRGD_IN high, or when PWRGD_IN rises after it; a deassertion during a ramp-down waits for its end; the return of the
reference ends in a module reset.

MODULE RESET (R511, R526, R589): with no other module command in progress, the reset is answered and then made; every
command in progress is over.

START_STEP_TIMEOUT (R629, R630, R638): the second attempt at a step of the module itself fails with code 1, and the start
stops there with ALERT_N asserted. -/
def Obligations.Starts : Prop :=
  (∀ (env : StartEnv) (s : State), s.tripped = false →
      (s.mreset = true → s.ramping = false → env.pwrgd = true → ∃ t, exec (.start env) s = .next t ∧ s.startedFrom t ∧ t.ledger = []) ∧
      (s.mreset = true → s.ramping = true → exec (.start env) s = .next { s with startWait := some env }) ∧
      (s.mreset = true → s.ramping = false → env.pwrgd = false →
        exec (.start env) s = .next { s with powered := true, mreset := false, pwrgd := false }) ∧
      (s.mreset = false → s.pwrgd = false → ∃ t, exec (.pwrgdInRise env) s = .next t ∧ s.startedFrom t ∧ t.ledger = []) ∧
      (s.mreset = true → exec (.pwrgdInRise env) s = .next { s with
        pwrgd := true, startWait := s.startWait.map (fun e => { e with pwrgd := true }) }) ∧
      (s.refLost = true → s.powered = true → s.mreset = false → s.pwrgd = true →
        ∃ t, exec (.referenceReturn env) s = .next t ∧ s.startedFrom t)) ∧
  (∀ (h : CmdHdr) (env : StartEnv) (s a : State), s.accepts h (.onM 0x4A none) a → a.moduleBusy = none →
      ∃ t, exec (.moduleReset h env) s = .next t ∧ (a.reply h 0x4A 0 []).startedFrom t ∧ t.ledger = []) ∧
  (∀ (b : Boot) (step : Nat) (u : BootUnit) (s : State), s.boot = some b → b.hung = some (step, u, 2) → u.kind = 0 →
      ∃ t, exec .startStepTimeout s = .next t ∧ t.ready = false ∧ t.boot = none ∧ t.failStep = step ∧ t.failCode = 1 ∧
        t.alertFailed = true ∧ t.holdAll = true ∧
        let alt := (((s.jAon.filter (fun e => e.step == step && e.kind == 0 && e.unit == u.num.toNat)).getLast?).map (·.alt)).getD false
        let e : JEnt := ⟨s.startNo, step, 0, alt, 1, false, u.num.toNat, 2, 1, BitVec.ofNat 32 s.pkt⟩
        t.jQueue = s.jQueue ++ [e])

/-- POWER_REMOVAL, MRESET_N_ASSERT, TEST_MODE_ENTRY and JOURNAL_FLASH_WRITE (R536, R555, R625, R636): what each of them loses
and keeps.

VSRAM_BELOW_RANGE (R66, R582): every floor takes note of it, and no floor changes its mode. -/
def Obligations.PowerEvents : Prop :=
  (∀ s : State,
      (∃ t, exec .powerRemoval s = .next t ∧ t.powered = false ∧ t.pwrgd = false ∧ t.fuses = s.fuses ∧ t.jFlash = s.jFlash ∧
        t.jAon = [] ∧ t.jQueue = [] ∧ t.flog = [] ∧ t.testMode = false ∧ t.tiles = [] ∧ t.image = none ∧ t.ready = false) ∧
      (s.mreset = false → ∃ t, exec .mresetNAssert s = .next t ∧ t.mreset = true ∧ t.ready = false ∧ t.cmds = [] ∧
        t.boot = none ∧ t.change = none ∧ t.holdAll = true ∧ t.flog = s.flog ∧ t.fuses = s.fuses) ∧
      (s.powered = true → s.mreset = true → exec .testModeEntry s = .next { s with testMode := true }) ∧
      (∀ e l, s.powered = true → s.jQueue = e :: l →
        exec .journalFlashWrite s = .next { s with jFlash := (if 8192 ≤ s.jFlash.length then s.jFlash.drop 256 else s.jFlash) ++ [e], jQueue := l })) ∧
  (∀ s : State, s.powered = true → ∃ t, exec .vsramBelowRange s = .next t ∧
      ∀ f : FloorId, (t.floor f).vsramLow = true ∧ (t.floor f).mode = (s.floor f).mode)

/-- GEAR (R64, R388, R395, R511), with no change pending and no other module command in progress: a gear above the throttled
one is only noted; the gear in force is answered at once; a higher gear begins with the VCORE set point of the next gear, whose
acknowledgement it awaits; a lower one is announced at a tread 8,352 to 32,000 above the module tread count, and G0 once the
allowances of all live rooms, which fall from then on, are zero. -/
def Obligations.GearCommand : Prop :=
  ∀ (h : CmdHdr) (g : Byte) (s a : State), s.accepts h (.onM 0x50 none [byteField 16 1 g.toNat]) a → g.toNat ≤ 3 → a.change = none → a.moduleBusy = none →
    let chain := gearChain a.gear.toNat g.toNat
    (∀ k, a.throttled = some k → k < g.toNat → exec (.gear h g) s = .next
      (({ a with cgear := BitVec.ofNat 2 g.toNat }.reply h 0x50 3 (leBytes 1 a.gear.toNat ++ leBytes 1 g.toNat)).moveOn h)) ∧
    ((∀ k, a.throttled = some k → g.toNat ≤ k) →
      (a.gear.toNat = g.toNat → exec (.gear h g) s = .next
        (({ a with cgear := BitVec.ofNat 2 g.toNat }.reply h 0x50 0 (leBytes 1 g.toNat)).moveOn h)) ∧
      (a.gear.toNat < g.toNat → ∃ t next, exec (.gear h g) s = .next t ∧ t.cgear = BitVec.ofNat 2 g.toNat ∧
        t.gear = a.gear ∧ next = (if a.gear = 0 then g.toNat else a.gear.toNat + 1) ∧ t.vcore = a.setPoint next ∧
        t.change = some { chain := chain, target := none, awaiting := true, since := a.pkt, thermal := false, was := a.vcore, tail := a.lastTarget }) ∧
      (g.toNat < a.gear.toNat → 1 < a.gear.toNat → ∃ t n, exec (.gear h g) s = .next t ∧ t.cgear = BitVec.ofNat 2 g.toNat ∧
        t.gear = a.gear ∧ t.vcore = a.vcore ∧ a.moduleTread + 8352 ≤ n ∧ n ≤ a.moduleTread + 32000 ∧
        t.change = some { chain := chain, target := some n, awaiting := false, since := a.pkt, thermal := false, was := a.vcore, tail := a.lastTarget }) ∧
      (g = 0 → a.gear = 1 → (∃ r ∈ a.upRooms, (a.room r).allow ≠ 0) → ∃ t, exec (.gear h g) s = .next t ∧ t.cgear = 0 ∧
        t.gear = a.gear ∧ (∀ r ∈ a.upRooms, (t.room r).fall ≠ none) ∧
        t.change = some { chain := [0], target := none, awaiting := false, since := a.pkt, thermal := false, was := a.vcore, tail := a.lastTarget }))

/-- R66: a GEAR that arrives while a change is pending is refused with the status gear change pending, which names the
pending target; the change stays as it is. -/
def Obligations.GearWhilePending : Prop :=
  ∀ (h : CmdHdr) (g : Byte) (c : GearChange) (s a : State), s.accepts h (.onM 0x50 none [byteField 16 1 g.toNat]) a → g.toNat ≤ 3 →
    a.change = some c →
    exec (.gear h g) s = .next ((a.reply h 0x50 0x0500 (leBytes 1 (c.chain.getLastD 0))).moveOn h) ∧
    ((a.reply h 0x50 0x0500 (leBytes 1 (c.chain.getLastD 0))).moveOn h).change = some c

/-- GEAR_CONFIRMATION, GEAR_ANNOUNCEMENT, REGULATOR_ACKNOWLEDGEMENT and REGULATOR_TIMEOUT (R64, R65, R388, R393): the regulator's
acknowledgement sets a target 8,352 to 32,000 treads above the module tread count, or from G0 begins the restarts; a room takes
note of the target; the gear is in force once every live room has reached it, or has restarted, and with the last gear of the
chain the change ends and the GEAR commands are answered; a regulator that stays silent for 1 ms ends the change, and
the previous set point is written again. The last two are said where no thermal change is due.

ROOM_RESTART (R67, R391): the room whose turn it is, at its time, runs again in the new gear, and the next live room's turn
comes a restart gap later; a room of a floor that is not up is passed over. -/
def Obligations.GearChanges : Prop :=
  (∀ (c : GearChange) (g n : Nat) (l : List Nat) (r : RoomId) (s : State), s.change = some c → c.chain = g :: l →
      let ended (t : State) : Prop := t.change = none ∧ ∀ k ∈ t.cmds, ∀ x, k.work ≠ .gear x
      (c.awaiting = true → s.gear ≠ 0 → ∃ k, s.moduleTread + 8352 ≤ k ∧ k ≤ s.moduleTread + 32000 ∧
        exec .regulatorAcknowledgement s = .next { s with
          change := some { c with target := some k, awaiting := false }, lastTarget := some k, free := s.free + 1 }) ∧
      (c.awaiting = true → s.gear = 0 → exec .regulatorAcknowledgement s = .next { s with
        change := some { c with awaiting := false }, restart := s.upRooms.head?.map (fun r => (r, s.pkt)) }) ∧
      (c.awaiting = true → c.since + 25000 ≤ s.pkt → s.overSince = none → s.throttled = none →
        ∃ t, exec .regulatorTimeout s = .next t ∧ ended t ∧ t.gear = s.gear ∧
          t.vcore = c.was) ∧
      (c.target = some n → g ≤ 3 → (s.floor (roomFloor r.val)).mode = .up → (s.room r.val).clockOff = false →
        (s.room r.val).tread ≤ n → n < (s.room r.val).tread + 65536 →
        exec (.gearAnnouncement r (BitVec.ofNat 16 n) (BitVec.ofNat 2 g)) s =
          .next (s.setRoom r.val { s.room r.val with pendGear := some (n, BitVec.ofNat 2 g) })) ∧
      ((c.target = some n ∧ ∀ q ∈ s.upRooms, n ≤ (s.room q).tread ∧ (s.room q).pendGear = none) ∨
        (c.target = none ∧ s.gear = 0 ∧ c.awaiting = false ∧ s.restart = none ∧ ∀ q ∈ s.upRooms, (s.room q).clockOff = false) →
        ∃ t, exec .gearConfirmation s = .next t ∧ t.gear = BitVec.ofNat 2 g ∧ t.cgear = s.cgear ∧
          (l = [] → s.overSince = none → s.throttled = none → ended t) ∧ (l ≠ [] → t.change.map (·.chain) = some l)) ∧
      (c.target = some n → r.val ∈ s.upRooms → (s.room r.val).tread < n → exec .gearConfirmation s = .next s)) ∧
  (∀ (r : RoomId) (n : Nat) (c : GearChange) (s : State), s.restart = some (r.val, n) → s.change = some c → n ≤ s.pkt →
      ((s.floor (roomFloor r.val)).mode = .up → ∃ t, exec (.roomRestart r) s = .next t ∧ (t.room r.val).clockOff = false ∧
        (t.room r.val).gear = some (BitVec.ofNat 2 (c.chain.headD 0)) ∧
        t.restart = (s.nextRoom r.val).map (fun q => (q, s.pkt + Config.restartGap (c.chain.headD 0)))) ∧
      ((s.floor (roomFloor r.val)).mode ≠ .up → exec (.roomRestart r) s = .next { s with
        restart := (s.nextRoom r.val).map (fun q => (q, n)) }))

/-- ALLOWANCE_TICK and CORRECTION_PULSE (R69, R71, R384, R389, R531): package time counts every tick of a module with power, from
the next of which the written limits and goals govern; with no image load, crate or floor reset under way and no start that waits, the
tiles and the gear stay; away from a gear target, the allowance of a running room that has refused a tread rises by 16 mA up to its
gear's ceiling, and one that falls comes nearer to zero. A pulse that falls at a multiple of 4,096 ticks waits in every live room once
the tread counters are released.

HOLD_LIMIT and HANG_WATCHDOG (R61, R531, R568), by the limits in force: a hold that lasts for HOLDLIM ticks is recorded once, with
its kind, what is awaited and how long; a hold that lasts for WDOG ticks has its waits resolved and reported, or, where a report of
the room waits for a fence, that is looked at again. -/
def Obligations.TicksAndHolds : Prop :=
  (∀ s : State,
      (s.powered = true → s.cmds.findSome? Cmd.loading = none → s.startWait = none → (∀ d, s.crateCmds d = []) →
        (∀ f, (s.floor f).due = none) →
        ∃ t, exec .allowanceTick s = .next t ∧ t.pkt = s.pkt + 1 ∧ t.tiles = s.tiles ∧ t.gear = s.gear ∧
          t.limsIn = (s.holdLim, s.wdog) ∧ t.goalsIn = s.classes ∧
          ((s.rooms.map (·.1)).Nodup → ∀ r ∈ s.rooms.map (·.1), s.clockRuns r = true → s.gearWindow (s.room r).tread = false →
            let m := s.room r
            (m.fall = none → m.refused = true → (t.room r).allow = min (Config.ceiling (s.roomGear r)) (m.allow + 16)) ∧
            (∀ left, m.fall = some left → 1 < left →
              (t.room r).allow = m.allow * (left - 1) / left ∧ (t.room r).fall = some (left - 1)))) ∧
      (s.powered = false → exec .allowanceTick s = .next s) ∧
      (s.holdAll = false → s.pkt % 4096 = 0 → ∃ t, exec .correctionPulse s = .next t ∧
        ∀ r ∈ s.upRooms, s.pkt ∈ (t.room r).pulses) ∧
      (s.holdAll = true ∨ s.pkt % 4096 ≠ 0 → exec .correctionPulse s = .next s)) ∧
  (∀ (r : RoomId) (x : HoldSrc) (l : List HoldSrc) (s : State), (s.room r.val).holdSrcs = x :: l → s.ready = true →
      (s.floor (roomFloor r.val)).mode = .up →
      let m := s.room r.val
      (s.limsIn.1 ≤ m.holdTicks → m.holdFired = false →
        let f := { s.tileRec x.tile 0x72 0 (if s.recovering x.tile then 5 else 0) none none
          (leBytes 1 x.kind ++ leBytes 2 x.what ++ leBytes 4 m.holdTicks) with rec_ := 1 }
        exec (.holdLimit r) s = .next (((s.record f).setRoom r.val { (s.record f).room r.val with holdFired := true }).event
          (roomPath r.val) evHoldLimit)) ∧
      (m.holdTicks < s.limsIn.1 ∨ m.holdFired = true → exec (.holdLimit r) s = .next s) ∧
      (s.limsIn.2 ≤ m.wdogTicks → (∀ w ∈ s.hangWait, w.room ≠ r.val) →
        exec (.hangWatchdog r) s = .next (s.hangReports.foldl (fun (s : State) (l : List HangNode) => s.hangReport l) s)) ∧
      (s.limsIn.2 ≤ m.wdogTicks → (∃ w ∈ s.hangWait, w.room = r.val) → exec (.hangWatchdog r) s = .next s.hangAgain) ∧
      (m.wdogTicks < s.limsIn.2 → exec (.hangWatchdog r) s = .next s))

/-- REPLY_LIMIT and REQUEST_RESEND (R284, R344): a request without its last reply after the reply limit leaves its entry, and
its tile, where its program runs, aborts with fault 0x6C; a request that has bounced goes out again 64 periods later, and the
bounce is counted. -/
def Obligations.RequestLimits : Prop :=
  ∀ (t : TileId) (e : Fin 64) (x : Req) (s : State), s.tileOn t.val = true → (s.tile t.val).req e.val = some x →
    let v := s.tile t.val
    (x.sent + s.replyLimit < s.pkt → x.heldBack = false → exec (.replyLimit t e) s = .next
      ((s.setTile t.val (v.setReq e.val none)).tileAbort t.val 0x6C 4 none
        (reqDetail x.pkt.targetPath x.pkt.str.toNat (s.pkt - x.sent) x.bounces))) ∧
    (s.pkt ≤ x.sent + s.replyLimit → exec (.replyLimit t e) s = .next s) ∧
    (x.waiting = true → x.left = 0 →
      let w := v.setReq e.val (some { x with waiting := false, bounces := x.bounces + 1 })
      exec (.requestResend t e) s = .next
        ((s.putTile t.val { w with bounces := stick v.bounces, ovf := fillBit 1 v.bounces v.ovf }).inject t.val x.pkt)) ∧
    (x.waiting = false ∨ x.left ≠ 0 → exec (.requestResend t e) s = .next s)

/-- THERMAL_POLL and THERMAL_TRIP (R395, R396): a ready module keeps the readings, and from when the hottest of them is above
100 °C, or at 95 °C or below. Above 100 °C it is throttled to G2 at once where it stands at G3, and to G1 after 10 ms at G2; after
100 ms at 95 °C or below a throttled module steps one gear up towards the gear commanded, or is throttled no more where it stands
there. A sensor at 115 °C trips a module with power, once: every room is aborted and ramps down.

REFERENCE_LOSS, PLL_UNLOCK and ROOM_CLOCK_ABSENT (R68, R561): the loss of the reference, of a module with power, stops every
floor's PLL and leaves the module on its own oscillator, which each live room's next correction record tells, with no floor's mode
changed; the loss of one floor's PLL while the reference stands, or of a running room's clock, is recorded with its time (of the room,
5 µs before the report), and the floor is fenced and reset. Elsewhere they change nothing. -/
def Obligations.SensorEvents : Prop :=
  (∀ (l : List Reading) (x : Reading) (u k : Nat) (s : State),
      let a := l.foldl (fun (s : State) (x : Reading) => s.setFloor x.floor.val { s.floor x.floor.val with
        therm := Tbl.set 0 (s.floor x.floor.val).therm x.sensor.val x.value }) s
      let top := (highest a.readings).2.2
      (s.ready = true → ∃ t, exec (.thermalPoll l) s = .next t ∧ t.floors = a.floors ∧ t.cgear = s.cgear ∧ t.gear = s.gear ∧
        t.overSince.isSome = decide (1600 < top) ∧ t.underSince.isSome = decide (top ≤ 1520) ∧
        (1600 < top → s.change = none → s.gear = 3 →
          t.throttled = some 2 ∧ t.alertThrottle = true ∧ t.change.map (·.chain) = some [2]) ∧
        (1600 < top → s.change = none → s.gear = 2 → s.overSince = some u → u + 250000 ≤ s.pkt →
          t.throttled = some 1 ∧ t.alertThrottle = true ∧ t.change.map (·.chain) = some [1]) ∧
        (top ≤ 1520 → s.change = none → s.underSince = some u → u + 2500000 ≤ s.pkt → s.throttled = some k →
          (s.cgear.toNat ≤ s.gear.toNat → t.throttled = none ∧ t.change = none) ∧
          (s.gear.toNat < s.cgear.toNat → t.change.map (·.chain) = some [s.gear.toNat + 1] ∧
            t.throttled = if s.gear.toNat + 1 < s.cgear.toNat then some (s.gear.toNat + 1) else none)) ∧
        (s.change ≠ none ∨ (top ≤ 1600 ∧ s.throttled = none) → t.throttled = s.throttled ∧ t.change = s.change)) ∧
      (s.ready = false → exec (.thermalPoll l) s = .next s) ∧
      (s.powered = true → s.tripped = false → 1840 ≤ temp x.value →
        let b := (s.setFloor x.floor.val { s.floor x.floor.val with
          therm := Tbl.set 0 (s.floor x.floor.val).therm x.sensor.val x.value }).thermFault 2 3 x.floor.val x.sensor.val (temp x.value)
        let c := b.upRooms.foldl (fun (s : State) (r : Nat) => (s.abortRoom r (roomPath r)).rampDown r) b
        exec (.thermalTrip x) s = .next { c with
          tripped := true, cmds := c.cmds.filter (fun q => !(match q.work with
            | .floorReset _ => true
            | _ => false)) }) ∧
      (s.powered = false ∨ s.tripped = true ∨ temp x.value < 1840 → exec (.thermalTrip x) s = .next s)) ∧
  (∀ (f : FloorId) (r : RoomId) (s : State),
      (s.powered = true → s.refLost = false → ∃ t, exec .referenceLoss s = .next t ∧ t.refLost = true ∧ t.fallback = true ∧
        t.floors = ((List.range 16).foldl (fun (s : State) (f : Nat) =>
          s.setFloor f { s.floor f with pllLock := false }) s).floors ∧ ∀ q ∈ s.upRooms, (t.room q).fellBack = true) ∧
      (s.powered = false ∨ s.refLost = true → exec .referenceLoss s = .next s) ∧
      (s.ready = true → (s.floor f.val).mode = .up → s.refLost = false →
        let b := s.record (s.unitRec (floorPath f.val) 0x75 2 2 3 0 (leBytes 1 f.val ++ leBytes 1 0xFF ++ leBytes 8 s.pkt))
        exec (.pllUnlock f) s = .next ((b.setFloor f.val { b.floor f.val with pllLock := false }).fenceReset f.val)) ∧
      (s.ready = false ∨ (s.floor f.val).mode ≠ .up ∨ s.refLost = true → exec (.pllUnlock f) s = .next s) ∧
      (s.clockRuns r.val = true →
        let b := s.record (s.unitRec (roomPath r.val) 0x75 3 2 1 0
          (leBytes 1 (roomFloor r.val) ++ leBytes 1 (r.val % 16) ++ leBytes 8 (s.pkt - 125)))
        exec (.roomClockAbsent r) s = .next (b.fenceReset (roomFloor r.val))) ∧
      (s.clockRuns r.val = false → exec (.roomClockAbsent r) s = .next s))

/-- EDGE_DIE_FAILURE and FIRMWARE_WATCHDOG (R560, R591, R631): a first failed edge die is recorded and taken out with what it
holds; a second one ends in a module reset. Of a module without power, in reset, or of a die that has failed already, nothing
changes.

LEAD_TAKEOVER (R510, R591, R631): the next live die is the lead; the commands of the failed lead end interrupted, a gear
change that is not announced is gone, and a start that is past its third step goes on. Where no other die is live nothing
changes. -/
def Obligations.EdgeDieFailures : Prop :=
  (∀ (d : DieId) (sub : Fin 5) (w : Word) (s : State),
      let on := s.powered = true ∧ s.mreset = false ∧ (s.die d.val).failed = false
      let a := s.record (s.unitRec modulePath 0x7A (sub.val + 1) 4 5 d.val (leBytes 4 w.toNat))
      let b := s.record (s.unitRec modulePath 0x7B 0 4 5 d.val (leBytes 1 d.val ++ leBytes 4 w.toNat))
      (on → s.dieFailures = 0 →
        exec (.edgeDieFailure d sub w) s = .next (((a.dieDown d.val).dieLost d.val).dieRest d.val) ∧
        exec (.firmwareWatchdog d w) s = .next (((b.dieDown d.val).dieLost d.val).dieRest d.val)) ∧
      (on → 0 < s.dieFailures →
        (∃ t, exec (.edgeDieFailure d sub w) s = .next t ∧ a.startedFrom t) ∧
        (∃ t, exec (.firmwareWatchdog d w) s = .next t ∧ b.startedFrom t)) ∧
      (¬on → exec (.edgeDieFailure d sub w) s = .next s ∧ exec (.firmwareWatchdog d w) s = .next s)) ∧
  (∀ s : State, s.powered = true → s.mreset = false → (s.die s.lead.val).failed = true →
      let d := s.nextLead s.lead.val
      ((s.die d.val).failed = false → (∀ b, s.boot = some b → b.step ≤ 3) → ∃ t, exec .leadTakeover s = .next t ∧ t.lead = d ∧
        t.cmds = s.cmds.filter (fun c => !c.ofLead) ∧ t.change = s.change.filter (fun c => c.target.isSome) ∧ t.boot = s.boot) ∧
      (∀ b, (s.die d.val).failed = false → s.boot = some b → 3 < b.step → ∃ t, exec .leadTakeover s = .next t ∧ t.lead = d) ∧
      ((s.die d.val).failed = true → exec .leadTakeover s = .next s))

/-- SCRUB_READ (R275, R296, R297): of the line at which the walk of a scrub stands, read in a bank that is unused or with both
16-byte pieces of stair bandwidth free, the walk goes on; a line without error stays as it is; a single-bit error in a line's first
word is corrected and counted; a double-bit error there is recorded, and from an attic line the word is poison from then on. Elsewhere
nothing is read. -/
def Obligations.ScrubReads : Prop :=
  ∀ (t : TileId) (line : BitVec 13) (s : State), s.tileOn t.val = true →
    let v := s.tile t.val
    let w := 4 * line.toNat
    let good (m : Tbl Nat) (l : List Nat) : Prop := ∀ i ∈ l, Tbl.get 0 m (w + i) = 0
    let next := (line.toNat + 1) % 8192
    let a : Tile := { v with scrubAttic := (line.toNat + 1) % 2048
                             banksUsed := v.banksUsed ||| BitVec.ofNat 4 (2 ^ (line.toNat % 4)) }
    let c : Tile := { v with stairFree := 0, scrubWeight := if v.scrubTarget = some line.toNat then next else v.scrubWeight
                             scrubWhole := if v.scrubWhole = line.toNat then next else v.scrubWhole }
    let free := v.banksUsed.getLsbD (line.toNat % 4) = false
    let due := (v.scrubTarget = some line.toNat ∨ v.scrubWhole = line.toNat) ∧ v.stairFree = 2
    (v.scrubAttic = line.toNat → free → good v.atticMark [0, 1, 2, 3] →
      exec (.scrubRead t false line) s = .next (s.setTile t.val a)) ∧
    (due → good v.cellarMark [0, 1, 2, 3] → exec (.scrubRead t true line) s = .next (s.setTile t.val c)) ∧
    (v.scrubAttic = line.toNat → free → Tbl.get 0 v.atticMark w = 1 → good v.atticMark [1, 2, 3] →
      exec (.scrubRead t false line) s = .next ((s.setTile t.val a).putTile t.val
        { a with corrA := stick v.corrA, ovf := fillBit 5 v.corrA v.ovf, atticMark := Tbl.set 0 v.atticMark w 0 })) ∧
    (due → Tbl.get 0 v.cellarMark w = 1 → good v.cellarMark [1, 2, 3] → exec (.scrubRead t true line) s = .next
      ((s.setTile t.val c).putTile t.val { c with corrC := stick v.corrC, ovf := fillBit 6 v.corrC v.ovf
                                                  stairCorr := v.stairCorr + 1, cellarMark := Tbl.set 0 v.cellarMark w 0 })) ∧
    (v.scrubAttic = line.toNat → free → Tbl.get 0 v.atticMark w = 2 → good v.atticMark [1, 2, 3] →
      let b := (s.setTile t.val a).putTile t.val
        { a.addOrigin ⟨1, line.toNat, (s.room (tileRoom t.val)).tread⟩ with atticMark := Tbl.set 0 v.atticMark w 3 }
      exec (.scrubRead t false line) s = .next (b.record
        (b.tileRec t.val 0x65 0 0 none none (leBytes 1 0 ++ leBytes 4 line.toNat ++ leBytes 1 0)))) ∧
    (v.scrubAttic ≠ line.toNat → exec (.scrubRead t false line) s = .next s) ∧
    (v.scrubAttic = line.toNat → ¬free → exec (.scrubRead t false line) s = .next s) ∧
    (¬due → exec (.scrubRead t true line) s = .next s)

/-- COMMAND_FETCH (R500, R501): a port that is up, of a module that is ready, takes the packet of the ring whose turn it is,
whose entry it has reserved in the completion ring, and answers packets at its front that are no commands; nothing is fetched
from another ring, or while the module resets.

Fetching, answering and skipping packets change nothing but the edge dies' records and what goes out to the hosts. -/
def Obligations.CommandFetches : Prop :=
  (∀ (d : DieId) (i : Fin 8) (p : BitVec 512) (s : State),
      let e := s.die d.val
      let q := e.subRing i.val
      (s.ready = true → s.resetting = false → e.failed = false → e.portUp = true → e.d3 = false → e.nextRing = some i.val →
        exec (.commandFetch d i p) s = .next ((s.setDie d.val { e.setSub i.val { q with
          head := (q.head + 1) % ringEntries q.size, avail := q.avail - 1, open_ := q.open_ + 1, fetched := q.fetched ++ [p] } with
          pollNext := if i.val = 0 then e.pollNext else i.val % 7 + 1 }).skipBad 4097 d i)) ∧
      (s.ready = false ∨ s.resetting = true ∨ e.failed = true ∨ e.portUp = false ∨ e.d3 = true ∨ e.nextRing ≠ some i.val → exec (.commandFetch d i p) s = .next s)) ∧
  (∀ (h : CmdHdr) (k : CmdSpec) (opc : Byte) (status : Nat) (detail : List Byte) (d : DieId) (i : Fin 8) (p : BitVec 512) (s : State),
      s.portsOnly (s.reply h opc status detail) ∧ s.portsOnly (s.moveOn h) ∧
      (∀ a, s.takeCmd h k = some a → s.portsOnly a) ∧
      ∃ t, exec (.commandFetch d i p) s = .next t ∧ s.portsOnly t)

/-- A reply (R503, R507): it takes the entry at the tail of an enabled completion ring, in three writes of which the byte with
the phase is the last; the tail advances, and the phase is inverted where it wraps. A disabled ring takes nothing. -/
def Obligations.ReplyEntries : Prop :=
  ∀ (d : DieId) (i : Fin 9) (tag status ring : Nat) (opc : Byte) (time : Nat) (detail : List Byte) (s : State),
    let e := s.die d.val
    let r := e.compRing i.val
    let n := 2 ^ r.size
    let b := leBytes 2 tag ++ leBytes 2 status ++ leBytes 1 (ring + if r.phase then 128 else 0) ++ [opc] ++ leBytes 2 0 ++
      leBytes 8 time ++ padTo 16 detail
    let a := r.base + BitVec.ofNat 64 (32 * r.tail)
    let next := { r with tail := (if r.tail + 1 = n then 0 else r.tail + 1), phase := (if r.tail + 1 = n then !r.phase else r.phase)
                         used := r.used + 1 }
    (r.size ≠ 0 → s.writeEntry d.val i.val tag status ring opc time detail =
      ((((s.setDie d.val (e.setComp i.val next)).emit d.val (.write a (b.take 4))).emit d.val (.write (a + 5) (b.drop 5))).emit d.val
        (.write (a + 4) ((b.drop 4).take 1))).signal d.val i.val) ∧
    (r.size = 0 → s.writeEntry d.val i.val tag status ring opc time detail = s)

/-- PORT_RESET, D3HOT_ENTRY, D0_RETURN and PERST_N_DEASSERT (R652, R653): a port reset silences the port's commands and those
that it has fetched, drops the crates under way, disables its rings, clears its negotiation and closes its sessions; D3hot
holds the port's writes, and D0 issues them in order; with PERST_N deasserted the port of a ready module comes up, and a start
that waits for it goes on. -/
def Obligations.PortEvents : Prop :=
  ∀ (p : DieId) (cause : PortResetCause) (env : StartEnv) (s : State),
    let e := s.die p.val
    let perst := cause == .perst
    let muted : State := { s with cmds := (s.cmds.filter (fun (c : Cmd) => !c.crateOf p.val)).map (fun (c : Cmd) =>
      if c.h.port.val = p.val then { c with mute := true } else c) }
    let quiet := muted.setDie p.val { e with
      sub := e.sub.foldl (fun (t : Tbl SubRing) q =>
        Tbl.set .reset t q.1 { q.2 with size := 0, avail := 0, open_ := 0, mute := q.2.fetched.length }) []
      comp := e.comp.foldl (fun (t : Tbl CompRing) q => Tbl.set .reset t q.1 { q.2 with size := 0 }) []
      outp := e.outp.foldl (fun (t : Tbl OutRing) q => Tbl.set .reset t q.1 { q.2 with size := 0 }) []
      neg := none, negWas := e.neg.or e.negWas, deferred := [], d3 := false
      perst := e.perst || perst, portUp := e.portUp && !perst }
    let b := s.setDie p.val { e with perst := false }
    let u : BootUnit := ⟨4, BitVec.ofNat 8 p.val⟩
    (s.powered = true → exec (.portReset p cause) s = .next
      ((quiet.ledger.filter (fun q => sessDie q.1 == p.val && q.2.state != .free && q.2.state != .closing)).foldl
        (fun (s : State) (q : Nat × Sess) => s.closeSession q.1) quiet)) ∧
    (s.powered = false → exec (.portReset p cause) s = .next s) ∧
    (e.failed = false → e.portUp = true → exec (.d3hotEntry p) s = .next (s.setDie p.val { e with d3 := true })) ∧
    (e.failed = true ∨ e.portUp = false → exec (.d3hotEntry p) s = .next s) ∧
    (e.d3 = true → exec (.d0Return p) s = .next (e.deferred.foldl (fun (s : State) (op : HostOp) => s.emit p.val op)
      (s.setDie p.val { e with d3 := false, deferred := [] }))) ∧
    (e.d3 = false → exec (.d0Return p) s = .next s) ∧
    (s.boot = none → s.ready = true → e.failed = false → s.portsDown.getLsbD p.val = false →
      exec (.perstNDeassert p env) s = .next (b.setDie p.val { b.die p.val with portUp := true })) ∧
    (s.boot = none → s.ready = false ∨ e.failed = true ∨ s.portsDown.getLsbD p.val = true →
      exec (.perstNDeassert p env) s = .next b) ∧
    (∀ x, s.boot = some x → x.hung = some (10, u, 0) →
      let y : Boot := { x with env := { x.env with attempts := env.attempts } }
      exec (.perstNDeassert p env) s = .next (State.bootAfter (b.bootUnit y 10 u) y 10 u))

/-- PEER FENCED and PEER RESTORED (R621): the notice fences the peer and holds each port to it, whatever its state, and ends the
run where the peer belongs to its gang; a fenced peer that is restored is up without a link, and the links to it train again; a
peer that is not fenced stays as it is. -/
def Obligations.PeerNotices : Prop :=
  ∀ (h : CmdHdr) (s a : State),
    let n := pathModule h.unit
    let held := ((a.portsTo n).foldl (fun (b : State) (k : Nat) => b.setPort k { b.port k with live := false }) a).setPeer n
      { state := 3, port := (a.peer n).port, chg := a.pkt }
    (s.accepts h ⟨0x60, 0, false, s.isPeer, none, []⟩ a → a.inGang n = false →
      exec (.peerFenced h) s = .next ((held.reply h 0x60 0 []).moveOn h)) ∧
    (s.accepts h ⟨0x60, 0, false, s.isPeer, none, []⟩ a → a.inGang n = true →
      exec (.peerFenced h) s = .next ((held.endRun.reply h 0x60 0 []).moveOn h)) ∧
    (s.accepts h ⟨0x61, 0, false, s.isPeer, none, []⟩ a → (a.peer n).state ≠ 3 →
      exec (.peerRestored h) s = .next ((a.reply h 0x61 0 []).moveOn h)) ∧
    (s.accepts h ⟨0x61, 0, false, s.isPeer, none, []⟩ a → (a.peer n).state = 3 →
      exec (.peerRestored h) s = .next (((((a.portsTo n).foldl State.retrain a).setPeer n
        { state := 0, port := none, chg := a.pkt }).reply h 0x61 0 []).moveOn h))

/-- The SMBus block reads (R654, R655, R656, R657): a powered module out of reset answers the identity, the status, the highest
reading of each floor, and the reply of the last message, or 0xFF where there is none; a status read clears the degraded cause
of ALERT_N and, at 95 °C or less, the throttled one, and what it has told of throttling; otherwise nothing is answered.

MESSAGE_FRAGMENT (R656): the first fragment begins a message, the next one expected continues it, and any other discards
what there is; a fragment with a wrong PEC has no effect; a last fragment executes the message. -/
def Obligations.SidebandMessages : Prop :=
  (∀ s : State,
      let up := s.powered = true ∧ s.mreset = false
      let say (b : List Byte) : State := { s with smbOut := s.smbOut ++ [b] }
      let flags := (if s.ready then 1 else 0) + (if s.degraded then 2 else 0) + (if s.failStep ≠ 0 then 4 else 0) +
        (if s.throttleSeen then 8 else 0) + (if s.tripped then 16 else 0)
      let down := ((List.range 4).filter (fun d => (s.die d).failed || !(s.die d).portUp)).foldl (fun m d => m + 2 ^ d) 0
      (up → exec .smbusIdentityRead s = .next (say (leBytes 2 0x1620 ++ leBytes 1 s.fuses.grade.val ++
        leBytes 1 (Config.liveRows s.fuses.grade) ++ leBytes 8 s.fuses.serial.toNat ++
        [s.fuses.stepping, s.firmware.1, s.firmware.2, 0]))) ∧
      (up → exec .smbusStatusRead s = .next { say (leBytes 1 (s.unitCode modulePath) ++ leBytes 1 flags ++ leBytes 2 s.startNo.toNat ++
          leBytes 2 (s.floorMask (fun m => m == .benched)) ++ leBytes 1 (s.benchedDies.toNat + 16 * down) ++ leBytes 1 s.failStep ++
          leBytes 2 s.failCode.toNat ++ leBytes 4 s.linksDown.toNat ++ leBytes 2 0) with
        alertDegraded := false, throttleSeen := false
        alertThrottle := s.alertThrottle && decide (1520 < (highest s.readings).2.2) }) ∧
      (up → exec .smbusTemperatureRead s = .next (say ((List.range 16).flatMap (fun f =>
        leBytes 2 ((highest ((s.floor f).readings f)).2.2 % 65536).toNat)))) ∧
      (up → exec .messageReplyRead s = .next (say (if s.msg.reply = [] then [0xFF] else s.msg.reply))) ∧
      (¬up → exec .smbusIdentityRead s = .next s ∧ exec .smbusStatusRead s = .next s ∧ exec .smbusTemperatureRead s = .next s ∧
        exec .messageReplyRead s = .next s)) ∧
  (∀ (fb : Byte) (body : List Byte) (s : State), s.powered = true → s.mreset = false → 1 ≤ body.length → body.length ≤ 254 →
      let q := fb.toNat % 128
      let parts := (if q = 0 then [] else s.msg.parts) ++ body
      exec (.messageFragment fb body false) s = .next s ∧
      (q = 0 ∨ q = s.msg.next → fb.getLsbD 7 = false →
        exec (.messageFragment fb body true) s = .next { s with msg := { s.msg with parts := parts, next := q + 1 } }) ∧
      (q ≠ 0 → q ≠ s.msg.next →
        exec (.messageFragment fb body true) s = .next { s with msg := { s.msg with parts := [], next := 0 } }) ∧
      (q = 0 ∨ q = s.msg.next → fb.getLsbD 7 = true →
        let a := { s with msg := { s.msg with parts := [], next := 0 } }
        exec (.messageFragment fb body true) s = .next (a.message parts) ∧
        (parts = [1] → exec (.messageFragment fb body true) s = exec .deviceKeyRead a)))

/-- DEVICE KEY READ, OWNER CLAIM, OWNER SET, OWNER CLEAR, CRATE KEY SET and CRATE KEY CLEAR (R645): each leaves its status,
and a signed one that is accepted sets the counter to its NONCE; an owner key is claimed once, while OKEY0 is zero; a signed
one that its checks refuse, or whose key does not unwrap, leaves its status alone. -/
def Obligations.KeyMessages : Prop :=
  ∀ (slot signer : Byte) (nonce : Word) (key e sig : BitVec 768) (iv : BitVec 96) (wrapped : BitVec 256) (gtag : BitVec 128) (s : State),
    let say (t : State) (b : List Byte) : Host.Outcome State Fault Refusal := .next { t with msg := { t.msg with reply := b } }
    let n (t : State) : State := { t with nonce := nonce }
    let one := decide (1 ≤ slot.toNat) && decide (slot.toNat < 4)
    let four := decide (slot.toNat < 4)
    let set := s.msgCheck one 0 nonce ([3, slot] ++ leBytes 4 nonce.toNat ++ keyBytes key) sig
    let clear := s.msgCheck (one && (s.ownerKey slot.toNat).isSome) 0 nonce ([4, slot] ++ leBytes 4 nonce.toNat) sig
    let crate := s.msgCheck four signer.toNat nonce ([5, slot, signer] ++ leBytes 4 nonce.toNat ++ keyBytes e ++
      beBytes 12 iv.toNat ++ beBytes 32 wrapped.toNat ++ beBytes 16 gtag.toNat) sig
    let drop := s.msgCheck (four && (s.crateKey slot.toNat).isSome) signer.toNat nonce ([6, slot, signer] ++ leBytes 4 nonce.toNat) sig
    (s.ready = true → exec .deviceKeyRead s = say s (0 :: leBytes 8 s.fuses.serial.toNat ++ keyBytes Config.devicePublic)) ∧
    (s.ready = true → s.fuses.okey0 ≠ 0 → exec (.ownerClaim key) s = say s [1]) ∧
    (s.ready = true → s.fuses.okey0 = 0 → exec (.ownerClaim key) s = say (({ s with fuses := { s.fuses with
      okey0 := BitVec.ofNat 384 (beNat (sha384 (keyBytes key))) } }).setOwner 0 (some key)) [0]) ∧
    (s.ready = false → exec .deviceKeyRead s = say s [4] ∧ exec (.ownerClaim key) s = say s [4]) ∧
    (set = 0 → exec (.ownerSet slot nonce key sig) s = say (n (s.setOwner slot.toNat (some key))) [0]) ∧
    (set ≠ 0 → exec (.ownerSet slot nonce key sig) s = say s (leBytes 1 set)) ∧
    (clear = 0 → exec (.ownerClear slot nonce sig) s = say (n (s.setOwner slot.toNat none)) [0]) ∧
    (clear ≠ 0 → exec (.ownerClear slot nonce sig) s = say s (leBytes 1 clear)) ∧
    (crate = 0 → exec (.crateKeySet slot signer nonce e iv wrapped gtag sig) s = (match s.unwrap slot e iv wrapped gtag with
      | some k => say (n (s.setCrateKey slot.toNat (some k))) [0]
      | none => say s [3])) ∧
    (crate ≠ 0 → exec (.crateKeySet slot signer nonce e iv wrapped gtag sig) s = say s (leBytes 1 crate)) ∧
    (drop = 0 → exec (.crateKeyClear slot signer nonce sig) s = say (n (s.setCrateKey slot.toNat none)) [0]) ∧
    (drop ≠ 0 → exec (.crateKeyClear slot signer nonce sig) s = say s (leBytes 1 drop))

/-- STATUS_WORD_WRITE (R532): the event bits for which the written bit is 1 are cleared, if the written SEQ is the word's;
otherwise nothing is cleared. An event increments SEQ even where its bit is set already, so that a write with the SEQ from
before it clears nothing. -/
def Obligations.StatusWordWrites : Prop :=
  ∀ (w : Requester) (unit value : Word) (s : State), s.regsUp w = true → pathValid unit = true → pathLevel unit ≤ 3 →
    (pathLevel unit = 0 → s.tileLive (pathTile unit) = true) →
    let u := s.unit unit
    (value.toNat / 65536 = u.seq.toNat → exec (.statusWordWrite w unit value) s =
      .next (s.setUnit unit { u with events := u.events &&& ~~~(BitVec.ofNat 10 value.toNat) })) ∧
    (value.toNat / 65536 ≠ u.seq.toNat → exec (.statusWordWrite w unit value) s = .next s) ∧
    (∀ b < 10, let t := s.event unit b
      (t.unit unit).seq = u.seq + 1 ∧ (t.unit unit).events = u.events ||| BitVec.ofNat 10 (2 ^ b) ∧
      (value.toNat / 65536 = u.seq.toNat → exec (.statusWordWrite w unit value) t = .next t))

/-- HOLDLIM_WRITE, WDOG_WRITE, FLOGR_WRITE and PEERSEL_WRITE (R537, R538, R542): a value outside the range is ignored; a FLOGR
later than FLOGW is ignored; PEERSEL takes any value.

UNIT_SET_ENTRY_WRITE, CTRL_STOP_WRITE and CLASS_GOAL_WRITE (R35, R539, R540): a unit set takes a valid path of level 0 to 3
or the unused mark, and anything else is counted in the REGERR of the requester's die; the stop bit of a unit changes only where
it is written otherwise than it stands, and a change is a stop request that no command waits for; a goal takes every value but a
reserved KIND and a LEAD of 0. -/
def Obligations.ModuleRegisterWrites : Prop :=
  (∀ (v : Word) (s : State), s.ready = true →
      let h := v.toNat % 2 ^ 22
      let d := v.toNat % 2 ^ 18
      (250 ≤ h → h ≤ 2500000 → exec (.holdlimWrite v) s = .next { s with holdLim := h }) ∧
      (h < 250 ∨ 2500000 < h → exec (.holdlimWrite v) s = .next s) ∧
      (25 ≤ d → d ≤ 250000 → exec (.wdogWrite v) s = .next { s with wdog := d }) ∧
      (d < 25 ∨ 250000 < d → exec (.wdogWrite v) s = .next s) ∧
      (serialLater (BitVec.ofNat 16 v.toNat) s.flogW = false →
        exec (.flogrWrite v) s = .next { s with flogR := BitVec.ofNat 16 v.toNat }) ∧
      (serialLater (BitVec.ofNat 16 v.toNat) s.flogW = true → exec (.flogrWrite v) s = .next s) ∧
      exec (.peerselWrite v) s = .next { s with peerSel := BitVec.ofNat 14 v.toNat }) ∧
  (∀ (w : Requester) (k j : Fin 64) (unit v : Word) (c : Fin 8) (s : State),
      let live := s.ready = true ∧ pathValid unit = true ∧ pathLevel unit ≤ 3 ∧ (pathLevel unit = 0 → s.tileLive (pathTile unit) = true)
      let q := s.cls c.val
      (s.regsUp w = true → v = 0xFFFFFFFF ∨ (pathValid v = true ∧ pathLevel v ≤ 3) → exec (.unitSetEntryWrite ⟨w, k⟩ j v) s =
        .next { s with unitSets := Tbl.set 0xFFFFFFFF s.unitSets (64 * k.val + j.val) v }) ∧
      (s.regsUp w = true → v ≠ 0xFFFFFFFF → (pathValid v = false ∨ 3 < pathLevel v) →
        exec (.unitSetEntryWrite ⟨w, k⟩ j v) s = .next (s.bumpDie (s.dieOf w) 1)) ∧
      (live → (s.unit unit).stop = v.getLsbD 0 → exec (.ctrlStopWrite unit v) s = .next s) ∧
      (live → (s.unit unit).stop ≠ v.getLsbD 0 →
        exec (.ctrlStopWrite unit v) s = .next (s.requestStop [unit] (v.getLsbD 0) noHdr 0x40 true)) ∧
      (s.ready = true → exec (.classGoalWrite c .goal v) s = .next (s.setCls c.val { q with
        kind := if v.toNat % 8 ∈ [3, 4, 6, 7] then q.kind else v.toNat % 8
        lead := if v.toNat / 65536 = 0 then q.lead else v.toNat / 65536 })) ∧
      (s.ready = true → exec (.classGoalWrite c .ttft v) s = .next (s.setCls c.val { q with ttft := v })) ∧
      (s.ready = true → exec (.classGoalWrite c .tbt v) s = .next (s.setCls c.val { q with tbt := v })) ∧
      (s.ready = true → exec (.classGoalWrite c .spec v) s =
        .next (s.setCls c.val { q with depth := v.toNat % 8, athr := v.toNat / 16 % 8 })))

/-- DOORBELL_WRITE, COMPLETION_HEAD_WRITE and OUTPUT_HEAD_WRITE (R500, R501, R545): a doorbell within its ring offers the
entries from the old tail to the new one; one that the ring cannot take is a ring error; a head within its ring frees the
entries up to it, and one outside is counted in REGERR.

RING_SIZE_WRITE (R544, R545): a size in its range enables a disabled ring with its indexes at 0; a size of 0 disables a
submission ring with no command unfetched or unanswered, a completion ring whose submission ring is disabled, and an output ring
that no session uses; indexes and phase then stay; anything else is counted in REGERR. -/
def Obligations.RingRegisterWrites : Prop :=
  (∀ (p : DieId) (i : Fin 8) (j : Fin 16) (v : Word) (s : State), s.regsUp (.port p) = true →
      let e := s.die p.val
      let q := e.subRing i.val
      let c := e.compRing i.val
      let o := e.outRing j.val
      let x := v.toNat % 4096
      let add := (x + 2 ^ q.size - q.tail) % 2 ^ q.size
      (q.size ≠ 0 → x < 2 ^ q.size → q.size ≤ c.size → q.avail + q.open_ + add ≤ 2 ^ q.size →
        exec (.doorbellWrite p i v) s = .next (s.setDie p.val (e.setSub i.val { q with tail := x, avail := q.avail + add }))) ∧
      (q.size = 0 ∨ 2 ^ q.size ≤ x ∨ c.size < q.size ∨ 2 ^ q.size < q.avail + q.open_ + add →
        exec (.doorbellWrite p i v) s = .next (s.ringError p.val i.val)) ∧
      (c.size ≠ 0 → x < 2 ^ c.size → exec (.completionHeadWrite p ⟨i.val, by omega⟩ v) s = .next
        (s.setDie p.val (e.setComp i.val { c with head := x, used := c.used - (x + 2 ^ c.size - c.head) % 2 ^ c.size }))) ∧
      (c.size = 0 ∨ 2 ^ c.size ≤ x → exec (.completionHeadWrite p ⟨i.val, by omega⟩ v) s = .next (s.bumpDie p.val 1)) ∧
      (o.size ≠ 0 → v.toNat % 2 ^ 24 < 2 ^ o.size → exec (.outputHeadWrite p j v) s = .next (s.setDie p.val (e.setOut j.val
        { o with head := v.toNat % 2 ^ 24, used := o.used - (v.toNat % 2 ^ 24 + 2 ^ o.size - o.head) % 2 ^ o.size }))) ∧
      (o.size = 0 ∨ 2 ^ o.size ≤ v.toNat % 2 ^ 24 → exec (.outputHeadWrite p j v) s = .next (s.bumpDie p.val 1))) ∧
  (∀ (p : DieId) (i : Fin 8) (j : Fin 16) (v : Word) (s : State), s.regsUp (.port p) = true →
      let e := s.die p.val
      let q := e.subRing i.val
      let c := e.compRing i.val
      let o := e.outRing j.val
      let n := v.toNat % 16
      (q.size = 0 → 4 ≤ n → n ≤ 12 → exec (.ringSizeWrite p (.submission i) v) s =
        .next (s.setDie p.val (e.setSub i.val { SubRing.reset with
          base := q.base, size := n, fetched := q.fetched, mute := q.mute }))) ∧
      (q.size ≠ 0 → n = 0 → q.avail = 0 → q.open_ = 0 → exec (.ringSizeWrite p (.submission i) v) s =
        .next (s.setDie p.val (e.setSub i.val { q with size := 0 }))) ∧
      (q.size ≠ 0 → n ≠ 0 → exec (.ringSizeWrite p (.submission i) v) s = .next (s.bumpDie p.val 1)) ∧
      (c.size = 0 → n ≠ 0 → q.size ≤ n → n ≤ 12 → exec (.ringSizeWrite p (.completion i) v) s =
        .next (s.setDie p.val (e.setComp i.val { CompRing.reset with base := c.base, size := n }))) ∧
      (c.size ≠ 0 → q.size ≠ 0 → n = 0 → exec (.ringSizeWrite p (.completion i) v) s = .next (s.bumpDie p.val 1)) ∧
      (c.size ≠ 0 → q.size = 0 → n = 0 → exec (.ringSizeWrite p (.completion i) v) s =
        .next (s.setDie p.val (e.setComp i.val { c with size := 0 }))) ∧
      (o.size = 0 → 12 ≤ v.toNat % 32 → v.toNat % 32 ≤ 24 → exec (.ringSizeWrite p (.output j) v) s =
        .next (s.setDie p.val (e.setOut j.val
          { OutRing.reset with base := o.base, shadow := o.shadow, size := v.toNat % 32 }))) ∧
      (o.size ≠ 0 → v.toNat % 32 = 0 →
        (∀ x ∈ s.ledger, sessDie x.1 = p.val → x.2.state ≠ .free → x.2.oring ≠ j.val) → exec (.ringSizeWrite p (.output j) v) s =
          .next (s.setDie p.val (e.setOut j.val { o with size := 0 }))))

/-- The register accesses (R529, R530, R533): an alias write acts at once on the bits of the register's RW fields; an access of
another size or alignment is ignored, or reads as all ones, and is counted in REGERR; the low word of a 64-bit register is held
for its requester, and the high word stores both, with the low half as it stands where none is held; a read answers the
requester, and of the low word of a 64-bit value it latches the high word, which a read of the high word answers. Until the module
is ready a read answers IDENT, VERSION, the state Resetting, and the reset value elsewhere (R626; outside the module's block this is
the model's choice, log entry 99).

What the writes of registers store (R530, R533, R535, R544): an EVENT_COUNTER_WRITE stores the written value in the counter of
an edge die, of a tile or of the module, and leaves its overflow bit; a HIGH_WORD_WRITE of a submission ring's base stores the
64-bit address, if the ring is disabled and the address aligned. -/
def Obligations.RegisterAccesses : Prop :=
  (∀ (w : Requester) (bar : Bar) (off : BitVec 31) (size : Nat) (v : Word) (x : DWord) (s : State),
      let b := blkAt bar (off.toNat / 4096)
      let o := off.toNat % 1024
      let now : Word := BitVec.ofNat 32 (s.reg32 b o)
      let m := v &&& rwMask b o
      let put (y : Word) : State := s.store32 (s.dieOf w) b o y
      let word := off.toNat % 4 = 0 ∧ rw64 b o = false ∧ (4 ≤ o → rw64 b (o - 4) = false)
      let high := off.toNat % 4 = 0 ∧ off.toNat % 4096 < 1024 ∧ 4 ≤ o ∧ rw64 b o = false ∧ rw64 b (o - 4) = true
      let odd := (size ≠ 4 ∨ off.toNat % 4 ≠ 0) ∧ (size ≠ 8 ∨ off.toNat % 8 ≠ 0)
      let shadow := shadowKey bar (off.toNat / 4096) w
      (s.regsUp w = true → word → rwMask b o ≠ 0 → exec (.setAliasWrite w bar off v) s = .next (put (now ||| m)) ∧
        exec (.clearAliasWrite w bar off v) s = .next (put (now &&& ~~~m)) ∧
        exec (.invertAliasWrite w bar off v) s = .next (put (now ^^^ m))) ∧
      (s.regsUp w = true → word → off.toNat % 4096 < 1024 →
        exec (.registerWrite w bar off 4 (BitVec.ofNat 64 v.toNat)) s = .next (put v)) ∧
      (s.regsUp w = true → odd → exec (.registerWrite w bar off size x) s = .next (s.bumpDie (s.dieOf w) 1)) ∧
      (s.regsUp w = true → off.toNat % 4 = 0 → off.toNat % 4096 < 1024 → rw64 b o = true →
        exec (.registerWrite w bar off 4 (BitVec.ofNat 64 v.toNat)) s =
          .next { s with low := Tbl.set none s.low (lowKey bar off.toNat w) (some v) }) ∧
      (s.regsUp w = true → high →
        let k := lowKey bar (off.toNat - 4) w
        let lo := match Tbl.get none s.low k with
          | some y => y.toNat
          | none => s.reg32 b (o - 4) % 2 ^ 32
        exec (.highWordWrite w bar off v) s =
          .next (({ s with low := Tbl.set none s.low k none } : State).store64 b (o - 4) (BitVec.ofNat 64 (v.toNat * 2 ^ 32 + lo)))) ∧
      (s.reached w = true → s.ready = true → off.toNat % 4 = 0 → ∀ y, s.reg64 b o = some y → exec (.lowWordRead w bar ⟨off, 4⟩) s = .next { s with
        shadow := Tbl.set 0 s.shadow shadow (BitVec.ofNat 32 (y / 2 ^ 32)), readOut := s.readOut ++ [(w, BitVec.ofNat 32 y)] }) ∧
      (s.reached w = true → s.ready = false → off.toNat % 4 = 0 → exec (.lowWordRead w bar ⟨off, 4⟩) s = .next { s with
        readOut := s.readOut ++ [(w, s.earlyWord w bar off.toNat)] }) ∧
      (s.reached w = true → s.ready = true → off.toNat % 4 = 0 → s.reg64 b o = none → exec (.lowWordRead w bar ⟨off, 4⟩) s = .next { s with
        readOut := s.readOut ++ [(w, if 4 ≤ o ∧ (s.reg64 b (o - 4)).isSome then Tbl.get 0 s.shadow shadow else now)] }) ∧
      (s.reached w = true → odd → exec (.lowWordRead w bar ⟨off, size⟩) s = .next { s.bumpDie (s.dieOf w) 1 with
        readOut := s.readOut ++ List.replicate (max 1 ((size + 3) / 4)) (w, 0xFFFFFFFF) })) ∧
  (∀ (w : Requester) (bar : Bar) (off : BitVec 31) (v lo : Word) (d t i : Nat) (s : State), s.regsUp w = true → off.toNat % 4 = 0 →
      off.toNat % 4096 < 1024 →
      let b := blkAt bar (off.toNat / 4096)
      let o := off.toNat % 1024
      let e := s.die d
      let x := s.tile t
      let put (a : State) : Prop := exec (.eventCounterWrite w bar off v) s = .next a
      (b = .die d → (o = 0x08 → put (s.setDie d { e with ringErr := v })) ∧ (o = 0x0C → put (s.setDie d { e with regErr := v })) ∧
        (o = 0x10 → put (s.setDie d { e with nLost := v })) ∧ (o = 0x14 → put (s.setDie d { e with dropRec := v })) ∧
        (o = 0x18 → put (s.setDie d { e with fwdDrop := v }))) ∧
      (b = .tile t → s.tileLive t = true →
        (o = 0x50 → put (s.setTile t { x with bounces := v.toNat })) ∧ (o = 0x54 → put (s.setTile t { x with bounceSent := v.toNat })) ∧
        (o = 0x58 → put (s.setTile t { x with suppressed := v.toNat })) ∧ (o = 0x5C → put (s.setTile t { x with originCount := v.toNat })) ∧
        (o = 0x60 → put (s.setTile t { x with corrA := v.toNat })) ∧ (o = 0x64 → put (s.setTile t { x with corrC := v.toNat }))) ∧
      (b = .module → o = 0x70 → put { s with flogLost := v }) ∧
      (b = .rings d → i < 8 → o = 0x20 * i + 4 → (e.subRing i).size = 0 → lo.toNat % 64 = 0 →
        Tbl.get none s.low (lowKey bar (off.toNat - 4) w) = some lo →
        exec (.highWordWrite w bar off v) s = .next (({ s with low := Tbl.set none s.low (lowKey bar (off.toNat - 4) w) none } : State).setDie d
          (e.setSub i { e.subRing i with base := BitVec.ofNat 64 (v.toNat * 2 ^ 32 + lo.toNat) }))))

/-- SERVICE_PACKET_ROUTE (R337, R338, R339, R340, R341, R345): of the first packet of an input's channel, with none waiting to be
injected there, one with a bad header is discarded and recorded. One for this tile whose output serves it leaves the network,
where port L takes it, and stays where it does not. One for another tile, on an escape channel, goes by its first productive output
to the next router, whose credit must hold all its flits; where the next floor is fenced or benched, the bridge, once it is granted,
answers a request FENCED and drops a reply. An empty channel routes nothing.

WRITE_REQUEST, READ_REQUEST and REMOTE_CELLAR_READ (R265, R267, R286, R288, R343, R350, R405): a request on stream 0 that has
left the network at its tile, whose turn it is there and whose service port has the periods for its bytes. One outside the tile's
windows is refused and recorded before all else; a flagged one whose flag is no arrival flag is refused. Otherwise its access is made,
bounced or refused there: a write puts its payload and an ACK goes back; a read sends the bytes as they stand; a flagged one sets its
arrival flag; one that bounces changes nothing but the count of bounces sent; a refused one is recorded. A read of the cellar first
waits for free stair bytes, and is answered once all its bytes have found them and the reply queue has room.

A WRITE_REQUEST on a stream from 1 to 15 (R349): one without a flag is applied, answered and counted; a flagged one whose count
has come is applied and answered, and frees the stream's entry; any other is deferred, or bounced where the deferral store holds
8; a stream without an entry takes one, is applied at once where its flagged packet counts 0, and bounces where the table holds
32. -/
def Obligations.PacketsAtTiles : Prop :=
  (∀ (t : TileId) (inp : Fin 5) (ch : Fin 4) (p : Packet) (l : List Packet) (g d u : Nat) (ds : List Nat) (s : State),
      s.tileOn t.val = true →
      let k := bufKey t.val inp.val ch.val
      let esc := (if p.isReply then 2 else 0) + 1
      let up := tileFloor u = tileFloor t.val ∨ s.floorUp (tileFloor u) = true
      s.waitAt k = [] →
      (s.buf k = [] → exec (.servicePacketRoute t inp ch) s = .next s) ∧
      (s.buf k = p :: l → s.headerOk p = false →
        exec (.servicePacketRoute t inp ch) s =
          .next (({ s.setBuf k l with mcLeft := Tbl.set [] s.mcLeft k [] } : State).headerFault t.val inp.val ch.val p)) ∧
      (s.buf k = p :: l → s.headerOk p = true → p.destTile = some t.val →
        (s.ejects t.val p = true → s.wins t.val inp.val ch.val 4 ch.val = true → exec (.servicePacketRoute t inp ch) s =
          .next (((s.setBuf k l).served t.val 4 inp.val).ejectAt t.val p)) ∧
        (s.ejects t.val p = false → exec (.servicePacketRoute t inp ch) s = .next s)) ∧
      (s.buf k = p :: l → s.headerOk p = true → p.destTile = some g → g ≠ t.val → (p.esc = true ∨ ch.val % 2 = 1) →
        s.productive t.val g = d :: ds → s.nbr t.val d = some u →
        (up → p.flits ≤ s.credit (bufKey u (opp d) esc) → s.wins t.val inp.val ch.val d esc = true →
          exec (.servicePacketRoute t inp ch) s =
            .next (((s.setBuf k l).served t.val d inp.val).putAt (bufKey u (opp d) esc) { p with esc := true })) ∧
        (up → s.credit (bufKey u (opp d) esc) < p.flits → exec (.servicePacketRoute t inp ch) s = .next s) ∧
        (¬ up → s.wins t.val inp.val ch.val d esc = true →
          (p.isReply = false → exec (.servicePacketRoute t inp ch) s =
            .next (((s.setBuf k l).served t.val d inp.val).putAt (bufKey t.val d 2)
              (p.answer .fenced (.floor (Fin.ofNat 16 (tileFloor u))) (tileFloor u) [] []))) ∧
          (p.isReply = true → exec (.servicePacketRoute t inp ch) s = .next ((s.setBuf k l).served t.val d inp.val))))) ∧
  (∀ (t : TileId) (p : Packet) (u : Unicast) (s : State), s.tileOn t.val = true → p.tgt = .uni u → p.str = 0 →
      (s.tile t.val).turnOf p = true →
      let a := s.takeEject t.val p
      let v := a.tile t.val
      let me : Src := .tile t
      let n := p.len * 16
      let tread := (a.room (tileRoom t.val)).tread
      let refused (i : Instr) (x : State) (sub : Nat) : Prop :=
        exec i s = .next (x.sendReply t.val p (p.answer .refused me sub [] []))
      (p.kind = .write → u.cellar = false → (s.tile t.val).portFits p.payload.length = true →
        let len := p.payload.length
        (v.covers p.src false true u.addr len = false →
          refused (.writeRequest t p) (a.refuse t.val p false true u.addr (max len 1) 0x61 1 false) 1) ∧
        (v.covers p.src false true u.addr len = true → p.flg = true → v.isArrival p.tf.toNat = false →
          refused (.writeRequest t p) (a.refuse t.val p false true u.addr len 0x6D 0 false) 1) ∧
        (v.covers p.src false true u.addr len = true → (p.flg = true → v.isArrival p.tf.toNat = true) →
          (len = 0 → exec (.writeRequest t p) s =
            .next ((a.setArrival t.val p).sendReply t.val p (p.answer .ack me 0 [] []))) ∧
          (len ≠ 0 → v.admitWrite p.src false u.addr len = .ok → exec (.writeRequest t p) s = .next
            (((a.putTile t.val ((v.servicePut u.addr p.payload p.poison (some (a.flitOrigin t.val p))).usePort len)).setArrival
              t.val p).sendReply t.val p (p.answer .ack me 0 [] []))) ∧
          (len ≠ 0 → v.admitWrite p.src false u.addr len = .bounce →
            exec (.writeRequest t p) s = .next (a.sendReply t.val p (p.answer .bounce me 0 [] []))) ∧
          (∀ sub code fsub ab, len ≠ 0 → v.admitWrite p.src false u.addr len = .refuse sub code fsub ab →
            refused (.writeRequest t p) (a.refuse t.val p false true u.addr len code fsub ab) sub))) ∧
      (p.kind = .read → p.flg = false → u.cellar = false → (s.tile t.val).portFits n = true →
        (v.covers p.src false false u.addr n = false →
          refused (.readRequest t p) (a.refuse t.val p false false u.addr (max n 1) 0x61 1 false) 1) ∧
        (v.covers p.src false false u.addr n = true →
          (v.admitRead p.src false u.addr n = .ok → exec (.readRequest t p) s = .next
            (((a.putTile t.val (((v.serviceTake u.addr n).usePort n).noteRead tread ⟨agService, false, false, u.addr, n⟩)).setArrival
              t.val p).sendReply t.val p (p.answer .data me 0 (memRead v.attic u.addr n) []))) ∧
          (v.admitRead p.src false u.addr n = .bounce →
            exec (.readRequest t p) s = .next (a.sendReply t.val p (p.answer .bounce me 0 [] []))) ∧
          (∀ sub code fsub ab, v.admitRead p.src false u.addr n = .refuse sub code fsub ab →
            refused (.readRequest t p) (a.refuse t.val p false false u.addr n code fsub ab) sub))) ∧
      (p.kind = .read → p.flg = false → u.cellar = true → (s.tile t.val).portFits 0 = true →
        (v.cellJobs.find? (fun j => j.pkt == p) = none → v.admitRead p.src true u.addr n = .ok → p.len ≠ 0 →
          exec (.remoteCellarRead t p) s = .next (a.setTile t.val { v with cellJobs := v.cellJobs ++ [⟨p, n⟩] })) ∧
        (∀ j, v.cellJobs.find? (fun j => j.pkt == p) = some j →
          let b := a.setTile t.val { v with cellJobs := v.cellJobs.erase j }
          (j.left ≠ 0 ∨ 16 ≤ a.replySlots t.val → exec (.remoteCellarRead t p) s = .next a) ∧
          (j.left = 0 → a.replySlots t.val < 16 → (b.tile t.val).covers p.src true false u.addr n = true →
            (b.tile t.val).admitRead p.src true u.addr n = .ok → exec (.remoteCellarRead t p) s = .next
            (((b.putTile t.val ((b.tile t.val).noteRead (b.room (tileRoom t.val)).tread
              ⟨agService, false, true, u.addr, n⟩)).setArrival t.val p).sendReply t.val p
              (p.answer .data me 0 (memRead (b.tile t.val).cellar u.addr n) [])))))) ∧
  (∀ (t : TileId) (p : Packet) (s : State), s.tileOn t.val = true → p.kind = .write → p.str ≠ 0 →
      (s.tile t.val).portFits p.payload.length = true → (s.tile t.val).turnOf p = true →
      let a := s.takeEject t.val p
      let v := a.tile t.val
      let bounce := a.sendReply t.val p (p.answer .bounce (.tile (Fin.ofNat 307200 t.val)) 0 [] [])
      let x := a.apply t.val p
      let y := x.s.sendReply t.val p x.reply
      let z := a.applyReply t.val p
      (∀ e, v.streams.find? (fun e => e.is p) = some e →
        (p.flg = true → e.count ≠ p.cnt →
          (v.deferred.length < 8 → exec (.writeRequest t p) s = .next (a.setTile t.val { v with deferred := v.deferred ++ [p] })) ∧
          (8 ≤ v.deferred.length → exec (.writeRequest t p) s = .next bounce)) ∧
        (p.flg = true → e.count = p.cnt → x.reply.kind ≠ .bounce →
          exec (.writeRequest t p) s = .next (z.setTile t.val ((z.tile t.val).setStream p none))) ∧
        (p.flg = false → x.reply.kind ≠ .bounce →
          ((y.setTile t.val ((y.tile t.val).setStream p (some (e.count + 1)))).tile t.val).deferred = [] →
          exec (.writeRequest t p) s = .next (y.setTile t.val ((y.tile t.val).setStream p (some (e.count + 1)))))) ∧
      (v.streams.find? (fun e => e.is p) = none →
        (p.flg = true → p.cnt = 0 → exec (.writeRequest t p) s = .next z) ∧
        (p.flg = false ∨ p.cnt ≠ 0 → 32 ≤ v.streams.length → exec (.writeRequest t p) s = .next bounce)))

/-- ZERO_REQUEST, CELLAR_ZEROING_COMPLETE and DELIVER (R290, R341, R464): a ZERO within kept blocks waits in the tile; any other is
refused; once the last byte of the oldest is written and the reply queue has room, ZERO DONE goes to its source, and before that
nothing happens. A slot table for another pipeline is accepted and changes nothing, and so is one that the tile holds already; one
outside the tile's inbound lines or windows is refused and recorded; one that meets full lines with another table is refused; and one
for the tile's own pipeline fills its five empty lines, its poisoned words poison, and sets its slots' generations, whatever the
tile's phase. -/
def Obligations.ZeroAndDeliver : Prop :=
  ∀ (t : TileId) (p : Packet) (u : Unicast) (z : ZeroJob) (l : List ZeroJob) (s : State), s.tileOn t.val = true →
    let a := s.takeEject t.val p
    let v := a.tile t.val
    let me : Src := .tile t
    let n := leNat (p.payload.take 2) % 16384
    let kept := (∀ k ∈ linesOf (32 * u.line.toNat) (32 * n), v.kind (k / 128) = 2) ∧ u.line.toNat + n ≤ 8192 ∧ n ≠ 0
    let five := (List.range 5).map (· + u.line.toNat)
    let room := decide (s.replySlots t.val < 16)
    (p.kind = .zero → p.tgt = .uni u → (s.tile t.val).portFits 0 = true → (s.tile t.val).turnOf p = true →
      (kept → exec (.zeroRequest t p) s = .next (a.setTile t.val { v with zero := v.zero ++ [⟨u.line.toNat * 32, 32 * n, p⟩] })) ∧
      (¬ kept → exec (.zeroRequest t p) s = .next
        ((a.refuse t.val p true true (u.line.toNat * 32) (32 * n) 0x61 3 false).sendReply t.val p (p.answer .refused me 1 [] [])))) ∧
    ((s.tile t.val).zero = z :: l →
      (z.left = 0 → room = true → exec (.cellarZeroingComplete t) s =
        .next ((s.setTile t.val { s.tile t.val with zero := l }).sendReply t.val z.pkt (z.pkt.answer .zeroDone me 0 [] []))) ∧
      (z.left ≠ 0 ∨ room = false → exec (.cellarZeroingComplete t) s = .next s)) ∧
    ((s.tile t.val).zero = [] → exec (.cellarZeroingComplete t) s = .next s) ∧
    (p.kind = .deliver → p.tgt = .uni u → (s.tile t.val).portFits p.payload.length = true → (s.tile t.val).turnOf p = true →
      let ack (x : State) : Host.Outcome State Fault Refusal := .next (x.sendReply t.val p (p.answer .ack me 0 [] []))
      let no (x : State) : Host.Outcome State Fault Refusal := .next (x.sendReply t.val p (p.answer .refused me 1 [] []))
      let same := (∀ l ∈ five, v.tag l = true) ∧ memRead v.attic (u.line.toNat * 32) 5 = p.payload.take 5
      let fits := (∀ l ∈ five, ∃ h, v.shelfOf l = some h ∧ h.inbound = true) ∧
        v.admits p.src false true u.line.toNat (u.line.toNat + 4) = true
      (v.pipe ≠ p.payload.getD 4 0 ∨ v.pipe = 0xFF → exec (.deliver t p) s = ack (a.putTile t.val v)) ∧
      (v.pipe = p.payload.getD 4 0 → v.pipe ≠ 0xFF →
        (same → exec (.deliver t p) s = ack (a.putTile t.val v)) ∧
        (¬ same → ¬ fits → exec (.deliver t p) s =
          no ((a.putTile t.val v).refuse t.val p false true (u.line.toNat * 32) 160 0x61 1 false)) ∧
        (¬ same → fits → (∃ l ∈ five, v.tag l = true) → exec (.deliver t p) s = no (a.putTile t.val v)) ∧
        (fits → (∀ l ∈ five, v.tag l = false) →
          let w := (v.servicePut (u.line.toNat * 32) (padTo 160 p.payload) p.poison (some (a.flitOrigin t.val p))).usePort 160
          let sets := (List.range 8).filterMap (fun i =>
            let e := (p.payload.drop (32 + 16 * i)).take 16
            if leNat ((e.drop 12).take 2) = 0xFFFF then none else some (i, some (e.getD 14 0)))
          exec (.deliver t p) s = ack (a.putTile t.val { w with slotEvs := w.slotEvs ++ sets }))))

/-- ACK, DATA_REPLY, BOUNCE, REFUSED and FENCED_REPLY at the tile whose request they answer (R265, R267, R283, R284, R286, R345,
R347): the final ones free the request's entry, and the ACK of a flagged packet lets those held back on its stream go; data
for which the service port has the periods goes to the request's own inbound lines; a bounce leaves the request to wait 64
periods; a refusal and a fenced floor abort the tile.

The replies at an edge die (R343, R345, R357, R358, R460, R577): an ACK of a multicast counts the floor that it names with its
refusals, and BRANCH_DROPPED counts it as dropped; DATA and REFUSED end a request that is not a link record; the last ZERO_DONE of
a closing session frees it; a bounced request goes out again; one whose floor is fenced is held; a reply to no request is
dropped. -/
def Obligations.Replies : Prop :=
  (∀ (t : TileId) (p : Packet) (x : Req) (s : State), s.tileOn t.val = true → p.tgt = .reply (.tile t) →
      ((s.takeEject t.val p).tile t.val).req p.tag.toNat = some x →
      let a := s.takeEject t.val p
      let b := a.freeReq t.val p x
      let v := b.tile t.val
      let lines := linesOf (x.dst * 32) p.payload.length
      (p.kind = .ack → x.pkt.flg = false → exec (.ack p) s = .next b) ∧
      (p.kind = .ack → x.pkt.flg = true → x.pkt.str ≠ 0 → exec (.ack p) s = .next (b.releaseStream t.val x.pkt.str.toNat)) ∧
      (p.kind = .data → (s.tile t.val).portFits p.payload.length = true → (∀ l ∈ lines, (∃ h, v.shelfOf l = some h ∧ h.inbound = true) ∧ v.tag l = false) →
        exec (.dataReply p) s = .next
          (b.putTile t.val ((v.servicePut (x.dst * 32) p.payload p.poison (some (b.flitOrigin t.val p))).usePort p.payload.length))) ∧
      (p.kind = .bounce → exec (.bounce p) s =
        .next (a.setTile t.val ((a.tile t.val).setReq p.tag.toNat (some { x with waiting := true, left := 64 })))) ∧
      (∀ w, p.kind = .refused → x.pkt.tgt = .uni w → exec (.refused p) s =
        .next (b.tileAbort t.val 0x62 (if p.sub = 4 then 5 else p.sub.toNat) none
          (leBytes 4 x.pkt.targetPath ++ (leBytes 2 w.line.toNat ++ leBytes 2 (w.line.toNat +
            (if x.pull then x.pkt.len / 2 else x.pkt.payload.length / 32) - 1))))) ∧
      (p.kind = .fenced → exec (.fencedReply p) s = .next
        (b.tileAbort t.val 0x6C 3 none (reqDetail x.pkt.targetPath x.pkt.str.toNat p.sub.toNat x.bounces)))) ∧
  (∀ (d : DieId) (tag : BitVec 16) (p : Packet) (x : EdgeReq) (i q : Nat) (s : State), s.ready = true → p.tgt = .reply (.die d tag) →
      let a := s.takeInbox d p
      (a.edgeReq d tag = some x →
        (p.kind = .ack → x.floors ≠ [] →
          exec (.ack p) s = .next (a.edgeFloor x p.sub.toNat (leNat ((p.payload.drop 4).take 4)) false)) ∧
        (p.kind = .branchDropped → exec (.branchDropped p) s = .next (a.edgeFloor x p.sub.toNat 0 true)) ∧
        ((∀ k, x.purpose ≠ Purpose.link k) →
          (p.kind = .data → exec (.dataReply p) s = .next (a.dropEdgeReq x)) ∧
          (p.kind = .refused → exec (.refused p) s = .next (a.dropEdgeReq x)) ∧
          (p.kind = .bounce → exec (.bounce p) s = .next (a.dieInject x.die.val x.pkt))) ∧
        (p.kind = .fenced → x.pkt.destTile = some q →
          (a.floorUp (tileFloor q) = false → exec (.fencedReply p) s = .next (a.setEdgeReq { x with held := true })) ∧
          (a.floorUp (tileFloor q) = true → exec (.fencedReply p) s = .next (a.dieInject x.die.val x.pkt))) ∧
        (p.kind = .zeroDone → x.purpose = .zero i →
          let b := a.dropEdgeReq x
          let e := b.sess i
          let c := b.setSess i { e with zeroLeft := e.zeroLeft - 1 }
          exec (.zeroDone p) s = .next (if e.state = .closing ∧ e.zeroLeft = 1 then c.freeSession i else c))) ∧
      (a.edgeReq d tag = none → p.kind = .zeroDone → exec (.zeroDone p) s = .next a) ∧
      (a.edgeReq d tag = none → p.kind = .branchDropped → exec (.branchDropped p) s = .next a))

/-- FLOOR_COMBINER_REPLY (R356): a reply of one of the floor's targets is counted, with its refusal, and the last one frees the
entry and sends the edge die, from the router at the floor port, one ACK that names the floor and carries both counts.

BARRIER_COMPLETION and REDUCTION_RESULT (R363, R366, R619): a round whose members have all arrived completes in every arrived
tile, and the barrier is armed again; of a gang barrier it hands the module's part on, and completes once gang completion has
come back; a round of the other kind, or with a member still to come, stays. -/
def Obligations.FloorCombinersAndRounds : Prop :=
  (∀ (f : FloorId) (p : Packet) (g : FloorId) (src : Src) (e : CombEnt) (s : State), s.ready = true →
      (s.floor f.val).mode = .up → p.tgt = .combiner g src →
      (s.floor f.val).comb.find? (fun x => x.src == src) = some e →
      let v := s.floor f.val
      let w := { v with waiting := if v.waiting.contains p then v.waiting.erase p else v.waiting }
      let n := e.refusals + if p.kind = .ack then 0 else 1
      let b := s.setFloor f.val { w with comb := v.comb.filter (fun x => x.src != src), closed := src :: s.stillOut v.closed }
      (e.replies + 1 < e.targets → exec (.floorCombinerReply f p) s = .next (s.setFloor f.val { w with
        comb := v.comb.map (fun x => if x.src == src then { e with replies := e.replies + 1, refusals := n } else x) })) ∧
      (∀ t, e.targets ≤ e.replies + 1 → b.floorPort f.val = some t → ∃ q, exec (.floorCombinerReply f p) s = .next (b.inject t q) ∧
        q.kind = .ack ∧ q.tgt = .reply src ∧ q.src = .floor (Fin.ofNat 16 f.val) ∧ q.sub = BitVec.ofNat 4 f.val ∧
        q.payload = leBytes 4 e.targets ++ leBytes 4 n ++ leBytes 8 0)) ∧
  (∀ (b : BitVec 5) (s : State), s.ready = true →
      let l := s.barrier b.toNat
      (s.allArrived b.toNat = true → s.gangBars.contains b.toNat = false →
        ((∀ a ∈ l, a.red = none) →
          exec (.barrierCompletion b) s = .next (s.completeBarrier b.toNat 0 false) ∧ exec (.reductionResult b) s = .next s) ∧
        (∀ o x, (∃ a ∈ l, a.red ≠ none) → reduced l = some (o, x) →
          exec (.reductionResult b) s = .next (s.completeBarrier b.toNat x (mixes l)) ∧ exec (.barrierCompletion b) s = .next s)) ∧
      (s.allArrived b.toNat = true → s.gangBars.contains b.toNat = true → (∀ a ∈ l, a.red = none) →
        ((s.gang b.toNat).done = none →
          exec (.barrierCompletion b) s = .next (s.gangLocal b.toNat none 0 false)) ∧
        (∀ v q, (s.gang b.toNat).done = some (some v, q) → exec (.barrierCompletion b) s =
          .next ((s.setGang b.toNat { s.gang b.toNat with done := none }).completeBarrier b.toNat v q))) ∧
      (s.allArrived b.toNat = false → exec (.barrierCompletion b) s = .next s ∧ exec (.reductionResult b) s = .next s))

/-- VOID_ANNOUNCEMENT and VOID_ACKNOWLEDGEMENT (R370, R371, R488): an announced void reaches a room's tiles of the pipeline, or
its keeper while the clock is off, and the room has then acknowledged it; once all rooms have, the void is gone, and a
cancellation that waited for it may end. -/
def Obligations.VoidRounds : Prop :=
  ∀ (r : RoomId) (d : DieId) (pipe mask : Byte) (v : VoidOut) (s : State),
    (s.voids.find? (fun (v : VoidOut) => v.pipe == pipe && v.mask == mask && !v.held && v.rooms.contains r.val) = some v →
      let a : State := { s with voids := s.voids.map (fun (w : VoidOut) => if w = v then { w with rooms := w.rooms.erase r.val } else w) }
      let m := a.room r.val
      (m.clockOff = true → exec (.voidAnnouncement r pipe mask) s =
        .next (a.setRoom r.val { m with keeper := m.keeper ++ [.void pipe mask] })) ∧
      (m.clockOff = false → exec (.voidAnnouncement r pipe mask) s = .next (a.voidRoom r.val pipe mask))) ∧
    (s.voids.find? (fun (v : VoidOut) => v.die == d.val && v.pipe == pipe && !v.held && v.rooms.isEmpty) = some v →
      exec (.voidAcknowledgement d pipe) s = .next (({ s with voids := s.voids.erase v } : State).tryCancel v.sess))

/-- STEP_REPORT_READ, OUTPUT_RING_READ, INPUT_RECORD_RESEND and SLOT_TABLE_RESEND (R457, R458, R462, R464): the home die of a
pipeline reads its report line, its output lines, writes its input records and sends its table again; a report of another
step or pipeline is discarded and recorded, and the pipeline waits. -/
def Obligations.HomeDieRounds : Prop :=
  ∀ (pipe : Byte) (f : FloorId) (r : PipeRec) (l : List Byte) (s : State), s.pipeRec pipe.toNat = some r → s.ready = true →
    s.resetting = false → (s.die r.home).failed = false →
    let a := (s.dieRead r.home (pathTile r.rpath) r.rline).1
    ((s.dieRead r.home (pathTile r.rpath) r.rline).2 = none → exec (.stepReportRead pipe) s = .next a) ∧
    ((s.dieRead r.home (pathTile r.rpath) r.rline).2 = some l →
      leNat (l.take 4) ≠ (a.pipe r.pipe).step.toNat ∨ (l.getD 4 0).toNat ≠ r.pipe →
      let b := a.reportFault r 1 l 0xFF
      exec (.stepReportRead pipe) s = .next (b.setPipe r.pipe { b.pipe r.pipe with waitFault := true })) ∧
    ((s.dieRead r.home (pathTile r.rpath) r.rline).2 = some l → exec (.stepReportRead pipe) s = .next (a.report r l)) ∧
    exec (.outputRingRead pipe) s = .next (s.readOutput 4096 r) ∧
    exec (.inputRecordResend pipe) s = .next (s.pumpInput 4096 r.pipe) ∧
    ((∀ x ∈ (s.pipe pipe.toNat).sends, x.floor = f.val → x.due = false) → exec (.slotTableResend pipe f) s = .next s) ∧
    (∀ x m, (s.pipe pipe.toNat).sends.filter (fun x => x.floor == f.val && x.due) = [x] → r.cover[x.cover]? = some m →
      exec (.slotTableResend pipe f) s = .next (s.sendTable r x.cover m [f.val]))

/-- DATA_FLIT, IDLE_FLIT, HELLO, ARRIVE and COMPLETE on a link that takes flits (R596, R599, R601, R602, R605, R606, R611, R619):
each flit is counted; a bad one, and a good one out of order, begin a NAK unless one has begun; the acknowledgement of a good flit
frees retry entries, and its NAK replays the rest; the credits of one that is not discarded go to its port. The flit with the
expected LSEQ is accepted, and LSEQ advances: a data flit enters its port's buffer, HELLO is kept for the port, ARRIVE is held
for the barrier's round, and COMPLETE ends the round. -/
def Obligations.FlitReception : Prop :=
  ∀ (d : DieId) (l : LinkId) (rx : FlitRx) (h : FlitHdr) (payload : List Byte) (f : SyncFrame) (s : State),
    let i := 8 * d.val + l.val
    let v := s.link i
    let c := s.setLink i { v with rxFlit := (v.rxFlit + 1) % 1285 }
    let a := c.takeAck i h
    let nak (x : State) : State := x.setLink i { x.link i with nakking := true, nakTries := 1, lastNak := x.pkt }
    let b := (a.setLink i { a.link i with expect := h.lseq + 1, nakking := false, nakTries := 0 }).takeCredits i h
    let g := b.gang f.bar.toNat
    (v.mode = .live ∨ v.mode = .held) →
    (v.good rx = false → v.nakking = false →
      exec (.dataFlit d l rx h payload) s = .next (nak c) ∧ exec (.idleFlit d l rx h) s = .next (nak c)) ∧
    (v.good rx = false → v.nakking = true →
      exec (.dataFlit d l rx h payload) s = .next c ∧ exec (.idleFlit d l rx h) s = .next c) ∧
    (h.nak = false → h.ackv = true → (∃ x ∈ v.retry, serialLater x.lseq h.lack = false) → a.link i =
      { c.link i with retry := v.retry.filter (fun x => serialLater x.lseq h.lack), tries := 0, retrying := false }) ∧
    (h.nak = true → v.retry ≠ [] → v.tries < 16 → (∀ x ∈ v.retry, serialLater x.lseq h.lack = true) → a.link i =
      { c.link i with retry := v.retry.map (fun x => { x with at_ := s.pkt }), tries := v.tries + 1, retrying := true }) ∧
    (v.good rx = true → a.portOf i = none → exec (.idleFlit d l rx h) s = .next a) ∧
    (∀ k, v.good rx = true → a.portOf i = some k → exec (.idleFlit d l rx h) s = .next
      ((a.setPort k { a.port k with credits := min 512 ((a.port k).credits + h.crd.toNat) }).flushPort flushFuel k)) ∧
    ((a.link i).expect ≠ h.lseq → (a.link i).nakking = false →
      (v.good rx = true → exec (.dataFlit d l rx h payload) s = .next (nak a)) ∧ exec (.hello d l h f) s = .next (nak a) ∧
      exec (.arrive d l h f) s = .next (nak a) ∧ exec (.complete d l h f) s = .next (nak a)) ∧
    ((a.link i).expect ≠ h.lseq → (a.link i).nakking = true →
      (v.good rx = true → exec (.dataFlit d l rx h payload) s = .next a) ∧ exec (.hello d l h f) s = .next a ∧
      exec (.arrive d l h f) s = .next a ∧ exec (.complete d l h f) s = .next a) ∧
    ((a.link i).expect = h.lseq →
      (v.good rx = true → exec (.dataFlit d l rx h payload) s = .next (b.dataIn i h.pseq payload)) ∧
      (∀ k, b.portOf i = some k →
        exec (.hello d l h f) s =
          .next (((b.setPort k { b.port k with helloGot := some f }).meetPeer k f.modn.toNat).tryLive k) ∧
        ((b.port k).live = true → b.gangBars.contains f.bar.toNat = true → f.round = g.round →
          exec (.arrive d l h f) s = .next ((b.setGang f.bar.toNat { g with
            from_ := if g.from_.contains k then g.from_ else g.from_ ++ [k]
            held := g.held ++ [f.cross (b.port k).minor] }).gangGo f.bar.toNat)) ∧
        (b.gangBars.contains f.bar.toNat = true → f.round = g.round → g.local_ = true → b.isRoot = false →
          b.parentPort = some k →
          let x := f.cross (b.port k).minor
          exec (.complete d l h f) s =
            .next (b.gangDone f.bar.toNat (if x.hasVal then some x.value else none) x.op.toNat x.poison))))

/-- LINK_TRAINING, LINK_TRAINING_TIMEOUT, TRAIN_FLIT, LANE_SIGNAL_LOSS, LINK_SILENCE_END and LINK_RETRY_TIMEOUT (R601, R602, R603,
R608, R609): what each of them makes of a link that is dark, training, live, held or silent. -/
def Obligations.LinkTrainings : Prop :=
  ∀ (d : DieId) (l : LinkId) (peer : TrainInfo) (rx : FlitRx) (lane : Fin 4) (s : State),
    let i := 8 * d.val + l.val
    let v := s.link i
    let lit := { s with linksDown := s.linksDown &&& ~~~(BitVec.ofNat 32 (2 ^ i)) }
    let fresh (mode : LinkMode) : Link := { Link.reset with mode := mode, alt := v.alt, peer := some peer, lanesDown := 0 }
    let off : Link := { v with lanesDown := v.lanesDown ||| BitVec.ofNat 4 (2 ^ lane.val) }
    let seen : Link := { v with rxFlit := (v.rxFlit + 1) % 1285 }
    (s.ready = true → (s.die d.val).failed = false → (v.mode = .dark ∨ ∃ n, v.mode = .training n) →
      (peer.serial = s.fuses.serial → exec (.linkTraining d l peer) s = .next
        ((lit.setLink i (fresh .held)).linkFault d.val 6 ((lit.portOf i).getD 255) l.val 0 0 0)) ∧
      (peer.serial ≠ s.fuses.serial → commonMinor peer = none → exec (.linkTraining d l peer) s = .next
        ((lit.setLink i (fresh .held)).linkFault d.val 5 ((lit.portOf i).getD 255) l.val 0 0 0)) ∧
      (∀ m, peer.serial ≠ s.fuses.serial → commonMinor peer = some m → exec (.linkTraining d l peer) s = .next
        ((lit.setLink i { fresh .live with minor := m }).joinPort i peer.serial))) ∧
    (∀ n, v.mode = .training n →
      exec (.linkTrainingTimeout d l) s =
        .next (s.setLink i { v with mode := .training 1, attempts := v.attempts + 1, peer := none }) ∧
      (v.good rx = true → exec (.trainFlit d l rx peer) s =
        .next (s.setLink i { seen with mode := .training 4, peer := some peer })) ∧
      (v.good rx = false → exec (.trainFlit d l rx peer) s = .next (s.setLink i seen)) ∧
      exec (.laneSignalLoss d l lane) s = .next (s.setLink i { off with mode := .dark, peer := none })) ∧
    (v.mode = .live → v.good rx = true → exec (.trainFlit d l rx peer) s = .next (s.failLink i 3)) ∧
    (v.mode = .live ∨ v.mode = .held →
      exec (.laneSignalLoss d l lane) s = .next ((s.setLink i off).failLink i 2) ∧
      (∀ x r, v.retry = x :: r → x.at_ + 39 ≤ s.pkt → v.nakking = false →
        (16 ≤ v.tries → exec (.linkRetryTimeout d l) s = .next (s.failLink i 1)) ∧
        (v.tries < 16 → exec (.linkRetryTimeout d l) s = .next (s.setLink i { v with
          retry := v.retry.map (fun x => { x with at_ := s.pkt }), tries := v.tries + 1, retrying := true }))) ∧
      (v.retry = [] → v.nakking = true → v.lastNak + 39 ≤ s.pkt →
        (16 ≤ v.nakTries → exec (.linkRetryTimeout d l) s = .next (s.failLink i 1)) ∧
        (v.nakTries < 16 → exec (.linkRetryTimeout d l) s =
          .next (s.setLink i { v with nakTries := v.nakTries + 1, lastNak := s.pkt })))) ∧
    (v.mode = .silent →
      (v.since + 50 ≤ s.pkt → exec (.linkSilenceEnd d l) s = .next (s.setLink i { v with mode := .training 1, attempts := 0 })) ∧
      (s.pkt < v.since + 50 → exec (.linkSilenceEnd d l) s = .next s))

/-- SEND_RING_READ and LINK_RECORD_WRITE (R574, R613, R614, R615): a whole record goes to the live port toward its module as its wire
form, and one whose header is not in order, or whose module is this one, is dropped with a link fault; a record whose module no
port reaches stays; a received record is written when no other of its port is under way, and one whose write has bounced is
written again 5 package ticks later. The line of a record lost with its port is written poisoned before all else. -/
def Obligations.LinkRecords : Prop :=
  ∀ (d : DieId) (ring : BitVec 12) (port : Fin 16) (q : Nat × Nat × Nat) (r : LinkRec) (rest : List LinkRec) (y : EdgeReq) (at_ : Nat) (z : LostLine)
    (s : State), (s.die d.val).failed = false →
    let x := s.sendRing d.val ring.toNat
    let w := leNat (x.part.take 8)
    let own := w % 2 ^ 14 = s.moduleNo
    let c := s.setSendRing { x with part := [] }
    let p := s.port port.val
    let pkt := s.fromBuffer port.val r (recPacket d.val port.val r 0)
    let e := s.die d.val
    let lost := (s.setDie d.val { e with lost := [] }).dieWrite d.val (pathTile z.dpath) z.line z.bytes [0, 1, 2, 3] (some z.org)
    (s.started.isSome = true → x.after ≤ s.pkt → (s.sendRingsOf d.val)[ring.toNat]? = some q → x.part ≠ [] →
      (headerLegal (x.part.take 32) = true → ¬ own → s.portTo d.val (w % 2 ^ 14) = none →
        exec (.sendRingRead d ring) s = .next s) ∧
      (wireLen x.part + 16 ≤ x.part.length →
        (headerLegal (x.part.take 32) = false → exec (.sendRingRead d ring) s = .next
          (c.linkFault d.val 1 255 255 ring.toNat (w % 2 ^ 14) (w / 2 ^ 32))) ∧
        (headerLegal (x.part.take 32) = true → own → exec (.sendRingRead d ring) s = .next
          (c.linkFault d.val 2 255 255 ring.toNat (w % 2 ^ 14) (w / 2 ^ 32))) ∧
        (∀ k, headerLegal (x.part.take 32) = true → ¬ own → s.portTo d.val (w % 2 ^ 14) = some k →
          exec (.sendRingRead d ring) s = .next ((c.setPort k { c.port k with
            txQ := (c.port k).txQ ++ x.part.take 16 ++ x.part.drop 32 }).flushPort flushFuel k)))) ∧
    (port.val / 4 = d.val → e.lost = [z] → lost.2 = .done → (lost.1.port port.val).inFlight = none →
      (lost.1.port port.val).waiting = [] → exec (.linkRecordWrite d port) s = .next lost.1) ∧
    (port.val / 4 = d.val → e.lost = [] →
      (p.inFlight = none → p.waiting = r :: rest → r.str = 0 → s.floorUp (tileFloor (pathTile r.dpath)) = true →
        ∃ b : State, b = { s.setPort port.val { p with waiting := rest, inFlight := some r, bounced := none } with
          edgeReqs := s.edgeReqs ++ [{ die := Fin.ofNat 4 d.val, etag := linkTag port.val r.ring, pkt := pkt
                                       purpose := .link port.val, floors := [], partial_ := false
                                       root := none, held := false }] } ∧
          exec (.linkRecordWrite d port) s = .next (b.dieInject d.val pkt)) ∧
      (p.inFlight = none → p.waiting = [] → exec (.linkRecordWrite d port) s = .next s) ∧
      (p.inFlight = some r → p.bounced = some at_ → s.edgeReqs.find? (fun z => z.purpose == .link port.val) = some y →
        (at_ + 5 ≤ s.pkt → exec (.linkRecordWrite d port) s =
          .next ((s.setPort port.val { p with bounced := none }).dieInject d.val y.pkt)) ∧
        (s.pkt < at_ + 5 → exec (.linkRecordWrite d port) s = .next s)) ∧
      (p.inFlight = some r → p.bounced = none → exec (.linkRecordWrite d port) s = .next s))

/-- CLOCK_PERIOD (R44, R46, R48, R59, R63, R379, R385, R389): a room whose clock does not run takes nothing but the period of a fall of
its allowance; a period opens with its
accounting, latches the counts that its neighbours show, and is idle, with the tread count as it was, while the room is
stopped, holds, or its neighbours lag; it takes its tread, and counts it, where its clock, its spine, the credit and the
allowance allow it, and is otherwise a governor pause.

CLOCK_PERIOD in which an upset strikes (R360): wires A and B that differ at a room node of a running room fence and reset its
floor, and so do wires that differ at a floor hub, also while the room's clock does not run; at the module hub, or at an edge die, of
a module that is ready, they reset the module. Each is recorded first. -/
def Obligations.ClockPeriods : Prop :=
  (∀ (r : RoomId) (margin : Margin) (cal : List CalResult) (s : State),
      let m := s.room r.val
      let a := (s.setRoom r.val (m.open_ (s.roomGear r.val) s.fallback margin)).startRoutes r.val
      let n := (a.room r.val).tread
      let srcs := if (a.room r.val).gatedAt n then [] else a.holdsOf r.val n
      let t0 := (s.room r.val).tread
      (s.clockRuns r.val = false → exec (.clockPeriod r margin cal []) s = .next (s.fallPeriod r.val)) ∧
      (s.clockRuns r.val = true →
        (a.rejoinStop ≠ [] ∨ (a.room r.val).stops ≠ [] ∨ srcs ≠ [] →
          exec (.clockPeriod r margin cal []) s = .next ((a.idlePeriod r.val false false srcs).latchCounts r.val t0)) ∧
        (a.rejoinStop = [] → (a.room r.val).stops = [] → srcs = [] →
          (a.treadRule r.val = false →
            exec (.clockPeriod r margin cal []) s = .next ((a.idlePeriod r.val false false []).latchCounts r.val t0)) ∧
          (a.treadRule r.val = true →
            let w := (a.spineFor r.val n).1
            let xs := w.roomWork r.val n []
            let work := w.treadWork r.val xs
            let credit := Config.budget (w.roomGear r.val) = 0 ∨
              (w.room r.val).debit + work ≤ fullCredit (w.roomGear r.val)
            let allowed :=
              withinAllow (w.roomGear r.val) (work + winSum 63 (w.room r.val).win) (w.room r.val).allow = true
            ((a.spineFor r.val n).2 = true →
              exec (.clockPeriod r margin cal []) s = .next ((w.idlePeriod r.val true false []).latchCounts r.val t0)) ∧
            ((a.spineFor r.val n).2 = false → credit → allowed →
              exec (.clockPeriod r margin cal []) s = .next ((w.takeTread r.val n cal [] xs work).latchCounts r.val t0)) ∧
            ((a.spineFor r.val n).2 = false → ¬ allowed →
              exec (.clockPeriod r margin cal []) s = .next ((w.idlePeriod r.val true true []).latchCounts r.val t0)) ∧
            ((a.spineFor r.val n).2 = false → ¬ credit → allowed →
              exec (.clockPeriod r margin cal []) s = .next ((w.idlePeriod r.val true false []).latchCounts r.val t0))))) ∧
      ((s.room r.val).tread = ((s.idlePeriod r.val true true []).room r.val).tread ∧
        (∀ work xs back presses, ((s.meterTread r.val work xs back presses).room r.val).tread = (s.room r.val).tread + 1))) ∧
  (∀ (r : RoomId) (d : DieId) (margin : Margin) (cal : List CalResult) (sig a b : Nat) (s : State), a ≠ b →
      let f := roomFloor r.val
      let x := (s.syncRecord (roomPath r.val) 2 1 0 sig a b).fenceReset f
      let y := (s.syncRecord (floorPath f) 2 3 0 sig a b).fenceReset f
      (s.clockRuns r.val = true → x.clockRuns r.val = false →
        exec (.clockPeriod r margin cal [.syncWire .room sig a b]) s = .next x) ∧
      (s.clockRuns r.val = true → y.clockRuns r.val = false →
        exec (.clockPeriod r margin cal [.syncWire .floorHub sig a b]) s = .next y) ∧
      (s.ready = true → s.clockRuns r.val = false →
        exec (.clockPeriod r margin cal [.syncWire .floorHub sig a b]) s = .next (y.fallPeriod r.val)) ∧
      (s.ready = true →
        exec (.clockPeriod r margin cal [.syncWire .moduleHub sig a b]) s =
          .next ((s.syncRecord modulePath 3 4 0 sig a b).moduleReset none none) ∧
        exec (.clockPeriod r margin cal [.syncWire (.diePort d) sig a b]) s =
          .next ((s.syncRecord modulePath 3 5 d.val sig a b).moduleReset none none)))

/-- R46: with a neighbour whose received count is below the room's own count minus one, the period is idle: the room takes
no tread. -/
def Obligations.TreadRule : Prop :=
  ∀ (r : RoomId) (q : Nat × Nat) (margin : Margin) (cal : List CalResult) (s : State), q ∈ s.nbrRooms r.val →
    Tbl.get 0 (s.room r.val).recv q.1 + 1 < (s.room r.val).tread →
    ∃ t, exec (.clockPeriod r margin cal []) s = .next t ∧ (t.room r.val).tread = (s.room r.val).tread

/-- A step of the block runs the command at the front of its queue on the state that holds the queue's rest.

With no command waiting the block idles (DESIGN CHOICE, log entry 1). -/
def Obligations.StepRunsFrontCommand : Prop :=
  (∀ (c : Instr) (rest : List Instr) (s : State), s.pending = c :: rest → step s = exec c { s with pending := rest }) ∧
  (∀ s : State, s.pending = [] → step s = .next s)

/-- Every command, in every state, answers a next state; it leaves the queue of the other commands and the fuses that no
command writes (R640) as they were. -/
def Obligations.EveryCommandAnswers : Prop :=
  ∀ (c : Instr) (s : State), ∃ t, exec c s = .next t ∧ t.pending = s.pending ∧ t.fuses.grade = s.fuses.grade ∧
    t.fuses.disabled = s.fuses.disabled ∧ t.fuses.serial = s.fuses.serial ∧ t.fuses.vkey = s.fuses.vkey ∧
    t.fuses.stepping = s.fuses.stepping

/-- What reset leaves where the manual gives a value (R536, R537, R540, R543, R544, R549): the limits, the fault log, the
rings and the counters of the module, of an edge die, of a room and of a class. -/
def Obligations.ResetValues : Prop :=
  State.reset.holdLim = 12500 ∧ State.reset.wdog = 50000 ∧ State.reset.flogW = 0 ∧ State.reset.flogR = 0 ∧
  State.reset.flogLost = 0 ∧ State.reset.gear = 0 ∧ State.reset.cgear = 0 ∧ State.reset.pkt = 0 ∧
  State.reset.peerSel = 0 ∧ State.reset.pending = [] ∧ State.reset.image = none ∧
  (∀ (d : DieId) (i : Nat), ((State.reset.die d.val).compRing i).phase = true ∧
    ((State.reset.die d.val).compRing i).size = 0 ∧ ((State.reset.die d.val).subRing i).size = 0 ∧
    ((State.reset.die d.val).outRing i).size = 0) ∧
  (∀ r : RoomId, (State.reset.room r.val).tread = 0 ∧ (State.reset.room r.val).stops = []) ∧
  (∀ u : Word, (State.reset.unit u).events = 0 ∧ (State.reset.unit u).stop = false)

/-- The two limits lie in their ranges at reset (R537). -/
def Obligations.ResetHasLimits : Prop :=
  State.reset.limitsOk

/-- The two limits stay in their ranges: a step from any state that holds them there leaves them there (R537). -/
def Obligations.StepKeepsLimits : Prop :=
  ∀ s t : State, s.limitsOk → step s = .next t → t.limitsOk

/-- The words of a tile's program (R88, R89, R90, R91, R92): a well-formed instruction decodes from its words to itself,
with its guard and every operand. -/
def Obligations.TileWordsDecode : Prop :=
  ∀ (g : Guard) (i : TileInstr) (w : DWord), progWf g i = true →
    decodeInstr ((encodeInstr g i).headD 0) ((encodeInstr g i).getD 1 w) = some (g, i)
end

