-- ==== Sys2Proof/Laws/Tbl.lean ====
section
/-! SUPPORT. What a sparse table reads after a write, and that every write keeps its canonical form. -/

namespace Sys2Proof

variable {α : Type}

/-- Looking a key up among the entries that a test on keys keeps. -/
theorem lookup_filter_fst (P : Nat → Bool) (q : Nat) (m : Tbl α) :
    (m.filter fun e => P e.1).lookup q = if P q then m.lookup q else none := by
  match m with
  | [] => simp
  | (j, w) :: low =>
    have next := lookup_filter_fst P q low
    have apart : q ≠ j → (q == j) = false := beq_eq_false_iff_ne.mpr
    cases kept : P j <;> rw [List.filter_cons, List.lookup_cons] <;> grind

/-- What a key reads in a table with `new` put at `k`. -/
theorem Tbl.get_splice (d : α) (m : Tbl α) (k q : Nat) (new : Option α) :
    (m.splice k new).get d q = if q = k then new.getD d else m.get d q := by
  rw [Tbl.get, Tbl.splice, List.lookup_append, List.lookup_append,
    lookup_filter_fst (fun j => decide (j < k)), lookup_filter_fst (fun j => decide (k < j))]
  rcases Nat.lt_trichotomy q k with below | rfl | above
  · have other : (q == k) = false := beq_eq_false_iff_ne.mpr (Nat.ne_of_lt below)
    cases new <;> simp [Tbl.get, below, Nat.ne_of_lt below, Nat.lt_asymm below, List.lookup_cons, other]
  · cases new <;> simp
  · have other : (q == k) = false := beq_eq_false_iff_ne.mpr (Nat.ne_of_gt above)
    cases new <;> simp [Tbl.get, above, Nat.ne_of_gt above, Nat.lt_asymm above, List.lookup_cons, other]

/-- An entry that has just been listed is read. -/
@[simp] theorem Tbl.get_put_self (d : α) (m : Tbl α) (k : Nat) (v : α) : (m.put k v).get d k = v := by
  simp [Tbl.put, Tbl.get_splice]

/-- What has been written is read. -/
@[simp] theorem Tbl.get_set_self [DecidableEq α] (d : α) (m : Tbl α) (k : Nat) (v : α) : (m.set d k v).get d k = v := by
  simp only [Tbl.set, Tbl.get_splice]
  by_cases plain : v = d <;> simp [plain]

/-- A write leaves every other key's value. -/
theorem Tbl.get_set_ne [DecidableEq α] (d : α) (m : Tbl α) {k q : Nat} (v : α) (h : q ≠ k) :
    (m.set d k v).get d q = m.get d q := by
  simp [Tbl.set, Tbl.get_splice, h]

/-- The canonical form in words: the keys rise and no entry holds the default value. -/
theorem Tbl.wf_iff [DecidableEq α] (d : α) (m : Tbl α) :
    Tbl.wf d m = true ↔ m.Pairwise (fun x y => x.1 < y.1) ∧ ∀ e ∈ m, e.2 ≠ d := by
  simp only [Tbl.wf, Bool.and_eq_true, decide_eq_true_eq, List.all_eq_true, List.pairwise_map]

/-- A write keeps the canonical form: equal tables are equal data. -/
theorem Tbl.wf_set [DecidableEq α] (d : α) (m : Tbl α) (k : Nat) (v : α) (h : Tbl.wf d m = true) :
    Tbl.wf d (m.set d k v) = true := by
  obtain ⟨rising, values⟩ := (Tbl.wf_iff d m).mp h
  refine (Tbl.wf_iff d _).mpr ?_
  simp only [Tbl.set, Tbl.splice, List.append_assoc, List.pairwise_append, List.mem_append, List.mem_filter]
  refine ⟨⟨rising.filter _, ⟨?_, rising.filter _, ?_⟩, ?_⟩, ?_⟩
  all_goals by_cases plain : v = d
  all_goals simp [plain] <;> grind

end Sys2Proof
end

