-- ==== Sys2Proof/Laws/State.lean ====
section
/-! SUPPORT. The records of the state read back: one lemma for each record after each update of another, and of the
scalar fields that claims name. -/

namespace Sys2Proof.Machine

variable (s : State)

/-- A fold whose operation leaves `f` as it is leaves `f` as it is. -/
theorem foldl_leaves {β α : Type} (f : State → β) (g : State → α → State) (h : ∀ s a, f (g s a) = f s) (l : List α)
    (s : State) : f (l.foldl g s) = f s :=
  List.foldlRecOn l g (motive := fun r => f r = f s) rfl fun r same a _ => (h r a).trans same

/-! ### After `setTile` -/

/-- The record just put. -/
@[simp] theorem State.tile_setTile_self (p : Nat) (v : Tile) : (s.setTile p v).tile p = v :=
  Tbl.get_set_self _ _ _ _
/-- Every other record. -/
theorem State.tile_setTile_ne {p q : Nat} (v : Tile) (h : q ≠ p) : (s.setTile p v).tile q = s.tile q :=
  Tbl.get_set_ne _ _ _ h
@[simp] theorem State.room_setTile (p : Nat) (v : Tile) (q : Nat) : (s.setTile p v).room q = s.room q := rfl
@[simp] theorem State.floor_setTile (p : Nat) (v : Tile) (q : Nat) : (s.setTile p v).floor q = s.floor q := rfl
@[simp] theorem State.die_setTile (p : Nat) (v : Tile) (q : Nat) : (s.setTile p v).die q = s.die q := rfl
@[simp] theorem State.unit_setTile (p : Nat) (v : Tile) (q : Word) : (s.setTile p v).unit q = s.unit q := rfl
@[simp] theorem State.invOf_setTile (p : Nat) (v : Tile) (q : Nat) : (s.setTile p v).invOf q = s.invOf q := rfl
@[simp] theorem State.bank_setTile (p : Nat) (v : Tile) (q : Nat) : (s.setTile p v).bank q = s.bank q := rfl
@[simp] theorem State.digest_setTile (p : Nat) (v : Tile) (q : Nat) : (s.setTile p v).digest q = s.digest q := rfl
@[simp] theorem State.sess_setTile (p : Nat) (v : Tile) (q : Nat) : (s.setTile p v).sess q = s.sess q := rfl
@[simp] theorem State.pipe_setTile (p : Nat) (v : Tile) (q : Nat) : (s.setTile p v).pipe q = s.pipe q := rfl
@[simp] theorem State.cls_setTile (p : Nat) (v : Tile) (q : Nat) : (s.setTile p v).cls q = s.cls q := rfl
@[simp] theorem State.link_setTile (p : Nat) (v : Tile) (q : Nat) : (s.setTile p v).link q = s.link q := rfl
@[simp] theorem State.port_setTile (p : Nat) (v : Tile) (q : Nat) : (s.setTile p v).port q = s.port q := rfl
@[simp] theorem State.peer_setTile (p : Nat) (v : Tile) (q : Nat) : (s.setTile p v).peer q = s.peer q := rfl
@[simp] theorem State.gang_setTile (p : Nat) (v : Tile) (q : Nat) : (s.setTile p v).gang q = s.gang q := rfl
@[simp] theorem State.barrier_setTile (p : Nat) (v : Tile) (q : Nat) : (s.setTile p v).barrier q = s.barrier q := rfl
@[simp] theorem State.pending_setTile (p : Nat) (v : Tile) : (s.setTile p v).pending = s.pending := rfl
@[simp] theorem State.pkt_setTile (p : Nat) (v : Tile) : (s.setTile p v).pkt = s.pkt := rfl
@[simp] theorem State.hostOut_setTile (p : Nat) (v : Tile) : (s.setTile p v).hostOut = s.hostOut := rfl
@[simp] theorem State.fuses_setTile (p : Nat) (v : Tile) : (s.setTile p v).fuses = s.fuses := rfl
@[simp] theorem State.holdLim_setTile (p : Nat) (v : Tile) : (s.setTile p v).holdLim = s.holdLim := rfl
@[simp] theorem State.wdog_setTile (p : Nat) (v : Tile) : (s.setTile p v).wdog = s.wdog := rfl
@[simp] theorem State.cmds_setTile (p : Nat) (v : Tile) : (s.setTile p v).cmds = s.cmds := rfl
@[simp] theorem State.ready_setTile (p : Nat) (v : Tile) : (s.setTile p v).ready = s.ready := rfl
@[simp] theorem State.lead_setTile (p : Nat) (v : Tile) : (s.setTile p v).lead = s.lead := rfl

/-! ### After `setRoom` -/

/-- The record just put. -/
@[simp] theorem State.room_setRoom_self (p : Nat) (v : Room) : (s.setRoom p v).room p = v :=
  Tbl.get_set_self _ _ _ _
/-- Every other record. -/
theorem State.room_setRoom_ne {p q : Nat} (v : Room) (h : q ≠ p) : (s.setRoom p v).room q = s.room q :=
  Tbl.get_set_ne _ _ _ h
@[simp] theorem State.tile_setRoom (p : Nat) (v : Room) (q : Nat) : (s.setRoom p v).tile q = s.tile q := rfl
@[simp] theorem State.floor_setRoom (p : Nat) (v : Room) (q : Nat) : (s.setRoom p v).floor q = s.floor q := rfl
@[simp] theorem State.die_setRoom (p : Nat) (v : Room) (q : Nat) : (s.setRoom p v).die q = s.die q := rfl
@[simp] theorem State.unit_setRoom (p : Nat) (v : Room) (q : Word) : (s.setRoom p v).unit q = s.unit q := rfl
@[simp] theorem State.invOf_setRoom (p : Nat) (v : Room) (q : Nat) : (s.setRoom p v).invOf q = s.invOf q := rfl
@[simp] theorem State.bank_setRoom (p : Nat) (v : Room) (q : Nat) : (s.setRoom p v).bank q = s.bank q := rfl
@[simp] theorem State.digest_setRoom (p : Nat) (v : Room) (q : Nat) : (s.setRoom p v).digest q = s.digest q := rfl
@[simp] theorem State.sess_setRoom (p : Nat) (v : Room) (q : Nat) : (s.setRoom p v).sess q = s.sess q := rfl
@[simp] theorem State.pipe_setRoom (p : Nat) (v : Room) (q : Nat) : (s.setRoom p v).pipe q = s.pipe q := rfl
@[simp] theorem State.cls_setRoom (p : Nat) (v : Room) (q : Nat) : (s.setRoom p v).cls q = s.cls q := rfl
@[simp] theorem State.link_setRoom (p : Nat) (v : Room) (q : Nat) : (s.setRoom p v).link q = s.link q := rfl
@[simp] theorem State.port_setRoom (p : Nat) (v : Room) (q : Nat) : (s.setRoom p v).port q = s.port q := rfl
@[simp] theorem State.peer_setRoom (p : Nat) (v : Room) (q : Nat) : (s.setRoom p v).peer q = s.peer q := rfl
@[simp] theorem State.gang_setRoom (p : Nat) (v : Room) (q : Nat) : (s.setRoom p v).gang q = s.gang q := rfl
@[simp] theorem State.barrier_setRoom (p : Nat) (v : Room) (q : Nat) : (s.setRoom p v).barrier q = s.barrier q := rfl
@[simp] theorem State.pending_setRoom (p : Nat) (v : Room) : (s.setRoom p v).pending = s.pending := rfl
@[simp] theorem State.pkt_setRoom (p : Nat) (v : Room) : (s.setRoom p v).pkt = s.pkt := rfl
@[simp] theorem State.hostOut_setRoom (p : Nat) (v : Room) : (s.setRoom p v).hostOut = s.hostOut := rfl
@[simp] theorem State.fuses_setRoom (p : Nat) (v : Room) : (s.setRoom p v).fuses = s.fuses := rfl
@[simp] theorem State.holdLim_setRoom (p : Nat) (v : Room) : (s.setRoom p v).holdLim = s.holdLim := rfl
@[simp] theorem State.wdog_setRoom (p : Nat) (v : Room) : (s.setRoom p v).wdog = s.wdog := rfl
@[simp] theorem State.cmds_setRoom (p : Nat) (v : Room) : (s.setRoom p v).cmds = s.cmds := rfl
@[simp] theorem State.ready_setRoom (p : Nat) (v : Room) : (s.setRoom p v).ready = s.ready := rfl
@[simp] theorem State.lead_setRoom (p : Nat) (v : Room) : (s.setRoom p v).lead = s.lead := rfl

/-! ### After `setFloor` -/

/-- The record just put. -/
@[simp] theorem State.floor_setFloor_self (p : Nat) (v : Floor) : (s.setFloor p v).floor p = v :=
  Tbl.get_set_self _ _ _ _
/-- Every other record. -/
theorem State.floor_setFloor_ne {p q : Nat} (v : Floor) (h : q ≠ p) : (s.setFloor p v).floor q = s.floor q :=
  Tbl.get_set_ne _ _ _ h
@[simp] theorem State.tile_setFloor (p : Nat) (v : Floor) (q : Nat) : (s.setFloor p v).tile q = s.tile q := rfl
@[simp] theorem State.room_setFloor (p : Nat) (v : Floor) (q : Nat) : (s.setFloor p v).room q = s.room q := rfl
@[simp] theorem State.die_setFloor (p : Nat) (v : Floor) (q : Nat) : (s.setFloor p v).die q = s.die q := rfl
@[simp] theorem State.unit_setFloor (p : Nat) (v : Floor) (q : Word) : (s.setFloor p v).unit q = s.unit q := rfl
@[simp] theorem State.invOf_setFloor (p : Nat) (v : Floor) (q : Nat) : (s.setFloor p v).invOf q = s.invOf q := rfl
@[simp] theorem State.bank_setFloor (p : Nat) (v : Floor) (q : Nat) : (s.setFloor p v).bank q = s.bank q := rfl
@[simp] theorem State.digest_setFloor (p : Nat) (v : Floor) (q : Nat) : (s.setFloor p v).digest q = s.digest q := rfl
@[simp] theorem State.sess_setFloor (p : Nat) (v : Floor) (q : Nat) : (s.setFloor p v).sess q = s.sess q := rfl
@[simp] theorem State.pipe_setFloor (p : Nat) (v : Floor) (q : Nat) : (s.setFloor p v).pipe q = s.pipe q := rfl
@[simp] theorem State.cls_setFloor (p : Nat) (v : Floor) (q : Nat) : (s.setFloor p v).cls q = s.cls q := rfl
@[simp] theorem State.link_setFloor (p : Nat) (v : Floor) (q : Nat) : (s.setFloor p v).link q = s.link q := rfl
@[simp] theorem State.port_setFloor (p : Nat) (v : Floor) (q : Nat) : (s.setFloor p v).port q = s.port q := rfl
@[simp] theorem State.peer_setFloor (p : Nat) (v : Floor) (q : Nat) : (s.setFloor p v).peer q = s.peer q := rfl
@[simp] theorem State.gang_setFloor (p : Nat) (v : Floor) (q : Nat) : (s.setFloor p v).gang q = s.gang q := rfl
@[simp] theorem State.barrier_setFloor (p : Nat) (v : Floor) (q : Nat) : (s.setFloor p v).barrier q = s.barrier q := rfl
@[simp] theorem State.pending_setFloor (p : Nat) (v : Floor) : (s.setFloor p v).pending = s.pending := rfl
@[simp] theorem State.pkt_setFloor (p : Nat) (v : Floor) : (s.setFloor p v).pkt = s.pkt := rfl
@[simp] theorem State.hostOut_setFloor (p : Nat) (v : Floor) : (s.setFloor p v).hostOut = s.hostOut := rfl
@[simp] theorem State.fuses_setFloor (p : Nat) (v : Floor) : (s.setFloor p v).fuses = s.fuses := rfl
@[simp] theorem State.holdLim_setFloor (p : Nat) (v : Floor) : (s.setFloor p v).holdLim = s.holdLim := rfl
@[simp] theorem State.wdog_setFloor (p : Nat) (v : Floor) : (s.setFloor p v).wdog = s.wdog := rfl
@[simp] theorem State.cmds_setFloor (p : Nat) (v : Floor) : (s.setFloor p v).cmds = s.cmds := rfl
@[simp] theorem State.ready_setFloor (p : Nat) (v : Floor) : (s.setFloor p v).ready = s.ready := rfl
@[simp] theorem State.lead_setFloor (p : Nat) (v : Floor) : (s.setFloor p v).lead = s.lead := rfl

/-! ### After `setDie` -/

/-- The record just put. -/
@[simp] theorem State.die_setDie_self (p : Nat) (v : Die) : (s.setDie p v).die p = v :=
  Tbl.get_set_self _ _ _ _
/-- Every other record. -/
theorem State.die_setDie_ne {p q : Nat} (v : Die) (h : q ≠ p) : (s.setDie p v).die q = s.die q :=
  Tbl.get_set_ne _ _ _ h
@[simp] theorem State.tile_setDie (p : Nat) (v : Die) (q : Nat) : (s.setDie p v).tile q = s.tile q := rfl
@[simp] theorem State.room_setDie (p : Nat) (v : Die) (q : Nat) : (s.setDie p v).room q = s.room q := rfl
@[simp] theorem State.floor_setDie (p : Nat) (v : Die) (q : Nat) : (s.setDie p v).floor q = s.floor q := rfl
@[simp] theorem State.unit_setDie (p : Nat) (v : Die) (q : Word) : (s.setDie p v).unit q = s.unit q := rfl
@[simp] theorem State.invOf_setDie (p : Nat) (v : Die) (q : Nat) : (s.setDie p v).invOf q = s.invOf q := rfl
@[simp] theorem State.bank_setDie (p : Nat) (v : Die) (q : Nat) : (s.setDie p v).bank q = s.bank q := rfl
@[simp] theorem State.digest_setDie (p : Nat) (v : Die) (q : Nat) : (s.setDie p v).digest q = s.digest q := rfl
@[simp] theorem State.sess_setDie (p : Nat) (v : Die) (q : Nat) : (s.setDie p v).sess q = s.sess q := rfl
@[simp] theorem State.pipe_setDie (p : Nat) (v : Die) (q : Nat) : (s.setDie p v).pipe q = s.pipe q := rfl
@[simp] theorem State.cls_setDie (p : Nat) (v : Die) (q : Nat) : (s.setDie p v).cls q = s.cls q := rfl
@[simp] theorem State.link_setDie (p : Nat) (v : Die) (q : Nat) : (s.setDie p v).link q = s.link q := rfl
@[simp] theorem State.port_setDie (p : Nat) (v : Die) (q : Nat) : (s.setDie p v).port q = s.port q := rfl
@[simp] theorem State.peer_setDie (p : Nat) (v : Die) (q : Nat) : (s.setDie p v).peer q = s.peer q := rfl
@[simp] theorem State.gang_setDie (p : Nat) (v : Die) (q : Nat) : (s.setDie p v).gang q = s.gang q := rfl
@[simp] theorem State.barrier_setDie (p : Nat) (v : Die) (q : Nat) : (s.setDie p v).barrier q = s.barrier q := rfl
@[simp] theorem State.pending_setDie (p : Nat) (v : Die) : (s.setDie p v).pending = s.pending := rfl
@[simp] theorem State.pkt_setDie (p : Nat) (v : Die) : (s.setDie p v).pkt = s.pkt := rfl
@[simp] theorem State.hostOut_setDie (p : Nat) (v : Die) : (s.setDie p v).hostOut = s.hostOut := rfl
@[simp] theorem State.fuses_setDie (p : Nat) (v : Die) : (s.setDie p v).fuses = s.fuses := rfl
@[simp] theorem State.holdLim_setDie (p : Nat) (v : Die) : (s.setDie p v).holdLim = s.holdLim := rfl
@[simp] theorem State.wdog_setDie (p : Nat) (v : Die) : (s.setDie p v).wdog = s.wdog := rfl
@[simp] theorem State.cmds_setDie (p : Nat) (v : Die) : (s.setDie p v).cmds = s.cmds := rfl
@[simp] theorem State.ready_setDie (p : Nat) (v : Die) : (s.setDie p v).ready = s.ready := rfl
@[simp] theorem State.lead_setDie (p : Nat) (v : Die) : (s.setDie p v).lead = s.lead := rfl

/-! ### After `setUnit` -/

/-- The record just put. -/
@[simp] theorem State.unit_setUnit_self (p : Word) (v : UnitRegs) : (s.setUnit p v).unit p = v :=
  Tbl.get_set_self _ _ _ _
@[simp] theorem State.tile_setUnit (p : Word) (v : UnitRegs) (q : Nat) : (s.setUnit p v).tile q = s.tile q := rfl
@[simp] theorem State.room_setUnit (p : Word) (v : UnitRegs) (q : Nat) : (s.setUnit p v).room q = s.room q := rfl
@[simp] theorem State.floor_setUnit (p : Word) (v : UnitRegs) (q : Nat) : (s.setUnit p v).floor q = s.floor q := rfl
@[simp] theorem State.die_setUnit (p : Word) (v : UnitRegs) (q : Nat) : (s.setUnit p v).die q = s.die q := rfl
@[simp] theorem State.invOf_setUnit (p : Word) (v : UnitRegs) (q : Nat) : (s.setUnit p v).invOf q = s.invOf q := rfl
@[simp] theorem State.bank_setUnit (p : Word) (v : UnitRegs) (q : Nat) : (s.setUnit p v).bank q = s.bank q := rfl
@[simp] theorem State.digest_setUnit (p : Word) (v : UnitRegs) (q : Nat) : (s.setUnit p v).digest q = s.digest q := rfl
@[simp] theorem State.sess_setUnit (p : Word) (v : UnitRegs) (q : Nat) : (s.setUnit p v).sess q = s.sess q := rfl
@[simp] theorem State.pipe_setUnit (p : Word) (v : UnitRegs) (q : Nat) : (s.setUnit p v).pipe q = s.pipe q := rfl
@[simp] theorem State.cls_setUnit (p : Word) (v : UnitRegs) (q : Nat) : (s.setUnit p v).cls q = s.cls q := rfl
@[simp] theorem State.link_setUnit (p : Word) (v : UnitRegs) (q : Nat) : (s.setUnit p v).link q = s.link q := rfl
@[simp] theorem State.port_setUnit (p : Word) (v : UnitRegs) (q : Nat) : (s.setUnit p v).port q = s.port q := rfl
@[simp] theorem State.peer_setUnit (p : Word) (v : UnitRegs) (q : Nat) : (s.setUnit p v).peer q = s.peer q := rfl
@[simp] theorem State.gang_setUnit (p : Word) (v : UnitRegs) (q : Nat) : (s.setUnit p v).gang q = s.gang q := rfl
@[simp] theorem State.barrier_setUnit (p : Word) (v : UnitRegs) (q : Nat) : (s.setUnit p v).barrier q = s.barrier q := rfl
@[simp] theorem State.pending_setUnit (p : Word) (v : UnitRegs) : (s.setUnit p v).pending = s.pending := rfl
@[simp] theorem State.pkt_setUnit (p : Word) (v : UnitRegs) : (s.setUnit p v).pkt = s.pkt := rfl
@[simp] theorem State.hostOut_setUnit (p : Word) (v : UnitRegs) : (s.setUnit p v).hostOut = s.hostOut := rfl
@[simp] theorem State.fuses_setUnit (p : Word) (v : UnitRegs) : (s.setUnit p v).fuses = s.fuses := rfl
@[simp] theorem State.holdLim_setUnit (p : Word) (v : UnitRegs) : (s.setUnit p v).holdLim = s.holdLim := rfl
@[simp] theorem State.wdog_setUnit (p : Word) (v : UnitRegs) : (s.setUnit p v).wdog = s.wdog := rfl
@[simp] theorem State.cmds_setUnit (p : Word) (v : UnitRegs) : (s.setUnit p v).cmds = s.cmds := rfl
@[simp] theorem State.ready_setUnit (p : Word) (v : UnitRegs) : (s.setUnit p v).ready = s.ready := rfl
@[simp] theorem State.lead_setUnit (p : Word) (v : UnitRegs) : (s.setUnit p v).lead = s.lead := rfl

/-! ### After `setInv` -/

/-- The record just put. -/
@[simp] theorem State.invOf_setInv_self (p : Nat) (v : Inv) : (s.setInv p v).invOf p = v :=
  Tbl.get_set_self _ _ _ _
/-- Every other record. -/
theorem State.invOf_setInv_ne {p q : Nat} (v : Inv) (h : q ≠ p) : (s.setInv p v).invOf q = s.invOf q :=
  Tbl.get_set_ne _ _ _ h
@[simp] theorem State.tile_setInv (p : Nat) (v : Inv) (q : Nat) : (s.setInv p v).tile q = s.tile q := rfl
@[simp] theorem State.room_setInv (p : Nat) (v : Inv) (q : Nat) : (s.setInv p v).room q = s.room q := rfl
@[simp] theorem State.floor_setInv (p : Nat) (v : Inv) (q : Nat) : (s.setInv p v).floor q = s.floor q := rfl
@[simp] theorem State.die_setInv (p : Nat) (v : Inv) (q : Nat) : (s.setInv p v).die q = s.die q := rfl
@[simp] theorem State.unit_setInv (p : Nat) (v : Inv) (q : Word) : (s.setInv p v).unit q = s.unit q := rfl
@[simp] theorem State.bank_setInv (p : Nat) (v : Inv) (q : Nat) : (s.setInv p v).bank q = s.bank q := rfl
@[simp] theorem State.digest_setInv (p : Nat) (v : Inv) (q : Nat) : (s.setInv p v).digest q = s.digest q := rfl
@[simp] theorem State.sess_setInv (p : Nat) (v : Inv) (q : Nat) : (s.setInv p v).sess q = s.sess q := rfl
@[simp] theorem State.pipe_setInv (p : Nat) (v : Inv) (q : Nat) : (s.setInv p v).pipe q = s.pipe q := rfl
@[simp] theorem State.cls_setInv (p : Nat) (v : Inv) (q : Nat) : (s.setInv p v).cls q = s.cls q := rfl
@[simp] theorem State.link_setInv (p : Nat) (v : Inv) (q : Nat) : (s.setInv p v).link q = s.link q := rfl
@[simp] theorem State.port_setInv (p : Nat) (v : Inv) (q : Nat) : (s.setInv p v).port q = s.port q := rfl
@[simp] theorem State.peer_setInv (p : Nat) (v : Inv) (q : Nat) : (s.setInv p v).peer q = s.peer q := rfl
@[simp] theorem State.gang_setInv (p : Nat) (v : Inv) (q : Nat) : (s.setInv p v).gang q = s.gang q := rfl
@[simp] theorem State.barrier_setInv (p : Nat) (v : Inv) (q : Nat) : (s.setInv p v).barrier q = s.barrier q := rfl
@[simp] theorem State.pending_setInv (p : Nat) (v : Inv) : (s.setInv p v).pending = s.pending := rfl
@[simp] theorem State.pkt_setInv (p : Nat) (v : Inv) : (s.setInv p v).pkt = s.pkt := rfl
@[simp] theorem State.hostOut_setInv (p : Nat) (v : Inv) : (s.setInv p v).hostOut = s.hostOut := rfl
@[simp] theorem State.fuses_setInv (p : Nat) (v : Inv) : (s.setInv p v).fuses = s.fuses := rfl
@[simp] theorem State.holdLim_setInv (p : Nat) (v : Inv) : (s.setInv p v).holdLim = s.holdLim := rfl
@[simp] theorem State.wdog_setInv (p : Nat) (v : Inv) : (s.setInv p v).wdog = s.wdog := rfl
@[simp] theorem State.cmds_setInv (p : Nat) (v : Inv) : (s.setInv p v).cmds = s.cmds := rfl
@[simp] theorem State.ready_setInv (p : Nat) (v : Inv) : (s.setInv p v).ready = s.ready := rfl
@[simp] theorem State.lead_setInv (p : Nat) (v : Inv) : (s.setInv p v).lead = s.lead := rfl

/-! ### After `setBank` -/

/-- The record just put. -/
@[simp] theorem State.bank_setBank_self (p : Nat) (v : Bank) : (s.setBank p v).bank p = v :=
  Tbl.get_set_self _ _ _ _
/-- Every other record. -/
theorem State.bank_setBank_ne {p q : Nat} (v : Bank) (h : q ≠ p) : (s.setBank p v).bank q = s.bank q :=
  Tbl.get_set_ne _ _ _ h
@[simp] theorem State.tile_setBank (p : Nat) (v : Bank) (q : Nat) : (s.setBank p v).tile q = s.tile q := rfl
@[simp] theorem State.room_setBank (p : Nat) (v : Bank) (q : Nat) : (s.setBank p v).room q = s.room q := rfl
@[simp] theorem State.floor_setBank (p : Nat) (v : Bank) (q : Nat) : (s.setBank p v).floor q = s.floor q := rfl
@[simp] theorem State.die_setBank (p : Nat) (v : Bank) (q : Nat) : (s.setBank p v).die q = s.die q := rfl
@[simp] theorem State.unit_setBank (p : Nat) (v : Bank) (q : Word) : (s.setBank p v).unit q = s.unit q := rfl
@[simp] theorem State.invOf_setBank (p : Nat) (v : Bank) (q : Nat) : (s.setBank p v).invOf q = s.invOf q := rfl
@[simp] theorem State.digest_setBank (p : Nat) (v : Bank) (q : Nat) : (s.setBank p v).digest q = s.digest q := rfl
@[simp] theorem State.sess_setBank (p : Nat) (v : Bank) (q : Nat) : (s.setBank p v).sess q = s.sess q := rfl
@[simp] theorem State.pipe_setBank (p : Nat) (v : Bank) (q : Nat) : (s.setBank p v).pipe q = s.pipe q := rfl
@[simp] theorem State.cls_setBank (p : Nat) (v : Bank) (q : Nat) : (s.setBank p v).cls q = s.cls q := rfl
@[simp] theorem State.link_setBank (p : Nat) (v : Bank) (q : Nat) : (s.setBank p v).link q = s.link q := rfl
@[simp] theorem State.port_setBank (p : Nat) (v : Bank) (q : Nat) : (s.setBank p v).port q = s.port q := rfl
@[simp] theorem State.peer_setBank (p : Nat) (v : Bank) (q : Nat) : (s.setBank p v).peer q = s.peer q := rfl
@[simp] theorem State.gang_setBank (p : Nat) (v : Bank) (q : Nat) : (s.setBank p v).gang q = s.gang q := rfl
@[simp] theorem State.barrier_setBank (p : Nat) (v : Bank) (q : Nat) : (s.setBank p v).barrier q = s.barrier q := rfl
@[simp] theorem State.pending_setBank (p : Nat) (v : Bank) : (s.setBank p v).pending = s.pending := rfl
@[simp] theorem State.pkt_setBank (p : Nat) (v : Bank) : (s.setBank p v).pkt = s.pkt := rfl
@[simp] theorem State.hostOut_setBank (p : Nat) (v : Bank) : (s.setBank p v).hostOut = s.hostOut := rfl
@[simp] theorem State.fuses_setBank (p : Nat) (v : Bank) : (s.setBank p v).fuses = s.fuses := rfl
@[simp] theorem State.holdLim_setBank (p : Nat) (v : Bank) : (s.setBank p v).holdLim = s.holdLim := rfl
@[simp] theorem State.wdog_setBank (p : Nat) (v : Bank) : (s.setBank p v).wdog = s.wdog := rfl
@[simp] theorem State.cmds_setBank (p : Nat) (v : Bank) : (s.setBank p v).cmds = s.cmds := rfl
@[simp] theorem State.ready_setBank (p : Nat) (v : Bank) : (s.setBank p v).ready = s.ready := rfl
@[simp] theorem State.lead_setBank (p : Nat) (v : Bank) : (s.setBank p v).lead = s.lead := rfl

/-! ### After `setDigest` -/

/-- The record just put, where its store or its mirror stands. -/
theorem State.digest_setDigest_self (p : Nat) (v : Digest) (h : (s.digestAt p).1 = true ∨ (s.digestAt p).2 = true) :
    (s.setDigest p v).digest p = v := by
  have e : (s.setDigest p v).digestAt p = s.digestAt p := rfl
  unfold State.digest; rw [e]; unfold State.setDigest
  by_cases h1 : (s.digestAt p).1 = true
  · simp [h1]
  · have h2 := h.resolve_left h1
    simp [h1, h2]
/-- Every other record. -/
theorem State.digest_setDigest_ne {p q : Nat} (v : Digest) (h : q ≠ p) : (s.setDigest p v).digest q = s.digest q := by
  have e : (s.setDigest p v).digestAt q = s.digestAt q := rfl
  unfold State.digest; rw [e]; unfold State.setDigest
  have g (m : Tbl Digest) : Tbl.get Digest.reset (Tbl.set Digest.reset m p v) q = Tbl.get Digest.reset m q := Tbl.get_set_ne _ _ _ h
  dsimp only
  repeat' split
  all_goals simp_all
@[simp] theorem State.tile_setDigest (p : Nat) (v : Digest) (q : Nat) : (s.setDigest p v).tile q = s.tile q := rfl
@[simp] theorem State.room_setDigest (p : Nat) (v : Digest) (q : Nat) : (s.setDigest p v).room q = s.room q := rfl
@[simp] theorem State.floor_setDigest (p : Nat) (v : Digest) (q : Nat) : (s.setDigest p v).floor q = s.floor q := rfl
@[simp] theorem State.die_setDigest (p : Nat) (v : Digest) (q : Nat) : (s.setDigest p v).die q = s.die q := rfl
@[simp] theorem State.unit_setDigest (p : Nat) (v : Digest) (q : Word) : (s.setDigest p v).unit q = s.unit q := rfl
@[simp] theorem State.invOf_setDigest (p : Nat) (v : Digest) (q : Nat) : (s.setDigest p v).invOf q = s.invOf q := rfl
@[simp] theorem State.bank_setDigest (p : Nat) (v : Digest) (q : Nat) : (s.setDigest p v).bank q = s.bank q := rfl
@[simp] theorem State.sess_setDigest (p : Nat) (v : Digest) (q : Nat) : (s.setDigest p v).sess q = s.sess q := rfl
@[simp] theorem State.pipe_setDigest (p : Nat) (v : Digest) (q : Nat) : (s.setDigest p v).pipe q = s.pipe q := rfl
@[simp] theorem State.cls_setDigest (p : Nat) (v : Digest) (q : Nat) : (s.setDigest p v).cls q = s.cls q := rfl
@[simp] theorem State.link_setDigest (p : Nat) (v : Digest) (q : Nat) : (s.setDigest p v).link q = s.link q := rfl
@[simp] theorem State.port_setDigest (p : Nat) (v : Digest) (q : Nat) : (s.setDigest p v).port q = s.port q := rfl
@[simp] theorem State.peer_setDigest (p : Nat) (v : Digest) (q : Nat) : (s.setDigest p v).peer q = s.peer q := rfl
@[simp] theorem State.gang_setDigest (p : Nat) (v : Digest) (q : Nat) : (s.setDigest p v).gang q = s.gang q := rfl
@[simp] theorem State.barrier_setDigest (p : Nat) (v : Digest) (q : Nat) : (s.setDigest p v).barrier q = s.barrier q := rfl
@[simp] theorem State.pending_setDigest (p : Nat) (v : Digest) : (s.setDigest p v).pending = s.pending := rfl
@[simp] theorem State.pkt_setDigest (p : Nat) (v : Digest) : (s.setDigest p v).pkt = s.pkt := rfl
@[simp] theorem State.hostOut_setDigest (p : Nat) (v : Digest) : (s.setDigest p v).hostOut = s.hostOut := rfl
@[simp] theorem State.fuses_setDigest (p : Nat) (v : Digest) : (s.setDigest p v).fuses = s.fuses := rfl
@[simp] theorem State.holdLim_setDigest (p : Nat) (v : Digest) : (s.setDigest p v).holdLim = s.holdLim := rfl
@[simp] theorem State.wdog_setDigest (p : Nat) (v : Digest) : (s.setDigest p v).wdog = s.wdog := rfl
@[simp] theorem State.cmds_setDigest (p : Nat) (v : Digest) : (s.setDigest p v).cmds = s.cmds := rfl
@[simp] theorem State.ready_setDigest (p : Nat) (v : Digest) : (s.setDigest p v).ready = s.ready := rfl
@[simp] theorem State.lead_setDigest (p : Nat) (v : Digest) : (s.setDigest p v).lead = s.lead := rfl

/-! ### After `setSess` -/

/-- The record just put. -/
@[simp] theorem State.sess_setSess_self (p : Nat) (v : Sess) : (s.setSess p v).sess p = v :=
  Tbl.get_set_self _ _ _ _
/-- Every other record. -/
theorem State.sess_setSess_ne {p q : Nat} (v : Sess) (h : q ≠ p) : (s.setSess p v).sess q = s.sess q :=
  Tbl.get_set_ne _ _ _ h
@[simp] theorem State.tile_setSess (p : Nat) (v : Sess) (q : Nat) : (s.setSess p v).tile q = s.tile q := rfl
@[simp] theorem State.room_setSess (p : Nat) (v : Sess) (q : Nat) : (s.setSess p v).room q = s.room q := rfl
@[simp] theorem State.floor_setSess (p : Nat) (v : Sess) (q : Nat) : (s.setSess p v).floor q = s.floor q := rfl
@[simp] theorem State.die_setSess (p : Nat) (v : Sess) (q : Nat) : (s.setSess p v).die q = s.die q := rfl
@[simp] theorem State.unit_setSess (p : Nat) (v : Sess) (q : Word) : (s.setSess p v).unit q = s.unit q := rfl
@[simp] theorem State.invOf_setSess (p : Nat) (v : Sess) (q : Nat) : (s.setSess p v).invOf q = s.invOf q := rfl
@[simp] theorem State.bank_setSess (p : Nat) (v : Sess) (q : Nat) : (s.setSess p v).bank q = s.bank q := rfl
@[simp] theorem State.digest_setSess (p : Nat) (v : Sess) (q : Nat) : (s.setSess p v).digest q = s.digest q := rfl
@[simp] theorem State.pipe_setSess (p : Nat) (v : Sess) (q : Nat) : (s.setSess p v).pipe q = s.pipe q := rfl
@[simp] theorem State.cls_setSess (p : Nat) (v : Sess) (q : Nat) : (s.setSess p v).cls q = s.cls q := rfl
@[simp] theorem State.link_setSess (p : Nat) (v : Sess) (q : Nat) : (s.setSess p v).link q = s.link q := rfl
@[simp] theorem State.port_setSess (p : Nat) (v : Sess) (q : Nat) : (s.setSess p v).port q = s.port q := rfl
@[simp] theorem State.peer_setSess (p : Nat) (v : Sess) (q : Nat) : (s.setSess p v).peer q = s.peer q := rfl
@[simp] theorem State.gang_setSess (p : Nat) (v : Sess) (q : Nat) : (s.setSess p v).gang q = s.gang q := rfl
@[simp] theorem State.barrier_setSess (p : Nat) (v : Sess) (q : Nat) : (s.setSess p v).barrier q = s.barrier q := rfl
@[simp] theorem State.pending_setSess (p : Nat) (v : Sess) : (s.setSess p v).pending = s.pending := rfl
@[simp] theorem State.pkt_setSess (p : Nat) (v : Sess) : (s.setSess p v).pkt = s.pkt := rfl
@[simp] theorem State.hostOut_setSess (p : Nat) (v : Sess) : (s.setSess p v).hostOut = s.hostOut := rfl
@[simp] theorem State.fuses_setSess (p : Nat) (v : Sess) : (s.setSess p v).fuses = s.fuses := rfl
@[simp] theorem State.holdLim_setSess (p : Nat) (v : Sess) : (s.setSess p v).holdLim = s.holdLim := rfl
@[simp] theorem State.wdog_setSess (p : Nat) (v : Sess) : (s.setSess p v).wdog = s.wdog := rfl
@[simp] theorem State.cmds_setSess (p : Nat) (v : Sess) : (s.setSess p v).cmds = s.cmds := rfl
@[simp] theorem State.ready_setSess (p : Nat) (v : Sess) : (s.setSess p v).ready = s.ready := rfl
@[simp] theorem State.lead_setSess (p : Nat) (v : Sess) : (s.setSess p v).lead = s.lead := rfl

/-! ### After `setPipe` -/

/-- The record just put. -/
@[simp] theorem State.pipe_setPipe_self (p : Nat) (v : Pipe) : (s.setPipe p v).pipe p = v :=
  Tbl.get_set_self _ _ _ _
/-- Every other record. -/
theorem State.pipe_setPipe_ne {p q : Nat} (v : Pipe) (h : q ≠ p) : (s.setPipe p v).pipe q = s.pipe q :=
  Tbl.get_set_ne _ _ _ h
@[simp] theorem State.tile_setPipe (p : Nat) (v : Pipe) (q : Nat) : (s.setPipe p v).tile q = s.tile q := rfl
@[simp] theorem State.room_setPipe (p : Nat) (v : Pipe) (q : Nat) : (s.setPipe p v).room q = s.room q := rfl
@[simp] theorem State.floor_setPipe (p : Nat) (v : Pipe) (q : Nat) : (s.setPipe p v).floor q = s.floor q := rfl
@[simp] theorem State.die_setPipe (p : Nat) (v : Pipe) (q : Nat) : (s.setPipe p v).die q = s.die q := rfl
@[simp] theorem State.unit_setPipe (p : Nat) (v : Pipe) (q : Word) : (s.setPipe p v).unit q = s.unit q := rfl
@[simp] theorem State.invOf_setPipe (p : Nat) (v : Pipe) (q : Nat) : (s.setPipe p v).invOf q = s.invOf q := rfl
@[simp] theorem State.bank_setPipe (p : Nat) (v : Pipe) (q : Nat) : (s.setPipe p v).bank q = s.bank q := rfl
@[simp] theorem State.digest_setPipe (p : Nat) (v : Pipe) (q : Nat) : (s.setPipe p v).digest q = s.digest q := rfl
@[simp] theorem State.sess_setPipe (p : Nat) (v : Pipe) (q : Nat) : (s.setPipe p v).sess q = s.sess q := rfl
@[simp] theorem State.cls_setPipe (p : Nat) (v : Pipe) (q : Nat) : (s.setPipe p v).cls q = s.cls q := rfl
@[simp] theorem State.link_setPipe (p : Nat) (v : Pipe) (q : Nat) : (s.setPipe p v).link q = s.link q := rfl
@[simp] theorem State.port_setPipe (p : Nat) (v : Pipe) (q : Nat) : (s.setPipe p v).port q = s.port q := rfl
@[simp] theorem State.peer_setPipe (p : Nat) (v : Pipe) (q : Nat) : (s.setPipe p v).peer q = s.peer q := rfl
@[simp] theorem State.gang_setPipe (p : Nat) (v : Pipe) (q : Nat) : (s.setPipe p v).gang q = s.gang q := rfl
@[simp] theorem State.barrier_setPipe (p : Nat) (v : Pipe) (q : Nat) : (s.setPipe p v).barrier q = s.barrier q := rfl
@[simp] theorem State.pending_setPipe (p : Nat) (v : Pipe) : (s.setPipe p v).pending = s.pending := rfl
@[simp] theorem State.pkt_setPipe (p : Nat) (v : Pipe) : (s.setPipe p v).pkt = s.pkt := rfl
@[simp] theorem State.hostOut_setPipe (p : Nat) (v : Pipe) : (s.setPipe p v).hostOut = s.hostOut := rfl
@[simp] theorem State.fuses_setPipe (p : Nat) (v : Pipe) : (s.setPipe p v).fuses = s.fuses := rfl
@[simp] theorem State.holdLim_setPipe (p : Nat) (v : Pipe) : (s.setPipe p v).holdLim = s.holdLim := rfl
@[simp] theorem State.wdog_setPipe (p : Nat) (v : Pipe) : (s.setPipe p v).wdog = s.wdog := rfl
@[simp] theorem State.cmds_setPipe (p : Nat) (v : Pipe) : (s.setPipe p v).cmds = s.cmds := rfl
@[simp] theorem State.ready_setPipe (p : Nat) (v : Pipe) : (s.setPipe p v).ready = s.ready := rfl
@[simp] theorem State.lead_setPipe (p : Nat) (v : Pipe) : (s.setPipe p v).lead = s.lead := rfl

/-! ### After `setCls` -/

/-- The record just put. -/
@[simp] theorem State.cls_setCls_self (p : Nat) (v : Class) : (s.setCls p v).cls p = v :=
  Tbl.get_set_self _ _ _ _
/-- Every other record. -/
theorem State.cls_setCls_ne {p q : Nat} (v : Class) (h : q ≠ p) : (s.setCls p v).cls q = s.cls q :=
  Tbl.get_set_ne _ _ _ h
@[simp] theorem State.tile_setCls (p : Nat) (v : Class) (q : Nat) : (s.setCls p v).tile q = s.tile q := rfl
@[simp] theorem State.room_setCls (p : Nat) (v : Class) (q : Nat) : (s.setCls p v).room q = s.room q := rfl
@[simp] theorem State.floor_setCls (p : Nat) (v : Class) (q : Nat) : (s.setCls p v).floor q = s.floor q := rfl
@[simp] theorem State.die_setCls (p : Nat) (v : Class) (q : Nat) : (s.setCls p v).die q = s.die q := rfl
@[simp] theorem State.unit_setCls (p : Nat) (v : Class) (q : Word) : (s.setCls p v).unit q = s.unit q := rfl
@[simp] theorem State.invOf_setCls (p : Nat) (v : Class) (q : Nat) : (s.setCls p v).invOf q = s.invOf q := rfl
@[simp] theorem State.bank_setCls (p : Nat) (v : Class) (q : Nat) : (s.setCls p v).bank q = s.bank q := rfl
@[simp] theorem State.digest_setCls (p : Nat) (v : Class) (q : Nat) : (s.setCls p v).digest q = s.digest q := rfl
@[simp] theorem State.sess_setCls (p : Nat) (v : Class) (q : Nat) : (s.setCls p v).sess q = s.sess q := rfl
@[simp] theorem State.pipe_setCls (p : Nat) (v : Class) (q : Nat) : (s.setCls p v).pipe q = s.pipe q := rfl
@[simp] theorem State.link_setCls (p : Nat) (v : Class) (q : Nat) : (s.setCls p v).link q = s.link q := rfl
@[simp] theorem State.port_setCls (p : Nat) (v : Class) (q : Nat) : (s.setCls p v).port q = s.port q := rfl
@[simp] theorem State.peer_setCls (p : Nat) (v : Class) (q : Nat) : (s.setCls p v).peer q = s.peer q := rfl
@[simp] theorem State.gang_setCls (p : Nat) (v : Class) (q : Nat) : (s.setCls p v).gang q = s.gang q := rfl
@[simp] theorem State.barrier_setCls (p : Nat) (v : Class) (q : Nat) : (s.setCls p v).barrier q = s.barrier q := rfl
@[simp] theorem State.pending_setCls (p : Nat) (v : Class) : (s.setCls p v).pending = s.pending := rfl
@[simp] theorem State.pkt_setCls (p : Nat) (v : Class) : (s.setCls p v).pkt = s.pkt := rfl
@[simp] theorem State.hostOut_setCls (p : Nat) (v : Class) : (s.setCls p v).hostOut = s.hostOut := rfl
@[simp] theorem State.fuses_setCls (p : Nat) (v : Class) : (s.setCls p v).fuses = s.fuses := rfl
@[simp] theorem State.holdLim_setCls (p : Nat) (v : Class) : (s.setCls p v).holdLim = s.holdLim := rfl
@[simp] theorem State.wdog_setCls (p : Nat) (v : Class) : (s.setCls p v).wdog = s.wdog := rfl
@[simp] theorem State.cmds_setCls (p : Nat) (v : Class) : (s.setCls p v).cmds = s.cmds := rfl
@[simp] theorem State.ready_setCls (p : Nat) (v : Class) : (s.setCls p v).ready = s.ready := rfl
@[simp] theorem State.lead_setCls (p : Nat) (v : Class) : (s.setCls p v).lead = s.lead := rfl

/-! ### After `setLink` -/

/-- The record just put. -/
@[simp] theorem State.link_setLink_self (p : Nat) (v : Link) : (s.setLink p v).link p = v :=
  Tbl.get_set_self _ _ _ _
/-- Every other record. -/
theorem State.link_setLink_ne {p q : Nat} (v : Link) (h : q ≠ p) : (s.setLink p v).link q = s.link q :=
  Tbl.get_set_ne _ _ _ h
@[simp] theorem State.tile_setLink (p : Nat) (v : Link) (q : Nat) : (s.setLink p v).tile q = s.tile q := rfl
@[simp] theorem State.room_setLink (p : Nat) (v : Link) (q : Nat) : (s.setLink p v).room q = s.room q := rfl
@[simp] theorem State.floor_setLink (p : Nat) (v : Link) (q : Nat) : (s.setLink p v).floor q = s.floor q := rfl
@[simp] theorem State.die_setLink (p : Nat) (v : Link) (q : Nat) : (s.setLink p v).die q = s.die q := rfl
@[simp] theorem State.unit_setLink (p : Nat) (v : Link) (q : Word) : (s.setLink p v).unit q = s.unit q := rfl
@[simp] theorem State.invOf_setLink (p : Nat) (v : Link) (q : Nat) : (s.setLink p v).invOf q = s.invOf q := rfl
@[simp] theorem State.bank_setLink (p : Nat) (v : Link) (q : Nat) : (s.setLink p v).bank q = s.bank q := rfl
@[simp] theorem State.digest_setLink (p : Nat) (v : Link) (q : Nat) : (s.setLink p v).digest q = s.digest q := rfl
@[simp] theorem State.sess_setLink (p : Nat) (v : Link) (q : Nat) : (s.setLink p v).sess q = s.sess q := rfl
@[simp] theorem State.pipe_setLink (p : Nat) (v : Link) (q : Nat) : (s.setLink p v).pipe q = s.pipe q := rfl
@[simp] theorem State.cls_setLink (p : Nat) (v : Link) (q : Nat) : (s.setLink p v).cls q = s.cls q := rfl
@[simp] theorem State.port_setLink (p : Nat) (v : Link) (q : Nat) : (s.setLink p v).port q = s.port q := rfl
@[simp] theorem State.peer_setLink (p : Nat) (v : Link) (q : Nat) : (s.setLink p v).peer q = s.peer q := rfl
@[simp] theorem State.gang_setLink (p : Nat) (v : Link) (q : Nat) : (s.setLink p v).gang q = s.gang q := rfl
@[simp] theorem State.barrier_setLink (p : Nat) (v : Link) (q : Nat) : (s.setLink p v).barrier q = s.barrier q := rfl
@[simp] theorem State.pending_setLink (p : Nat) (v : Link) : (s.setLink p v).pending = s.pending := rfl
@[simp] theorem State.pkt_setLink (p : Nat) (v : Link) : (s.setLink p v).pkt = s.pkt := rfl
@[simp] theorem State.hostOut_setLink (p : Nat) (v : Link) : (s.setLink p v).hostOut = s.hostOut := rfl
@[simp] theorem State.fuses_setLink (p : Nat) (v : Link) : (s.setLink p v).fuses = s.fuses := rfl
@[simp] theorem State.holdLim_setLink (p : Nat) (v : Link) : (s.setLink p v).holdLim = s.holdLim := rfl
@[simp] theorem State.wdog_setLink (p : Nat) (v : Link) : (s.setLink p v).wdog = s.wdog := rfl
@[simp] theorem State.cmds_setLink (p : Nat) (v : Link) : (s.setLink p v).cmds = s.cmds := rfl
@[simp] theorem State.ready_setLink (p : Nat) (v : Link) : (s.setLink p v).ready = s.ready := rfl
@[simp] theorem State.lead_setLink (p : Nat) (v : Link) : (s.setLink p v).lead = s.lead := rfl

/-! ### After `setPort` -/

/-- The record just put. -/
@[simp] theorem State.port_setPort_self (p : Nat) (v : Port) : (s.setPort p v).port p = v :=
  Tbl.get_set_self _ _ _ _
/-- Every other record. -/
theorem State.port_setPort_ne {p q : Nat} (v : Port) (h : q ≠ p) : (s.setPort p v).port q = s.port q :=
  Tbl.get_set_ne _ _ _ h
@[simp] theorem State.tile_setPort (p : Nat) (v : Port) (q : Nat) : (s.setPort p v).tile q = s.tile q := rfl
@[simp] theorem State.room_setPort (p : Nat) (v : Port) (q : Nat) : (s.setPort p v).room q = s.room q := rfl
@[simp] theorem State.floor_setPort (p : Nat) (v : Port) (q : Nat) : (s.setPort p v).floor q = s.floor q := rfl
@[simp] theorem State.die_setPort (p : Nat) (v : Port) (q : Nat) : (s.setPort p v).die q = s.die q := rfl
@[simp] theorem State.unit_setPort (p : Nat) (v : Port) (q : Word) : (s.setPort p v).unit q = s.unit q := rfl
@[simp] theorem State.invOf_setPort (p : Nat) (v : Port) (q : Nat) : (s.setPort p v).invOf q = s.invOf q := rfl
@[simp] theorem State.bank_setPort (p : Nat) (v : Port) (q : Nat) : (s.setPort p v).bank q = s.bank q := rfl
@[simp] theorem State.digest_setPort (p : Nat) (v : Port) (q : Nat) : (s.setPort p v).digest q = s.digest q := rfl
@[simp] theorem State.sess_setPort (p : Nat) (v : Port) (q : Nat) : (s.setPort p v).sess q = s.sess q := rfl
@[simp] theorem State.pipe_setPort (p : Nat) (v : Port) (q : Nat) : (s.setPort p v).pipe q = s.pipe q := rfl
@[simp] theorem State.cls_setPort (p : Nat) (v : Port) (q : Nat) : (s.setPort p v).cls q = s.cls q := rfl
@[simp] theorem State.link_setPort (p : Nat) (v : Port) (q : Nat) : (s.setPort p v).link q = s.link q := rfl
@[simp] theorem State.peer_setPort (p : Nat) (v : Port) (q : Nat) : (s.setPort p v).peer q = s.peer q := rfl
@[simp] theorem State.gang_setPort (p : Nat) (v : Port) (q : Nat) : (s.setPort p v).gang q = s.gang q := rfl
@[simp] theorem State.barrier_setPort (p : Nat) (v : Port) (q : Nat) : (s.setPort p v).barrier q = s.barrier q := rfl
@[simp] theorem State.pending_setPort (p : Nat) (v : Port) : (s.setPort p v).pending = s.pending := rfl
@[simp] theorem State.pkt_setPort (p : Nat) (v : Port) : (s.setPort p v).pkt = s.pkt := rfl
@[simp] theorem State.hostOut_setPort (p : Nat) (v : Port) : (s.setPort p v).hostOut = s.hostOut := rfl
@[simp] theorem State.fuses_setPort (p : Nat) (v : Port) : (s.setPort p v).fuses = s.fuses := rfl
@[simp] theorem State.holdLim_setPort (p : Nat) (v : Port) : (s.setPort p v).holdLim = s.holdLim := rfl
@[simp] theorem State.wdog_setPort (p : Nat) (v : Port) : (s.setPort p v).wdog = s.wdog := rfl
@[simp] theorem State.cmds_setPort (p : Nat) (v : Port) : (s.setPort p v).cmds = s.cmds := rfl
@[simp] theorem State.ready_setPort (p : Nat) (v : Port) : (s.setPort p v).ready = s.ready := rfl
@[simp] theorem State.lead_setPort (p : Nat) (v : Port) : (s.setPort p v).lead = s.lead := rfl

/-! ### After `setPeer` -/

/-- The record just put. -/
@[simp] theorem State.peer_setPeer_self (p : Nat) (v : Peer) : (s.setPeer p v).peer p = v :=
  Tbl.get_set_self _ _ _ _
/-- Every other record. -/
theorem State.peer_setPeer_ne {p q : Nat} (v : Peer) (h : q ≠ p) : (s.setPeer p v).peer q = s.peer q :=
  Tbl.get_set_ne _ _ _ h
@[simp] theorem State.tile_setPeer (p : Nat) (v : Peer) (q : Nat) : (s.setPeer p v).tile q = s.tile q := rfl
@[simp] theorem State.room_setPeer (p : Nat) (v : Peer) (q : Nat) : (s.setPeer p v).room q = s.room q := rfl
@[simp] theorem State.floor_setPeer (p : Nat) (v : Peer) (q : Nat) : (s.setPeer p v).floor q = s.floor q := rfl
@[simp] theorem State.die_setPeer (p : Nat) (v : Peer) (q : Nat) : (s.setPeer p v).die q = s.die q := rfl
@[simp] theorem State.unit_setPeer (p : Nat) (v : Peer) (q : Word) : (s.setPeer p v).unit q = s.unit q := rfl
@[simp] theorem State.invOf_setPeer (p : Nat) (v : Peer) (q : Nat) : (s.setPeer p v).invOf q = s.invOf q := rfl
@[simp] theorem State.bank_setPeer (p : Nat) (v : Peer) (q : Nat) : (s.setPeer p v).bank q = s.bank q := rfl
@[simp] theorem State.digest_setPeer (p : Nat) (v : Peer) (q : Nat) : (s.setPeer p v).digest q = s.digest q := rfl
@[simp] theorem State.sess_setPeer (p : Nat) (v : Peer) (q : Nat) : (s.setPeer p v).sess q = s.sess q := rfl
@[simp] theorem State.pipe_setPeer (p : Nat) (v : Peer) (q : Nat) : (s.setPeer p v).pipe q = s.pipe q := rfl
@[simp] theorem State.cls_setPeer (p : Nat) (v : Peer) (q : Nat) : (s.setPeer p v).cls q = s.cls q := rfl
@[simp] theorem State.link_setPeer (p : Nat) (v : Peer) (q : Nat) : (s.setPeer p v).link q = s.link q := rfl
@[simp] theorem State.port_setPeer (p : Nat) (v : Peer) (q : Nat) : (s.setPeer p v).port q = s.port q := rfl
@[simp] theorem State.gang_setPeer (p : Nat) (v : Peer) (q : Nat) : (s.setPeer p v).gang q = s.gang q := rfl
@[simp] theorem State.barrier_setPeer (p : Nat) (v : Peer) (q : Nat) : (s.setPeer p v).barrier q = s.barrier q := rfl
@[simp] theorem State.pending_setPeer (p : Nat) (v : Peer) : (s.setPeer p v).pending = s.pending := rfl
@[simp] theorem State.pkt_setPeer (p : Nat) (v : Peer) : (s.setPeer p v).pkt = s.pkt := rfl
@[simp] theorem State.hostOut_setPeer (p : Nat) (v : Peer) : (s.setPeer p v).hostOut = s.hostOut := rfl
@[simp] theorem State.fuses_setPeer (p : Nat) (v : Peer) : (s.setPeer p v).fuses = s.fuses := rfl
@[simp] theorem State.holdLim_setPeer (p : Nat) (v : Peer) : (s.setPeer p v).holdLim = s.holdLim := rfl
@[simp] theorem State.wdog_setPeer (p : Nat) (v : Peer) : (s.setPeer p v).wdog = s.wdog := rfl
@[simp] theorem State.cmds_setPeer (p : Nat) (v : Peer) : (s.setPeer p v).cmds = s.cmds := rfl
@[simp] theorem State.ready_setPeer (p : Nat) (v : Peer) : (s.setPeer p v).ready = s.ready := rfl
@[simp] theorem State.lead_setPeer (p : Nat) (v : Peer) : (s.setPeer p v).lead = s.lead := rfl

/-! ### After `setGang` -/

/-- The record just put. -/
@[simp] theorem State.gang_setGang_self (p : Nat) (v : Gang) : (s.setGang p v).gang p = v :=
  Tbl.get_set_self _ _ _ _
/-- Every other record. -/
theorem State.gang_setGang_ne {p q : Nat} (v : Gang) (h : q ≠ p) : (s.setGang p v).gang q = s.gang q :=
  Tbl.get_set_ne _ _ _ h
@[simp] theorem State.tile_setGang (p : Nat) (v : Gang) (q : Nat) : (s.setGang p v).tile q = s.tile q := rfl
@[simp] theorem State.room_setGang (p : Nat) (v : Gang) (q : Nat) : (s.setGang p v).room q = s.room q := rfl
@[simp] theorem State.floor_setGang (p : Nat) (v : Gang) (q : Nat) : (s.setGang p v).floor q = s.floor q := rfl
@[simp] theorem State.die_setGang (p : Nat) (v : Gang) (q : Nat) : (s.setGang p v).die q = s.die q := rfl
@[simp] theorem State.unit_setGang (p : Nat) (v : Gang) (q : Word) : (s.setGang p v).unit q = s.unit q := rfl
@[simp] theorem State.invOf_setGang (p : Nat) (v : Gang) (q : Nat) : (s.setGang p v).invOf q = s.invOf q := rfl
@[simp] theorem State.bank_setGang (p : Nat) (v : Gang) (q : Nat) : (s.setGang p v).bank q = s.bank q := rfl
@[simp] theorem State.digest_setGang (p : Nat) (v : Gang) (q : Nat) : (s.setGang p v).digest q = s.digest q := rfl
@[simp] theorem State.sess_setGang (p : Nat) (v : Gang) (q : Nat) : (s.setGang p v).sess q = s.sess q := rfl
@[simp] theorem State.pipe_setGang (p : Nat) (v : Gang) (q : Nat) : (s.setGang p v).pipe q = s.pipe q := rfl
@[simp] theorem State.cls_setGang (p : Nat) (v : Gang) (q : Nat) : (s.setGang p v).cls q = s.cls q := rfl
@[simp] theorem State.link_setGang (p : Nat) (v : Gang) (q : Nat) : (s.setGang p v).link q = s.link q := rfl
@[simp] theorem State.port_setGang (p : Nat) (v : Gang) (q : Nat) : (s.setGang p v).port q = s.port q := rfl
@[simp] theorem State.peer_setGang (p : Nat) (v : Gang) (q : Nat) : (s.setGang p v).peer q = s.peer q := rfl
@[simp] theorem State.barrier_setGang (p : Nat) (v : Gang) (q : Nat) : (s.setGang p v).barrier q = s.barrier q := rfl
@[simp] theorem State.pending_setGang (p : Nat) (v : Gang) : (s.setGang p v).pending = s.pending := rfl
@[simp] theorem State.pkt_setGang (p : Nat) (v : Gang) : (s.setGang p v).pkt = s.pkt := rfl
@[simp] theorem State.hostOut_setGang (p : Nat) (v : Gang) : (s.setGang p v).hostOut = s.hostOut := rfl
@[simp] theorem State.fuses_setGang (p : Nat) (v : Gang) : (s.setGang p v).fuses = s.fuses := rfl
@[simp] theorem State.holdLim_setGang (p : Nat) (v : Gang) : (s.setGang p v).holdLim = s.holdLim := rfl
@[simp] theorem State.wdog_setGang (p : Nat) (v : Gang) : (s.setGang p v).wdog = s.wdog := rfl
@[simp] theorem State.cmds_setGang (p : Nat) (v : Gang) : (s.setGang p v).cmds = s.cmds := rfl
@[simp] theorem State.ready_setGang (p : Nat) (v : Gang) : (s.setGang p v).ready = s.ready := rfl
@[simp] theorem State.lead_setGang (p : Nat) (v : Gang) : (s.setGang p v).lead = s.lead := rfl

/-! ### After `setBarrier` -/

/-- The record just put. -/
@[simp] theorem State.barrier_setBarrier_self (p : Nat) (v : List Arrival) : (s.setBarrier p v).barrier p = v :=
  Tbl.get_set_self _ _ _ _
/-- Every other record. -/
theorem State.barrier_setBarrier_ne {p q : Nat} (v : List Arrival) (h : q ≠ p) : (s.setBarrier p v).barrier q = s.barrier q :=
  Tbl.get_set_ne _ _ _ h
@[simp] theorem State.tile_setBarrier (p : Nat) (v : List Arrival) (q : Nat) : (s.setBarrier p v).tile q = s.tile q := rfl
@[simp] theorem State.room_setBarrier (p : Nat) (v : List Arrival) (q : Nat) : (s.setBarrier p v).room q = s.room q := rfl
@[simp] theorem State.floor_setBarrier (p : Nat) (v : List Arrival) (q : Nat) : (s.setBarrier p v).floor q = s.floor q := rfl
@[simp] theorem State.die_setBarrier (p : Nat) (v : List Arrival) (q : Nat) : (s.setBarrier p v).die q = s.die q := rfl
@[simp] theorem State.unit_setBarrier (p : Nat) (v : List Arrival) (q : Word) : (s.setBarrier p v).unit q = s.unit q := rfl
@[simp] theorem State.invOf_setBarrier (p : Nat) (v : List Arrival) (q : Nat) : (s.setBarrier p v).invOf q = s.invOf q := rfl
@[simp] theorem State.bank_setBarrier (p : Nat) (v : List Arrival) (q : Nat) : (s.setBarrier p v).bank q = s.bank q := rfl
@[simp] theorem State.digest_setBarrier (p : Nat) (v : List Arrival) (q : Nat) : (s.setBarrier p v).digest q = s.digest q := rfl
@[simp] theorem State.sess_setBarrier (p : Nat) (v : List Arrival) (q : Nat) : (s.setBarrier p v).sess q = s.sess q := rfl
@[simp] theorem State.pipe_setBarrier (p : Nat) (v : List Arrival) (q : Nat) : (s.setBarrier p v).pipe q = s.pipe q := rfl
@[simp] theorem State.cls_setBarrier (p : Nat) (v : List Arrival) (q : Nat) : (s.setBarrier p v).cls q = s.cls q := rfl
@[simp] theorem State.link_setBarrier (p : Nat) (v : List Arrival) (q : Nat) : (s.setBarrier p v).link q = s.link q := rfl
@[simp] theorem State.port_setBarrier (p : Nat) (v : List Arrival) (q : Nat) : (s.setBarrier p v).port q = s.port q := rfl
@[simp] theorem State.peer_setBarrier (p : Nat) (v : List Arrival) (q : Nat) : (s.setBarrier p v).peer q = s.peer q := rfl
@[simp] theorem State.gang_setBarrier (p : Nat) (v : List Arrival) (q : Nat) : (s.setBarrier p v).gang q = s.gang q := rfl
@[simp] theorem State.pending_setBarrier (p : Nat) (v : List Arrival) : (s.setBarrier p v).pending = s.pending := rfl
@[simp] theorem State.pkt_setBarrier (p : Nat) (v : List Arrival) : (s.setBarrier p v).pkt = s.pkt := rfl
@[simp] theorem State.hostOut_setBarrier (p : Nat) (v : List Arrival) : (s.setBarrier p v).hostOut = s.hostOut := rfl
@[simp] theorem State.fuses_setBarrier (p : Nat) (v : List Arrival) : (s.setBarrier p v).fuses = s.fuses := rfl
@[simp] theorem State.holdLim_setBarrier (p : Nat) (v : List Arrival) : (s.setBarrier p v).holdLim = s.holdLim := rfl
@[simp] theorem State.wdog_setBarrier (p : Nat) (v : List Arrival) : (s.setBarrier p v).wdog = s.wdog := rfl
@[simp] theorem State.cmds_setBarrier (p : Nat) (v : List Arrival) : (s.setBarrier p v).cmds = s.cmds := rfl
@[simp] theorem State.ready_setBarrier (p : Nat) (v : List Arrival) : (s.setBarrier p v).ready = s.ready := rfl
@[simp] theorem State.lead_setBarrier (p : Nat) (v : List Arrival) : (s.setBarrier p v).lead = s.lead := rfl

/-- What a crate that fails does to the state. -/
@[simp] theorem CrateRes.fail_act (f : State → State) (n c : Nat) : (CrateRes.fail f n c).act = f := id rfl

end Sys2Proof.Machine
end

