-- ==== Sys2Proof/Laws/Boot.lean ====
section
/-!
SUPPORT. What the steps of a start and of a module reset leave of the module: its image, its run, its ledger and its fault log
(R536, R590, R624, R625). One lemma per operation.
-/

namespace Sys2Proof.Machine

/-- The fields that the lemmas of this file follow. -/
def State.kept (s : State) := (s.image, s.started, s.ledger, s.mreset, s.pwrgd, s.powered, s.tripped, s.testMode, s.startNo, s.flog, s.refLost, s.fallback)

@[simp] theorem State.kept_eta (s : State) : (s.image, s.started, s.ledger, s.mreset, s.pwrgd, s.powered,
    s.tripped, s.testMode, s.startNo, s.flog, s.refLost, s.fallback) = s.kept := id rfl

theorem foldl_kept {α : Type} (g : State → α → State) (h : ∀ s a, (g s a).kept = s.kept) (l : List α) (s : State) :
    (l.foldl g s).kept = s.kept := foldl_leaves State.kept g h l s

@[simp] theorem State.kept_mk {pending'} {pkt'} {fallback'} {refLost'} {free'} {tiles'} {rooms'} {floors'} {lands'}
    {hatchPhase'} {instant'} {rejoinStop'} {holdAll'} {units'} {unitSets'} {net'} {netWait'} {rrobin'} {mcLeft'}
    {mcOutcome'} {inbox'} {edgeReqs'} {nextTag'} {barriers'} {gangs'} {aborting'} {gear'} {cgear'} {change'}
    {lastTarget'} {spineEvs'} {trims'} {lowRuns'} {gearPended'} {vcore'} {vsram'} {throttled'} {overSince'} {underSince'}
    {restart'} {tripped'} {holdLim'} {wdog'} {limsIn'} {goalsIn'} {flogW'} {flogR'} {flogLost'} {flog'} {modOvf'} {peerSel'} {shadow'}
    {low'} {dies'} {lead'} {cmds'} {silent'} {hostOut'} {readOut'} {smbOut'} {image'} {started'} {runEnded'}
    {moduleNo'} {coords'} {params'} {inv'} {banks'} {bankEdges'} {digests'} {mirrors'} {ledger'} {pipes'} {pstate'} {classes'}
    {voids'} {recIds'} {links'} {ports'} {peers'} {edgeStreams'} {sendRings'} {hangWait'} {benchedDies'}
    {dieFailures'} {testMode'} {fuses'} {powered'} {mreset'} {pwrgd'} {ready'} {resetting'} {boot'} {startWait'}
    {startNo'} {failStep'} {failCode'} {failedLead'} {degraded'} {linksDown'} {portsDown'} {jAon'} {jFlash'}
    {jQueue'} {stairTrained'} {firmware'} {ownerKeys'} {crateKeys'} {nonce'} {msg'} {alertDegraded'} {alertFailed'}
    {alertThrottle'} {throttleSeen'} : (State.mk pending' pkt' fallback' refLost' free' tiles' rooms' floors'
    lands' hatchPhase' instant' rejoinStop' holdAll' units' unitSets' net' netWait' rrobin' mcLeft' mcOutcome'
    inbox' edgeReqs' nextTag' barriers' gangs' aborting' gear' cgear' change' lastTarget' spineEvs' trims' lowRuns' gearPended'
    vcore' vsram' throttled' overSince' underSince' restart' tripped' holdLim' wdog' limsIn' goalsIn' flogW' flogR' flogLost' flog'
    modOvf' peerSel' shadow' low' dies' lead' cmds' silent' hostOut' readOut' smbOut' image' started' runEnded'
    moduleNo' coords' params' inv' banks' bankEdges' digests' mirrors' ledger' pipes' pstate' classes' voids' recIds' links'
    ports' peers' edgeStreams' sendRings' hangWait' benchedDies' dieFailures' testMode' fuses' powered' mreset'
    pwrgd' ready' resetting' boot' startWait' startNo' failStep' failCode' failedLead' degraded' linksDown'
    portsDown' jAon' jFlash' jQueue' stairTrained' firmware' ownerKeys' crateKeys' nonce' msg' alertDegraded'
    alertFailed' alertThrottle' throttleSeen').kept = (image', started', ledger', mreset', pwrgd', powered',
    tripped', testMode', startNo', flog', refLost', fallback') := id rfl

@[simp] theorem State.setTile_kept (s : State) (t : Nat) (v : Tile) : (State.setTile s t v).kept = s.kept := by
    simp [State.setTile]

@[simp] theorem State.setRoom_kept (s : State) (r : Nat) (v : Room) : (State.setRoom s r v).kept = s.kept := by
    simp [State.setRoom]

@[simp] theorem State.setFloor_kept (s : State) (f : Nat) (v : Floor) : (State.setFloor s f v).kept = s.kept := by
    simp [State.setFloor]

@[simp] theorem State.setDie_kept (s : State) (d : Nat) (v : Die) : (State.setDie s d v).kept = s.kept := by simp
    [State.setDie]

@[simp] theorem State.setUnit_kept (s : State) (p : Word) (v : UnitRegs) : (State.setUnit s p v).kept = s.kept :=
    by simp [State.setUnit]

@[simp] theorem State.setInv_kept (s : State) (e : Nat) (v : Inv) : (State.setInv s e v).kept = s.kept := by simp
    [State.setInv]

@[simp] theorem State.setBank_kept (s : State) (i : Nat) (v : Bank) : (State.setBank s i v).kept = s.kept := by
    simp [State.setBank]

@[simp] theorem State.setDigest_kept (s : State) (i : Nat) (v : Digest) : (State.setDigest s i v).kept = s.kept :=
    by simp [State.setDigest]

@[simp] theorem State.setLink_kept (s : State) (i : Nat) (v : Link) : (State.setLink s i v).kept = s.kept := by
    simp [State.setLink]

@[simp] theorem State.event_kept (s : State) (p : Word) (b : Nat) : (State.event s p b).kept = s.kept := by
  unfold State.event; exact foldl_kept _ (fun _ _ => by simp) _ _

@[simp] theorem State.limitAt_kept (s : State) (p : Word) (raise : Bool) : (State.limitAt s p raise).kept = s.kept
    := by
  unfold State.limitAt; split <;> simp

@[simp] theorem State.emit_kept (s : State) (d : Nat) (op : HostOp) : (State.emit s d op).kept = s.kept := by
  unfold State.emit; dsimp only; repeat' split
  all_goals simp

@[simp] theorem State.signal_kept (s : State) (d v : Nat) : (State.signal s d v).kept = s.kept := by
  unfold State.signal; dsimp only; split <;> simp

@[simp] theorem State.writeEntry_kept (s : State) (d i : Nat) (tag status ring : Nat) (opc : Byte) (time : Nat)
    (detail : List Byte) : (State.writeEntry s d i tag status ring opc time detail).kept = s.kept := by
  unfold State.writeEntry; dsimp only; split <;> simp

@[simp] theorem State.reply_kept (s : State) (h : CmdHdr) (opc : Byte) (status : Nat) (detail : List Byte) :
    (State.reply s h opc status detail).kept = s.kept := by
  unfold State.reply; split <;> simp

@[simp] theorem State.finish_kept (s : State) (c : Cmd) (status : Nat) (detail : List Byte) : (State.finish s c
    status detail).kept = s.kept := by
  unfold State.finish; split <;> simp

@[simp] theorem State.finishAll_kept (s : State) (p : Cmd → Bool) (status : Cmd → Nat × List Byte) :
    (State.finishAll s p status).kept = s.kept := by
  unfold State.finishAll; exact foldl_kept _ (fun _ _ => by simp) _ _

@[simp] theorem State.drainNotices_kept (k : Nat) (s : State) (d : Nat) : (State.drainNotices k s d).kept = s.kept
    := by
  induction k generalizing s with
  | zero => rfl
  | succ k ih =>
    unfold State.drainNotices; dsimp only; repeat' split
    all_goals simp [ih]

@[simp] theorem State.noticeOn_kept (s : State) (d code : Nat) (detail : List Byte) : (State.noticeOn s d code
    detail).kept = s.kept := by
  unfold State.noticeOn; dsimp only; repeat' split
  all_goals simp

@[simp] theorem State.notice_kept (s : State) (code : Nat) (detail : List Byte) : (State.notice s code detail).kept
    = s.kept := by
  unfold State.notice; exact foldl_kept _ (fun _ _ => by simp) _ _

@[simp] theorem State.setCrateSet_kept (s : State) (k : SetId) (v : CrateSet) : (State.setCrateSet s k v).kept =
    s.kept := by
  unfold State.setCrateSet; split <;> simp

@[simp] theorem State.setKinds_kept (s : State) (bs : List (Nat × Nat)) (k : Nat) : (State.setKinds s bs k).kept =
    s.kept := by
  unfold State.setKinds; exact foldl_kept _ (fun _ _ => by simp) _ _

@[simp] theorem State.reRequest_kept (s : State) (k : SetId) (crate code attempt : Nat) : (State.reRequest s k
    crate code attempt).kept = s.kept := by simp [State.reRequest]

@[simp] theorem State.putBad_kept (s : State) (k : SetId) : (State.putBad s k).kept = s.kept := by
  unfold State.putBad; split <;> simp

@[simp] theorem State.blockFailed_kept (s : State) (t b : Nat) : (State.blockFailed s t b).kept = s.kept := by
  unfold State.blockFailed; dsimp only; repeat' split
  all_goals simp

@[simp] theorem State.reverify_kept (s : State) (lost : Bool) (t b : Nat) : (State.reverify s lost t b).kept =
    s.kept := by
  unfold State.reverify; dsimp only; repeat' split
  all_goals simp

@[simp] theorem State.journal_kept (s : State) (step : Nat) (u : BootUnit) (alt : Bool) (result : Nat) (fail :
    BitVec 16) (fr : Bool) (attempt : Nat) : (State.journal s step u alt result fail fr attempt).kept = s.kept :=
    by simp [State.journal]

@[simp] theorem State.attempt_kept (s : State) (l : List AttemptRow) (step : Nat) (u : BootUnit) (fr alt : Bool) (n
    : Nat) (check : Option (BitVec 16)) : (State.attempt s l step u fr alt n check).1.kept = s.kept := by
  unfold State.attempt; split <;> simp

@[simp] theorem State.runUnit_kept (s : State) (l : List AttemptRow) (step : Nat) (u : BootUnit) (fr : Bool) (check
    : Bool → Option (BitVec 16)) : (State.runUnit s l step u fr check).1.kept = s.kept := by
  unfold State.runUnit; dsimp only
  have h := State.attempt_kept s l step u fr (s.firstMethod step u) 1 (check (s.firstMethod step u))
  split
  · rename_i e; rw [e] at h; simpa using h
  · rename_i e; rw [e] at h; simpa using h

@[simp] theorem State.rampDown_kept (s : State) (r : Nat) : (State.rampDown s r).kept = s.kept := by simp
    [State.rampDown]

@[simp] theorem State.reverifyFloor_kept (s : State) (f : Nat) : (State.reverifyFloor s f).kept = s.kept := by
  unfold State.reverifyFloor; exact foldl_kept _ (fun _ _ => by simp) _ _

@[simp] theorem State.restoreKinds_kept (s : State) (f : Nat) : (State.restoreKinds s f).kept = s.kept := by
  unfold State.restoreKinds; exact foldl_kept _ (fun _ _ => by simp) _ _

@[simp] theorem State.benchFloor_kept (s : State) (f : Nat) : (State.benchFloor s f).kept = s.kept := by simp
    [State.benchFloor]

@[simp] theorem State.lockPll_kept (s : State) (f : Nat) (alt : Bool) : (State.lockPll s f alt).kept = s.kept := by
    simp [State.lockPll]

@[simp] theorem State.writeVcore_kept (s : State) (g : Nat) : (State.writeVcore s g).kept = s.kept := by
  unfold State.writeVcore; split <;> simp

@[simp] theorem State.refusePkt_kept (s : State) (d : DieId) (i : Fin 8) (p : BitVec 512) : (State.refusePkt s d i
    p).kept = s.kept := by
  unfold State.refusePkt; dsimp only; repeat' split
  all_goals simp

@[simp] theorem State.skipBad_kept (n : Nat) (s : State) (d : DieId) (i : Fin 8) : (State.skipBad n s d i).kept =
    s.kept := by
  induction n generalizing s with
  | zero => rfl
  | succ k ih =>
    unfold State.skipBad; dsimp only; repeat' split
    all_goals simp [ih]

@[simp] theorem State.unseal_kept (s : State) (k : KeyRecords) : (State.unseal s k).kept = s.kept := by simp
    [State.unseal]

@[simp] theorem State.recheckFloor_kept (s : State) (f : Nat) : (State.recheckFloor s f).kept = s.kept := by
  unfold State.recheckFloor; dsimp only; rw [foldl_kept]
  intros; repeat' split
  all_goals simp

@[simp] theorem State.keepModel_kept (s : State) (e : Nat) : (State.keepModel s e).kept = s.kept := by
  unfold State.keepModel; (try dsimp only); repeat' split
  all_goals (first
    | (simp; done)
    | ((try simp)
       rw [foldl_kept]
       all_goals ((try intros); (try dsimp only); repeat' split)
       all_goals (first
         | (simp; done)
         | ((try simp)
            rw [foldl_kept]
            all_goals ((try intros); (try dsimp only); repeat' split)
            all_goals (simp; done)))))

@[simp] theorem State.keepWeights_kept (s : State) : (State.keepWeights s).kept = s.kept := by
  unfold State.keepWeights; (try dsimp only); repeat' split
  all_goals (first
    | (simp; done)
    | ((try simp)
       rw [foldl_kept]
       all_goals ((try intros); (try dsimp only); repeat' split)
       all_goals (first
         | (simp; done)
         | ((try simp)
            rw [foldl_kept]
            all_goals ((try intros); (try dsimp only); repeat' split)
            all_goals (simp; done)))))

@[simp] theorem State.linkLost_kept (s : State) (i : Nat) : (State.linkLost s i).kept = s.kept := by simp
    [State.linkLost]

@[simp] theorem State.commitSvn_kept (s : State) (b : Boot) : (State.commitSvn s b).kept = s.kept := by
  unfold State.commitSvn; dsimp only
  split <;> split <;> first | rfl | simp

@[simp] theorem State.bootReady_kept (s : State) (b : Boot) : (State.bootReady s b).kept = s.kept := by
  unfold State.bootReady; dsimp only
  simp only [State.kept_mk, State.kept_eta, State.writeVcore_kept, State.commitSvn_kept]
  split
  · rfl
  · exact State.keepWeights_kept s

@[simp] theorem State.bootWork_kept (s : State) (b : Boot) (step : Nat) (u : BootUnit) (alt : Bool) :
    (State.bootWork s b step u alt).kept = s.kept := by
  unfold State.bootWork; repeat' split
  all_goals simp

@[simp] theorem State.bootFail_kept (s : State) (step : Nat) (code : BitVec 16) : (State.bootFail s step code).kept
    = s.kept := by simp [State.bootFail]

@[simp] theorem State.benchUnit_kept (s : State) (u : BootUnit) (alt : Bool) : (State.benchUnit s u alt).kept =
    s.kept := by
  unfold State.benchUnit; split <;> simp

@[simp] theorem State.bootSettle_kept (s : State) (b : Boot) (step : Nat) (u : BootUnit) (res : StepRes) (alt :
    Bool) : (State.bootSettle s b step u res alt).1.kept = s.kept := by
  unfold State.bootSettle; repeat' split
  all_goals simp

@[simp] theorem State.bootUnit_kept (s : State) (b : Boot) (step : Nat) (u : BootUnit) : (State.bootUnit s b step
    u).1.kept = s.kept := by
  unfold State.bootUnit; repeat' split
  all_goals simp

@[simp] theorem State.takeJournal_kept (s : State) (b : Boot) (step : Nat) : (State.takeJournal s b step).kept =
    s.kept := by
  unfold State.takeJournal; split <;> simp

@[simp] theorem State.releaseCounters_kept (s : State) : (State.releaseCounters s).kept = s.kept := rfl

@[simp] theorem State.bootRun_kept (s : State) (b : Boot) (l : List (Nat × BootUnit)) : (s.bootRun b l).kept =
    s.kept := by
  induction l generalizing s with
  | nil => rfl
  | cons f l ih =>
    obtain ⟨step, u⟩ := f
    unfold State.bootRun; dsimp only; repeat' split
    all_goals simp [ih]

@[simp] theorem State.bootAfter_kept (r : State × BootGo) (b : Boot) (step : Nat) (u : BootUnit) : (State.bootAfter
    r b step u).kept = r.1.kept := by
  unfold State.bootAfter; dsimp only; repeat' split
  all_goals simp

@[simp] theorem State.interruptAll_kept (s : State) (p : Option Nat) : (State.interruptAll s p).kept = s.kept := by
    simp [State.interruptAll]

end Sys2Proof.Machine
end

