-- ==== Sys2Proof/Laws/Fixed.lean ====
section
/-!
SUPPORT. What no operation of the model touches: the waiting commands, the grade, row, serial, key and stepping fuses
(R640), HOLDLIM and WDOG. One lemma per operation that answers a state, each from the lemmas of the operations it
calls; and `State.Keeps` for the few that write a limit or start the module again.
-/

namespace Sys2Proof.Machine

/-- The fields that the lemmas of this file follow. -/
def State.fixed (s : State) : List Instr × (Fin 3 × List Nat × DWord × BitVec 384 × Byte) × Nat × Nat :=
  (s.pending, (s.fuses.grade, s.fuses.disabled, s.fuses.serial, s.fuses.vkey, s.fuses.stepping), s.holdLim, s.wdog)

@[simp] theorem State.fixed_eta (s : State) : (s.pending, (s.fuses.grade, s.fuses.disabled, s.fuses.serial,
    s.fuses.vkey, s.fuses.stepping), s.holdLim, s.wdog) = s.fixed := id rfl

theorem foldl_fixed {α : Type} (g : State → α → State) (h : ∀ s a, (g s a).fixed = s.fixed) (l : List α) (s : State) :
    (l.foldl g s).fixed = s.fixed := foldl_leaves State.fixed g h l s

@[simp] theorem State.fixed_mk {pending'} {pkt'} {fallback'} {refLost'} {free'} {tiles'} {rooms'} {floors'}
    {lands'} {hatchPhase'} {instant'} {rejoinStop'} {holdAll'} {units'} {unitSets'} {net'} {netWait'} {rrobin'}
    {mcLeft'} {mcOutcome'} {inbox'} {edgeReqs'} {nextTag'} {barriers'} {gangs'} {aborting'} {gear'} {cgear'}
    {change'} {lastTarget'} {spineEvs'} {trims'} {lowRuns'} {gearPended'} {vcore'} {vsram'} {throttled'} {overSince'}
    {underSince'} {restart'} {tripped'} {holdLim'} {wdog'} {limsIn'} {goalsIn'} {flogW'} {flogR'} {flogLost'} {flog'} {modOvf'}
    {peerSel'} {shadow'} {low'} {dies'} {lead'} {cmds'} {silent'} {hostOut'} {readOut'} {smbOut'} {image'}
    {started'} {runEnded'} {moduleNo'} {coords'} {params'} {inv'} {banks'} {bankEdges'} {digests'} {mirrors'} {ledger'}
    {pipes'} {pstate'} {classes'} {voids'} {recIds'} {links'} {ports'} {peers'} {edgeStreams'} {sendRings'}
    {hangWait'} {benchedDies'} {dieFailures'} {testMode'} {fuses'} {powered'} {mreset'} {pwrgd'} {ready'}
    {resetting'} {boot'} {startWait'} {startNo'} {failStep'} {failCode'} {failedLead'} {degraded'} {linksDown'}
    {portsDown'} {jAon'} {jFlash'} {jQueue'} {stairTrained'} {firmware'} {ownerKeys'} {crateKeys'} {nonce'} {msg'}
    {alertDegraded'} {alertFailed'} {alertThrottle'} {throttleSeen'} : (State.mk pending' pkt' fallback' refLost'
    free' tiles' rooms' floors' lands' hatchPhase' instant' rejoinStop' holdAll' units' unitSets' net' netWait'
    rrobin' mcLeft' mcOutcome' inbox' edgeReqs' nextTag' barriers' gangs' aborting' gear' cgear' change'
    lastTarget' spineEvs' trims' lowRuns' gearPended' vcore' vsram' throttled' overSince' underSince' restart' tripped'
    holdLim' wdog' limsIn' goalsIn' flogW' flogR' flogLost' flog' modOvf' peerSel' shadow' low' dies' lead' cmds' silent' hostOut'
    readOut' smbOut' image' started' runEnded' moduleNo' coords' params' inv' banks' bankEdges' digests' mirrors' ledger'
    pipes' pstate' classes' voids' recIds' links' ports' peers' edgeStreams' sendRings' hangWait' benchedDies'
    dieFailures' testMode' fuses' powered' mreset' pwrgd' ready' resetting' boot' startWait' startNo' failStep'
    failCode' failedLead' degraded' linksDown' portsDown' jAon' jFlash' jQueue' stairTrained' firmware' ownerKeys'
    crateKeys' nonce' msg' alertDegraded' alertFailed' alertThrottle' throttleSeen').fixed = (pending',
    (fuses'.grade, fuses'.disabled, fuses'.serial, fuses'.vkey, fuses'.stepping), holdLim', wdog') := id rfl

@[simp] theorem State.setTile_fixed (s : State) (t : Nat) (v : Tile) : (State.setTile s t v).fixed = s.fixed := by
    simp [State.setTile]

@[simp] theorem State.setRoom_fixed (s : State) (r : Nat) (v : Room) : (State.setRoom s r v).fixed = s.fixed := by
    simp [State.setRoom]

@[simp] theorem State.setFloor_fixed (s : State) (f : Nat) (v : Floor) : (State.setFloor s f v).fixed = s.fixed :=
    by simp [State.setFloor]

@[simp] theorem State.setDie_fixed (s : State) (d : Nat) (v : Die) : (State.setDie s d v).fixed = s.fixed := by
    simp [State.setDie]

@[simp] theorem State.setUnit_fixed (s : State) (p : Word) (v : UnitRegs) : (State.setUnit s p v).fixed = s.fixed
    := by simp [State.setUnit]

@[simp] theorem State.setInv_fixed (s : State) (e : Nat) (v : Inv) : (State.setInv s e v).fixed = s.fixed := by
    simp [State.setInv]

@[simp] theorem State.setBank_fixed (s : State) (i : Nat) (v : Bank) : (State.setBank s i v).fixed = s.fixed := by
    simp [State.setBank]

@[simp] theorem State.setDigest_fixed (s : State) (i : Nat) (v : Digest) : (State.setDigest s i v).fixed = s.fixed
    := by simp [State.setDigest]

@[simp] theorem State.setSess_fixed (s : State) (i : Nat) (v : Sess) : (State.setSess s i v).fixed = s.fixed := by
    simp [State.setSess]

@[simp] theorem State.setPipe_fixed (s : State) (p : Nat) (v : Pipe) : (State.setPipe s p v).fixed = s.fixed := by
    simp [State.setPipe]

@[simp] theorem State.setCls_fixed (s : State) (c : Nat) (v : Class) : (State.setCls s c v).fixed = s.fixed := by
    simp [State.setCls]

@[simp] theorem State.setLink_fixed (s : State) (i : Nat) (v : Link) : (State.setLink s i v).fixed = s.fixed := by
    simp [State.setLink]

@[simp] theorem State.setPort_fixed (s : State) (i : Nat) (v : Port) : (State.setPort s i v).fixed = s.fixed := by
    simp [State.setPort]

@[simp] theorem State.setPeer_fixed (s : State) (n : Nat) (v : Peer) : (State.setPeer s n v).fixed = s.fixed := by
    simp [State.setPeer]

@[simp] theorem State.setGang_fixed (s : State) (b : Nat) (v : Gang) : (State.setGang s b v).fixed = s.fixed := by
    simp [State.setGang]

@[simp] theorem State.setBarrier_fixed (s : State) (b : Nat) (v : List Arrival) : (State.setBarrier s b v).fixed =
    s.fixed := by simp [State.setBarrier]

@[simp] theorem State.event_fixed (s : State) (p : Word) (b : Nat) : (State.event s p b).fixed = s.fixed := by
  unfold State.event; exact foldl_fixed _ (fun _ _ => by simp) _ _

@[simp] theorem State.countFault_fixed (s : State) (p : Word) : (State.countFault s p).fixed = s.fixed := by
  unfold State.countFault; dsimp only; split <;> simp

@[simp] theorem State.limitAt_fixed (s : State) (p : Word) (raise : Bool) : (State.limitAt s p raise).fixed =
    s.fixed := by
  unfold State.limitAt; split <;> simp

@[simp] theorem State.emit_fixed (s : State) (d : Nat) (op : HostOp) : (State.emit s d op).fixed = s.fixed := by
  unfold State.emit; dsimp only; repeat' split
  all_goals simp

@[simp] theorem State.emitWrite_fixed (s : State) (d : Nat) (a : DWord) (l : List Byte) : (State.emitWrite s d a
    l).fixed = s.fixed := by
  unfold State.emitWrite; exact foldl_fixed _ (fun s op => State.emit_fixed _ _ _) _ _

@[simp] theorem State.signal_fixed (s : State) (d v : Nat) : (State.signal s d v).fixed = s.fixed := by
  unfold State.signal; dsimp only; split <;> simp

@[simp] theorem State.writeEntry_fixed (s : State) (d i : Nat) (tag status ring : Nat) (opc : Byte) (time : Nat)
    (detail : List Byte) : (State.writeEntry s d i tag status ring opc time detail).fixed = s.fixed := by
  unfold State.writeEntry; dsimp only; split <;> simp

@[simp] theorem State.reply_fixed (s : State) (h : CmdHdr) (opc : Byte) (status : Nat) (detail : List Byte) :
    (State.reply s h opc status detail).fixed = s.fixed := by
  unfold State.reply; split <;> simp

@[simp] theorem State.finish_fixed (s : State) (c : Cmd) (status : Nat) (detail : List Byte) : (State.finish s c
    status detail).fixed = s.fixed := by
  unfold State.finish; split <;> simp

@[simp] theorem State.finishAll_fixed (s : State) (p : Cmd → Bool) (status : Cmd → Nat × List Byte) :
    (State.finishAll s p status).fixed = s.fixed := by
  unfold State.finishAll; exact foldl_fixed _ (fun _ _ => by simp) _ _

@[simp] theorem State.endLoad_fixed (s : State) (cause : Byte) : (State.endLoad s cause).fixed = s.fixed := by simp
    [State.endLoad]

@[simp] theorem State.drainNotices_fixed (k : Nat) (s : State) (d : Nat) : (State.drainNotices k s d).fixed =
    s.fixed := by
  induction k generalizing s with
  | zero => rfl
  | succ k ih =>
    unfold State.drainNotices; dsimp only; repeat' split
    all_goals simp [ih]

@[simp] theorem State.noticeOn_fixed (s : State) (d code : Nat) (detail : List Byte) : (State.noticeOn s d code
    detail).fixed = s.fixed := by
  unfold State.noticeOn; dsimp only; repeat' split
  all_goals simp

@[simp] theorem State.notice_fixed (s : State) (code : Nat) (detail : List Byte) : (State.notice s code
    detail).fixed = s.fixed := by
  unfold State.notice; exact foldl_fixed _ (fun _ _ => by simp) _ _

@[simp] theorem State.bumpDie_fixed (s : State) (d bit : Nat) : (State.bumpDie s d bit).fixed = s.fixed := by
  unfold State.bumpDie; split <;> simp

@[simp] theorem State.record_fixed (s : State) (r : FaultRec) : (State.record s r).fixed = s.fixed := by simp
    [State.record]

@[simp] theorem State.putTile_fixed (s : State) (t : Nat) (v : Tile) : (State.putTile s t v).fixed = s.fixed := by
  unfold State.putTile; dsimp only
  rw [foldl_fixed _ (fun s i => State.limitAt_fixed _ _ _)]; simp

@[simp] theorem State.abortTile_fixed (s : State) (t : Nat) : (State.abortTile s t).fixed = s.fixed := by simp
    [State.abortTile]

@[simp] theorem State.tileFaults_fixed (s : State) (t act : Nat) (fs : List TFault) : (State.tileFaults s t act
    fs).fixed = s.fixed := by
  unfold State.tileFaults; split <;> simp

@[simp] theorem State.setBuf_fixed (s : State) (k : Nat) (l : List Packet) : (State.setBuf s k l).fixed = s.fixed
    := by simp [State.setBuf]

@[simp] theorem State.setWait_fixed (s : State) (k : Nat) (l : List Packet) : (State.setWait s k l).fixed = s.fixed
    := by simp [State.setWait]

@[simp] theorem State.openComb_fixed (s : State) (f : Nat) (p : Packet) : ((s.openComb f p).getD s).fixed = s.fixed
    := by
  unfold State.openComb; dsimp only; repeat' split
  all_goals simp

@[simp] theorem State.refill_fixed (n : Nat) (s : State) (k : Nat) : (State.refill n s k).fixed = s.fixed := by
  match n with
  | 0 => rfl
  | n + 1 =>
    have later := fun r => State.refill_fixed n r k
    unfold State.refill; repeat' split
    any_goals rfl
    rename_i next opened
    have same := State.openComb_fixed s (tileFloor (k / 20)) ‹Packet›
    rw [opened] at same
    rw [later]; simpa using same

@[simp] theorem State.putAt_fixed (s : State) (k : Nat) (p : Packet) : (State.putAt s k p).fixed = s.fixed := by
  simp [State.putAt]

@[simp] theorem State.popBuf_fixed (s : State) (k : Nat) : (State.popBuf s k).fixed = s.fixed := by
  simp [State.popBuf]

@[simp] theorem State.inject_fixed (s : State) (t : Nat) (p : Packet) : (State.inject s t p).fixed = s.fixed := by
    simp [State.inject]

@[simp] theorem State.edgeAnswer_fixed (s : State) (d f : Nat) (p : Packet) : (State.edgeAnswer s d f p).fixed =
    s.fixed := by simp [State.edgeAnswer]

@[simp] theorem State.dieInject_fixed (s : State) (d : Nat) (p : Packet) : (State.dieInject s d p).fixed = s.fixed
    := by
  unfold State.dieInject; dsimp only; repeat' split
  all_goals simp

@[simp] theorem State.bridgeAnswer_fixed (s : State) (t d g sub : Nat) (p : Packet) (k : PktKind) :
    (State.bridgeAnswer s t d g sub p k).fixed = s.fixed := by
  unfold State.bridgeAnswer; split <;> simp

@[simp] theorem State.ejectAt_fixed (s : State) (t : Nat) (p : Packet) : (State.ejectAt s t p).fixed = s.fixed :=
    by simp [State.ejectAt]

@[simp] theorem State.headerFault_fixed (s : State) (t port chan : Nat) (p : Packet) : (State.headerFault s t port
    chan p).fixed = s.fixed := by simp [State.headerFault]

@[simp] theorem State.served_fixed (s : State) (t out inp : Nat) : (State.served s t out inp).fixed = s.fixed := by
    simp [State.served]

@[simp] theorem State.routeUni_fixed (s : State) (t inp chan : Nat) (p : Packet) : (State.routeUni s t inp chan
    p).fixed = s.fixed := by
  unfold State.routeUni; dsimp only; repeat' split
  all_goals simp

@[simp] theorem State.mcLeg_fixed (s : State) (t inp chan : Nat) (p : Packet) (m : Multicast) (leg : Bool) (done :
    List Nat) (d : Nat) : (State.mcLeg s t inp chan p m leg done d).1.fixed = s.fixed := by
  unfold State.mcLeg; dsimp only; repeat' split
  any_goals simp
  all_goals exact foldl_fixed _ (fun s a => by simp) _ _

@[simp] theorem State.routeMulti_fixed (s : State) (t inp chan : Nat) (p : Packet) (m : Multicast) :
    (State.routeMulti s t inp chan p m).fixed = s.fixed := by
  have legs : ∀ (l : List Nat) (leg : Bool) (a : State × List Nat),
      (l.foldl (fun (a : State × List Nat) d => State.mcLeg a.1 t inp chan p m leg a.2 d) a).1.fixed = a.1.fixed := fun l leg a =>
    List.foldlRecOn l _ (motive := fun (b : State × List Nat) => b.1.fixed = a.1.fixed) rfl
      fun b same d _ => (State.mcLeg_fixed b.1 t inp chan p m leg b.2 d).trans same
  unfold State.routeMulti; dsimp only; split <;> simp [legs]

@[simp] theorem State.routePacket_fixed (s : State) (t inp chan : Nat) : (State.routePacket s t inp chan).fixed =
    s.fixed := by
  unfold State.routePacket; dsimp only; repeat' split
  all_goals simp

@[simp] theorem State.refuse_fixed (s : State) (t : Nat) (p : Packet) (cellar wr : Bool) (a n code fsub : Nat)
    (abort : Bool) : (State.refuse s t p cellar wr a n code fsub abort).fixed = s.fixed := by
  unfold State.refuse; dsimp only; repeat' split
  all_goals simp

@[simp] theorem State.setArrival_fixed (s : State) (t : Nat) (p : Packet) : (State.setArrival s t p).fixed =
    s.fixed := by
  unfold State.setArrival; dsimp only; repeat' split
  all_goals simp

@[simp] theorem State.sendReply_fixed (s : State) (t : Nat) (req rep : Packet) : (State.sendReply s t req
    rep).fixed = s.fixed := by
  unfold State.sendReply; split <;> simp

@[simp] theorem State.apply_fixed (s : State) (t : Nat) (p : Packet) : (s.apply t p).s.fixed = s.fixed := by
  unfold State.apply; dsimp only; repeat' split
  all_goals simp

@[simp] theorem State.applyReply_fixed (s : State) (t : Nat) (p : Packet) : (State.applyReply s t p).fixed =
    s.fixed := by
  unfold State.applyReply; dsimp only; split <;> simp

@[simp] theorem State.flaggedArrive_fixed (s : State) (t : Nat) (p : Packet) : (State.flaggedArrive s t p).fixed =
    s.fixed := by
  unfold State.flaggedArrive; dsimp only; split <;> simp

@[simp] theorem State.streamArrive_fixed (s : State) (t : Nat) (p : Packet) (c : Nat) : (State.streamArrive s t p
    c).fixed = s.fixed := by
  unfold State.streamArrive; dsimp only; repeat' split
  all_goals simp

@[simp] theorem State.orderedArrive_fixed (s : State) (t : Nat) (p : Packet) : (State.orderedArrive s t p).fixed =
    s.fixed := by
  unfold State.orderedArrive; dsimp only; repeat' split
  all_goals simp

@[simp] theorem State.requestAt_fixed (s : State) (t : Nat) (p : Packet) : (State.requestAt s t p).fixed = s.fixed
    := by
  unfold State.requestAt; split <;> simp

@[simp] theorem State.takeEject_fixed (s : State) (t : Nat) (p : Packet) : (State.takeEject s t p).fixed = s.fixed
    := by
  unfold State.takeEject; dsimp only; split <;> simp

@[simp] theorem State.takeInbox_fixed (s : State) (d : DieId) (p : Packet) : (State.takeInbox s d p).fixed =
    s.fixed := by
  unfold State.takeInbox; split <;> simp

@[simp] theorem State.tileAbort_fixed (s : State) (t code sub : Nat) (pc : Option Nat) (det : List Byte) :
    (State.tileAbort s t code sub pc det).fixed = s.fixed := by
  unfold State.tileAbort; split <;> simp

@[simp] theorem State.haulSend_fixed (s : State) (t : Nat) (h : HaulSend) : (State.haulSend s t h).fixed = s.fixed
    := by
  unfold State.haulSend; dsimp only; repeat' split
  all_goals simp

@[simp] theorem State.releaseStream_fixed (s : State) (t str : Nat) : (State.releaseStream s t str).fixed = s.fixed
    := by
  unfold State.releaseStream; dsimp only; rw [foldl_fixed]
  · simp
  · intros; repeat' split
    all_goals simp

@[simp] theorem State.freeReq_fixed (s : State) (t : Nat) (p : Packet) (r : Req) : (State.freeReq s t p r).fixed =
    s.fixed := by simp [State.freeReq]

@[simp] theorem State.tileAck_fixed (s : State) (t : Nat) (p : Packet) : (State.tileAck s t p).fixed = s.fixed := by
  unfold State.tileAck; repeat' split
  all_goals simp

@[simp] theorem State.tileData_fixed (s : State) (t : Nat) (p : Packet) : (State.tileData s t p).fixed = s.fixed := by
  unfold State.tileData; dsimp only; repeat' split
  all_goals simp

@[simp] theorem State.tileBounce_fixed (s : State) (t : Nat) (p : Packet) : (State.tileBounce s t p).fixed =
    s.fixed := by
  unfold State.tileBounce; split <;> simp

@[simp] theorem State.resend_fixed (s : State) (t e : Nat) : (State.resend s t e).fixed = s.fixed := by
  unfold State.resend; dsimp only; repeat' split
  all_goals simp

@[simp] theorem State.tileRefused_fixed (s : State) (t : Nat) (p : Packet) : (State.tileRefused s t p).fixed =
    s.fixed := by
  unfold State.tileRefused; split <;> simp

@[simp] theorem State.tileFenced_fixed (s : State) (t : Nat) (p : Packet) : (State.tileFenced s t p).fixed =
    s.fixed := by
  unfold State.tileFenced; split <;> simp

@[simp] theorem State.tileReplyLimit_fixed (s : State) (t e : Nat) : (State.tileReplyLimit s t e).fixed = s.fixed
    := by
  unfold State.tileReplyLimit; repeat' split
  all_goals simp

@[simp] theorem State.zeroAt_fixed (s : State) (t : Nat) (p : Packet) : (State.zeroAt s t p).fixed = s.fixed := by
  unfold State.zeroAt; dsimp only; repeat' split
  all_goals simp

@[simp] theorem State.zeroDoneAt_fixed (s : State) (t : Nat) : (State.zeroDoneAt s t).fixed = s.fixed := by
  unfold State.zeroDoneAt; dsimp only; repeat' split
  all_goals simp

@[simp] theorem State.cellarReadAt_fixed (s : State) (t : Nat) (p : Packet) : (State.cellarReadAt s t p).fixed =
    s.fixed := by
  unfold State.cellarReadAt; dsimp only; repeat' split
  all_goals simp

@[simp] theorem State.setEdgeReq_fixed (s : State) (r : EdgeReq) : (State.setEdgeReq s r).fixed = s.fixed := by
    simp [State.setEdgeReq]

@[simp] theorem State.dieSend_fixed (s : State) (d : DieId) (k : PktKind) (u : Unicast) (len : Nat) (payload : List
    Byte) (why : Purpose) : (State.dieSend s d k u len payload why).fixed = s.fixed := by simp [State.dieSend]

@[simp] theorem State.dieSendMulti_fixed (s : State) (d : DieId) (k : PktKind) (m : Multicast) (len : Nat) (payload
    : List Byte) (why : Purpose) (only : List Nat) : (State.dieSendMulti s d k m len payload why only).1.fixed =
    s.fixed := by
  unfold State.dieSendMulti; dsimp only; repeat' split
  all_goals simp

@[simp] theorem State.combine_fixed (s : State) (f : Nat) (p : Packet) : (State.combine s f p).fixed = s.fixed := by
  unfold State.combine; dsimp only; repeat' split
  all_goals simp

@[simp] theorem State.addRefs_fixed (s : State) (up : Bool) (es : List Nat) : (State.addRefs s up es).fixed =
    s.fixed := by
  unfold State.addRefs; exact foldl_fixed _ (fun _ _ => by simp) _ _

@[simp] theorem State.bankKind_fixed (s : State) (i k : Nat) : (State.bankKind s i k).fixed = s.fixed := by
  unfold State.bankKind; exact foldl_fixed _ (fun _ _ => by simp) _ _

@[simp] theorem State.clearBankDigests_fixed (s : State) (i : Nat) : (State.clearBankDigests s i).fixed = s.fixed
    := by
  unfold State.clearBankDigests; exact foldl_fixed _ (fun _ _ => by simp) _ _

@[simp] theorem State.abandonCrates_fixed (s : State) (adapter : Bool) (i : Nat) : (State.abandonCrates s adapter
    i).fixed = s.fixed := by simp [State.abandonCrates]

@[simp] theorem State.zeroBank_fixed (s : State) (i : Nat) : (State.zeroBank s i).fixed = s.fixed := by simp
    [State.zeroBank]

@[simp] theorem State.retireBank_fixed (s : State) (i : Nat) : (State.retireBank s i).fixed = s.fixed := by
  unfold State.retireBank; dsimp only; split <;> simp

@[simp] theorem State.markEdge_fixed (s : State) (slot : Nat) : (State.markEdge s slot).fixed = s.fixed := by
  unfold State.markEdge; split <;> simp

@[simp] theorem State.keepBank_fixed (s : State) (slot b : Nat) : (State.keepBank s slot b).fixed = s.fixed := by
  unfold State.keepBank; (try dsimp only); repeat' split
  all_goals (first
    | (simp; done)
    | ((try simp)
       rw [foldl_fixed]
       all_goals ((try intros); (try dsimp only); repeat' split)
       all_goals (first
         | (simp; done)
         | ((try simp)
            rw [foldl_fixed]
            all_goals ((try intros); (try dsimp only); repeat' split)
            all_goals (simp; done)))))

@[simp] theorem State.admitTurn_fixed (s : State) (i : Nat) : (State.admitTurn s i).fixed = s.fixed := by
  unfold State.admitTurn; dsimp only
  rw [foldl_fixed _ (fun s m => by split <;> simp)]
  repeat' split
  all_goals simp

@[simp] theorem State.beginTurn_fixed (s : State) (i : Nat) : (State.beginTurn s i).fixed = s.fixed := by simp
    [State.beginTurn]

@[simp] theorem State.pinModels_fixed (s : State) (i : Nat) : (State.pinModels s i).fixed = s.fixed := by simp
    [State.pinModels]

@[simp] theorem State.unpin_fixed (s : State) (slot : Nat) (pin : Option Nat) : (State.unpin s slot pin).fixed =
    s.fixed := by
  unfold State.unpin; dsimp only; repeat' split
  all_goals simp

@[simp] theorem State.dropNext_fixed (s : State) (i : Nat) : (State.dropNext s i).fixed = s.fixed := by simp
    [State.dropNext]

@[simp] theorem State.endRequest_fixed (s : State) (i : Nat) : (State.endRequest s i).fixed = s.fixed := by simp
    [State.endRequest]

@[simp] theorem State.endTurn_fixed (s : State) (i : Nat) : (State.endTurn s i).fixed = s.fixed := by
  unfold State.endTurn; dsimp only; repeat' split
  all_goals simp

@[simp] theorem State.measure_fixed (s : State) (c m v : Nat) : (State.measure s c m v).fixed = s.fixed := by
  unfold State.measure; dsimp only; repeat' split
  all_goals simp

@[simp] theorem State.recordTtft_fixed (s : State) (i : Nat) : (State.recordTtft s i).fixed = s.fixed := by simp
    [State.recordTtft]

@[simp] theorem State.hostWrote_fixed (s : State) (i kind bytes : Nat) : (State.hostWrote s i kind bytes).fixed =
    s.fixed := by
  unfold State.hostWrote; dsimp only; repeat' split
  all_goals simp

@[simp] theorem State.dieWrite_fixed (s : State) (d t line : Nat) (bytes : List Byte) (poi : List Nat) (org : Option
    Origin) : (State.dieWrite s d t line bytes poi org).1.fixed = s.fixed := by
  unfold State.dieWrite; dsimp only; repeat' split
  all_goals simp

@[simp] theorem State.writeLost_fixed (s : State) (d : Nat) : (State.writeLost s d).fixed = s.fixed := by
  unfold State.writeLost; split
  · rfl
  · rw [foldl_fixed _ (fun s q => by dsimp only; split <;> simp)]; simp

@[simp] theorem State.dieRead_fixed (s : State) (d t line : Nat) : (State.dieRead s d t line).1.fixed = s.fixed := by
  unfold State.dieRead; dsimp only; repeat' split
  all_goals simp

@[simp] theorem State.pumpInput_fixed (k : Nat) (s : State) (d : Nat) : (State.pumpInput k s d).fixed = s.fixed := by
  induction k generalizing s with
  | zero => rfl
  | succ k ih =>
    unfold State.pumpInput; dsimp only; repeat' split
    all_goals simp [ih]

@[simp] theorem State.putRecord_fixed (s : State) (i pos kind rows : Nat) (payload : List Byte) (poi : Bool) :
    (State.putRecord s i pos kind rows payload poi).1.fixed = s.fixed := by
  unfold State.putRecord; dsimp only; split <;> simp

@[simp] theorem State.rollback_fixed (s : State) (i : Nat) : (State.rollback s i).fixed = s.fixed := by
  unfold State.rollback; split <;> simp

@[simp] theorem State.freeSession_fixed (s : State) (i : Nat) : (State.freeSession s i).fixed = s.fixed := by simp
    [State.freeSession]

@[simp] theorem State.assignChoice_fixed (s : State) (home : Nat) (last : Option Cand) (left : List Cand) :
    (State.assignChoice s home last left).fixed = s.fixed := by
  unfold State.assignChoice; repeat' split
  all_goals simp

@[simp] theorem State.sendTable_fixed (s : State) (r : PipeRec) (k : Nat) (m : Multicast) (only : List Nat) :
    (State.sendTable s r k m only).fixed = s.fixed := by simp [State.sendTable]

@[simp] theorem State.boundary_fixed (s : State) (r : PipeRec) : (State.boundary s r).fixed = s.fixed := by
  unfold State.boundary; (try dsimp only); repeat' split
  all_goals (first
    | (simp; done)
    | ((try simp)
       rw [foldl_fixed]
       all_goals ((try intros); (try dsimp only); repeat' split)
       all_goals (first
         | (simp; done)
         | ((try simp)
            rw [foldl_fixed]
            all_goals ((try intros); (try dsimp only); repeat' split)
            all_goals (simp; done)))))

@[simp] theorem State.formVoid_fixed (s : State) (i p : Nat) : (State.formVoid s i p).fixed = s.fixed := by
  unfold State.formVoid; dsimp only; split <;> simp

@[simp] theorem State.formVoids_fixed (s : State) (i : Nat) : (State.formVoids s i).fixed = s.fixed := by
  unfold State.formVoids; exact foldl_fixed _ (fun _ _ => by simp) _ _

@[simp] theorem State.releaseVoids_fixed (s : State) (p : Nat) : (State.releaseVoids s p).fixed = s.fixed := by
  unfold State.releaseVoids; split <;> simp

@[simp] theorem State.cancelDone_fixed (s : State) (i : Nat) (status : Nat) : (State.cancelDone s i status).fixed =
    s.fixed := by simp [State.cancelDone]

@[simp] theorem State.tryCancel_fixed (s : State) (i : Nat) : (State.tryCancel s i).fixed = s.fixed := by
  unfold State.tryCancel; dsimp only; split <;> simp

@[simp] theorem State.beginCancel_fixed (s : State) (i : Nat) : (State.beginCancel s i).fixed = s.fixed := by simp
    [State.beginCancel]

@[simp] theorem State.countSpec_fixed (s : State) (p : Nat) (ns : List Nat) : (State.countSpec s p ns).fixed =
    s.fixed := by simp [State.countSpec]

@[simp] theorem State.applySlot_fixed (s : State) (p : Nat) (x : SlotEnt) (b : Byte) : (State.applySlot s p x
    b).fixed = s.fixed := by
  unfold State.applySlot; dsimp only; repeat' split
  all_goals simp

@[simp] theorem State.applyPressEnt_fixed (s : State) (p : Nat) (also : Bool) (x : PressEnt) (b : Byte) :
    (State.applyPressEnt s p also x b).fixed = s.fixed := by
  unfold State.applyPressEnt; dsimp only; repeat' split
  all_goals simp

@[simp] theorem State.reportFault_fixed (s : State) (r : PipeRec) (sub : Nat) (l : List Byte) (off : Nat) :
    (State.reportFault s r sub l off).fixed = s.fixed := by simp [State.reportFault]

@[simp] theorem State.report_fixed (s : State) (r : PipeRec) (l : List Byte) : (State.report s r l).fixed = s.fixed
    := by
  unfold State.report; dsimp only; repeat' split
  all_goals first
    | (simp; done)
    | skip
  all_goals
    simp only [State.boundary_fixed]
    rw [foldl_fixed _ (fun s a => by simp)]
    simp only [State.setPipe_fixed]
    rw [foldl_fixed, foldl_fixed]
    · intro s a; repeat' split
      all_goals simp
    · intro s a; repeat' split
      all_goals simp

@[simp] theorem State.deliverAt_fixed (s : State) (t : Nat) (p : Packet) : (State.deliverAt s t p).fixed = s.fixed
    := by
  unfold State.deliverAt; dsimp only; split <;> simp

@[simp] theorem State.tableReply_fixed (s : State) (p k f refusals : Nat) (dropped : Bool) : (State.tableReply s p
    k f refusals dropped).fixed = s.fixed := by
  unfold State.tableReply; split <;> simp

@[simp] theorem State.edgeFloor_fixed (s : State) (r : EdgeReq) (f refusals : Nat) (dropped : Bool) :
    (State.edgeFloor s r f refusals dropped).fixed = s.fixed := by
  unfold State.edgeFloor; dsimp only; repeat' split
  all_goals simp

@[simp] theorem State.resendTable_fixed (s : State) (p f : Nat) : (State.resendTable s p f).fixed = s.fixed := by
  unfold State.resendTable; (try dsimp only); repeat' split
  all_goals (first
    | (simp; done)
    | ((try simp)
       rw [foldl_fixed]
       all_goals ((try intros); (try dsimp only); repeat' split)
       all_goals (first
         | (simp; done)
         | ((try simp)
            rw [foldl_fixed]
            all_goals ((try intros); (try dsimp only); repeat' split)
            all_goals (simp; done)))))

theorem State.hostOutput_fixed (s : State) (i kind : Nat) (gen : Byte) (payload : List Byte) (s' : State)
    (e : s.hostOutput i kind gen payload = some s') : s'.fixed = s.fixed := by
  unfold State.hostOutput at e; dsimp only at e
  split at e
  · cases e
  · cases e
    simp only [State.signal_fixed, State.emit_fixed]
    rw [foldl_fixed]
    · simp
    · intros; simp

theorem State.outputRecord_fixed (s : State) (r : PipeRec) (l : List Byte) (poi : Bool) (s' : State)
    (e : s.outputRecord r l poi = some s') : s'.fixed = s.fixed := by
  unfold State.outputRecord at e; dsimp only at e
  repeat' split at e
  all_goals first
    | (cases e; done)
    | (cases e; simp; done)
    | (cases e; rename_i h _; have := State.hostOutput_fixed _ _ _ _ _ _ h; simp [this]; done)
    | (cases e; rename_i h; have := State.hostOutput_fixed _ _ _ _ _ _ h; simp [this]; done)
    | (rw [Option.map_eq_some_iff] at e; obtain ⟨a, h, rfl⟩ := e; have := State.hostOutput_fixed _ _ _ _ _ _ h; simp [this]; done)

@[simp] theorem State.readOutput_fixed (k : Nat) (s : State) (r : PipeRec) : (State.readOutput k s r).fixed =
    s.fixed := by
  induction k generalizing s with
  | zero => rfl
  | succ k ih =>
    unfold State.readOutput; dsimp only; repeat' split
    all_goals first
      | (simp [ih]; done)
      | (rename_i h; have := State.outputRecord_fixed _ _ _ _ _ h; simp [this])

@[simp] theorem State.setCrateSet_fixed (s : State) (k : SetId) (v : CrateSet) : (State.setCrateSet s k v).fixed =
    s.fixed := by
  unfold State.setCrateSet; split <;> simp

@[simp] theorem State.setKinds_fixed (s : State) (bs : List (Nat × Nat)) (k : Nat) : (State.setKinds s bs k).fixed
    = s.fixed := by
  unfold State.setKinds; exact foldl_fixed _ (fun _ _ => by simp) _ _

@[simp] theorem State.zeroBlocks_fixed (s : State) (bs : List (Nat × Nat)) : (s.zeroBlocks bs).fixed = s.fixed := by
  unfold State.zeroBlocks
  rw [foldl_fixed]
  intro s q; exact State.setTile_fixed _ _ _

@[simp] theorem State.reRequest_fixed (s : State) (k : SetId) (crate code attempt : Nat) : (State.reRequest s k
    crate code attempt).fixed = s.fixed := by simp [State.reRequest]

@[simp] theorem State.finishSet_fixed (s : State) (k : SetId) (status : Nat) (detail : List Byte) :
    (State.finishSet s k status detail).fixed = s.fixed := by simp [State.finishSet]

@[simp] theorem State.failSet_fixed (s : State) (k : SetId) (crate code : Nat) : (State.failSet s k crate
    code).fixed = s.fixed := by
  unfold State.failSet; split <;> simp

@[simp] theorem State.retryCrate_fixed (s : State) (k : SetId) (crate code : Nat) : (State.retryCrate s k crate
    code).fixed = s.fixed := by
  unfold State.retryCrate; dsimp only; split <;> simp

@[simp] theorem State.bankCurrent_fixed (s : State) (i : Nat) : (State.bankCurrent s i).fixed = s.fixed := by
  unfold State.bankCurrent; dsimp only; repeat' split
  all_goals simp

@[simp] theorem State.completeSet_fixed (s : State) (k : SetId) : (State.completeSet s k).fixed = s.fixed := by
  unfold State.completeSet; split <;> simp

@[simp] theorem State.setDigests_fixed (s : State) (k : SetId) (slice : Nat) (crc : DWord) : (State.setDigests s k
    slice crc).fixed = s.fixed := by
  unfold State.setDigests; dsimp only; rw [foldl_fixed]
  intros; repeat' split
  all_goals simp

@[simp] theorem State.putBad_fixed (s : State) (k : SetId) : (State.putBad s k).fixed = s.fixed := by
  unfold State.putBad; split <;> simp

@[simp] theorem State.afterCrate_fixed (s : State) (k : SetId) : (State.afterCrate s k).fixed = s.fixed := by
  unfold State.afterCrate; (try dsimp only); repeat' split
  all_goals (first
    | (simp; done)
    | ((try simp)
       rw [foldl_fixed]
       all_goals ((try intros); (try dsimp only); repeat' split)
       all_goals (first
         | (simp; done)
         | ((try simp)
            rw [foldl_fixed]
            all_goals ((try intros); (try dsimp only); repeat' split)
            all_goals (simp; done)))))

@[simp] theorem State.acceptCrate_fixed (s : State) (k : SetId) (number : Nat) (m : Manifest) (slices : List Nat) :
    (State.acceptCrate s k number m slices).fixed = s.fixed := by
  unfold State.acceptCrate; (try dsimp only); repeat' split
  all_goals (first
    | (simp; done)
    | ((try simp)
       rw [foldl_fixed]
       all_goals ((try intros); (try dsimp only); repeat' split)
       all_goals (first
         | (simp; done)
         | ((try simp)
            rw [foldl_fixed]
            all_goals ((try intros); (try dsimp only); repeat' split)
            all_goals (simp; done)))))

@[simp] theorem State.writeSlices_fixed (s : State) (ws : List (Nat × Nat × List Byte)) (blocks : List (Nat × Nat ×
    Nat)) : (State.writeSlices s ws blocks).fixed = s.fixed := by
  unfold State.writeSlices; exact foldl_fixed _ (fun _ _ => by split <;> simp) _ _

@[simp] theorem State.unpackManifest_fixed (s : State) (k : SetId) (v : CrateSet) (h : CrateHdr) (crate : List
    Byte) (r : State) :
    ((s.unpackManifest k v h crate).act r).fixed = r.fixed := by
  unfold State.unpackManifest; dsimp only; repeat' split
  all_goals (first | (simp; done) | (dsimp only; split <;> simp))

@[simp] theorem State.unpackData_fixed (s : State) (k : SetId) (v : CrateSet) (m : Manifest) (h : CrateHdr)
    (crate : List Byte) (r : State) : ((s.unpackData k v m h crate).act r).fixed = r.fixed := by
  unfold State.unpackData; dsimp only; repeat' split
  all_goals simp

theorem State.crateEarly_fixed (s : State) (minor clen : Nat) (busy : Bool) (l : List Byte) (x : CrateRes)
    (e : s.crateEarly minor clen busy l = some x) (r : State) : (x.act r).fixed = r.fixed := by
  unfold State.crateEarly at e; dsimp only at e
  repeat' split at e
  all_goals first | (cases e; done) | (cases e; simp; done) | (cases e; rfl)

theorem State.crateStream_fixed (s : State) (k : SetId) (l : List Byte) (x : CrateRes) (e : s.crateStream k l = some x)
    (r : State) : (x.act r).fixed = r.fixed := by
  unfold State.crateStream at e; dsimp only at e
  repeat' split at e
  all_goals first | (cases e; done) | (cases e; simp; done) | (cases e; rfl)

theorem State.unpackCrate_fixed (s : State) (minor clen : Nat) (busy : Bool) (crate : List Byte) (x : CrateRes)
    (e : s.unpackCrate minor clen busy crate = some x) (r : State) : (x.act r).fixed = r.fixed := by
  unfold State.unpackCrate at e; dsimp only at e
  split at e
  · cases e; exact State.crateEarly_fixed _ _ _ _ _ _ ‹_› r
  · cases e; simp
  · split at e
    · cases e; exact State.crateStream_fixed _ _ _ _ ‹_› r
    · repeat' split at e
      · cases e
      · cases e; simp
      · simp only [Option.map_eq_some_iff] at e
        obtain ⟨m, -, rfl⟩ := e; simp

@[simp] theorem State.unpackStep_fixed (s : State) (d : Nat) : (State.unpackStep s d).1.fixed = s.fixed := by
  unfold State.unpackStep; dsimp only; repeat' split
  any_goals simp
  rename_i found
  rw [State.unpackCrate_fixed _ _ _ _ _ _ found]; simp

@[simp] theorem State.unpack_fixed (n : Nat) (s : State) (d : Nat) : (State.unpack n s d).fixed = s.fixed := by
  induction n generalizing s with
  | zero => rfl
  | succ n later => unfold State.unpack; dsimp only; split <;> simp [later]

@[simp] theorem State.unpackAll_fixed (s : State) : (State.unpackAll s).fixed = s.fixed := by
  unfold State.unpackAll; exact foldl_fixed _ (fun s d => State.unpack_fixed _ _ _) _ _

@[simp] theorem State.crateBytes_fixed (s : State) (h : CmdHdr) (l : List Byte) : (State.crateBytes s h l).fixed =
    s.fixed := by
  simp [State.crateBytes]

@[simp] theorem State.arrivalTimeout_fixed (s : State) (k : SetId) : (State.arrivalTimeout s k).fixed = s.fixed := by
  unfold State.arrivalTimeout; (try dsimp only); repeat' split
  all_goals (first
    | (simp; done)
    | ((try simp)
       rw [foldl_fixed]
       all_goals ((try intros); (try dsimp only); repeat' split)
       all_goals (first
         | (simp; done)
         | ((try simp)
            rw [foldl_fixed]
            all_goals ((try intros); (try dsimp only); repeat' split)
            all_goals (simp; done)))))

@[simp] theorem State.blockFailed_fixed (s : State) (t b : Nat) : (State.blockFailed s t b).fixed = s.fixed := by
  unfold State.blockFailed; dsimp only; repeat' split
  all_goals simp

@[simp] theorem State.reverify_fixed (s : State) (lost : Bool) (t b : Nat) : (State.reverify s lost t b).fixed =
    s.fixed := by
  unfold State.reverify; dsimp only; repeat' split
  all_goals simp

@[simp] theorem State.beginLoad_fixed (s : State) (e : Nat) (ident : DWord) (place : List (Nat × Nat × Nat)) :
    (State.beginLoad s e ident place).fixed = s.fixed := by
  unfold State.beginLoad; (try dsimp only); repeat' split
  all_goals (first
    | (simp; done)
    | ((try simp)
       rw [foldl_fixed]
       all_goals ((try intros); (try dsimp only); repeat' split)
       all_goals (first
         | (simp; done)
         | ((try simp)
            rw [foldl_fixed]
            all_goals ((try intros); (try dsimp only); repeat' split)
            all_goals (simp; done)))))

@[simp] theorem State.endEvict_fixed (s : State) (e : Nat) : (State.endEvict s e).fixed = s.fixed := by
  unfold State.endEvict; (try dsimp only); repeat' split
  all_goals (first
    | (simp; done)
    | ((try simp)
       rw [foldl_fixed]
       all_goals ((try intros); (try dsimp only); repeat' split)
       all_goals (first
         | (simp; done)
         | ((try simp)
            rw [foldl_fixed]
            all_goals ((try intros); (try dsimp only); repeat' split)
            all_goals (simp; done)))))

@[simp] theorem State.endZeroing_fixed (s : State) (i : Nat) : (State.endZeroing s i).fixed = s.fixed := by
  unfold State.endZeroing; split <;> simp

@[simp] theorem State.journal_fixed (s : State) (step : Nat) (u : BootUnit) (alt : Bool) (result : Nat) (fail :
    BitVec 16) (fr : Bool) (attempt : Nat) : (State.journal s step u alt result fail fr attempt).fixed = s.fixed :=
    by simp [State.journal]

@[simp] theorem State.attempt_fixed (s : State) (l : List AttemptRow) (step : Nat) (u : BootUnit) (fr alt : Bool)
    (n : Nat) (check : Option (BitVec 16)) : (State.attempt s l step u fr alt n check).1.fixed = s.fixed := by
  unfold State.attempt; split <;> simp

@[simp] theorem State.runUnit_fixed (s : State) (l : List AttemptRow) (step : Nat) (u : BootUnit) (fr : Bool)
    (check : Bool → Option (BitVec 16)) : (State.runUnit s l step u fr check).1.fixed = s.fixed := by
  unfold State.runUnit; dsimp only
  have h := State.attempt_fixed s l step u fr (s.firstMethod step u) 1 (check (s.firstMethod step u))
  split
  · rename_i e; rw [e] at h; simpa using h
  · rename_i e; rw [e] at h; simpa using h

@[simp] theorem State.holdPorts_fixed (s : State) : (State.holdPorts s).fixed = s.fixed := by
  unfold State.holdPorts; dsimp only
  rw [foldl_fixed _ (fun s q => by split <;> simp), foldl_fixed _ (fun s q => by simp), foldl_fixed _ (fun s q => by simp)]

@[simp] theorem State.dropHeld_fixed (s : State) : (State.dropHeld s).fixed = s.fixed := by simp [State.dropHeld]

@[simp] theorem State.rampDown_fixed (s : State) (r : Nat) : (State.rampDown s r).fixed = s.fixed := by simp
    [State.rampDown]

@[simp] theorem State.imageRefs_fixed (s : State) (up : Bool) : (State.imageRefs s up).fixed = s.fixed := by
  unfold State.imageRefs; split <;> simp

@[simp] theorem State.endRecords_fixed (s : State) : (State.endRecords s).fixed = s.fixed := by simp
    [State.endRecords]

@[simp] theorem State.endRun_fixed (s : State) : (State.endRun s).fixed = s.fixed := by
  unfold State.endRun; split
  · rfl
  · dsimp only
    simp only [State.holdPorts_fixed, State.dropHeld_fixed]
    rw [foldl_fixed _ (fun s q => State.setRoom_fixed _ _ _)]
    simp only [State.imageRefs_fixed]
    rw [foldl_fixed _ (fun s q => by simp), foldl_fixed _ (fun s q => State.setPipe_fixed _ _ _)]
    exact State.endRecords_fixed s

@[simp] theorem State.abortDone_fixed (s : State) : (State.abortDone s).fixed = s.fixed := by
  unfold State.abortDone; (try dsimp only); repeat' split
  all_goals (first
    | (simp; done)
    | ((try simp)
       rw [foldl_fixed]
       all_goals ((try intros); (try dsimp only); repeat' split)
       all_goals (first
         | (simp; done)
         | ((try simp)
            rw [foldl_fixed]
            all_goals ((try intros); (try dsimp only); repeat' split)
            all_goals (simp; done)))))

@[simp] theorem State.stopsDone_fixed (s : State) : (State.stopsDone s).fixed = s.fixed := by
  unfold State.stopsDone; (try dsimp only); repeat' split
  all_goals (first
    | (simp; done)
    | ((try simp)
       rw [foldl_fixed]
       all_goals ((try intros); (try dsimp only); repeat' split)
       all_goals (first
         | (simp; done)
         | ((try simp)
            rw [foldl_fixed]
            all_goals ((try intros); (try dsimp only); repeat' split)
            all_goals (simp; done)))))

@[simp] theorem State.leaveBarriers_fixed (s : State) (f : Nat) : (State.leaveBarriers s f).fixed = s.fixed := by
  unfold State.leaveBarriers; dsimp only; rw [foldl_fixed]
  intros; repeat' split
  all_goals simp

@[simp] theorem State.fenceReqs_fixed (s : State) (f : Nat) : (State.fenceReqs s f).fixed = s.fixed := by
  unfold State.fenceReqs; dsimp only
  rw [foldl_fixed _ (fun s q => State.edgeFloor_fixed _ _ _ _ _)]
  simp

@[simp] theorem State.fenceWaits_fixed (s : State) (f : Nat) : (State.fenceWaits s f).fixed = s.fixed := by
  unfold State.fenceWaits
  extract_lets t u
  have h : u.fixed = s.fixed := by simp [u, t]
  clear_value u
  simp [h]

@[simp] theorem State.fenceCut_fixed (s : State) (f : Nat) : (State.fenceCut s f).fixed = s.fixed := by
  unfold State.fenceCut
  rw [foldl_fixed _ (fun s q => State.rampDown_fixed _ _)]; simp

@[simp] theorem State.fence_fixed (s : State) (f : Nat) : (State.fence s f).fixed = s.fixed := by
  unfold State.fence; repeat' split
  all_goals simp

@[simp] theorem State.clearFloor_fixed (s : State) (f : Nat) : (State.clearFloor s f).fixed = s.fixed := by
  unfold State.clearFloor; dsimp only
  simp only [State.fixed_mk, State.fixed_eta, State.setFloor_fixed]
  rw [foldl_fixed _ (fun s q => State.setUnit_fixed _ _ _), foldl_fixed _ (fun s q => State.setTile_fixed _ _ _),
    foldl_fixed _ (fun s q => State.setRoom_fixed _ _ _)]

@[simp] theorem State.reverifyFloor_fixed (s : State) (f : Nat) : (State.reverifyFloor s f).fixed = s.fixed := by
  unfold State.reverifyFloor; exact foldl_fixed _ (fun _ _ => by simp) _ _

@[simp] theorem State.restoreKinds_fixed (s : State) (f : Nat) : (State.restoreKinds s f).fixed = s.fixed := by
  unfold State.restoreKinds; exact foldl_fixed _ (fun _ _ => by simp) _ _

@[simp] theorem State.benchFloor_fixed (s : State) (f : Nat) : (State.benchFloor s f).fixed = s.fixed := by simp
    [State.benchFloor]

@[simp] theorem State.lockPll_fixed (s : State) (f : Nat) (alt : Bool) : (State.lockPll s f alt).fixed = s.fixed :=
    by simp [State.lockPll]

@[simp] theorem State.floorStepWork_fixed (s : State) (f step : Nat) (alt : Bool) : (State.floorStepWork s f step
    alt).fixed = s.fixed := by
  unfold State.floorStepWork; split <;> simp

@[simp] theorem State.floorSteps_fixed (s : State) (l : Option (List AttemptRow)) (f : Nat) (k : List Nat) : (s.floorSteps l
    f k).fixed = s.fixed := by
  induction k generalizing s with
  | nil => unfold State.floorSteps; simp
  | cons f l ih =>
    unfold State.floorSteps; dsimp only; repeat' split
    all_goals simp [ih]

@[simp] theorem State.resetFloor_fixed (s : State) (l : Option (List AttemptRow)) (f : Nat) : (State.resetFloor s l f).fixed
    = s.fixed := by
  unfold State.resetFloor; split <;> simp

@[simp] theorem State.fenceReset_fixed (s : State) (f : Nat) : (State.fenceReset s f).fixed = s.fixed := by simp
    [State.fenceReset]

@[simp] theorem State.resetDue_fixed (s : State) (f : Nat) : (State.resetDue s f).fixed = s.fixed := by
  unfold State.resetDue; repeat' split
  all_goals simp

@[simp] theorem State.latchCounts_fixed (s : State) (r n : Nat) : (State.latchCounts s r n).fixed = s.fixed := by
    simp [State.latchCounts]

@[simp] theorem State.dropRejoin_fixed (s : State) (f : Nat) : (State.dropRejoin s f).fixed = s.fixed := by
  unfold State.dropRejoin; (try dsimp only); repeat' split
  all_goals (first
    | (simp; done)
    | ((try simp)
       rw [foldl_fixed]
       all_goals ((try intros); (try dsimp only); repeat' split)
       all_goals (first
         | (simp; done)
         | ((try simp)
            rw [foldl_fixed]
            all_goals ((try intros); (try dsimp only); repeat' split)
            all_goals (simp; done)))))

@[simp] theorem State.spine_fixed (s : State) (r : Nat) (off : Bool) : (State.spine s r off).fixed = s.fixed := by
    simp [State.spine]

@[simp] theorem State.resendHeld_fixed (s : State) (f : Nat) : (State.resendHeld s f).fixed = s.fixed := by
  unfold State.resendHeld; dsimp only
  rw [foldl_fixed _ (fun s d => State.writeLost_fixed _ _), foldl_fixed _ (fun s r => State.dieInject_fixed _ _ _)]; simp

@[simp] theorem State.rejoin_fixed (s : State) (f : Nat) : (State.rejoin s f).fixed = s.fixed := by
  unfold State.rejoin; dsimp only; split
  · rfl
  · simp only [State.resendHeld_fixed, State.finishAll_fixed, State.notice_fixed, State.fixed_mk, State.fixed_eta,
      State.dropRejoin_fixed, State.setFloor_fixed]
    exact foldl_fixed _ (fun s q => by split <;> simp) _ _

@[simp] theorem State.peerState_fixed (s : State) (n st : Nat) (port : Option Nat) : (State.peerState s n st
    port).fixed = s.fixed := by simp [State.peerState]

@[simp] theorem State.linkFault_fixed (s : State) (d sub port link ring dmod dpath : Nat) : (State.linkFault s d
    sub port link ring dmod dpath).fixed = s.fixed := by simp [State.linkFault]

@[simp] theorem State.sendFlit_fixed (s : State) (i : Nat) (sync : Option SyncFrame) (pseq : BitVec 16) (payload :
    List Byte) : (State.sendFlit s i sync pseq payload).fixed = s.fixed := by
  unfold State.sendFlit; split <;> simp

@[simp] theorem State.flushPort_fixed (k : Nat) (s : State) (d : Nat) : (State.flushPort k s d).fixed = s.fixed := by
  induction k generalizing s with
  | zero => rfl
  | succ k ih =>
    unfold State.flushPort; dsimp only; repeat' split
    all_goals simp [ih]

@[simp] theorem State.sendSync_fixed (s : State) (k : Nat) (f : SyncFrame) : (State.sendSync s k f).fixed = s.fixed
    := by
  unfold State.sendSync; split <;> simp

@[simp] theorem State.gangDone_fixed (s : State) (b : Nat) (v : Option Word) (op : Nat) (poison : Bool) :
    (State.gangDone s b v op poison).fixed = s.fixed := by
  unfold State.gangDone; (try dsimp only); repeat' split
  all_goals (first
    | (simp; done)
    | ((try simp)
       rw [foldl_fixed]
       all_goals ((try intros); (try dsimp only); repeat' split)
       all_goals (first
         | (simp; done)
         | ((try simp)
            rw [foldl_fixed]
            all_goals ((try intros); (try dsimp only); repeat' split)
            all_goals (simp; done)))))

@[simp] theorem State.gangGo_fixed (s : State) (b : Nat) : (State.gangGo s b).fixed = s.fixed := by
  unfold State.gangGo; dsimp only; repeat' split
  all_goals simp

@[simp] theorem State.gangLocal_fixed (s : State) (b : Nat) (op : Option Nat) (value : Word) (poison : Bool) :
    (State.gangLocal s b op value poison).fixed = s.fixed := by
  unfold State.gangLocal; dsimp only; split <;> simp

@[simp] theorem State.tryLive_fixed (s : State) (k : Nat) : (State.tryLive s k).fixed = s.fixed := by
  unfold State.tryLive; (try dsimp only); repeat' split
  all_goals (first
    | (simp; done)
    | ((try simp)
       rw [foldl_fixed]
       all_goals ((try intros); (try dsimp only); repeat' split)
       all_goals (first
         | (simp; done)
         | ((try simp)
            rw [foldl_fixed]
            all_goals ((try intros); (try dsimp only); repeat' split)
            all_goals (simp; done)))))

@[simp] theorem State.meetPeer_fixed (s : State) (k n : Nat) : (State.meetPeer s k n).fixed = s.fixed := by
  unfold State.meetPeer; repeat' split
  all_goals simp

@[simp] theorem State.sendHello_fixed (s : State) (k : Nat) : (State.sendHello s k).fixed = s.fixed := by
  unfold State.sendHello; dsimp only; repeat' split
  all_goals simp

@[simp] theorem State.sendHellos_fixed (s : State) : (State.sendHellos s).fixed = s.fixed := by
  unfold State.sendHellos; exact foldl_fixed _ (fun _ _ => by simp) _ _

@[simp] theorem State.formPort_fixed (s : State) (k : Nat) (serial : DWord) (ls : List Nat) : (State.formPort s k
    serial ls).fixed = s.fixed := by simp [State.formPort]

@[simp] theorem State.groupPorts_fixed (s : State) (d : Nat) : (State.groupPorts s d).fixed = s.fixed := by
  unfold State.groupPorts; (try dsimp only); repeat' split
  all_goals (first
    | (simp; done)
    | ((try simp)
       rw [foldl_fixed]
       all_goals ((try intros); (try dsimp only); repeat' split)
       all_goals (first
         | (simp; done)
         | ((try simp)
            rw [foldl_fixed]
            all_goals ((try intros); (try dsimp only); repeat' split)
            all_goals (simp; done)))))

@[simp] theorem State.joinPort_fixed (s : State) (i : Nat) (serial : DWord) : (State.joinPort s i serial).fixed =
    s.fixed := by
  unfold State.joinPort; (try dsimp only); repeat' split
  all_goals (first
    | (simp; done)
    | ((try simp)
       rw [foldl_fixed]
       all_goals ((try intros); (try dsimp only); repeat' split)
       all_goals (first
         | (simp; done)
         | ((try simp)
            rw [foldl_fixed]
            all_goals ((try intros); (try dsimp only); repeat' split)
            all_goals (simp; done)))))

@[simp] theorem State.parseRecords_fixed (k : Nat) (s : State) (d : Nat) : (State.parseRecords k s d).fixed =
    s.fixed := by
  induction k generalizing s with
  | zero => rfl
  | succ k ih =>
    unfold State.parseRecords; dsimp only; repeat' split
    all_goals simp [ih]

@[simp] theorem State.handOn_fixed (s : State) (k : Nat) (payload : List Byte) : (State.handOn s k payload).fixed =
    s.fixed := by simp [State.handOn]

@[simp] theorem State.handAll_fixed (k : Nat) (s : State) (d : Nat) : (State.handAll k s d).fixed = s.fixed := by
  induction k generalizing s with
  | zero => rfl
  | succ k ih =>
    unfold State.handAll; dsimp only; repeat' split
    all_goals simp [ih]

@[simp] theorem State.dataIn_fixed (s : State) (i : Nat) (pseq : BitVec 16) (payload : List Byte) : (State.dataIn s
    i pseq payload).fixed = s.fixed := by
  unfold State.dataIn; dsimp only; repeat' split
  all_goals simp

@[simp] theorem State.setEdgeStream_fixed (s : State) (d : Nat) (tag : BitVec 16) (str : Nat) (v : Option
    EdgeStream) : (State.setEdgeStream s d tag str v).fixed = s.fixed := by simp [State.setEdgeStream]

@[simp] theorem State.recordDone_fixed (s : State) (k : Nat) (r : LinkRec) : (State.recordDone s k r).fixed =
    s.fixed := by simp [State.recordDone]

@[simp] theorem State.rewriteRecord_fixed (s : State) (k : Nat) : (State.rewriteRecord s k).fixed = s.fixed := by
  unfold State.rewriteRecord; dsimp only; repeat' split
  all_goals simp

@[simp] theorem State.writeRecord_fixed (s : State) (k : Nat) : (State.writeRecord s k).fixed = s.fixed := by
  unfold State.writeRecord; dsimp only; repeat' split
  all_goals simp

@[simp] theorem State.linkReply_fixed (s : State) (k : Nat) (q : EdgeReq) (bounced : Bool) : (State.linkReply s k q
    bounced).fixed = s.fixed := by
  unfold State.linkReply; dsimp only; repeat' split
  all_goals simp

@[simp] theorem State.portDown_fixed (s : State) (k i : Nat) : (State.portDown s k i).fixed = s.fixed := by
  unfold State.portDown; dsimp only
  rw [foldl_fixed _ (fun s q => by split <;> simp)]
  simp

@[simp] theorem State.resendOn_fixed (s : State) (k : Nat) (l : List SentFlit) : (s.resendOn k l).fixed = s.fixed
    := by
  induction l generalizing s with
  | nil => rfl
  | cons f l ih =>
    unfold State.resendOn; dsimp only; repeat' split
    all_goals simp [ih]

@[simp] theorem State.failLink_fixed (s : State) (i cause : Nat) : (State.failLink s i cause).fixed = s.fixed := by
  unfold State.failLink; dsimp only; repeat' split
  all_goals simp

@[simp] theorem State.takeAck_fixed (s : State) (i : Nat) (h : FlitHdr) : (State.takeAck s i h).fixed = s.fixed :=
    by simp [State.takeAck]

@[simp] theorem State.takeCredits_fixed (s : State) (i : Nat) (h : FlitHdr) : (State.takeCredits s i h).fixed =
    s.fixed := by
  unfold State.takeCredits; split <;> simp

@[simp] theorem State.nakLink_fixed (s : State) (i : Nat) : (State.nakLink s i).fixed = s.fixed := by
  unfold State.nakLink; dsimp only; split <;> simp

@[simp] theorem State.takeSeq_fixed (s : State) (i : Nat) (h : FlitHdr) (f : State → State)
    (hr : ∀ s, (f s).fixed = s.fixed) : (s.takeSeq i h f).fixed = s.fixed := by
  unfold State.takeSeq; dsimp only; split <;> simp [hr]

@[simp] theorem State.countFlit_fixed (s : State) (i : Nat) : (State.countFlit s i).fixed = s.fixed := by simp
    [State.countFlit]

@[simp] theorem State.trained_fixed (s : State) (i : Nat) (peer : TrainInfo) : (State.trained s i peer).fixed =
    s.fixed := by
  unfold State.trained; repeat' split
  all_goals simp

@[simp] theorem State.setSendRing_fixed (s : State) (r : SendRing) : (State.setSendRing s r).fixed = s.fixed := by
    simp [State.setSendRing]

@[simp] theorem State.readSend_fixed (n : Nat) (s : State) (d num : Nat) (q : Nat × Nat × Nat) : (State.readSend n
    s d num q).fixed = s.fixed := by
  induction n generalizing s with
  | zero => rfl
  | succ k ih =>
    unfold State.readSend; dsimp only; repeat' split
    all_goals simp [ih]

@[simp] theorem State.fencePeer_fixed (s : State) (n : Nat) : (State.fencePeer s n).fixed = s.fixed := by
  unfold State.fencePeer; exact foldl_fixed _ (fun _ _ => by simp) _ _

@[simp] theorem State.retrain_fixed (s : State) (k : Nat) : (State.retrain s k).fixed = s.fixed := by
  unfold State.retrain; exact foldl_fixed _ (fun _ _ => by simp) _ _

@[simp] theorem State.restorePeer_fixed (s : State) (n : Nat) : (State.restorePeer s n).fixed = s.fixed := by
  unfold State.restorePeer; exact foldl_fixed _ (fun _ _ => by simp) _ _

@[simp] theorem State.atTile_fixed (s : State) (t : TileId) (p : Packet) (n : Nat) (ok : Bool) (f : State → State)
    (hr : ∀ s, (f s).fixed = s.fixed) : (s.atTile t p n ok f).fixed = s.fixed := by
  unfold State.atTile; split <;> simp [hr]

@[simp] theorem State.atSource_fixed (s : State) (p : Packet) (k : PktKind) (tile : State → Nat → State)
    (die : State → EdgeReq → State) (ht : ∀ s t, (tile s t).fixed = s.fixed) (hd : ∀ s r, (die s r).fixed = s.fixed) :
    (s.atSource p k tile die).fixed = s.fixed := by
  unfold State.atSource; dsimp only; repeat' split
  all_goals simp [ht, hd]

@[simp] theorem State.dropEdgeReq_fixed (s : State) (r : EdgeReq) : (State.dropEdgeReq s r).fixed = s.fixed := by
    simp [State.dropEdgeReq]

@[simp] theorem State.dieFinal_fixed (s : State) (r : EdgeReq) : (State.dieFinal s r).fixed = s.fixed := by
  unfold State.dieFinal; split <;> simp

@[simp] theorem State.completeAt_fixed (s : State) (l : List Arrival) (v : Word) (poison : Bool) (a : Arrival) :
    (State.completeAt s l v poison a).fixed = s.fixed := by
  unfold State.completeAt; dsimp only; repeat' split
  all_goals simp

@[simp] theorem State.completeBarrier_fixed (s : State) (b : Nat) (v : Word) (poison : Bool) :
    (State.completeBarrier s b v poison).fixed = s.fixed := by
  unfold State.completeBarrier; exact foldl_fixed _ (fun _ _ => by simp) _ _

@[simp] theorem State.hubRound_fixed (s : State) (b : Nat) : (State.hubRound s b).fixed = s.fixed := by
  unfold State.hubRound; repeat' split
  all_goals simp

@[simp] theorem State.stopAdvance_fixed (s : State) (r : Nat) : (State.stopAdvance s r).fixed = s.fixed := by simp
    [State.stopAdvance]

@[simp] theorem State.abortRoom_fixed (s : State) (r : Nat) (unit : Word) : (State.abortRoom s r unit).fixed =
    s.fixed := by
  unfold State.abortRoom; (try dsimp only); repeat' split
  all_goals (first
    | (simp; done)
    | ((try simp)
       rw [foldl_fixed]
       all_goals ((try intros); (try dsimp only); repeat' split)
       all_goals (first
         | (simp; done)
         | ((try simp)
            rw [foldl_fixed]
            all_goals ((try intros); (try dsimp only); repeat' split)
            all_goals (simp; done)))))

@[simp] theorem State.voidRoom_fixed (s : State) (r : Nat) (pipe mask : Byte) : (State.voidRoom s r pipe
    mask).fixed = s.fixed := by
  unfold State.voidRoom; exact foldl_fixed _ (fun _ _ => by simp) _ _

@[simp] theorem State.applyKeeper_fixed (s : State) (r : Nat) : (State.applyKeeper s r).fixed = s.fixed := by
  unfold State.applyKeeper; dsimp only; rw [foldl_fixed]
  · simp
  · intros; repeat' split
    all_goals simp

@[simp] theorem State.syncRecord_fixed (s : State) (p : Word) (act rec_ edge sig a b : Nat) : (State.syncRecord s p
    act rec_ edge sig a b).fixed = s.fixed := by simp [State.syncRecord]

@[simp] theorem State.strikeFlit_fixed (s : State) (t port chan word bit : Nat) : (State.strikeFlit s t port chan
    word bit).fixed = s.fixed := by
  unfold State.strikeFlit; dsimp only; repeat' split
  all_goals simp

@[simp] theorem State.strikeBuffer_fixed (s : State) (d buf word : Nat) : (State.strikeBuffer s d buf word).fixed =
    s.fixed := by
  unfold State.strikeBuffer; dsimp only; repeat' split
  all_goals simp

@[simp] theorem State.roomUpset_fixed (s : State) (r : Nat) (u : Upset) : (State.roomUpset s r u).fixed = s.fixed
    := by
  unfold State.roomUpset; dsimp only; repeat' split
  all_goals try (simp; done)

@[simp] theorem State.startRoutes_fixed (s : State) (r : Nat) : (State.startRoutes s r).fixed = s.fixed := by
  unfold State.startRoutes; (try dsimp only); repeat' split
  all_goals (first
    | (simp; done)
    | ((try simp)
       rw [foldl_fixed]
       all_goals ((try intros); (try dsimp only); repeat' split)
       all_goals (first
         | (simp; done)
         | ((try simp)
            rw [foldl_fixed]
            all_goals ((try intros); (try dsimp only); repeat' split)
            all_goals (simp; done)))))

@[simp] theorem State.land_fixed (s : State) (t n : Nat) : (State.land s t n).fixed = s.fixed := by simp [State.land]

@[simp] theorem State.syncReq_fixed (s : State) (t : Nat) (q : SyncReq) : (State.syncReq s t q).fixed = s.fixed := by
  unfold State.syncReq; dsimp only; repeat' split
  all_goals simp

@[simp] theorem State.commitTile_fixed (s : State) (t n : Nat) (x : TileTread) : (State.commitTile s t n x).fixed =
    s.fixed := by
  unfold State.commitTile; (try dsimp only); repeat' split
  all_goals (first
    | (simp; done)
    | ((try simp)
       rw [foldl_fixed]
       all_goals ((try intros); (try dsimp only); repeat' split)
       all_goals (first
         | (simp; done)
         | ((try simp)
            rw [foldl_fixed]
            all_goals ((try intros); (try dsimp only); repeat' split)
            all_goals (simp; done)))))

@[simp] theorem State.calFault_fixed (s : State) (r f : Nat) (c : CalResult) : (State.calFault s r f c).fixed =
    s.fixed := by simp [State.calFault]

@[simp] theorem State.scrubLine_fixed (s : State) (t : Nat) (cellar : Bool) (line : Nat) : (State.scrubLine s t
    cellar line).fixed = s.fixed := by
  unfold State.scrubLine; dsimp only; rw [foldl_fixed]
  intros; repeat' split
  all_goals simp

@[simp] theorem State.stairTiming_fixed (s : State) (r : Nat) : (State.stairTiming s r).fixed = s.fixed := by
  unfold State.stairTiming; dsimp only; rw [foldl_fixed]
  intros; repeat' split
  all_goals simp

@[simp] theorem State.phaseCheck_fixed (s : State) (r : Nat) (c : CalResult) : (State.phaseCheck s r c).fixed =
    s.fixed := by simp [State.phaseCheck]

@[simp] theorem State.tapTuning_fixed (s : State) (r : Nat) (c : CalResult) : (State.tapTuning s r c).fixed =
    s.fixed := by simp [State.tapTuning]

@[simp] theorem State.calibrate_fixed (s : State) (r n : Nat) (cs : List CalResult) : (State.calibrate s r n
    cs).fixed = s.fixed := by
  unfold State.calibrate; (try dsimp only); repeat' split
  all_goals (first
    | (simp; done)
    | ((try simp)
       rw [foldl_fixed]
       all_goals ((try intros); (try dsimp only); repeat' split)
       all_goals (first
         | (simp; done)
         | ((try simp)
            rw [foldl_fixed]
            all_goals ((try intros); (try dsimp only); repeat' split)
            all_goals (simp; done)))))

@[simp] theorem State.switchGear_fixed (s : State) (r : Nat) : (State.switchGear s r).fixed = s.fixed := by
  unfold State.switchGear; dsimp only; repeat' split
  all_goals simp

@[simp] theorem State.passPeriods_fixed (s : State) (r : Nat) (closed : Bool) (xs : List (Nat × TileTread)) :
    (State.passPeriods s r closed xs).1.fixed = s.fixed := by
  unfold State.passPeriods
  exact List.foldlRecOn _ _ (motive := fun (a : State × Nat) => a.1.fixed = s.fixed) rfl fun a same q _ => (State.setTile_fixed _ _ _).trans same

@[simp] theorem State.idlePeriod_fixed (s : State) (r : Nat) (paused refused : Bool) (srcs : List HoldSrc) :
    (State.idlePeriod s r paused refused srcs).fixed = s.fixed := by simp [State.idlePeriod]

@[simp] theorem State.meterTread_fixed (s : State) (r work : Nat) (xs : List (Nat × TileTread)) (back presses :
    Nat) : (State.meterTread s r work xs back presses).fixed = s.fixed := by simp [State.meterTread]

@[simp] theorem State.slipRecords_fixed (s : State) (n : Nat) (l : List (Nat × Nat × Nat × Bool)) :
    (State.slipRecords s n l).fixed = s.fixed := by
  unfold State.slipRecords; exact foldl_fixed _ (fun _ _ => by simp) _ _

@[simp] theorem State.takeIdleSlots_fixed (s : State) (r : Nat) : (State.takeIdleSlots s r).fixed = s.fixed := by
  unfold State.takeIdleSlots; exact foldl_fixed _ (fun s q => State.setTile_fixed _ _ _) _ _

@[simp] theorem State.takeTread_fixed (s : State) (r n : Nat) (cal : List CalResult) (us : List Upset) (xs : List
    (Nat × TileTread)) (work : Nat) : (State.takeTread s r n cal us xs work).fixed = s.fixed := by
  have rest : ∀ (f : State → Nat → Tile) (l : List Nat) (x : State),
      (l.foldl (fun (s : State) (t : Nat) => (s.setTile t (f s t)).land t n) x).fixed = x.fixed :=
    fun f l x => foldl_fixed _ (fun s t => by simp) _ _
  have commit : ∀ (l : List (Nat × TileTread)) (x : State),
      (l.foldl (fun (s : State) (x : Nat × TileTread) => s.commitTile x.1 n x.2) x).fixed = x.fixed :=
    fun l x => foldl_fixed _ (fun s t => by simp) _ _
  unfold State.takeTread; dsimp only
  simp only [State.switchGear_fixed, State.meterTread_fixed, State.passPeriods_fixed, State.takeIdleSlots_fixed]
  repeat' split
  all_goals simp [rest, commit]

@[simp] theorem State.spineFor_fixed (s : State) (r n : Nat) : (State.spineFor s r n).1.fixed = s.fixed := by
  unfold State.spineFor; dsimp only; repeat' split
  all_goals simp

@[simp] theorem State.tryTread_fixed (s : State) (r n : Nat) (cal : List CalResult) (us : List Upset) :
    (State.tryTread s r n cal us).fixed = s.fixed := by
  unfold State.tryTread; dsimp only; split <;> simp

@[simp] theorem State.periodWork_fixed (s : State) (r : Nat) (cal : List CalResult) (us : List Upset) :
    (State.periodWork s r cal us).fixed = s.fixed := by
  unfold State.periodWork; dsimp only; repeat' split
  all_goals simp

@[simp] theorem State.periodOf_fixed (s : State) (r : Nat) (margin : Margin) (cal : List CalResult) (us : List
    Upset) : (State.periodOf s r margin cal us).fixed = s.fixed := by simp [State.periodOf]

@[simp] theorem State.fallPeriod_fixed (s : State) (r : Nat) : (State.fallPeriod s r).fixed = s.fixed := by
  unfold State.fallPeriod; dsimp only; split <;> simp

@[simp] theorem State.period_fixed (s : State) (r : Nat) (margin : Margin) (cal : List CalResult) (us : List Upset)
    : (State.period s r margin cal us).fixed = s.fixed := by
  have upsets : ∀ x : State, (us.foldl (fun (s : State) (u : Upset) => s.roomUpset r u) x).fixed = x.fixed :=
    fun x => foldl_fixed _ (fun s q => State.roomUpset_fixed s r q) us x
  unfold State.period; split
  · rw [State.fallPeriod_fixed]; split
    · exact foldl_fixed _ (fun s q => by split <;> simp) us s
    · rfl
  · dsimp only; split <;> simp [upsets]

@[simp] theorem State.writeVcore_fixed (s : State) (g : Nat) : (State.writeVcore s g).fixed = s.fixed := by
  unfold State.writeVcore; split <;> simp

@[simp] theorem State.allowTick_fixed (s : State) (r : Nat) : (State.allowTick s r).fixed = s.fixed := by
  unfold State.allowTick; dsimp only; repeat' split
  all_goals simp

@[simp] theorem State.announceGear_fixed (s : State) (c : GearChange) : (State.announceGear s c).fixed = s.fixed :=
    by simp [State.announceGear]

@[simp] theorem State.beginGear_fixed (s : State) (c : GearChange) : (State.beginGear s c).fixed = s.fixed := by
  unfold State.beginGear; (try dsimp only); repeat' split
  all_goals (first
    | (simp; done)
    | ((try simp)
       rw [foldl_fixed]
       all_goals ((try intros); (try dsimp only); repeat' split)
       all_goals (first
         | (simp; done)
         | ((try simp)
            rw [foldl_fixed]
            all_goals ((try intros); (try dsimp only); repeat' split)
            all_goals (simp; done)))))

@[simp] theorem State.gearTick_fixed (s : State) : (State.gearTick s).fixed = s.fixed := by
  unfold State.gearTick; repeat' split
  all_goals simp

@[simp] theorem State.thermFault_fixed (s : State) (sub act f sensor : Nat) (v : Int) : (State.thermFault s sub act
    f sensor v).fixed = s.fixed := by simp [State.thermFault]

@[simp] theorem State.thermal_fixed (s : State) : (State.thermal s).fixed = s.fixed := by
  unfold State.thermal
  split
  · rfl
  · extract_lets h go
    have hg : ∀ (x : State) (g : Nat), (go x g).fixed = x.fixed := fun x g => State.beginGear_fixed _ _
    clear_value go
    repeat' split
    all_goals simp +zetaDelta [hg]

@[simp] theorem State.endGear_fixed (s : State) : (State.endGear s).fixed = s.fixed := by simp [State.endGear]

@[simp] theorem State.moveTrim_fixed (s : State) (g : Nat) (d : Int) : (State.moveTrim s g d).fixed = s.fixed := by
    simp [State.moveTrim]

@[simp] theorem State.trimPulse_fixed (s : State) : (State.trimPulse s).fixed = s.fixed := by
  unfold State.trimPulse; dsimp only; repeat' split
  all_goals simp

@[simp] theorem State.readWord_fixed (s : State) (w : Requester) (bar : Bar) (off : Nat) : (State.readWord s w bar
    off).1.fixed = s.fixed := by
  unfold State.readWord; dsimp only; repeat' split
  all_goals simp

@[simp] theorem State.readOne_fixed (s : State) (w : Requester) (bar : Bar) (off : Nat) : (State.readOne s w bar
    off).fixed = s.fixed := by
  unfold State.readOne; split <;> simp

@[simp] theorem State.readReg_fixed (s : State) (w : Requester) (bar : Bar) (off size : Nat) : (State.readReg s w
    bar off size).fixed = s.fixed := by
  unfold State.readReg; repeat' split
  all_goals simp

@[simp] theorem State.writeStatus_fixed (s : State) (p : Word) (v : Word) : (State.writeStatus s p v).fixed =
    s.fixed := by
  unfold State.writeStatus; dsimp only; split <;> simp

@[simp] theorem State.requestStop_fixed (s : State) (us : List Word) (set : Bool) (c : CmdHdr) (opc : Byte) (mute :
    Bool) : (State.requestStop s us set c opc mute).fixed = s.fixed := by
  unfold State.requestStop; (try dsimp only); repeat' split
  all_goals (first
    | (simp; done)
    | ((try simp)
       rw [foldl_fixed]
       all_goals ((try intros); (try dsimp only); repeat' split)
       all_goals (first
         | (simp; done)
         | ((try simp)
            rw [foldl_fixed]
            all_goals ((try intros); (try dsimp only); repeat' split)
            all_goals (simp; done)))))

@[simp] theorem State.writeCtrl_fixed (s : State) (p : Word) (v : Word) : (State.writeCtrl s p v).fixed = s.fixed
    := by
  unfold State.writeCtrl; dsimp only; split <;> simp

@[simp] theorem State.ringError_fixed (s : State) (d ring : Nat) : (State.ringError s d ring).fixed = s.fixed := by
    simp [State.ringError]

@[simp] theorem State.doorbell_fixed (s : State) (d i v : Nat) : (State.doorbell s d i v).fixed = s.fixed := by
  unfold State.doorbell; dsimp only; split <;> simp

@[simp] theorem State.compHead_fixed (s : State) (d i v : Nat) : (State.compHead s d i v).fixed = s.fixed := by
  unfold State.compHead; dsimp only; repeat' split
  all_goals simp

@[simp] theorem State.outHead_fixed (s : State) (d i v : Nat) : (State.outHead s d i v).fixed = s.fixed := by
  unfold State.outHead; dsimp only; split <;> simp

@[simp] theorem State.ringSize_fixed (s : State) (d : Nat) (ref : RingRef) (v : Nat) : (State.ringSize s d ref
    v).fixed = s.fixed := by
  unfold State.ringSize; dsimp only; repeat' split
  all_goals simp

@[simp] theorem State.writeFlogR_fixed (s : State) (v : Nat) : (State.writeFlogR s v).fixed = s.fixed := by
  unfold State.writeFlogR; dsimp only; split <;> simp

@[simp] theorem State.writeSet_fixed (s : State) (d k j : Nat) (v : Word) : (State.writeSet s d k j v).fixed =
    s.fixed := by
  unfold State.writeSet; split <;> simp

@[simp] theorem State.writeGoal_fixed (s : State) (c : Nat) (f : GoalField) (v : Word) : (State.writeGoal s c f
    v).fixed = s.fixed := by
  unfold State.writeGoal; split <;> simp

@[simp] theorem State.store64_fixed (s : State) (b : Blk) (o : Nat) (v : DWord) : (State.store64 s b o v).fixed =
    s.fixed := by
  unfold State.store64; dsimp only; repeat' split
  all_goals simp

@[simp] theorem State.writeFace_fixed (s : State) (p : Word) (status ctrl faults o : Nat) (v : Word) :
    (State.writeFace s p status ctrl faults o v).fixed = s.fixed := by
  unfold State.writeFace; repeat' split
  all_goals simp

@[simp] theorem State.writeMsix_fixed (s : State) (d i : Nat) (v : Word) : (State.writeMsix s d i v).fixed =
    s.fixed := by
  unfold State.writeMsix; dsimp only; split <;> simp

@[simp] theorem State.refusePkt_fixed (s : State) (d : DieId) (i : Fin 8) (p : BitVec 512) : (State.refusePkt s d i
    p).fixed = s.fixed := by
  unfold State.refusePkt; dsimp only; repeat' split
  all_goals simp

@[simp] theorem State.skipBad_fixed (n : Nat) (s : State) (d : DieId) (i : Fin 8) : (State.skipBad n s d i).fixed =
    s.fixed := by
  induction n generalizing s with
  | zero => rfl
  | succ k ih =>
    unfold State.skipBad; dsimp only; repeat' split
    all_goals simp [ih]

@[simp] theorem State.fetch_fixed (s : State) (d : DieId) (i : Fin 8) (p : BitVec 512) : (State.fetch s d i
    p).fixed = s.fixed := by
  unfold State.fetch; split <;> simp

theorem State.takeCmd_fixed (s s' : State) (h : CmdHdr) (k : CmdSpec) (e : s.takeCmd h k = some s') : s'.fixed =
    s.fixed := by
  unfold State.takeCmd at e; dsimp only at e
  repeat' split at e
  all_goals first | (cases e; done) | (cases e; simp)

theorem State.takeMute_fixed (s s' : State) (h : CmdHdr) (k : CmdSpec) (e : s.takeMute h k = some s') : s'.fixed =
    s.fixed := by
  unfold State.takeMute at e; dsimp only at e
  repeat' split at e
  all_goals first | (cases e; done) | (cases e; simp)

@[simp] theorem State.checked_fixed (s : State) (h : CmdHdr) (k : CmdSpec) (run : State → State)
    (hr : ∀ s, (run s).fixed = s.fixed) : (s.checked h k run).fixed = s.fixed := by
  unfold State.checked; split <;> simp [hr]

@[simp] theorem State.muted_fixed (s : State) (h : CmdHdr) (run : State → State)
    (hr : ∀ s, (run s).fixed = s.fixed) : (s.muted h run).fixed = s.fixed := by
  simp [State.muted, hr]

@[simp] theorem State.decode_fixed (s : State) (h : CmdHdr) (k : CmdSpec) (run : State → State)
    (hr : ∀ s, (run s).fixed = s.fixed) : (s.decode h k run).fixed = s.fixed := by
  unfold State.decode; repeat' split
  · rename_i e; simp [State.takeMute_fixed _ _ _ _ e, hr]
  · rfl
  · rename_i e; simp [State.takeCmd_fixed _ _ _ _ e, hr]

@[simp] theorem State.begin__fixed (s : State) (h : CmdHdr) (opc : Byte) (w : Work) : (State.begin_ s h opc
    w).fixed = s.fixed := by simp [State.begin_]

@[simp] theorem State.moduleCmd_fixed (s : State) (h : CmdHdr) (opc : Byte) (run : State → State)
    (hr : ∀ s, (run s).fixed = s.fixed) : (s.moduleCmd h opc run).fixed = s.fixed := by
  unfold State.moduleCmd; split <;> simp [hr]

@[simp] theorem State.writeHost_fixed (s : State) (h : CmdHdr) (opc : Byte) (a : DWord) (b : List Byte) (status :
    Nat) (detail : List Byte) : (State.writeHost s h opc a b status detail).fixed = s.fixed := by
  unfold State.writeHost; split <;> simp

@[simp] theorem State.negotiate_fixed (s : State) (h : CmdHdr) (r0 r1 r2 : VerRange) : (State.negotiate s h r0 r1
    r2).fixed = s.fixed := by
  unfold State.negotiate; split <;> simp

@[simp] theorem State.stopCmd_fixed (s : State) (h : CmdHdr) (set : Bool) : (State.stopCmd s h set).fixed = s.fixed
    := by
  unfold State.stopCmd
  exact State.decode_fixed _ _ _ _ (fun s => by split <;> simp)

@[simp] theorem State.abortUnits_fixed (s : State) (h : CmdHdr) (us : List Word) : (State.abortUnits s h us).fixed
    = s.fixed := by
  unfold State.abortUnits; dsimp only; repeat' split
  all_goals simp

@[simp] theorem State.roomQuiet_fixed (s : State) (r : Nat) : (State.roomQuiet s r).fixed = s.fixed := by simp
    [State.roomQuiet]

@[simp] theorem State.escalate_fixed (s : State) (us : List Word) (rs : List Nat) (die : Nat) : (State.escalate s
    us rs die).fixed = s.fixed := by
  unfold State.escalate; dsimp only
  rw [foldl_fixed _ (fun s q => State.finish_fixed _ _ _ _), foldl_fixed _ (fun s q => State.fenceReset_fixed _ _),
    foldl_fixed _ (fun s q => State.event_fixed _ _ _), State.record_fixed]
  rfl

@[simp] theorem State.gearCmd_fixed (s : State) (h : CmdHdr) (g : Nat) : (State.gearCmd s h g).fixed = s.fixed := by
  unfold State.gearCmd; split
  · simp
  · refine State.moduleCmd_fixed _ _ _ _ (fun s => ?_)
    dsimp only
    generalize (match s.throttled with
      | some t => decide (t < g)
      | none => false) = b
    repeat' split
    all_goals simp

@[simp] theorem State.writeTiles_fixed (s : State) (im : Image) (kinds : Bool) : (State.writeTiles s im
    kinds).fixed = s.fixed := by
  unfold State.writeTiles; dsimp only
  rw [foldl_fixed _ (fun s q => State.setRoom_fixed _ _ _), foldl_fixed _ (fun s q => State.setTile_fixed _ _ _),
    foldl_fixed _ (fun s q => State.setTile_fixed _ _ _)]

@[simp] theorem State.freeBanks_fixed (s : State) (im : Image) : (State.freeBanks s im).fixed = s.fixed := by
  unfold State.freeBanks; simp only [State.fixed_mk, State.fixed_eta]
  exact foldl_fixed _ (fun s i => State.abandonCrates_fixed _ _ _) _ _

@[simp] theorem State.holdImage_fixed (s : State) (im : Image) (ps : List Word) : (State.holdImage s im ps).fixed =
    s.fixed := by simp [State.holdImage]

@[simp] theorem State.putImage_fixed (s : State) (im : Image) (ps : List Word) : (State.putImage s im ps).fixed =
    s.fixed := by
  simp [State.putImage]

@[simp] theorem State.loadDone_fixed (s : State) : (State.loadDone s).fixed = s.fixed := by
  unfold State.loadDone; split <;> simp

@[simp] theorem State.loadImage_fixed (s : State) (h : CmdHdr) (ilen : DWord) (ps : List Word) (raddr : DWord)
    (data : HostRead) : (State.loadImage s h ilen ps raddr data).fixed = s.fixed := by
  unfold State.loadImage; repeat' split
  all_goals simp

@[simp] theorem State.armTiles_fixed (s : State) (im : Image) (n : Nat) : (State.armTiles s im n).fixed = s.fixed
    := by
  unfold State.armTiles; (try dsimp only); repeat' split
  all_goals (first
    | (simp; done)
    | ((try simp)
       rw [foldl_fixed]
       all_goals ((try intros); (try dsimp only); repeat' split)
       all_goals (first
         | (simp; done)
         | ((try simp)
            rw [foldl_fixed]
            all_goals ((try intros); (try dsimp only); repeat' split)
            all_goals (simp; done)))))

@[simp] theorem State.startImage_fixed (s : State) (h : CmdHdr) (im : Image) (l : List Byte) (npipe : Nat) :
    (State.startImage s h im l npipe).fixed = s.fixed := by
  unfold State.startImage; dsimp only; rw [foldl_fixed]
  intros; repeat' split
  all_goals simp

@[simp] theorem State.tryStart_fixed (s : State) (h : CmdHdr) (npipe : Nat) (data : HostRead) : (State.tryStart s h
    npipe data).fixed = s.fixed := by
  unfold State.tryStart; dsimp only; repeat' split
  all_goals simp

@[simp] theorem State.stopImage_fixed (s : State) (h : CmdHdr) : (State.stopImage s h).fixed = s.fixed := by
  unfold State.stopImage; (try dsimp only); repeat' split
  all_goals (first
    | (simp; done)
    | ((try simp)
       rw [foldl_fixed]
       all_goals ((try intros); (try dsimp only); repeat' split)
       all_goals (first
         | (simp; done)
         | ((try simp)
            rw [foldl_fixed]
            all_goals ((try intros); (try dsimp only); repeat' split)
            all_goals (simp; done)))))

@[simp] theorem State.openSession_fixed (s : State) (h : CmdHdr) (cls urg aslot oring : Byte) (route : Word) (seed
    : DWord) : (State.openSession s h cls urg aslot oring route seed).fixed = s.fixed := by
  unfold State.openSession; dsimp only; repeat' split
  all_goals simp

@[simp] theorem State.onSession_fixed (s : State) (h : CmdHdr) (opc : Byte) (w : Word) (run : State → Nat → State)
    (hr : ∀ s i, (run s i).fixed = s.fixed) : (s.onSession h opc w run).fixed = s.fixed := by
  unfold State.onSession; repeat' split
  all_goals simp [hr]

@[simp] theorem State.feedState_fixed (s : State) (i : Nat) : (State.feedState s i).fixed = s.fixed := by
  unfold State.feedState; dsimp only; repeat' split
  all_goals simp

@[simp] theorem State.markState_fixed (s : State) (i : Nat) : (State.markState s i).fixed = s.fixed := by
  unfold State.markState; dsimp only; repeat' split
  all_goals simp

@[simp] theorem State.inputRecord_fixed (s : State) (h : CmdHdr) (opc : Byte) (handle : Word) (i kind rows : Nat)
    (payload : List Byte) : (State.inputRecord s h opc handle i kind rows payload).fixed = s.fixed := by simp
    [State.inputRecord]

@[simp] theorem State.feed_fixed (s : State) (h : CmdHdr) (handle : Word) (rows bytes : BitVec 16) (data :
    HostRead) (i : Nat) : (State.feed s h handle rows bytes data i).fixed = s.fixed := by
  unfold State.feed; repeat' split
  all_goals simp

@[simp] theorem State.mark_fixed (s : State) (h : CmdHdr) (handle : Word) (rows : BitVec 16) (i : Nat) :
    (State.mark s h handle rows i).fixed = s.fixed := by
  unfold State.mark; repeat' split
  all_goals simp

@[simp] theorem State.cancelOrdinary_fixed (s : State) (h : CmdHdr) (handle : Word) (i : Nat) :
    (State.cancelOrdinary s h handle i).fixed = s.fixed := by simp [State.cancelOrdinary]

@[simp] theorem State.cancelUrgent_fixed (s : State) (h : CmdHdr) (handle : Word) (i : Nat) : (State.cancelUrgent s
    h handle i).fixed = s.fixed := by
  unfold State.cancelUrgent; split <;> simp

@[simp] theorem State.cancel_fixed (s : State) (h : CmdHdr) (urgent : Bool) (handle : Word) (i : Nat) :
    (State.cancel s h urgent handle i).fixed = s.fixed := by
  unfold State.cancel; repeat' split
  all_goals simp

@[simp] theorem State.beginClose_fixed (s : State) (i : Nat) : (State.beginClose s i).fixed = s.fixed := by
  unfold State.beginClose; repeat' split
  all_goals simp

@[simp] theorem State.sendZero_fixed (s : State) (i : Nat) (q : Nat × Nat) : (State.sendZero s i q).fixed = s.fixed
    := by simp [State.sendZero]

@[simp] theorem State.closeSession_fixed (s : State) (i : Nat) : (State.closeSession s i).fixed = s.fixed := by
  unfold State.closeSession; (try dsimp only); repeat' split
  all_goals (first
    | (simp; done)
    | ((try simp)
       rw [foldl_fixed]
       all_goals ((try intros); (try dsimp only); repeat' split)
       all_goals (first
         | (simp; done)
         | ((try simp)
            rw [foldl_fixed]
            all_goals ((try intros); (try dsimp only); repeat' split)
            all_goals (simp; done)))))

@[simp] theorem State.atHome_fixed (s : State) (p : Byte) (run : State → PipeRec → State)
    (hr : ∀ s i, (run s i).fixed = s.fixed) : (s.atHome p run).fixed = s.fixed := by
  unfold State.atHome; repeat' split
  all_goals simp [hr]

@[simp] theorem State.crateRead_fixed (s : State) (h : CmdHdr) (data : HostRead) : (State.crateRead s h data).fixed
    = s.fixed := by
  unfold State.crateRead; split <;> simp

@[simp] theorem State.startLoad_fixed (s : State) (h : CmdHdr) (e : Nat) (ident : DWord) (place : List (Nat × Nat ×
    Nat)) : (State.startLoad s h e ident place).fixed = s.fixed := by
  unfold State.startLoad; split <;> simp

@[simp] theorem State.reside_fixed (s : State) (h : CmdHdr) (m : Nat) : (State.reside s h m).fixed = s.fixed := by
  unfold State.reside; dsimp only; repeat' split
  all_goals simp

@[simp] theorem State.evict_fixed (s : State) (h : CmdHdr) (e : Nat) : (State.evict s h e).fixed = s.fixed := by
  unfold State.evict; dsimp only; repeat' split
  all_goals simp

@[simp] theorem State.loadAdapter_fixed (s : State) (h : CmdHdr) (slot : Nat) (version : BitVec 16) (ident : DWord)
    : (State.loadAdapter s h slot version ident).fixed = s.fixed := by
  unfold State.loadAdapter; dsimp only; repeat' split
  all_goals simp

@[simp] theorem State.clearAdapter_fixed (s : State) (h : CmdHdr) (slot : Nat) : (State.clearAdapter s h
    slot).fixed = s.fixed := by
  unfold State.clearAdapter; split <;> simp

@[simp] theorem State.flashWrite_fixed (s : State) : (State.flashWrite s).fixed = s.fixed := by
  unfold State.flashWrite; split <;> simp

@[simp] theorem State.unseal_fixed (s : State) (k : KeyRecords) : (State.unseal s k).fixed = s.fixed := by simp
    [State.unseal]

@[simp] theorem State.recheckFloor_fixed (s : State) (f : Nat) : (State.recheckFloor s f).fixed = s.fixed := by
  unfold State.recheckFloor; dsimp only; rw [foldl_fixed]
  intros; repeat' split
  all_goals simp

@[simp] theorem State.keepModel_fixed (s : State) (e : Nat) : (State.keepModel s e).fixed = s.fixed := by
  unfold State.keepModel; (try dsimp only); repeat' split
  all_goals (first
    | (simp; done)
    | ((try simp)
       rw [foldl_fixed]
       all_goals ((try intros); (try dsimp only); repeat' split)
       all_goals (first
         | (simp; done)
         | ((try simp)
            rw [foldl_fixed]
            all_goals ((try intros); (try dsimp only); repeat' split)
            all_goals (simp; done)))))

@[simp] theorem State.keepWeights_fixed (s : State) : (State.keepWeights s).fixed = s.fixed := by
  unfold State.keepWeights; (try dsimp only); repeat' split
  all_goals (first
    | (simp; done)
    | ((try simp)
       rw [foldl_fixed]
       all_goals ((try intros); (try dsimp only); repeat' split)
       all_goals (first
         | (simp; done)
         | ((try simp)
            rw [foldl_fixed]
            all_goals ((try intros); (try dsimp only); repeat' split)
            all_goals (simp; done)))))

@[simp] theorem State.linkLost_fixed (s : State) (i : Nat) : (State.linkLost s i).fixed = s.fixed := by simp
    [State.linkLost]

@[simp] theorem State.commitSvn_fixed (s : State) (b : Boot) : (State.commitSvn s b).fixed = s.fixed := by
  unfold State.commitSvn; dsimp only
  split <;> split <;> first | rfl | simp

@[simp] theorem State.bootReady_fixed (s : State) (b : Boot) : (State.bootReady s b).fixed = s.fixed := by
  unfold State.bootReady; dsimp only
  simp only [State.fixed_mk, State.fixed_eta, State.writeVcore_fixed, State.commitSvn_fixed]
  split
  · rfl
  · exact State.keepWeights_fixed s

@[simp] theorem State.bootWork_fixed (s : State) (b : Boot) (step : Nat) (u : BootUnit) (alt : Bool) :
    (State.bootWork s b step u alt).fixed = s.fixed := by
  unfold State.bootWork; repeat' split
  all_goals simp

@[simp] theorem State.bootFail_fixed (s : State) (step : Nat) (code : BitVec 16) : (State.bootFail s step
    code).fixed = s.fixed := by simp [State.bootFail]

@[simp] theorem State.benchUnit_fixed (s : State) (u : BootUnit) (alt : Bool) : (State.benchUnit s u alt).fixed =
    s.fixed := by
  unfold State.benchUnit; split <;> simp

@[simp] theorem State.bootSettle_fixed (s : State) (b : Boot) (step : Nat) (u : BootUnit) (res : StepRes) (alt :
    Bool) : (State.bootSettle s b step u res alt).1.fixed = s.fixed := by
  unfold State.bootSettle; repeat' split
  all_goals simp

@[simp] theorem State.bootUnit_fixed (s : State) (b : Boot) (step : Nat) (u : BootUnit) : (State.bootUnit s b step
    u).1.fixed = s.fixed := by
  unfold State.bootUnit; repeat' split
  all_goals simp

@[simp] theorem State.takeJournal_fixed (s : State) (b : Boot) (step : Nat) : (State.takeJournal s b step).fixed =
    s.fixed := by
  unfold State.takeJournal; split <;> simp

@[simp] theorem State.releaseCounters_fixed (s : State) : (State.releaseCounters s).fixed = s.fixed := by simp
    [State.releaseCounters]

@[simp] theorem State.bootRun_fixed (s : State) (b : Boot) (l : List (Nat × BootUnit)) : (s.bootRun b l).fixed =
    s.fixed := by
  induction l generalizing s with
  | nil => rfl
  | cons f l ih =>
    obtain ⟨step, u⟩ := f
    unfold State.bootRun; dsimp only; repeat' split
    all_goals simp [ih]

@[simp] theorem State.bootAfter_fixed (r : State × BootGo) (b : Boot) (step : Nat) (u : BootUnit) :
    (State.bootAfter r b step u).fixed = r.1.fixed := by
  unfold State.bootAfter; dsimp only; repeat' split
  all_goals simp

@[simp] theorem State.vaonLost_fixed (s : State) : (State.vaonLost s).fixed = s.fixed := by simp [State.vaonLost]

@[simp] theorem State.dropCommands_fixed (s : State) : (State.dropCommands s).fixed = s.fixed := by
  unfold State.dropCommands; exact foldl_fixed _ (fun _ _ => by simp) _ _

@[simp] theorem State.interruptAll_fixed (s : State) (p : Option Nat) : (State.interruptAll s p).fixed = s.fixed :=
    by simp [State.interruptAll]

@[simp] theorem State.portReset_fixed (s : State) (p : Nat) (perst : Bool) : (State.portReset s p perst).fixed =
    s.fixed := by
  unfold State.portReset; exact foldl_fixed _ (fun _ _ => by simp) _ _

@[simp] theorem State.hangAct_fixed (s : State) (tiles floors : List Nat) : (State.hangAct s tiles floors).fixed =
    s.fixed := by
  unfold State.hangAct; (try dsimp only); repeat' split
  all_goals (first
    | (simp; done)
    | ((try simp)
       rw [foldl_fixed]
       all_goals ((try intros); (try dsimp only); repeat' split)
       all_goals (first
         | (simp; done)
         | ((try simp)
            rw [foldl_fixed]
            all_goals ((try intros); (try dsimp only); repeat' split)
            all_goals (simp; done)))))

@[simp] theorem State.hangReport_fixed (s : State) (l : List HangNode) : (State.hangReport s l).fixed = s.fixed := by
  unfold State.hangReport; (try dsimp only); repeat' split
  all_goals (first
    | (simp; done)
    | ((try simp)
       rw [foldl_fixed]
       all_goals ((try intros); (try dsimp only); repeat' split)
       all_goals (first
         | (simp; done)
         | ((try simp)
            rw [foldl_fixed]
            all_goals ((try intros); (try dsimp only); repeat' split)
            all_goals (simp; done)))))

@[simp] theorem State.hangAgain_fixed (s : State) : (State.hangAgain s).fixed = s.fixed := by
  unfold State.hangAgain; (try dsimp only); repeat' split
  all_goals (first
    | (simp; done)
    | ((try simp)
       rw [foldl_fixed]
       all_goals ((try intros); (try dsimp only); repeat' split)
       all_goals (first
         | (simp; done)
         | ((try simp)
            rw [foldl_fixed]
            all_goals ((try intros); (try dsimp only); repeat' split)
            all_goals (simp; done)))))

@[simp] theorem State.clockFault_fixed (s : State) (p : Word) (sub act r e floor room ago : Nat) :
    (State.clockFault s p sub act r e floor room ago).fixed = s.fixed := by simp [State.clockFault]

@[simp] theorem State.dieLinks_fixed (s : State) (d : Nat) : (State.dieLinks s d).fixed = s.fixed := by
  unfold State.dieLinks; dsimp only; rw [foldl_fixed _ (fun _ _ => by simp)]; simp

@[simp] theorem State.orphan_fixed (s : State) (i : Nat) (lead : DieId) : (State.orphan s i lead).fixed = s.fixed
    := by
  unfold State.orphan; dsimp only; rw [foldl_fixed _ (fun _ _ => by simp)]; simp

@[simp] theorem State.dieDown_fixed (s : State) (d : Nat) : (State.dieDown s d).fixed = s.fixed := by simp
    [State.dieDown]

@[simp] theorem State.dieLost_fixed (s : State) (d : Nat) : (State.dieLost s d).fixed = s.fixed := by simp
    [State.dieLost]

@[simp] theorem State.dieRest_fixed (s : State) (d : Nat) : (State.dieRest s d).fixed = s.fixed := by
  unfold State.dieRest; (try dsimp only); repeat' split
  all_goals (first
    | (simp; done)
    | ((try simp)
       rw [foldl_fixed]
       all_goals ((try intros); (try dsimp only); repeat' split)
       all_goals (first
         | (simp; done)
         | ((try simp)
            rw [foldl_fixed]
            all_goals ((try intros); (try dsimp only); repeat' split)
            all_goals (simp; done)))))

@[simp] theorem State.smbus_fixed (s : State) (b : List Byte) : (State.smbus s b).fixed = s.fixed := by
  unfold State.smbus; split <;> simp

@[simp] theorem State.statusRead_fixed (s : State) : (State.statusRead s).fixed = s.fixed := by
  unfold State.statusRead; split <;> simp

@[simp] theorem State.msgReply_fixed (s : State) (b : List Byte) : (State.msgReply s b).fixed = s.fixed := by simp
    [State.msgReply]

@[simp] theorem State.setOwner_fixed (s : State) (i : Nat) (k : Option (BitVec 768)) : (State.setOwner s i k).fixed
    = s.fixed := by simp [State.setOwner]

@[simp] theorem State.setCrateKey_fixed (s : State) (i : Nat) (k : Option (BitVec 256)) : (State.setCrateKey s i
    k).fixed = s.fixed := by simp [State.setCrateKey]

@[simp] theorem State.signed_fixed (s : State) (a : Nat) (w : Word) (run : State → State)
    (hr : ∀ s, (run s).fixed = s.fixed) : (s.signed a w run).fixed = s.fixed := by
  unfold State.signed; split <;> simp [hr]

@[simp] theorem State.deviceKeyRead_fixed (s : State) : (State.deviceKeyRead s).fixed = s.fixed := by
  unfold State.deviceKeyRead; split <;> simp

@[simp] theorem State.ownerClaim_fixed (s : State) (key : BitVec 768) : (State.ownerClaim s key).fixed = s.fixed := by
  unfold State.ownerClaim; split
  · simp
  · split
    · simp
    · dsimp only
      rw [State.msgReply_fixed, State.setOwner_fixed]
      simp

@[simp] theorem State.ownerSet_fixed (s : State) (slot : Byte) (nonce : Word) (key sig : BitVec 768) :
    (State.ownerSet s slot nonce key sig).fixed = s.fixed := by simp [State.ownerSet]

@[simp] theorem State.ownerClear_fixed (s : State) (slot : Byte) (nonce : Word) (sig : BitVec 768) :
    (State.ownerClear s slot nonce sig).fixed = s.fixed := by simp [State.ownerClear]

@[simp] theorem State.crateKeySet_fixed (s : State) (slot signer : Byte) (nonce : Word) (e : BitVec 768) (iv :
    BitVec 96) (wrapped : BitVec 256) (gtag : BitVec 128) (sig : BitVec 768) : (State.crateKeySet s slot signer
    nonce e iv wrapped gtag sig).fixed = s.fixed := by
  unfold State.crateKeySet; dsimp only; split <;> simp

@[simp] theorem State.crateKeyClear_fixed (s : State) (slot signer : Byte) (nonce : Word) (sig : BitVec 768) :
    (State.crateKeyClear s slot signer nonce sig).fixed = s.fixed := by simp [State.crateKeyClear]

@[simp] theorem State.message_fixed (s : State) (b : List Byte) : (State.message s b).fixed = s.fixed := by
  unfold State.message; dsimp only; split <;> simp

@[simp] theorem State.fragment_fixed (s : State) (fb : Byte) (body : List Byte) : (State.fragment s fb body).fixed
    = s.fixed := by
  unfold State.fragment; dsimp only; repeat' split
  all_goals simp

@[simp] theorem State.issued_fixed (s : State) (t : Nat) (v : Tile) : (State.issued s t v).fixed = s.fixed := by
    simp [State.issued]

@[simp] theorem State.issueRow_fixed (s : State) (t : TileId) (g : Guard) (i : TileInstr) : (State.issueRow s t g
    i).fixed = s.fixed := by
  unfold State.issueRow; repeat' split
  all_goals simp

/-- What every command leaves of the queue, the grade, row, serial, key and stepping fuses, and of the two limits'
ranges. -/
def State.Keeps (s t : State) : Prop :=
  t.fixed.1 = s.fixed.1 ∧ t.fixed.2.1 = s.fixed.2.1 ∧ (s.limitsOk → t.limitsOk)

theorem State.limitsOk_of_fixed {s t : State} (h : t.fixed = s.fixed) (hs : s.limitsOk) : t.limitsOk := by
  have h1 : t.holdLim = s.holdLim := congrArg (fun q => q.2.2.1) h
  have h2 : t.wdog = s.wdog := congrArg (fun q => q.2.2.2) h
  unfold State.limitsOk at *; rw [h1, h2]; exact hs

theorem State.Keeps.of_fixed {s t : State} (h : t.fixed = s.fixed) : s.Keeps t :=
  ⟨congrArg (·.1) h, congrArg (·.2.1) h, State.limitsOk_of_fixed h⟩

theorem State.Keeps.refl (s : State) : s.Keeps s := State.Keeps.of_fixed rfl

theorem State.Keeps.trans {s t u : State} (h : s.Keeps t) (k : t.Keeps u) : s.Keeps u :=
  ⟨k.1.trans h.1, k.2.1.trans h.2.1, fun x => k.2.2 (h.2.2 x)⟩

theorem State.writeHoldLim_keeps (s : State) (v : Nat) : s.Keeps (s.writeHoldLim v) := by
  unfold State.writeHoldLim; split
  · rename_i h; exact ⟨id rfl, id rfl, fun k => ⟨h, k.2⟩⟩
  · exact State.Keeps.refl s

theorem State.writeWdog_keeps (s : State) (v : Nat) : s.Keeps (s.writeWdog v) := by
  unfold State.writeWdog; split
  · rename_i h; exact ⟨id rfl, id rfl, fun k => ⟨k.1, h⟩⟩
  · exact State.Keeps.refl s

theorem State.store32_keeps (s : State) (d : Nat) (b : Blk) (o : Nat) (v : Word) : s.Keeps (s.store32 d b o v) := by
  unfold State.store32; dsimp only
  repeat' split
  all_goals first
    | exact State.writeHoldLim_keeps _ _
    | exact State.writeWdog_keeps _ _
    | exact State.Keeps.of_fixed (by simp)

theorem State.aliasWord_keeps (s : State) (kind : Nat) (w : Requester) (bar : Bar) (off : Nat) (v : Word) :
    s.Keeps (s.aliasWord kind w bar off v) := by
  unfold State.aliasWord; dsimp only
  repeat' split
  all_goals first
    | exact State.store32_keeps _ _ _ _ _
    | exact State.Keeps.of_fixed (by simp)

theorem State.normalWord_keeps (s : State) (w : Requester) (bar : Bar) (off : Nat) (v : Word) :
    s.Keeps (s.normalWord w bar off v) := by
  unfold State.normalWord; dsimp only
  repeat' split
  all_goals first
    | exact State.store32_keeps _ _ _ _ _
    | exact State.Keeps.of_fixed (by simp)

theorem State.writeWord_keeps (s : State) (w : Requester) (bar : Bar) (off : Nat) (v : Word) :
    s.Keeps (s.writeWord w bar off v) := by
  unfold State.writeWord; split
  · exact State.normalWord_keeps _ _ _ _ _
  · exact State.aliasWord_keeps _ _ _ _ _ _

theorem State.writeReg_keeps (s : State) (w : Requester) (bar : Bar) (off size : Nat) (v : DWord) :
    s.Keeps (s.writeReg w bar off size v) := by
  unfold State.writeReg; repeat' split
  all_goals first
    | exact State.writeWord_keeps _ _ _ _ _
    | exact (State.writeWord_keeps _ _ _ _ _).trans (State.writeWord_keeps _ _ _ _ _)
    | exact State.Keeps.of_fixed (by simp)

theorem State.restarted_keeps (s : State) : s.Keeps s.restarted :=
  ⟨id rfl, id rfl, fun _ => show (250 ≤ State.reset.holdLim ∧ State.reset.holdLim ≤ 2500000) ∧
    25 ≤ State.reset.wdog ∧ State.reset.wdog ≤ 250000 by decide⟩

theorem State.resetKept_keeps (s : State) : s.Keeps s.resetKept :=
  ⟨id rfl, id rfl, fun _ => show (250 ≤ State.reset.holdLim ∧ State.reset.holdLim ≤ 2500000) ∧
    25 ≤ State.reset.wdog ∧ State.reset.wdog ≤ 250000 by decide⟩

theorem State.moduleReset_keeps (s : State) (p : Option Nat) (env : Option StartEnv) : s.Keeps (s.moduleReset p
    env) := by
  unfold State.moduleReset; dsimp only
  exact ((State.Keeps.of_fixed (by simp)).trans (State.resetKept_keeps (s.interruptAll p))).trans
    (State.Keeps.of_fixed (by simp))

theorem State.beginStart_keeps (s : State) (env : StartEnv) : s.Keeps (s.beginStart env) := by
  have key (r : State) : r.Keeps (State.bootRun { r with vcore := 600, vsram := 750 }
      { step := 1, hung := none, env := env, kind := 0 } (bootAll 0)) := State.Keeps.of_fixed (by simp)
  unfold State.beginStart; dsimp only
  refine State.Keeps.trans ?_ (key _)
  split
  · exact State.restarted_keeps s
  · exact (State.Keeps.of_fixed (State.vaonLost_fixed s)).trans (State.restarted_keeps s.vaonLost)

theorem State.dieFails_keeps (s : State) (d : Nat) : s.Keeps (s.dieFails d) := by
  unfold State.dieFails; dsimp only
  split
  · exact (State.Keeps.of_fixed (State.dieDown_fixed s d)).trans (State.moduleReset_keeps _ _ _)
  · exact State.Keeps.of_fixed (by simp)

theorem State.moduleCmd_keeps (s : State) (h : CmdHdr) (opc : Byte) (run : State → State) (hr : ∀ s : State,
    s.Keeps (run s)) :
    s.Keeps (s.moduleCmd h opc run) := by
  unfold State.moduleCmd; split
  · exact State.Keeps.of_fixed (by simp)
  · exact hr s

theorem State.checked_keeps (s : State) (h : CmdHdr) (k : CmdSpec) (run : State → State)
    (hr : ∀ s : State, s.Keeps (run s)) : s.Keeps (s.checked h k run) := by
  unfold State.checked; split
  · exact State.Keeps.of_fixed (by simp)
  · exact hr s

theorem State.muted_keeps (s : State) (h : CmdHdr) (run : State → State) (hr : ∀ s : State, s.Keeps (run s)) :
    s.Keeps (s.muted h run) := by
  have before : s.Keeps { s.setDie h.port.val { s.die h.port.val with neg := (s.die h.port.val).negWas } with
      silent := some h.id } := State.Keeps.of_fixed (by simp)
  refine State.Keeps.trans (before.trans (hr _)) (State.Keeps.of_fixed ?_)
  simp [State.muted]

theorem State.decode_keeps (s : State) (h : CmdHdr) (k : CmdSpec) (run : State → State)
    (hr : ∀ s : State, s.Keeps (run s)) : s.Keeps (s.decode h k run) := by
  have skip (r : State) : r.Keeps (r.skipBad 4097 h.port h.ring) := State.Keeps.of_fixed (by simp)
  unfold State.decode; split
  · rename_i e
    exact ((State.Keeps.of_fixed (State.takeMute_fixed _ _ _ _ e)).trans
      (State.muted_keeps _ h _ fun r => State.checked_keeps r h k run hr)).trans (skip _)
  · split
    · exact State.Keeps.refl s
    · rename_i e
      exact ((State.Keeps.of_fixed (State.takeCmd_fixed _ _ _ _ e)).trans (State.checked_keeps _ h k run hr)).trans (skip _)

theorem State.aliasWrite_keeps (s : State) (kind : Nat) (w : Requester) (bar : Bar) (off : Nat) (v : Word) :
    s.Keeps (s.aliasWrite kind w bar off v) := by
  unfold State.aliasWrite; split
  · exact State.aliasWord_keeps _ _ _ _ _ _
  · exact State.Keeps.of_fixed (by simp)

theorem State.released_keeps (s : State) (env : StartEnv) : s.Keeps (s.released env) := by
  unfold State.released; split
  · exact State.beginStart_keeps s env
  · exact State.Keeps.of_fixed (by simp)

theorem State.startDue_keeps (s : State) : s.Keeps s.startDue := by
  unfold State.startDue; repeat' split
  · exact State.Keeps.refl s
  · exact (State.Keeps.of_fixed (by simp)).trans (State.released_keeps _ _)
  · exact State.Keeps.refl s

end Sys2Proof.Machine
end

