-- ==== Sys2Proof/Laws/Floors.lean ====
section
/-!
SUPPORT. What leaves the floors and the rejoin stop as they are: the operations that a fence and a rejoin use (R576, R586). One
lemma per operation.
-/

namespace Sys2Proof.Machine

/-- The fields that the lemmas of this file follow. -/
def State.fl (s : State) := (s.floors, s.rejoinStop)

@[simp] theorem State.fl_eta (s : State) : (s.floors, s.rejoinStop) = s.fl := id rfl

theorem foldl_fl {α : Type} (g : State → α → State) (h : ∀ s a, (g s a).fl = s.fl) (l : List α) (s : State) :
    (l.foldl g s).fl = s.fl := foldl_leaves State.fl g h l s

@[simp] theorem State.fl_mk {pending'} {pkt'} {fallback'} {refLost'} {free'} {tiles'} {rooms'} {floors'} {lands'}
    {hatchPhase'} {instant'} {rejoinStop'} {holdAll'} {units'} {unitSets'} {net'} {netWait'} {rrobin'} {mcLeft'}
    {mcOutcome'} {inbox'} {edgeReqs'} {nextTag'} {barriers'} {gangs'} {aborting'} {gear'} {cgear'} {change'}
    {lastTarget'} {spineEvs'} {trims'} {lowRuns'} {gearPended'} {vcore'} {vsram'} {throttled'} {overSince'} {underSince'}
    {restart'} {tripped'} {holdLim'} {wdog'} {limsIn'} {goalsIn'} {flogW'} {flogR'} {flogLost'} {flog'} {modOvf'} {peerSel'} {shadow'}
    {low'} {dies'} {lead'} {cmds'} {silent'} {hostOut'} {readOut'} {smbOut'} {image'} {started'} {runEnded'}
    {moduleNo'} {coords'} {params'} {inv'} {banks'} {bankEdges'} {digests'} {mirrors'} {ledger'} {pipes'} {pstate'} {classes'}
    {voids'} {recIds'} {links'} {ports'} {peers'} {edgeStreams'} {sendRings'} {hangWait'} {benchedDies'}
    {dieFailures'} {testMode'} {fuses'} {powered'} {mreset'} {pwrgd'} {ready'} {resetting'} {boot'} {startWait'}
    {startNo'} {failStep'} {failCode'} {failedLead'} {degraded'} {linksDown'} {portsDown'} {jAon'} {jFlash'}
    {jQueue'} {stairTrained'} {firmware'} {ownerKeys'} {crateKeys'} {nonce'} {msg'} {alertDegraded'} {alertFailed'}
    {alertThrottle'} {throttleSeen'} : (State.mk pending' pkt' fallback' refLost' free' tiles' rooms' floors'
    lands' hatchPhase' instant' rejoinStop' holdAll' units' unitSets' net' netWait' rrobin' mcLeft' mcOutcome'
    inbox' edgeReqs' nextTag' barriers' gangs' aborting' gear' cgear' change' lastTarget' spineEvs' trims' lowRuns' gearPended'
    vcore' vsram' throttled' overSince' underSince' restart' tripped' holdLim' wdog' limsIn' goalsIn' flogW' flogR' flogLost' flog'
    modOvf' peerSel' shadow' low' dies' lead' cmds' silent' hostOut' readOut' smbOut' image' started' runEnded'
    moduleNo' coords' params' inv' banks' bankEdges' digests' mirrors' ledger' pipes' pstate' classes' voids' recIds' links'
    ports' peers' edgeStreams' sendRings' hangWait' benchedDies' dieFailures' testMode' fuses' powered' mreset'
    pwrgd' ready' resetting' boot' startWait' startNo' failStep' failCode' failedLead' degraded' linksDown'
    portsDown' jAon' jFlash' jQueue' stairTrained' firmware' ownerKeys' crateKeys' nonce' msg' alertDegraded'
    alertFailed' alertThrottle' throttleSeen').fl = (floors', rejoinStop') := id rfl

@[simp] theorem State.setTile_fl (s : State) (t : Nat) (v : Tile) : (State.setTile s t v).fl = s.fl := by simp
    [State.setTile]

@[simp] theorem State.setRoom_fl (s : State) (r : Nat) (v : Room) : (State.setRoom s r v).fl = s.fl := by simp
    [State.setRoom]

@[simp] theorem State.setDie_fl (s : State) (d : Nat) (v : Die) : (State.setDie s d v).fl = s.fl := by simp
    [State.setDie]

@[simp] theorem State.setUnit_fl (s : State) (p : Word) (v : UnitRegs) : (State.setUnit s p v).fl = s.fl := by simp
    [State.setUnit]

@[simp] theorem State.setInv_fl (s : State) (e : Nat) (v : Inv) : (State.setInv s e v).fl = s.fl := by simp
    [State.setInv]

@[simp] theorem State.setBank_fl (s : State) (i : Nat) (v : Bank) : (State.setBank s i v).fl = s.fl := by simp
    [State.setBank]

@[simp] theorem State.setDigest_fl (s : State) (i : Nat) (v : Digest) : (State.setDigest s i v).fl = s.fl := by
    simp [State.setDigest]

@[simp] theorem State.setPipe_fl (s : State) (p : Nat) (v : Pipe) : (State.setPipe s p v).fl = s.fl := by simp
    [State.setPipe]

@[simp] theorem State.setBarrier_fl (s : State) (b : Nat) (v : List Arrival) : (State.setBarrier s b v).fl = s.fl
    := by simp [State.setBarrier]

@[simp] theorem State.event_fl (s : State) (p : Word) (b : Nat) : (State.event s p b).fl = s.fl := by
  unfold State.event; exact foldl_fl _ (fun _ _ => by simp) _ _

@[simp] theorem State.countFault_fl (s : State) (p : Word) : (State.countFault s p).fl = s.fl := by
  unfold State.countFault; dsimp only; split <;> simp

@[simp] theorem State.limitAt_fl (s : State) (p : Word) (raise : Bool) : (State.limitAt s p raise).fl = s.fl := by
  unfold State.limitAt; split <;> simp

@[simp] theorem State.emit_fl (s : State) (d : Nat) (op : HostOp) : (State.emit s d op).fl = s.fl := by
  unfold State.emit; dsimp only; repeat' split
  all_goals simp

@[simp] theorem State.signal_fl (s : State) (d v : Nat) : (State.signal s d v).fl = s.fl := by
  unfold State.signal; dsimp only; split <;> simp

@[simp] theorem State.writeEntry_fl (s : State) (d i : Nat) (tag status ring : Nat) (opc : Byte) (time : Nat)
    (detail : List Byte) : (State.writeEntry s d i tag status ring opc time detail).fl = s.fl := by
  unfold State.writeEntry; dsimp only; split <;> simp

@[simp] theorem State.reply_fl (s : State) (h : CmdHdr) (opc : Byte) (status : Nat) (detail : List Byte) :
    (State.reply s h opc status detail).fl = s.fl := by
  unfold State.reply; split <;> simp

@[simp] theorem State.finish_fl (s : State) (c : Cmd) (status : Nat) (detail : List Byte) : (State.finish s c
    status detail).fl = s.fl := by
  unfold State.finish; split <;> simp

@[simp] theorem State.finishAll_fl (s : State) (p : Cmd → Bool) (status : Cmd → Nat × List Byte) : (State.finishAll
    s p status).fl = s.fl := by
  unfold State.finishAll; exact foldl_fl _ (fun _ _ => by simp) _ _

@[simp] theorem State.endLoad_fl (s : State) (cause : Byte) : (State.endLoad s cause).fl = s.fl := by simp
    [State.endLoad]

@[simp] theorem State.drainNotices_fl (k : Nat) (s : State) (d : Nat) : (State.drainNotices k s d).fl = s.fl := by
  induction k generalizing s with
  | zero => rfl
  | succ k ih =>
    unfold State.drainNotices; dsimp only; repeat' split
    all_goals simp [ih]

@[simp] theorem State.noticeOn_fl (s : State) (d code : Nat) (detail : List Byte) : (State.noticeOn s d code
    detail).fl = s.fl := by
  unfold State.noticeOn; dsimp only; repeat' split
  all_goals simp

@[simp] theorem State.notice_fl (s : State) (code : Nat) (detail : List Byte) : (State.notice s code detail).fl =
    s.fl := by
  unfold State.notice; exact foldl_fl _ (fun _ _ => by simp) _ _

@[simp] theorem State.record_fl (s : State) (r : FaultRec) : (State.record s r).fl = s.fl := by simp [State.record]

@[simp] theorem State.setEdgeReq_fl (s : State) (r : EdgeReq) : (State.setEdgeReq s r).fl = s.fl := by simp
    [State.setEdgeReq]

@[simp] theorem State.releaseVoids_fl (s : State) (p : Nat) : (State.releaseVoids s p).fl = s.fl := by
  unfold State.releaseVoids; split <;> simp

@[simp] theorem State.tableReply_fl (s : State) (p k f refusals : Nat) (dropped : Bool) : (State.tableReply s p k f
    refusals dropped).fl = s.fl := by
  unfold State.tableReply; split <;> simp

@[simp] theorem State.edgeFloor_fl (s : State) (r : EdgeReq) (f refusals : Nat) (dropped : Bool) : (State.edgeFloor
    s r f refusals dropped).fl = s.fl := by
  unfold State.edgeFloor; dsimp only; repeat' split
  all_goals simp

@[simp] theorem State.setCrateSet_fl (s : State) (k : SetId) (v : CrateSet) : (State.setCrateSet s k v).fl = s.fl
    := by
  unfold State.setCrateSet; split <;> simp

@[simp] theorem State.setKinds_fl (s : State) (bs : List (Nat × Nat)) (k : Nat) : (State.setKinds s bs k).fl = s.fl
    := by
  unfold State.setKinds; exact foldl_fl _ (fun _ _ => by simp) _ _

@[simp] theorem State.reRequest_fl (s : State) (k : SetId) (crate code attempt : Nat) : (State.reRequest s k crate
    code attempt).fl = s.fl := by simp [State.reRequest]

@[simp] theorem State.putBad_fl (s : State) (k : SetId) : (State.putBad s k).fl = s.fl := by
  unfold State.putBad; split <;> simp

@[simp] theorem State.blockFailed_fl (s : State) (t b : Nat) : (State.blockFailed s t b).fl = s.fl := by
  unfold State.blockFailed; dsimp only; repeat' split
  all_goals simp

@[simp] theorem State.reverify_fl (s : State) (lost : Bool) (t b : Nat) : (State.reverify s lost t b).fl = s.fl := by
  unfold State.reverify; dsimp only; repeat' split
  all_goals simp

@[simp] theorem State.journal_fl (s : State) (step : Nat) (u : BootUnit) (alt : Bool) (result : Nat) (fail : BitVec
    16) (fr : Bool) (attempt : Nat) : (State.journal s step u alt result fail fr attempt).fl = s.fl := by simp
    [State.journal]

@[simp] theorem State.attempt_fl (s : State) (l : List AttemptRow) (step : Nat) (u : BootUnit) (fr alt : Bool) (n :
    Nat) (check : Option (BitVec 16)) : (State.attempt s l step u fr alt n check).1.fl = s.fl := by
  unfold State.attempt; split <;> simp

@[simp] theorem State.rampDown_fl (s : State) (r : Nat) : (State.rampDown s r).fl = s.fl := by simp [State.rampDown]

@[simp] theorem State.abortDone_fl (s : State) : (State.abortDone s).fl = s.fl := by
  unfold State.abortDone; (try dsimp only); repeat' split
  all_goals (first
    | (simp; done)
    | ((try simp)
       rw [foldl_fl]
       all_goals ((try intros); (try dsimp only); repeat' split)
       all_goals (first
         | (simp; done)
         | ((try simp)
            rw [foldl_fl]
            all_goals ((try intros); (try dsimp only); repeat' split)
            all_goals (simp; done)))))

@[simp] theorem State.stopsDone_fl (s : State) : (State.stopsDone s).fl = s.fl := by
  unfold State.stopsDone; (try dsimp only); repeat' split
  all_goals (first
    | (simp; done)
    | ((try simp)
       rw [foldl_fl]
       all_goals ((try intros); (try dsimp only); repeat' split)
       all_goals (first
         | (simp; done)
         | ((try simp)
            rw [foldl_fl]
            all_goals ((try intros); (try dsimp only); repeat' split)
            all_goals (simp; done)))))

@[simp] theorem State.leaveBarriers_fl (s : State) (f : Nat) : (State.leaveBarriers s f).fl = s.fl := by
  unfold State.leaveBarriers; dsimp only; rw [foldl_fl]
  intros; repeat' split
  all_goals simp

@[simp] theorem State.fenceReqs_fl (s : State) (f : Nat) : (State.fenceReqs s f).fl = s.fl := by
  unfold State.fenceReqs; dsimp only
  rw [foldl_fl _ (fun s q => State.edgeFloor_fl _ _ _ _ _)]
  simp

@[simp] theorem State.fenceWaits_fl (s : State) (f : Nat) : (State.fenceWaits s f).fl = s.fl := by
  unfold State.fenceWaits
  extract_lets t u
  have h : u.fl = s.fl := by simp [u, t]
  clear_value u
  simp [h]

@[simp] theorem State.reverifyFloor_fl (s : State) (f : Nat) : (State.reverifyFloor s f).fl = s.fl := by
  unfold State.reverifyFloor; exact foldl_fl _ (fun _ _ => by simp) _ _

@[simp] theorem State.restoreKinds_fl (s : State) (f : Nat) : (State.restoreKinds s f).fl = s.fl := by
  unfold State.restoreKinds; exact foldl_fl _ (fun _ _ => by simp) _ _

@[simp] theorem State.latchCounts_fl (s : State) (r n : Nat) : (State.latchCounts s r n).fl = s.fl := by simp
    [State.latchCounts]

@[simp] theorem State.refusePkt_fl (s : State) (d : DieId) (i : Fin 8) (p : BitVec 512) : (State.refusePkt s d i p).fl
    = s.fl := by
  unfold State.refusePkt; dsimp only; repeat' split
  all_goals simp

@[simp] theorem State.skipBad_fl (n : Nat) (s : State) (d : DieId) (i : Fin 8) : (State.skipBad n s d i).fl = s.fl
    := by
  induction n generalizing s with
  | zero => rfl
  | succ k ih =>
    unfold State.skipBad; dsimp only; repeat' split
    all_goals simp [ih]

end Sys2Proof.Machine
end

