-- ==== Sys2Proof/Laws/Memory.lean ====
section
/-! SUPPORT. What the memory operations of a tile do: what an address reads after a write, and the canonical form that
every write keeps. -/

namespace Sys2Proof.Machine

/-- A write keeps the canonical form. -/
theorem memWrite_wf (m : List Host.Cell) (a : Nat) (l : List Byte) (h : Memory.wf m = true) :
    Memory.wf (memWrite m a l) = true :=
  List.foldlRecOn _ _ (motive := fun m => Memory.wf m = true) h fun _ kept x _ => Tbl.wf_set 0 _ x.2 x.1 kept

/-- What an address reads after a write: the byte written there, else what it read before. -/
theorem memWrite_get (m : List Host.Cell) (a : Nat) (l : List Byte) (q : Nat) :
    Tbl.get (0 : Byte) (memWrite m a l) q = if a ≤ q then l[q - a]?.getD (Tbl.get 0 m q) else Tbl.get 0 m q := by
  match l with
  | [] => simp [memWrite]
  | b :: rest =>
    have tail : memWrite m a (b :: rest) = memWrite (Tbl.set 0 m a b) (a + 1) rest := rfl
    rw [tail, memWrite_get]
    rcases Nat.lt_trichotomy q a with below | rfl | above
    · rw [if_neg (by omega), if_neg (by omega), Tbl.get_set_ne _ _ _ (Nat.ne_of_lt below)]
    · rw [if_neg (by omega), if_pos (by omega)]; simp
    · obtain ⟨i, rfl⟩ := Nat.exists_eq_add_of_lt above
      rw [Tbl.get_set_ne _ _ _ (Nat.ne_of_gt above), if_pos (by omega), if_pos (by omega),
        show a + i + 1 - (a + 1) = i by omega, show a + i + 1 - a = i + 1 by omega, List.getElem?_cons_succ]

/-- The tags that a write sets leave both memories. -/
theorem Tile.retag_mem (agent : Nat) (t : Tile) (l : Nat) :
    ((t.retag agent l).attic, (t.retag agent l).cellar) = (t.attic, t.cellar) := by
  unfold Tile.retag
  cases t.shelfOf l with
  | none => rfl
  | some shelf =>
    dsimp only
    by_cases zeroing : agent = agHzero
    · rw [if_pos zeroing]; rfl
    · rw [if_neg zeroing]; cases shelf.inbound <;> rfl

/-- What `store` leaves in the two memories. -/
theorem Tile.store_mem (t : Tile) (w : MemWr) :
    ((t.store w).attic, (t.store w).cellar) =
      if w.cellar then (t.attic, memWrite t.cellar w.addr w.bytes)
      else (memWrite t.attic w.addr w.bytes, t.cellar) := by
  cases cell : w.cellar
  · simp only [Tile.store, cell, Bool.false_eq_true, if_false]
    exact List.foldlRecOn _ _ (motive := fun (u : Tile) => (u.attic, u.cellar) = _) rfl
      fun _ kept l _ => (Tile.retag_mem _ _ l).trans kept
  · simp [Tile.store, cell]

/-- A write through `store` keeps both memories canonical. -/
theorem Tile.store_wf (t : Tile) (w : MemWr) (attic : Memory.wf t.attic = true) (cellar : Memory.wf t.cellar = true) :
    Memory.wf (t.store w).attic = true ∧ Memory.wf (t.store w).cellar = true := by
  have after := t.store_mem w
  cases cell : w.cellar <;> simp only [cell, Bool.false_eq_true, if_false, if_true, Prod.mk.injEq] at after
  · exact ⟨after.1 ▸ memWrite_wf _ _ _ attic, after.2 ▸ cellar⟩
  · exact ⟨after.1 ▸ attic, after.2 ▸ memWrite_wf _ _ _ cellar⟩

end Sys2Proof.Machine
end

