-- ==== Sys2Proof/Laws/Ports.lean ====
section
/-!
SUPPORT. What an answer to a host can change: the records of the edge dies and what goes out to the hosts (R501, R503,
R507), and nothing else; and what the decoding of an accepted command comes to (R508).
-/

namespace Sys2Proof.Machine

theorem State.portsOnly_refl (s : State) : s.portsOnly s := rfl

theorem State.portsOnly_trans {s t u : State} (h : s.portsOnly t) (k : t.portsOnly u) : s.portsOnly u := by
  unfold State.portsOnly at *
  rw [h] at k
  exact k

theorem State.setDie_ports (s : State) (d : Nat) (v : Die) : s.portsOnly (s.setDie d v) := rfl

theorem State.emit_ports (s : State) (d : Nat) (op : HostOp) : s.portsOnly (s.emit d op) := by
  unfold State.emit; dsimp only; repeat' split
  all_goals rfl

theorem State.signal_ports (s : State) (d v : Nat) : s.portsOnly (s.signal d v) := by
  unfold State.signal; dsimp only; split
  · rfl
  · exact State.emit_ports _ _ _

theorem State.writeEntry_ports (s : State) (d i tag status ring : Nat) (opc : Byte) (time : Nat) (detail : List Byte) :
    s.portsOnly (s.writeEntry d i tag status ring opc time detail) := by
  unfold State.writeEntry; dsimp only; split
  · rfl
  · exact State.portsOnly_trans (State.portsOnly_trans (State.portsOnly_trans (State.portsOnly_trans
      (State.setDie_ports s d _) (State.emit_ports _ _ _)) (State.emit_ports _ _ _)) (State.emit_ports _ _ _))
      (State.signal_ports _ _ _)

theorem State.reply_ports (s : State) (h : CmdHdr) (opc : Byte) (status : Nat) (detail : List Byte) :
    s.portsOnly (s.reply h opc status detail) := by
  unfold State.reply; split
  · rfl
  · exact State.portsOnly_trans (State.writeEntry_ports s _ _ _ _ _ _ _ _) (State.setDie_ports _ _ _)

theorem State.refusePkt_ports (s : State) (d : DieId) (i : Fin 8) (p : BitVec 512) : s.portsOnly (s.refusePkt d i p) := by
  unfold State.refusePkt; dsimp only; repeat' split
  all_goals first
    | exact State.reply_ports _ _ _ _ _
    | rfl

theorem State.skipBad_ports (k : Nat) (s : State) (d : DieId) (i : Fin 8) : s.portsOnly (State.skipBad k s d i) := by
  match k with
  | 0 => rfl
  | k + 1 =>
    have later := fun r => State.skipBad_ports k r d i
    unfold State.skipBad; dsimp only; repeat' split
    · rfl
    · exact State.portsOnly_trans (State.portsOnly_trans (State.setDie_ports s _ _) (State.refusePkt_ports _ _ _ _)) (later _)
    · exact State.portsOnly_trans (State.setDie_ports s _ _) (later _)
    · rfl

theorem State.moveOn_ports (s : State) (h : CmdHdr) : s.portsOnly (s.moveOn h) := State.skipBad_ports _ _ _ _

theorem State.takeCmd_ports (s a : State) (h : CmdHdr) (k : CmdSpec) (e : s.takeCmd h k = some a) : s.portsOnly a := by
  unfold State.takeCmd at e; dsimp only at e
  repeat' split at e
  all_goals first
    | cases e; done
    | cases e; rfl

/-- A ring that gives up a command holds none that a reset of its port left (R652). -/
theorem State.takeMute_of_takeCmd {s a : State} {h : CmdHdr} {k : CmdSpec} (e : s.takeCmd h k = some a) :
    s.takeMute h k = none := by
  unfold State.takeCmd at e; unfold State.takeMute
  dsimp only at e ⊢
  split at e
  · cases e
  · rename_i free
    have mute : ((s.die h.port.val).subRing h.ring.val).mute = 0 := by
      cases left : ((s.die h.port.val).subRing h.ring.val).mute with
      | zero => rfl
      | succ n => simp [left] at free
    rw [if_pos (by simp [mute])]

/-- A command that its ring gives up is checked, and the ring moves on. -/
theorem State.decode_of_takeCmd {s a : State} {h : CmdHdr} {k : CmdSpec} (run : State → State)
    (e : s.takeCmd h k = some a) : s.decode h k run = (a.checked h k run).moveOn h := by
  unfold State.decode State.moveOn; rw [State.takeMute_of_takeCmd e, e]

/-- An accepted command runs on the state that its ring leaves. -/
theorem State.decode_of_accepts {s a : State} {h : CmdHdr} {k : CmdSpec} (run : State → State) (e : s.accepts h k a) :
    s.decode h k run = (run a).moveOn h := by
  rw [State.decode_of_takeCmd run e.1, State.checked, e.2]

/-- A command that fails a check of R508 is answered with its status, and has no other effect. -/
theorem State.decode_of_fails {s a : State} {h : CmdHdr} {k : CmdSpec} (run : State → State) {r : Nat × List Byte}
    (e : s.takeCmd h k = some a) (c : a.check h k = some r) :
    s.decode h k run = (a.reply h k.opc r.1 r.2).moveOn h := by
  rw [State.decode_of_takeCmd run e, State.checked, c]

/-- A command that its ring gives up is answered: no reply is held back. -/
theorem State.takeCmd_silent {s a : State} {h : CmdHdr} {k : CmdSpec} (e : s.takeCmd h k = some a) : a.silent = none := by
  unfold State.takeCmd at e; dsimp only at e
  repeat' split at e
  all_goals first
    | cases e; done
    | cases e; rfl

end Sys2Proof.Machine
end

