-- ==== Sys2Proof/Laws/Run.lean ====
section
/-!
SUPPORT. What the operations that an image command uses leave of the run: the image and its parameters, the start tread and
the pipelines (R412, R518). One lemma per operation.
-/

namespace Sys2Proof.Machine

/-- The fields that the lemmas of this file follow. -/
def State.run (s : State) := (s.image, s.started, s.runEnded, s.params, s.moduleNo, s.coords, s.pipes)

@[simp] theorem State.run_eta (s : State) : (s.image, s.started, s.runEnded, s.params, s.moduleNo, s.coords,
    s.pipes) = s.run := id rfl

theorem foldl_run {α : Type} (g : State → α → State) (h : ∀ s a, (g s a).run = s.run) (l : List α) (s : State) :
    (l.foldl g s).run = s.run := foldl_leaves State.run g h l s

@[simp] theorem State.run_mk {pending'} {pkt'} {fallback'} {refLost'} {free'} {tiles'} {rooms'} {floors'} {lands'}
    {hatchPhase'} {instant'} {rejoinStop'} {holdAll'} {units'} {unitSets'} {net'} {netWait'} {rrobin'} {mcLeft'}
    {mcOutcome'} {inbox'} {edgeReqs'} {nextTag'} {barriers'} {gangs'} {aborting'} {gear'} {cgear'} {change'}
    {lastTarget'} {spineEvs'} {trims'} {lowRuns'} {gearPended'} {vcore'} {vsram'} {throttled'} {overSince'} {underSince'}
    {restart'} {tripped'} {holdLim'} {wdog'} {limsIn'} {goalsIn'} {flogW'} {flogR'} {flogLost'} {flog'} {modOvf'} {peerSel'} {shadow'}
    {low'} {dies'} {lead'} {cmds'} {silent'} {hostOut'} {readOut'} {smbOut'} {image'} {started'} {runEnded'}
    {moduleNo'} {coords'} {params'} {inv'} {banks'} {bankEdges'} {digests'} {mirrors'} {ledger'} {pipes'} {pstate'} {classes'}
    {voids'} {recIds'} {links'} {ports'} {peers'} {edgeStreams'} {sendRings'} {hangWait'} {benchedDies'}
    {dieFailures'} {testMode'} {fuses'} {powered'} {mreset'} {pwrgd'} {ready'} {resetting'} {boot'} {startWait'}
    {startNo'} {failStep'} {failCode'} {failedLead'} {degraded'} {linksDown'} {portsDown'} {jAon'} {jFlash'}
    {jQueue'} {stairTrained'} {firmware'} {ownerKeys'} {crateKeys'} {nonce'} {msg'} {alertDegraded'} {alertFailed'}
    {alertThrottle'} {throttleSeen'} : (State.mk pending' pkt' fallback' refLost' free' tiles' rooms' floors'
    lands' hatchPhase' instant' rejoinStop' holdAll' units' unitSets' net' netWait' rrobin' mcLeft' mcOutcome'
    inbox' edgeReqs' nextTag' barriers' gangs' aborting' gear' cgear' change' lastTarget' spineEvs' trims' lowRuns' gearPended'
    vcore' vsram' throttled' overSince' underSince' restart' tripped' holdLim' wdog' limsIn' goalsIn' flogW' flogR' flogLost' flog'
    modOvf' peerSel' shadow' low' dies' lead' cmds' silent' hostOut' readOut' smbOut' image' started' runEnded'
    moduleNo' coords' params' inv' banks' bankEdges' digests' mirrors' ledger' pipes' pstate' classes' voids' recIds' links'
    ports' peers' edgeStreams' sendRings' hangWait' benchedDies' dieFailures' testMode' fuses' powered' mreset'
    pwrgd' ready' resetting' boot' startWait' startNo' failStep' failCode' failedLead' degraded' linksDown'
    portsDown' jAon' jFlash' jQueue' stairTrained' firmware' ownerKeys' crateKeys' nonce' msg' alertDegraded'
    alertFailed' alertThrottle' throttleSeen').run = (image', started', runEnded', params', moduleNo', coords',
    pipes') := id rfl

@[simp] theorem State.setTile_run (s : State) (t : Nat) (v : Tile) : (State.setTile s t v).run = s.run := by simp
    [State.setTile]

@[simp] theorem State.setRoom_run (s : State) (r : Nat) (v : Room) : (State.setRoom s r v).run = s.run := by simp
    [State.setRoom]

@[simp] theorem State.setFloor_run (s : State) (f : Nat) (v : Floor) : (State.setFloor s f v).run = s.run := by
    simp [State.setFloor]

@[simp] theorem State.setDie_run (s : State) (d : Nat) (v : Die) : (State.setDie s d v).run = s.run := by simp
    [State.setDie]

@[simp] theorem State.setUnit_run (s : State) (p : Word) (v : UnitRegs) : (State.setUnit s p v).run = s.run := by
    simp [State.setUnit]

@[simp] theorem State.setInv_run (s : State) (e : Nat) (v : Inv) : (State.setInv s e v).run = s.run := by simp
    [State.setInv]

@[simp] theorem State.setSess_run (s : State) (i : Nat) (v : Sess) : (State.setSess s i v).run = s.run := by simp
    [State.setSess]

@[simp] theorem State.setPipe_run (s : State) (p : Nat) (v : Pipe) : (State.setPipe s p v).run = s.run := by simp
    [State.setPipe]

@[simp] theorem State.setLink_run (s : State) (i : Nat) (v : Link) : (State.setLink s i v).run = s.run := by simp
    [State.setLink]

@[simp] theorem State.setPort_run (s : State) (i : Nat) (v : Port) : (State.setPort s i v).run = s.run := by simp
    [State.setPort]

@[simp] theorem State.setPeer_run (s : State) (n : Nat) (v : Peer) : (State.setPeer s n v).run = s.run := by simp
    [State.setPeer]

@[simp] theorem State.setGang_run (s : State) (b : Nat) (v : Gang) : (State.setGang s b v).run = s.run := by simp
    [State.setGang]

@[simp] theorem State.event_run (s : State) (p : Word) (b : Nat) : (State.event s p b).run = s.run := by
  unfold State.event; exact foldl_run _ (fun _ _ => by simp) _ _

@[simp] theorem State.countFault_run (s : State) (p : Word) : (State.countFault s p).run = s.run := by
  unfold State.countFault; dsimp only; split <;> simp

@[simp] theorem State.limitAt_run (s : State) (p : Word) (raise : Bool) : (State.limitAt s p raise).run = s.run := by
  unfold State.limitAt; split <;> simp

@[simp] theorem State.emit_run (s : State) (d : Nat) (op : HostOp) : (State.emit s d op).run = s.run := by
  unfold State.emit; dsimp only; repeat' split
  all_goals simp

@[simp] theorem State.signal_run (s : State) (d v : Nat) : (State.signal s d v).run = s.run := by
  unfold State.signal; dsimp only; split <;> simp

@[simp] theorem State.writeEntry_run (s : State) (d i : Nat) (tag status ring : Nat) (opc : Byte) (time : Nat)
    (detail : List Byte) : (State.writeEntry s d i tag status ring opc time detail).run = s.run := by
  unfold State.writeEntry; dsimp only; split <;> simp

@[simp] theorem State.reply_run (s : State) (h : CmdHdr) (opc : Byte) (status : Nat) (detail : List Byte) :
    (State.reply s h opc status detail).run = s.run := by
  unfold State.reply; split <;> simp

@[simp] theorem State.drainNotices_run (k : Nat) (s : State) (d : Nat) : (State.drainNotices k s d).run = s.run := by
  induction k generalizing s with
  | zero => rfl
  | succ k ih =>
    unfold State.drainNotices; dsimp only; repeat' split
    all_goals simp [ih]

@[simp] theorem State.noticeOn_run (s : State) (d code : Nat) (detail : List Byte) : (State.noticeOn s d code
    detail).run = s.run := by
  unfold State.noticeOn; dsimp only; repeat' split
  all_goals simp

@[simp] theorem State.notice_run (s : State) (code : Nat) (detail : List Byte) : (State.notice s code detail).run =
    s.run := by
  unfold State.notice; exact foldl_run _ (fun _ _ => by simp) _ _

@[simp] theorem State.record_run (s : State) (r : FaultRec) : (State.record s r).run = s.run := by simp [State.record]

@[simp] theorem State.abortTile_run (s : State) (t : Nat) : (State.abortTile s t).run = s.run := by simp
    [State.abortTile]

@[simp] theorem State.setBuf_run (s : State) (k : Nat) (l : List Packet) : (State.setBuf s k l).run = s.run := by
    simp [State.setBuf]

@[simp] theorem State.setWait_run (s : State) (k : Nat) (l : List Packet) : (State.setWait s k l).run = s.run := by
    simp [State.setWait]

@[simp] theorem State.openComb_run (s : State) (f : Nat) (p : Packet) : ((s.openComb f p).getD s).run = s.run := by
  unfold State.openComb; dsimp only; repeat' split
  all_goals simp

@[simp] theorem State.refill_run (n : Nat) (s : State) (k : Nat) : (State.refill n s k).run = s.run := by
  match n with
  | 0 => rfl
  | n + 1 =>
    have later := fun r => State.refill_run n r k
    unfold State.refill; repeat' split
    any_goals rfl
    rename_i next opened
    have same := State.openComb_run s (tileFloor (k / 20)) ‹Packet›
    rw [opened] at same
    rw [later]; simpa using same

@[simp] theorem State.putAt_run (s : State) (k : Nat) (p : Packet) : (State.putAt s k p).run = s.run := by
  simp [State.putAt]

@[simp] theorem State.edgeAnswer_run (s : State) (d f : Nat) (p : Packet) : (State.edgeAnswer s d f p).run = s.run
    := by simp [State.edgeAnswer]

@[simp] theorem State.dieInject_run (s : State) (d : Nat) (p : Packet) : (State.dieInject s d p).run = s.run := by
  unfold State.dieInject; dsimp only; repeat' split
  all_goals simp

@[simp] theorem State.dieSendMulti_run (s : State) (d : DieId) (k : PktKind) (m : Multicast) (len : Nat) (payload :
    List Byte) (why : Purpose) (only : List Nat) : (State.dieSendMulti s d k m len payload why only).1.run = s.run
    := by
  unfold State.dieSendMulti; dsimp only; repeat' split
  all_goals simp

@[simp] theorem State.addRefs_run (s : State) (up : Bool) (es : List Nat) : (State.addRefs s up es).run = s.run := by
  unfold State.addRefs; exact foldl_run _ (fun _ _ => by simp) _ _

@[simp] theorem State.assignChoice_run (s : State) (home : Nat) (last : Option Cand) (left : List Cand) :
    (State.assignChoice s home last left).run = s.run := by
  unfold State.assignChoice; repeat' split
  all_goals simp

@[simp] theorem State.sendTable_run (s : State) (r : PipeRec) (k : Nat) (m : Multicast) (only : List Nat) :
    (State.sendTable s r k m only).run = s.run := by simp [State.sendTable]

@[simp] theorem State.boundary_run (s : State) (r : PipeRec) : (State.boundary s r).run = s.run := by
  unfold State.boundary; (try dsimp only); repeat' split
  all_goals (first
    | (simp; done)
    | ((try simp)
       rw [foldl_run]
       all_goals ((try intros); (try dsimp only); repeat' split)
       all_goals (first
         | (simp; done)
         | ((try simp)
            rw [foldl_run]
            all_goals ((try intros); (try dsimp only); repeat' split)
            all_goals (simp; done)))))

@[simp] theorem State.holdPorts_run (s : State) : (State.holdPorts s).run = s.run := by
  unfold State.holdPorts; dsimp only
  rw [foldl_run _ (fun s q => by split <;> simp), foldl_run _ (fun s q => by simp), foldl_run _ (fun s q => by simp)]

@[simp] theorem State.rampDown_run (s : State) (r : Nat) : (State.rampDown s r).run = s.run := by simp
    [State.rampDown]

@[simp] theorem State.imageRefs_run (s : State) (up : Bool) : (State.imageRefs s up).run = s.run := by
  unfold State.imageRefs; split <;> simp

@[simp] theorem State.peerState_run (s : State) (n st : Nat) (port : Option Nat) : (State.peerState s n st
    port).run = s.run := by simp [State.peerState]

@[simp] theorem State.linkFault_run (s : State) (d sub port link ring dmod dpath : Nat) : (State.linkFault s d sub
    port link ring dmod dpath).run = s.run := by simp [State.linkFault]

@[simp] theorem State.sendFlit_run (s : State) (i : Nat) (sync : Option SyncFrame) (pseq : BitVec 16) (payload :
    List Byte) : (State.sendFlit s i sync pseq payload).run = s.run := by
  unfold State.sendFlit; split <;> simp

@[simp] theorem State.sendSync_run (s : State) (k : Nat) (f : SyncFrame) : (State.sendSync s k f).run = s.run := by
  unfold State.sendSync; split <;> simp

@[simp] theorem State.gangDone_run (s : State) (b : Nat) (v : Option Word) (op : Nat) (poison : Bool) :
    (State.gangDone s b v op poison).run = s.run := by
  unfold State.gangDone; (try dsimp only); repeat' split
  all_goals (first
    | (simp; done)
    | ((try simp)
       rw [foldl_run]
       all_goals ((try intros); (try dsimp only); repeat' split)
       all_goals (first
         | (simp; done)
         | ((try simp)
            rw [foldl_run]
            all_goals ((try intros); (try dsimp only); repeat' split)
            all_goals (simp; done)))))

@[simp] theorem State.gangGo_run (s : State) (b : Nat) : (State.gangGo s b).run = s.run := by
  unfold State.gangGo; dsimp only; repeat' split
  all_goals simp

@[simp] theorem State.tryLive_run (s : State) (k : Nat) : (State.tryLive s k).run = s.run := by
  unfold State.tryLive; (try dsimp only); repeat' split
  all_goals (first
    | (simp; done)
    | ((try simp)
       rw [foldl_run]
       all_goals ((try intros); (try dsimp only); repeat' split)
       all_goals (first
         | (simp; done)
         | ((try simp)
            rw [foldl_run]
            all_goals ((try intros); (try dsimp only); repeat' split)
            all_goals (simp; done)))))

@[simp] theorem State.sendHello_run (s : State) (k : Nat) : (State.sendHello s k).run = s.run := by
  unfold State.sendHello; dsimp only; repeat' split
  all_goals simp

@[simp] theorem State.sendHellos_run (s : State) : (State.sendHellos s).run = s.run := by
  unfold State.sendHellos; exact foldl_run _ (fun _ _ => by simp) _ _

@[simp] theorem State.refusePkt_run (s : State) (d : DieId) (i : Fin 8) (p : BitVec 512) : (State.refusePkt s d i
    p).run = s.run := by
  unfold State.refusePkt; dsimp only; repeat' split
  all_goals simp

@[simp] theorem State.skipBad_run (n : Nat) (s : State) (d : DieId) (i : Fin 8) : (State.skipBad n s d i).run =
    s.run := by
  induction n generalizing s with
  | zero => rfl
  | succ k ih =>
    unfold State.skipBad; dsimp only; repeat' split
    all_goals simp [ih]

@[simp] theorem State.writeTiles_run (s : State) (im : Image) (kinds : Bool) : (State.writeTiles s im kinds).run =
    s.run := by
  unfold State.writeTiles; dsimp only
  rw [foldl_run _ (fun s q => State.setRoom_run _ _ _), foldl_run _ (fun s q => State.setTile_run _ _ _),
    foldl_run _ (fun s q => State.setTile_run _ _ _)]

@[simp] theorem State.finish_run (s : State) (c : Cmd) (status : Nat) (detail : List Byte) : (State.finish s c status
    detail).run = s.run := by
  unfold State.finish; split <;> simp

@[simp] theorem State.finishAll_run (s : State) (p : Cmd → Bool) (status : Cmd → Nat × List Byte) :
    (State.finishAll s p status).run = s.run := by
  unfold State.finishAll; dsimp only
  rw [foldl_run _ (fun s c => State.finish_run _ _ _ _)]; simp

@[simp] theorem State.abandonCrates_run (s : State) (adapter : Bool) (i : Nat) : (State.abandonCrates s adapter i).run =
    s.run := by
  simp [State.abandonCrates]

@[simp] theorem State.dropHeld_run (s : State) : (State.dropHeld s).run = s.run := by simp [State.dropHeld]

@[simp] theorem State.freeBanks_run (s : State) (im : Image) : (State.freeBanks s im).run = s.run := by
  unfold State.freeBanks; simp only [State.run_mk, State.run_eta]
  exact foldl_run _ (fun s i => State.abandonCrates_run _ _ _) _ _

@[simp] theorem State.armTiles_run (s : State) (im : Image) (n : Nat) : (State.armTiles s im n).run = s.run := by
  unfold State.armTiles; (try dsimp only); repeat' split
  all_goals (first
    | (simp; done)
    | ((try simp)
       rw [foldl_run]
       all_goals ((try intros); (try dsimp only); repeat' split)
       all_goals (first
         | (simp; done)
         | ((try simp)
            rw [foldl_run]
            all_goals ((try intros); (try dsimp only); repeat' split)
            all_goals (simp; done)))))

end Sys2Proof.Machine
end

