-- ==== Sys2Proof/Tests/Slice0.lean ====
section
/-! SUPPORT. Tests of this model: the checks of well-formedness refuse what they should, words written out from the
encoding tables decode, and a witness for the hypotheses of each statement. -/

namespace Sys2Proof.Tests

open Sys2Proof.Machine

/-! ### Well-formedness refuses -/

/-- A guard that is off and names predicate 1 (R91). -/
theorem test_wf_guard : Instr.wf (.nop 0 ⟨false, false, 1⟩) = false := by decide
/-- Condition code 6 (R93). -/
theorem test_wf_cmp : Instr.wf (.cmp 0 ⟨false, false, 0⟩ 0 1 2 6) = false := by decide
/-- Function 6, and a second operand of function 4 (R92). -/
theorem test_wf_plog : Instr.wf (.plog 0 ⟨false, false, 0⟩ 0 1 2 6) = false ∧
    Instr.wf (.plog 0 ⟨false, false, 0⟩ 0 1 2 4) = false := by decide
/-- Operation 5 of REDS. -/
theorem test_wf_reds : Instr.wf (.reds 0 ⟨false, false, 0⟩ 1 2 5 0 0) = false := by decide
/-- A shift by 32. -/
theorem test_wf_shift : TileInstr.wf (.alui .shli 1 2 32) = false := by decide
/-- A guarded LOOP (R90). -/
theorem test_wf_loop : progWf ⟨true, false, 0⟩ (.loop 1 5) = false := by decide
/-- A wait flag without WEN (R91). -/
theorem test_wf_wait : engineWf .hmov ⟨⟨false, false, 0⟩, false, false, 3, false, 0, 0, 0, 0, 0, 0⟩ 0 = false := by decide
/-- A parameter word of HZERO (R91). -/
theorem test_wf_param : engineWf .hzero ⟨⟨false, false, 0⟩, false, false, 0, false, 0, 0, 0, 0, 0, 0⟩ 1 = false := by decide
/-- A register access of no bytes (R529). -/
theorem test_wf_access : Instr.wf (.registerWrite .firmware .bar0 0 0 0) = false := by decide
/-- A packet of 17 quarter lines (R333). -/
theorem test_wf_packet : Packet.wf ⟨.ack, false, false, 0, 17, 0, 0, 0, .tile 0, .reply (.tile 0), [], [], true, none, []⟩ = false := by
  decide

/-! ### Words written out from R88, R89 and R92 -/

/-- ADD s1, s2, s5: OPC 0x10, RD 1, RA 2, RB 5. -/
theorem test_word_add : decodeInstr 0x1000445000000000 0 = some (⟨false, false, 0⟩, .alu .add 1 2 5) := by decide
/-- LI s7 guarded by not p6: GEN 1, GNEG 1, GP 6. -/
theorem test_word_li : decodeInstr 0x28F1C000DEADBEEF 0 = some (⟨true, true, 6⟩, .li 7 0xDEADBEEF) := by decide
/-- LOOPI with count 10 and end 0x123. -/
theorem test_word_loopi : decodeInstr 0x69000000000A0123 0 = some (⟨false, false, 0⟩, .loopi 10 0x123) := by decide
/-- HZERO of handle 9 that sets flag 3: OPC 0xE2, DEN, DF 3, HD 9. -/
theorem test_word_hzero : decodeInstr 0xE200132400000000 0 =
    some (⟨false, false, 0⟩, .engine .hzero ⟨⟨false, false, 0⟩, false, false, 0, true, 3, 9, 0, 0, 0, 0⟩ 0) := by decide
/-- An opcode that is not assigned, and an ADDI with an RB field (R91). -/
theorem test_word_illegal : decodeInstr 0x0300000000000000 0 = none ∧ decodeInstr 0x2000001000000007 0 = none := by decide
/-- The table gives no row a word. -/
theorem test_no_table_word : decodeTableWord 32 5 = none := by decide

/-! ### Witnesses for the statements: tiles -/

/-- A module that has started, at G2. -/
def on : State :=
  { State.reset with mreset := false, pwrgd := true, ready := true, resetting := false, holdAll := false, gear := 2, cgear := 2 }
/-- Tile 0 as given, in a module that has started. -/
def with0 (v : Tile) : State := on.setTile 0 v
/-- A tile that runs, with its leader as given. -/
def runs (q : Seq) : Tile := { Tile.reset with phase := .running, lead := q }
/-- No guard. -/
def always : Guard := ⟨false, false, 0⟩
/-- An engine header of zeros. -/
def bare : EngHdr := ⟨always, false, false, 0, false, 0, 0, 0, 0, 0, 0⟩

/-- RegisterOperations: a running tile issues, at the last address of its store. -/
theorem witness_RegisterOperations : (with0 (runs { Seq.reset with pc := 0x3FF })).mayIssue 0 always ∧
    ((with0 (runs { Seq.reset with pc := 0x3FF })).tile 0).settled [1, 2, 31] := by
  refine ⟨⟨by decide, by decide⟩, ?_⟩; unfold Tile.settled; decide
/-- PendingResults: registers that are settled, a source that is pending, and a destination that is. -/
theorem witness_PendingResults : let s := with0 (runs { Seq.reset with pend := 0x80000002 })
    s.mayIssue 0 always ∧ (s.tile 0).settled [2, 3, 4] ∧ (s.tile 0).lead.isPend 1 = true ∧
    ((s.tile 0).lead.isPend 2 = false ∧ (s.tile 0).lead.isPend 3 = false ∧ (s.tile 0).lead.isPend 31 = true) := by
  refine ⟨⟨by decide, by decide⟩, ?_, by decide⟩; unfold Tile.settled; decide
/-- DelayedEffects: a local and an arrival flag, and the last operation of REDS. -/
theorem witness_DelayedEffects : let s := with0 { runs .reset with arrMask := 0x8000 }
    s.mayIssue 0 always ∧ (s.tile 0).settled [1, 2, 3] ∧ (s.tile 0).isArrival 0 = false ∧ (s.tile 0).isArrival 15 = true ∧
    (4 : BitVec 4).toNat ≤ 4 := by
  refine ⟨⟨by decide, by decide⟩, ?_, by decide⟩; unfold Tile.settled; decide
/-- Branches: without a link, and with one whose loops are over. -/
theorem witness_Branches : (with0 (runs .reset)).mayIssue 0 always ∧ ((with0 (runs .reset)).tile 0).lead.link = none ∧
    (let s := with0 (runs { Seq.reset with link := some 0x3FF })
     s.mayIssue 0 always ∧ (s.tile 0).lead.link = some 0x3FF ∧ (s.tile 0).lead.loops.length ≤ (s.tile 0).lead.linkLoops) := by
  exact ⟨⟨by decide, by decide⟩, by decide, ⟨by decide, by decide⟩, by decide⟩
/-- ControlFaults: a valid link, none, a loop entered after the CALL, and the address after the last. -/
theorem witness_ControlFaults :
    (let s := with0 (runs { Seq.reset with link := some 1, loops := [⟨0, 1, 2⟩] })
     s.mayIssue 0 always ∧ (s.tile 0).lead.link ≠ none ∧ (s.tile 0).lead.link = some 1 ∧
       (s.tile 0).lead.linkLoops < (s.tile 0).lead.loops.length) ∧
    (with0 (runs .reset)).mayIssue 0 always ∧ ((with0 (runs .reset)).tile 0).lead.link = none ∧
    (let s := with0 (runs { Seq.reset with pc := 0x400 })
     s.issues 0 = true ∧ 0x3FF < (s.tile 0).lead.pc) := by
  exact ⟨⟨⟨by decide, by decide⟩, by decide⟩, ⟨by decide, by decide⟩, by decide⟩
/-- Loops: a LOOP that issues, and the five ways an issue leaves the loops. -/
theorem witness_Loops : (let s := with0 (runs { Seq.reset with pc := 0x3FF })
      s.issues 0 = true ∧ (s.tile 0).lead.pc ≤ 0x3FF ∧ (s.tile 0).settled [1]) ∧
    (let v := (runs { Seq.reset with pc := 5, loops := [⟨3, 5, 2⟩] }).lead
     v.link = none ∧ v.loops = [⟨3, 5, 2⟩] ∧ (⟨3, 5, 2⟩ : LoopEnt).last = v.pc ∧ 1 < (⟨3, 5, 2⟩ : LoopEnt).left) ∧
    (let v := (runs { Seq.reset with pc := 5, loops := [⟨3, 5, 1⟩] }).lead
     v.link = none ∧ v.loops = [⟨3, 5, 1⟩] ∧ (⟨3, 5, 1⟩ : LoopEnt).last = v.pc ∧ (⟨3, 5, 1⟩ : LoopEnt).left ≤ 1) ∧
    (let v := (runs { Seq.reset with pc := 5, loops := [⟨3, 5, 1⟩, ⟨1, 5, 2⟩] }).lead
     v.link = none ∧ v.loops = ⟨3, 5, 1⟩ :: [⟨1, 5, 2⟩] ∧ (⟨3, 5, 1⟩ : LoopEnt).last = v.pc ∧ (⟨3, 5, 1⟩ : LoopEnt).left ≤ 1 ∧
       (⟨1, 5, 2⟩ : LoopEnt).last = v.pc ∧ 1 < (⟨1, 5, 2⟩ : LoopEnt).left) ∧
    (⟨3, 6, 1⟩ : LoopEnt).last ≠ (runs { Seq.reset with pc := 5, loops := [⟨3, 6, 1⟩] }).lead.pc ∧
    (let v := (runs { Seq.reset with pc := 5, loops := [⟨3, 5, 1⟩], link := some 9, linkLoops := 1 }).lead
     v.link ≠ none ∧ v.loops.length ≤ v.linkLoops) := by
  refine ⟨⟨by decide, by decide, ?_⟩, by decide⟩; unfold Tile.settled; decide
/-- NopHaltTrap: a guard that holds and one that does not. -/
theorem witness_NopHaltTrap : (with0 (runs .reset)).mayIssue 0 ⟨true, true, 7⟩ ∧
    (with0 (runs .reset)).issues 0 = true ∧ ((with0 (runs .reset)).tile 0).lead.pc ≤ 0x3FF ∧
    guardOn ((with0 (runs .reset)).tile 0).lead.preds ⟨true, false, 7⟩ = false ∧
    ({ bare with g := ⟨true, false, 7⟩ } : EngHdr).g = ⟨true, false, 7⟩ := by
  exact ⟨⟨by decide, by decide⟩, by decide, by decide, by decide, rfl⟩
/-- FlagWaits: a set flag, with a value held for it that is good and one that is poisoned, and an unset arrival flag and an
unset local flag. -/
theorem witness_FlagWaits : ∀ poi ∈ [false, true],
    let s := with0 { runs { Seq.reset with flags := 0x8000 } with arrMask := 1, held := [⟨15, 3, 7, poi⟩] }
    let v := s.tile 0
    let flags := (v.phase1 (s.issueTread 0)).1.lead.flags
    s.mayIssue 0 always ∧ flags.getLsbD 15 = true ∧ v.held.any (fun h => h.flag == 15 && h.poi) = poi ∧
    (v.heldPoison 15 v.lead.pc).isSome = poi ∧ (flags.getLsbD 0 = false ∧ v.arrMask.getLsbD 0 = true) ∧
    (flags.getLsbD 1 = false ∧ v.arrMask.getLsbD 1 = false) := by
  intro poi h
  simp only [List.mem_cons, List.not_mem_nil, or_false] at h
  rcases h with rfl | rfl <;> exact ⟨⟨by decide, by decide⟩, by decide⟩
/-- ScalarRegisters: a register file of one value, and two registers. -/
theorem witness_ScalarRegisters : Tbl.wf 0 ({ Seq.reset with regs := [(31, 7)] } : Seq).regs = true ∧ (31 : BitVec 5) ≠ 0 ∧
    (1 : BitVec 5) ≠ 31 := by decide
/-- EngineDispatch: each of the fourteen with fields of zeros; a done flag that is local. -/
theorem witness_EngineDispatch : (with0 (runs .reset)).mayIssue 0 bare.g ∧
    ((with0 (runs .reset)).tile 0).isArrival 15 = false ∧
    (∀ op ∈ [EngOp.pmul, .pdrn, .dload, .dmul, .ddrn, .dkv, .vmap, .vred, .vtopk, .vqnt, .hmov, .hfill, .hzero, .hrel],
      engineWf op bare 0 = true) ∧ ((with0 (runs .reset)).tile 0).lead.isPend 31 = false := by
  exact ⟨⟨by decide, by decide⟩, by decide⟩
/-- An HZERO in queue 3 that has not started. -/
def waitsIn (h : EngHdr) (start : Option Nat) : QEntry :=
  { d := { op := .hzero, hdr := h, param := 0, pc := 0, tread := 0, k := 0, ib := 0 }, ops := [], entry := 0, dur := 1,
    start := start, run := .zero, bad := false, poi := false }
/-- The state of EngineRuns: queue 3 of tile 0 holds one instruction, local flag 15 is set and arrival flag 0 is not. -/
def queued (e : QEntry) (poi : Bool) : State :=
  (with0 { (runs { Seq.reset with flags := 0x8000 }).setQueue 3 [e] with arrMask := 1, held := [⟨15, 3, 7, poi⟩] }).setRoom 0
    { Room.reset with tread := 1 }
/-- EngineRuns: no wait; waits on a set flag, with a value held for it that is good and one that is poisoned, and on an unset local
flag; a room that holds for an unset arrival flag; completions with and without a done flag, and with one that is set. -/
theorem witness_EngineRuns :
    (∀ h ∈ [bare, { bare with wen := true, wf := 15 }, { bare with wen := true, wf := 1 }], ∀ poi ∈ [false, true],
      let s := queued (waitsIn h none) poi
      let v := s.tile 0
      let flags := (v.phase1 (s.issueTread 0)).1.lead.flags
      s.canTread (tileRoom 0) = true ∧ v.queue 3 = [waitsIn h none] ∧ (waitsIn h none).start = none ∧
        (waitsIn h none).entry + 1 ≤ s.issueTread 0 ∧ flags.getLsbD 15 = true ∧ (v.heldPoison 15 0).isSome = poi ∧
        v.held.any (fun h => h.flag == 15 && h.poi) = poi ∧ flags.getLsbD 1 = false ∧ v.arrMask.getLsbD 1 = false) ∧
    (let s := queued (waitsIn { bare with wen := true, wf := 0 } none) false
     s.holdsOf (tileRoom 0) (s.issueTread 0) ≠ []) ∧
    (∀ h ∈ [bare, { bare with den := true, df := 0 }, { bare with den := true, df := 15 }],
      let s := queued (waitsIn h (some 0)) false
      let v := s.tile 0
      s.canTread (tileRoom 0) = true ∧ v.queue 3 = [waitsIn h (some 0)] ∧ 0 + (waitsIn h (some 0)).dur ≤ s.issueTread 0 ∧
        (v.setQueue 3 []).flag 0 = false ∧ (v.setQueue 3 []).flag 15 = true) := by
  unfold State.issueTread; decide

/-! ### Witnesses for the statements: the port and crates -/

/-- The port of EN is up and has negotiated; a command of its ring i is next. -/
def servedOn (i : Nat) (s : State) : State :=
  s.setDie 0 { Die.reset with portUp := true, neg := some (2, 1, 0), sub := [(i, { SubRing.reset with size := 4, avail := 1 })],
                              comp := [(i, { CompRing.reset with size := 4 })] }
/-- A command of ring 1 is next. -/
def served (s : State) : State := servedOn 1 s
/-- A header on ring 1 of EN for a unit. -/
def hdr (unit : Word) : CmdHdr := ⟨0, 1, 0, 0, 1, unit, none, none⟩
/-- The header of a command on the module. -/
def hM : CmdHdr := hdr modulePath
/-- The same, of a command whose write to host memory fails. -/
def far : CmdHdr := { hM with hostErr := some 64 }
/-- The check of a QUERY of item 2. -/
def specQuery (s : State) : CmdSpec :=
  { opc := 0x02, since := 0, sets := false, level := fun p => p == modulePath, bad := queryBad (s.minorOf 0) 2 0 0
    par := parQuery 2 0 0 64 }
/-- PortQueries: NEGOTIATE with a common minor and without one on each interface, JOURNAL and QUERY with and without a write that
fails, and QUERY of item 2 with and without its session. -/
theorem witness_PortQueries : ∃ a b b' c d d',
    (∀ x y z, (served on).accepts hM (.onM 0x01 none (parNegotiate x y z)) a) ∧ chooseMinor 0 ⟨1, 0, 255⟩ = some 2 ∧ chooseMinor 1 ⟨1, 0, 0⟩ = some 0 ∧
    chooseMinor 2 ⟨1, 0, 0⟩ = some 0 ∧ chooseMinor 0 ⟨2, 0, 9⟩ = none ∧ chooseMinor 1 ⟨2, 0, 9⟩ = none ∧
    chooseMinor 2 ⟨2, 0, 9⟩ = none ∧ (served on).accepts hM (.onM 0x58 none (parJournal 0 64 16)) b ∧ hM.hostErr = none ∧
    (served on).accepts far (.onM 0x58 none (parJournal 1 0 0)) b' ∧ (served on).journalFields far = (0, 0) ∧ far.hostErr = some 64 ∧ (64 : DWord).toNat % 64 = 0 ∧
    (served on).accepts hM (specQuery (served on)) c ∧ c.sessionOf 0 = none ∧
    (let s := served (on.setSess 0 { Sess.reset with state := .opened })
     s.accepts hM (specQuery s) d ∧ d.sessionOf 0 ≠ none ∧ s.accepts far (specQuery s) d' ∧ d'.sessionOf 0 ≠ none) := by
  exact ⟨_, _, _, _, _, _, fun _ _ _ => ⟨rfl, rfl⟩, by decide, by decide, by decide, by decide, by decide, by decide, ⟨rfl, by decide⟩, rfl,
    ⟨rfl, by decide⟩, rfl, rfl, by decide, ⟨rfl, by decide⟩, by decide, ⟨rfl, by decide⟩, by decide, ⟨rfl, by decide⟩, by decide⟩
/-- A small image: one model of one slice on tile 0. -/
def im1 : Image := { bytes := [], live := 118, nmod := 1, gbar := 0, period := 0, pspan := 1, models := [(7, 1)], tiles := [0], kept := [], weights := [(0, 0, 0, 0)], ichk := 0 }
/-- The module holds it. -/
def held (s : State) : State := { s with image := some im1 }
/-- ImageLoads: the parameters at their bounds, and a length that the image's own field gives; a load under way at a tick. -/
theorem witness_ImageLoads : (∃ a, (served on).accepts hM (.onM 0x10 none (parImageLoad 64 40 7 16383 0 0 16383 64)) a ∧ (64 : DWord).toNat % 64 = 0 ∧
    (40 : DWord).toNat ≤ 2 ^ 30 ∧
    (∀ p ∈ [(16383 : Word), 0, 0, 16383], p.toNat ≤ 16383 ∧ ((served on).minorOf 0 = 0 → p = 0)) ∧
    a.moduleBusy = none ∧ a.started = none ∧ fieldAt (List.replicate 32 0 ++ leBytes 8 40) 32 8 = (40 : DWord).toNat ∧
    hM.hostErr = none) ∧
    (let s := { on with cmds := [{ h := hM, opc := 0x10, tick := 0, work := .load im1 [1, 2, 3, 4, 5], mute := false }] }
     s.cmds.findSome? Cmd.loading = some (im1, [1, 2, 3, 4, 5]) ∧ s.powered = true ∧ s.change = none ∧ s.startWait = none) := by
  refine ⟨⟨_, ⟨rfl, by decide⟩, by decide, by simp, ?_, by decide, by decide, by decide, rfl⟩, rfl, by decide, rfl, rfl⟩
  intro p hp
  simp only [List.mem_cons, List.not_mem_nil, or_false] at hp
  rcases hp with rfl | rfl | rfl | rfl <;> exact ⟨by simp, fun h => absurd h (by decide)⟩
/-- Tile 0 with an inbound and an outbound shelf, of pipeline 0. -/
def shelved : Tile := { Tile.reset with pipe := 0, shelves := [⟨0, 9, true, false⟩, ⟨20, 22, false, false⟩] }
/-- A pipeline record for it. -/
def rec0 : List Byte := [0, 0, 0, 0, 1, 0, 0, 0, 0, 0, 20, 0, 0, 0, 0, 0, 0, 0, 0, 0, 5, 0, 5, 0, 0, 0, 0, 0, 21, 0, 2, 0, 0, 0, 0, 255] ++
  List.replicate 28 0
/-- ImageRuns: an image whose model is resident starts; a started image stops without and with a session. -/
theorem witness_ImageRuns : ∃ a b c,
    (let s := served (held ((with0 shelved).setInv 15 { Inv.reset with ident := 7, state := 3 }))
     s.accepts hM (.onM 0x11 none [byteField 16 8 (0 : DWord).toNat, byteField 24 2 (1 : BitVec 16).toNat]) a ∧ (0 : DWord).toNat % 64 = 0 ∧ (1 : BitVec 16) ≠ 0 ∧ (1 : BitVec 16).toNat ≤ 255 ∧
     a.moduleBusy = none ∧ a.image = some im1 ∧ a.started = none ∧ a.testMode = false ∧ a.runEnded = false ∧
     (∀ t ∈ im1.tiles, (a.floor (tileFloor t)).mode = .up) ∧ a.notResident im1 = none ∧ (∀ q ∈ a.banks, q.2.state ≠ 5) ∧
     (∀ k < (1 : BitVec 16).toNat, a.recordBad im1 rec0 k = none)) ∧
    (let s := served { held on with started := some 4096 }
     s.accepts hM (.onM 0x12 none) b ∧ b.moduleBusy = none ∧ b.started = some 4096 ∧
       (b.ledger.filter (fun q => q.2.state != .free)).length = 0) ∧
    (let s := served { held (on.setSess 8191 { Sess.reset with state := .closing }) with started := some 4096 }
     s.accepts hM (.onM 0x12 none) c ∧ c.moduleBusy = none ∧ c.started = some 4096 ∧
       0 < (c.ledger.filter (fun q => q.2.state != .free)).length) := by
  exact ⟨_, _, _, ⟨⟨rfl, by decide⟩, by decide⟩, ⟨⟨rfl, by decide⟩, by decide⟩, ⟨rfl, by decide⟩, by decide⟩
/-- An inventory entry in a state. -/
def entry (n refs : Nat) : Inv := { Inv.reset with ident := 7, state := n, refs := refs, place := [(0, 0, 0)] }
/-- ModelResidence: RESIDE of a model in each state and of one without entry; EVICT of an entry empty, in use, under eviction and
idle; an eviction under way. -/
theorem witness_ModelResidence :
    (∀ n ∈ [3, 5, 1, 4], ∃ a, (served (held (on.setInv 15 (entry n 0)))).accepts hM (.onM 0x21 none [byteField 16 1 (0 : Byte).toNat]) a ∧
      a.image = some im1 ∧ im1.models[(0 : Byte).toNat]? = some (7, 1) ∧ a.modelEntry 0 = some 15 ∧ (a.invOf 15).state = n) ∧
    (∃ a, (served (held on)).accepts hM (.onM 0x21 none [byteField 16 1 (0 : Byte).toNat]) a ∧ a.modelEntry 0 = none ∧
      (List.range 16).find? (fun e => (a.invOf e).state == 0) = some 0 ∧
      (∀ q ∈ im1.placement 0, a.ownedBlock q.1 q.2.1 = false) ∧ a.downBlock (placeBlocks (im1.placement 0)) = none) ∧
    (∀ n ∈ [(0, 0), (3, 1), (5, 0), (3, 0)], ∃ a, (served (held (on.setInv 15 (entry n.1 n.2)))).accepts hM (.onM 0x22 none [byteField 16 1 (15 : Byte).toNat]) a ∧
      (15 : Byte).toNat < 16 ∧ (a.invOf 15).state = n.1 ∧ (a.invOf 15).refs = n.2 ∧
      a.downBlock (placeBlocks (a.invOf 15).place) = none) ∧
    (let s := held (on.setInv 15 (entry 5 0))
     s.ready = true ∧ s.downBlock (placeBlocks (s.invOf 15).place) = none ∧ (s.invOf 15).state = 5) := by
  refine ⟨?_, ⟨_, ⟨rfl, by decide⟩, by decide⟩, ?_, by decide⟩
  · intro n h
    simp only [List.mem_cons, List.not_mem_nil, or_false] at h
    rcases h with rfl | rfl | rfl | rfl <;> exact ⟨_, ⟨rfl, by decide⟩, by decide⟩
  · intro n h
    simp only [List.mem_cons, List.not_mem_nil, or_false] at h
    rcases h with rfl | rfl | rfl | rfl <;> exact ⟨_, ⟨rfl, by decide⟩, by decide⟩
/-- The check of ADAPTER LOAD. -/
def specAdapter (ident : DWord) : CmdSpec := { opc := 0x28, since := 1, sets := false, level := onModule, bad := none, par := parAdapter 63 1 ident }
/-- A bank in a state. -/
def bankIn (n : Nat) : Bank := { Bank.reset with state := n, current := n == 2, refs := 1 }
/-- AdapterCommands: a slot with a free bank, one of which a bank loads or is zeroed, one that is full while a bank drains, a clear
without a current bank and of a bank in use, and a zeroing. -/
theorem witness_AdapterCommands :
    (∃ a, (∀ x, (served on).accepts hM (specAdapter x) a) ∧ (63 : Byte).toNat < 64 ∧ (1 : DWord) ≠ 0 ∧
      (∀ j < 2, (a.bank (126 + j)).state ≠ 1 ∧ (a.bank (126 + j)).state ≠ 4) ∧
      [0, 1].find? (fun j => (a.bank (126 + j)).state == 0) = some 0 ∧ a.downBlock (a.bank 126).place = none ∧
      a.currentBank 63 = none) ∧
    (∀ n ∈ [1, 4], ∃ a, (served (on.setBank 127 (bankIn n))).accepts hM (specAdapter 1) a ∧ (a.bank 127).state = n) ∧
    (∃ a, (∀ x, (served ((on.setBank 126 (bankIn 3)).setBank 127 (bankIn 2))).accepts hM (specAdapter x) a) ∧
      (a.bank 126).state = 3 ∧ (a.bank 127).state = 2 ∧ a.currentBank 63 = some 1) ∧
    (let s := on.setBank 127 (bankIn 4)
     s.ready = true ∧ s.downBlock (s.bank (2 * 63 + 1)).place = none ∧ (s.bank (2 * 63 + 1)).state = 4) := by
  refine ⟨⟨_, fun _ => ⟨rfl, rfl⟩, by decide⟩, ?_,
    ⟨_, fun _ => ⟨rfl, rfl⟩, by decide⟩, by decide⟩
  intro n h
  simp only [List.mem_cons, List.not_mem_nil, or_false] at h
  rcases h with rfl | rfl <;> exact ⟨_, ⟨rfl, by decide⟩, by decide⟩
/-- The header of a crate without its magic and version. -/
def badCrate : List Byte := List.replicate 64 0
/-- Crate 1 of model 7, laid out by R419 and R423: one record whose slice is 4,096 bytes of 3 in Kreoz pack. -/
def dataCrate1 : List Byte := leBytes 80 0x10000001300000002000000010000000000000007020100015443524b ++ leBytes 7 0x9d5caacd030005
/-- A manifest of one slice and that crate: the crate's SHA-256 and the slice's CRC-64. -/
def man1 : Manifest := { crates := [(19, 0xa7ee515a7f99dc4513371cd2b722593ca07e432e4aff51d323a35ee5c47fcd0f)], slices := [0xa2c317a4e4741dbe] }
/-- The SHA-384 of what the manifest's signature covers: both halves of the signature (R670). -/
def manHash : Nat := 0xedab21e5f45c65f35d7943227d5ccbe8fbd3eb9b23573f2830368a012fd856ee4c32e7280b0f0fe51daa3633db2fec03
/-- The key whose signature that is: the point of that abscissa less the base point. -/
def manKey : BitVec 768 :=
  0x7866f713a7a4ce0efdd382ce25e84629ff8b18da56f21c12e9f3a1cf6a037fd97269ad638bdbee120f47da8298379533cb7b1a4b290221e45663a07303f93ca611bee4d2f6e208366225ece9ac55d21e6fdfe0d701dca464929d161af28e9ed4
/-- The manifest crate of model 7 (R420): one slice, and crate 1 with its SHA-256. -/
def manCrate : List Byte := leBytes 64 0xb000000002000000000000000000000007000000015443524b ++ leBytes 16 0x200000001 ++
  leBytes 16 0x1300000001 ++ beBytes 32 0xa7ee515a7f99dc4513371cd2b722593ca07e432e4aff51d323a35ee5c47fcd0f ++
  leBytes 8 0xa2c317a4e4741dbe ++ leBytes 4 0 ++ beBytes 48 manHash ++ beBytes 48 manHash ++ leBytes 4 0 ++ leBytes 4 0x21d2b477
/-- Model 7 loads into entry 15, with the manifest and the crates given. -/
def loading (m : Option Manifest) (l : List Nat) : State :=
  { on with ownerKeys := [(0, some manKey)] }.setInv 15
    { entry 1 0 with slices := 1, set := { CrateSet.reset with manifest := m, accepted := l, tries := [(1, 3)] } }
/-- CrateCommands, the command: no crate is in progress; bytes too few for a header, and a crate that is whole, whose header is
not in order. -/
theorem witness_CrateCommands : ∃ a r, (served on).receiving hM = false ∧ (served on).accepts hM (.onM 0x20 none [byteField 16 8 (64 : DWord).toNat, byteField 24 4 (64 : Word).toNat]) a ∧
    (64 : DWord).toNat % 64 = 0 ∧ (∀ d, a.crateCmds d = []) ∧ (∀ c ∈ a.cmds, c.h ≠ hM) ∧
    ((List.replicate 63 0 : List Byte).length < 64 ∧ (List.replicate 63 0 : List Byte).length < (64 : Word).toNat) ∧
    badCrate.length = (64 : Word).toNat ∧
    (let b := a.begin_ hM 0x20 (.crate 64 badCrate none)
     b.unpackCrate (((a.die 0).neg.map (fun n => n.2.2)).getD 0) 64 false (badCrate.take 64) = some r) := by
  exact ⟨_, _, by decide, ⟨rfl, by decide⟩, by decide, fun _ => rfl, fun c h => absurd (h : c ∈ ([] : List Cmd)) List.not_mem_nil,
    by decide, by decide, rfl⟩
/-- The data crate with another last byte. -/
def spoilt1 : List Byte := dataCrate1.take 86 ++ [0]
/-- CrateChecks: a bad header, a set that is not in progress, a crate that the set has and one of another unpacker, one of another
length, one whose trailer is spoilt, the manifest with its signature, and the data crate with its slice. -/
theorem witness_CrateChecks :
    (crateHdr badCrate).legal 0 64 = false ∧ ((crateHdr manCrate).legal 0 244 = true ∧ on.findSet false 7 = none) ∧
    (∀ l ∈ [[], [1]], let s := loading (some man1) l
      (crateHdr dataCrate1).legal 0 87 = true ∧
      s.findSet ((crateHdr dataCrate1).flags / 4 % 2 == 1) (crateHdr dataCrate1).ident = some (.model 15) ∧
      (crateHdr dataCrate1).kind = 1 ∧ (s.crateSet (.model 15)).manifest = some man1 ∧ (s.crateSet (.model 15)).accepted = l ∧
      (crateHdr dataCrate1).number = 1) ∧
    (let h := crateHdr spoilt1
     h.legal 0 87 = true ∧ (loading (some man1) []).findSet (h.flags / 4 % 2 == 1) h.ident = some (.model 15) ∧ h.kind = 1 ∧
     h.number = 1 ∧ (({ man1 with crates := [(20, 0)] } : Manifest).crates[1 - 1]?).map (·.1) ≠ some h.blen ∧
     (man1.crates[1 - 1]?).map (·.1) = some h.blen ∧ 64 + h.blen ≤ spoilt1.length ∧
     crcsOk ((spoilt1.drop 64).take h.blen) (spoilt1.drop (64 + h.blen)) = false) ∧
    (let s := loading none []
     let h := crateHdr manCrate
     h.legal 0 244 = true ∧ s.findSet (h.flags / 4 % 2 == 1) h.ident = some (.model 15) ∧ h.kind = 0 ∧
     (s.crateSet (.model 15)).manifest = none ∧ crcsOk ((manCrate.drop 64).take h.blen) (manCrate.drop (64 + h.blen)) = true) := by
  decide +kernel
/-- The manifest's signature is good. -/
theorem witness_ManifestRead : readManifest (crateHdr manCrate) (manCrate.take 64) ((manCrate.drop 64).take (crateHdr manCrate).blen)
    (fun i => Tbl.get none (loading none []).ownerKeys i) ((loading none []).expectSlices (.model 15)) = some man1 := by
  decide +kernel
/-- What the data crate unpacks to: its one slice. -/
def slice3 : List (Nat × Nat × List Byte) := [(0, 0, List.replicate 4096 3)]
/-- The CRC-64 register after a row of 64 bytes of 3. -/
def crcRow (c : Nat) : Nat := (List.replicate 64 (3 : Byte)).foldl (crcByte 0xC96C5795D7870F42) c
/-- The value of a function at a number that is evaluated first. -/
def evaluated (c : Nat) (k : Nat → Nat) : Nat :=
  match c with
  | 0 => k 0
  | n + 1 => k (n + 1)
/-- It is the value of the function at that number. -/
theorem evaluated_eq (c : Nat) (k : Nat → Nat) : evaluated c k = k c := by cases c <;> rfl
/-- The CRC-64 register after n rows. -/
def crcRows : Nat → Nat → Nat
  | 0, c => c
  | n + 1, c => evaluated (crcRow c) (crcRows n)
/-- Rows are bytes. -/
theorem crcRows_eq (n c : Nat) : crcRows n c = (List.replicate (64 * n) (3 : Byte)).foldl (crcByte 0xC96C5795D7870F42) c := by
  induction n generalizing c with
  | zero => rw [Nat.mul_zero]; rfl
  | succ n ih =>
    rw [show 64 * (n + 1) = 64 + 64 * n by omega, ← List.replicate_append_replicate, List.foldl_append, ← ih, crcRows,
      evaluated_eq]; rfl
/-- Rows after rows. -/
theorem crcRows_add (m n c : Nat) : crcRows (m + n) c = crcRows n (crcRows m c) := by
  rw [crcRows_eq, crcRows_eq, crcRows_eq, Nat.mul_add, ← List.replicate_append_replicate, List.foldl_append]
/-- The CRC-64 of bytes whose register is known. -/
theorem crc64_of (l : List Byte) (x : Nat) (h : l.foldl (crcByte 0xC96C5795D7870F42) 0xFFFFFFFFFFFFFFFF = x) :
    crc64 l = x ^^^ 0xFFFFFFFFFFFFFFFF := by unfold crc64; rw [h]
/-- The register after each eight rows. -/
theorem crcRows_slice3 : (∀ q ∈ ([(0xffffffffffffffff, 0x81cb3b2c7cd012a7), (0x81cb3b2c7cd012a7, 0x556d985eb63f848b),
    (0x556d985eb63f848b, 0xc09f3b9f16b6febe), (0xc09f3b9f16b6febe, 0x83bfe034fadefcdb), (0x83bfe034fadefcdb, 0x540ab5c59db78d38),
    (0x540ab5c59db78d38, 0x8d44c5d5b0046a8f), (0x8d44c5d5b0046a8f, 0x3018506df94b6607), (0x3018506df94b6607, 0x5d3ce85b1b8be241)] :
    List (Nat × Nat)), crcRows 8 q.1 = q.2) := by decide +kernel
/-- The CRC-64 of 4,096 bytes of 3. -/
theorem crc_slice3 : crc64 (List.replicate 4096 3) = 0xa2c317a4e4741dbe := by
  have h := crcRows_slice3
  simp only [List.forall_mem_cons] at h
  have e : crcRows (8 + 8 + 8 + 8 + 8 + 8 + 8 + 8) 0xffffffffffffffff = 0x5d3ce85b1b8be241 := by
    rw [crcRows_add, crcRows_add, crcRows_add, crcRows_add, crcRows_add, crcRows_add, crcRows_add, h.1, h.2.1, h.2.2.1, h.2.2.2.1,
      h.2.2.2.2.1, h.2.2.2.2.2.1, h.2.2.2.2.2.2.1, h.2.2.2.2.2.2.2.1]
  rw [crcRows_eq, show 64 * (8 + 8 + 8 + 8 + 8 + 8 + 8 + 8) = 4096 from rfl] at e
  exact (crc64_of _ _ e).trans (by decide)
/-- The bytes that the records write. -/
theorem sliceBytes_slice3 : sliceBytes slice3 0 = List.replicate 4096 3 := by
  unfold sliceBytes slice3
  simp only [List.filter_cons, beq_self_eq_true, if_true, List.filter_nil, List.foldl_cons, List.foldl_nil, List.take_zero, List.nil_append,
    List.length_replicate, Nat.zero_add, List.drop_replicate, Nat.sub_self, List.replicate_zero, List.append_nil]
/-- One chunk that fills the slice. -/
theorem unpack3 : unpack 3 4096 [5, 0, 3] = some (List.replicate 4096 3, []) := by
  have h (n : Nat) (o : List Byte) (e : unpackChunk 1 4096 [3] = some o) : unpack 3 4096 [5, 0, 3] = some (o ++ [], []) := by
    show (match unpackChunk 1 4096 [3], unpack 2 0 [] with
      | some o, some (o', r) => some (o ++ o', r)
      | _, _ => none) = _
    rw [e]; rfl
  rw [h 0 (List.replicate 4096 3) rfl, List.append_nil]
/-- Its body. -/
def body1 : List Byte := List.replicate 16 0 ++ [5, 0, 3]
/-- It passes the checks of a data crate. -/
theorem dataCrate_slice3 : dataCrate (crateHdr dataCrate1) dataCrate1 man1 [] (fun _ => none) = .ok slice3 := by
  have hh : crateHdr dataCrate1 = ⟨0x5443524B, 1, 0, 1, 2, 7, 1, 2, 19, 1, 0, 0, List.replicate 12 0, List.replicate 16 0⟩ := by
    decide
  have hb : (dataCrate1.drop 64).take 19 = body1 := by decide
  have h2 : some (BitVec.ofNat 256 (beNat (sha256 dataCrate1))) = (man1.crates[1 - 1]?).map (·.2) := by decide +kernel
  have h3 : sliceRecs 1 body1 = [⟨0, 0, 0, 0, 0, 0, true⟩] := by decide
  have h5 : recordsOk [⟨0, 0, 0, 0, 0, 0, true⟩] man1.slices.length 1 [] = true := by decide
  rw [hh]; unfold dataCrate; dsimp only
  rw [hb, if_neg (not_not_intro h2), if_pos (by decide)]
  dsimp only
  rw [h3, if_pos (by decide), show ((([⟨0, 0, 0, 0, 0, 0, true⟩] : List SliceRec).map SliceRec.takes).foldl (· + ·) 0) = 4096 from rfl,
    show body1.drop (16 * 1) = [5, 0, 3] from rfl, show 4096 / 4096 + 2 = 3 from rfl, unpack3]
  dsimp only
  rw [if_neg (by rw [h5, List.length_replicate]; decide)]
  show Except.ok [(0, 0, (List.replicate 4096 (3 : Byte)).take 4096)] = _
  rw [List.take_replicate]; rfl
/-- CrateChecks: the data crate unpacks to its one slice, whose CRC is the manifest's, and its block is on a floor that is up. -/
theorem witness_DataCrate : let s := loading (some man1) []
    dataCrate (crateHdr dataCrate1) dataCrate1 man1 (s.crateSet (.model 15)).wrote (fun i => Tbl.get none s.crateKeys i) = .ok slice3 ∧
    (man1.crates[(crateHdr dataCrate1).number - 1]?).map (·.1) = some (crateHdr dataCrate1).blen ∧
    (slice3.map (·.1)).eraseDups = [0] ∧
    (∀ q ∈ (s.setPlace (.model 15)).filter (fun q => [0].contains q.2.2), s.floorUp (tileFloor q.1) = true) ∧
    (∀ x ∈ [0], crc64 (sliceBytes slice3 x) = (man1.slices.getD x 0).toNat) := by
  refine ⟨?_, by decide, rfl, by decide, ?_⟩
  · have h : (fun i => Tbl.get none (loading (some man1) []).crateKeys i) = fun _ => none := by funext i; rfl
    rw [h]; exact dataCrate_slice3
  · intro x h
    simp only [List.mem_cons, List.not_mem_nil, or_false] at h
    subst h; rw [sliceBytes_slice3, crc_slice3]; rfl
/-- CrateTimeouts: a set past its limit with an attempt left, and one without, whose last request was its fourth; and a crate
that was asked for again a tick later, which is not due. -/
theorem witness_CrateTimeouts : ∀ n ∈ [(3, 0), (4, 0), (3, 1)],
    let s := { on.setInv 15 { entry 1 0 with set := { CrateSet.reset with
      manifest := some man1, tries := [(1, n.1)], asked := [(1, n.2)] } } with pkt := 50000000 }
    let v := s.crateSet (.model 15)
    s.ready = true ∧ s.repairing (.model 15) = false ∧ s.setState (.model 15) = 1 ∧ v.manifest = some man1 ∧
    Tbl.get 0 v.tries 1 = n.1 ∧ ((List.range man1.crates.length).map (· + 1)).filter (fun c =>
      !(v.accepted.contains c) && (v.late c s.pkt && !(s.arrived (.model 15) c))) = (if n.2 = 0 then [1] else []) := by decide

/-! ### Witnesses for the statements: serving, power and recovery -/

/-- The pipeline of rec0. -/
def pipe0 : PipeRec := pipeRecAt rec0 0
/-- A session on pipeline 0 without an adapter slot. -/
def sess (st : SessState) : Sess :=
  { Sess.reset with state := st, aslot := 0x7F, routeLen := 1, route := [{ RoutePos.reset with pipe := 0 }] }
/-- A run with pipeline 0 and session 0 in a state; a command of ring i is next. -/
def servingOn (i : Nat) (st : SessState) : State :=
  servedOn i ({ held (with0 shelved) with started := some 4096, pipes := [pipe0] }.setSess 0 (sess st))
/-- A command of ring 1 is next. -/
def serving (st : SessState) : State := servingOn 1 st
/-- SessionOpens: the highest class, slot and ring, and a route of pipeline 0. -/
theorem witness_SessionOpens : ∃ a seats,
    (let s := (serving .free).setDie 0 { (serving .free).die 0 with outp := [(15, { OutRing.reset with size := 12 })] }
     s.accepts hM (.onM 0x30 none (parOpen 7 1 63 15 0xFFFFFF00 5)) a ∧ (7 : Byte).toNat < 8 ∧ (1 : Byte).toNat < 2 ∧ ((63 : Byte).toNat < 64 ∨ (63 : Byte) = 0x7F) ∧
     (15 : Byte).toNat < 16 ∧ ((s.die 0).outRing (15 : Byte).toNat).size ≠ 0 ∧ routePipes 0xFFFFFF00 ≠ [] ∧ a.started = some 4096 ∧
     (∀ p ∈ routePipes 0xFFFFFF00, ∃ r, a.pipeRec p = some r ∧ r.home = 0) ∧
     (List.range 2048).find? (fun e => (a.sess (2048 * 0 + e)).state == .free) = some 0 ∧
     a.takeSeats ((routePipes 0xFFFFFF00).filterMap a.pipeRec) [] = .ok seats) := by
  refine ⟨_, _, ⟨rfl, by decide⟩, by decide, by decide, by decide, by decide, by decide, by decide, by decide, ?_, by decide +kernel, rfl⟩
  have h : routePipes 0xFFFFFF00 = [0] := by decide
  rw [h]; intro p hp
  simp only [List.mem_cons, List.not_mem_nil, or_false] at hp
  subst hp; exact ⟨pipe0, rfl, by decide⟩
/-- FeedAndMark: a session in each of the states that the parts name; the payload fills the input ring. -/
theorem witness_FeedAndMark : ∀ st ∈ [SessState.opened, .listening, .thinking, .speaking, .ending, .closing], ∃ a b,
    (serving st).accepts hM (.onM 0x31 none (parFeed 0 1 152 64)) a ∧
    (serving st).accepts hM (.onM 0x32 none (parHandle 0 ++ [byteField 20 2 1])) b ∧ (64 : DWord).toNat % 64 = 0 ∧
    handleDie 0 = 0 ∧ (a.sessionOf 0 = some 0 ∧ b.sessionOf 0 = some 0) ∧ (a.inputPipe 0 = some pipe0 ∧ b.inputPipe 0 = some pipe0) ∧
    ((a.sess 0).state = st ∧ (b.sess 0).state = st) ∧ a.adapterMissing (a.sess 0) = false ∧ b.adapterMissing (b.sess 0) = false ∧
    (b.sess 0).markq = false ∧ (152 : BitVec 16).toNat + 8 ≤ 32 * pipe0.ilen := by
  intro st h
  simp only [List.mem_cons, List.not_mem_nil, or_false] at h
  rcases h with rfl | rfl | rfl | rfl | rfl | rfl <;>
  exact ⟨_, _, ⟨rfl, by decide⟩, ⟨rfl, by decide⟩, by decide, by decide, by decide, ⟨rfl, rfl⟩, by decide⟩
/-- FeedAndMark: a session whose adapter slot has no current bank, open, and thinking before and after its next turn is taken. -/
theorem witness_FeedAndMark_adapter : ∀ q ∈ [(SessState.opened, false), (.thinking, false), (.thinking, true)], ∃ a b,
    (let s := (serving q.1).setSess 0 { sess q.1 with aslot := 63, fedNext := q.2 }
     s.accepts hM (.onM 0x31 none (parFeed 0 1 152 64)) a ∧ s.accepts hM (.onM 0x32 none (parHandle 0 ++ [byteField 20 2 1])) b ∧
     (a.sessionOf 0 = some 0 ∧ b.sessionOf 0 = some 0) ∧ (a.inputPipe 0 = some pipe0 ∧ b.inputPipe 0 = some pipe0) ∧
     ((a.sess 0).state = q.1 ∧ (b.sess 0).state = q.1) ∧ a.adapterMissing (a.sess 0) = true ∧ b.adapterMissing (b.sess 0) = true ∧
     (b.sess 0).markq = false ∧ (a.sess 0).nextTaken = q.2 ∧ (b.sess 0).nextTaken = q.2) := by
  intro q h
  simp only [List.mem_cons, List.not_mem_nil, or_false] at h
  rcases h with rfl | rfl | rfl <;>
  exact ⟨_, _, ⟨rfl, by decide⟩, ⟨rfl, by decide⟩, by decide, ⟨rfl, rfl⟩, by decide⟩
/-- CloseAndCancel: a session in each of the states that the parts name, on an ordinary ring and on ring 0. -/
theorem witness_CloseAndCancel : ∀ st ∈ [SessState.opened, .listening, .thinking, .speaking, .ending, .closing], ∃ a b c,
    (serving st).accepts hM (.onM 0x33 none (parHandle 0)) a ∧ (serving st).accepts hM (.onM 0x38 none (parHandle 0)) b ∧
    (servingOn 0 st).accepts { hM with ring := 0 } (.onM 0x38 none (parHandle 0)) c ∧ hM.ring ≠ 0 ∧ handleDie 0 = 0 ∧
    (a.sessionOf 0 = some 0 ∧ b.sessionOf 0 = some 0 ∧ c.sessionOf 0 = some 0) ∧
    ((a.sess 0).state = st ∧ (b.sess 0).state = st ∧ (c.sess 0).state = st) ∧ b.cancelling 0 true = false ∧
    c.cancelling 0 true = false := by
  intro st h
  simp only [List.mem_cons, List.not_mem_nil, or_false] at h
  rcases h with rfl | rfl | rfl | rfl | rfl | rfl <;>
  exact ⟨_, _, _, ⟨rfl, by decide⟩, ⟨rfl, by decide⟩, ⟨rfl, by decide⟩, by decide⟩
/-- The check of STOP. -/
def specStop (b : Bool) : CmdSpec := { opc := 0x40, since := 0, sets := true, level := inModule, bad := none, par := [⟨128, 1, bit1 b⟩] }
/-- The check of ABORT in a state. -/
def specAbort (s : State) : CmdSpec := { opc := 0x41, since := 0, sets := true, level := fun p => !(s.isPeer p), bad := none, par := [] }
/-- Floor 0 is fenced. -/
def fenced0 : State := on.setFloor 0 { Floor.reset with mode := .fenced }
/-- StopCommands: a stop of tile 0 that is up and of one on a floor that is down; announcements in a room with and without a clock. -/
theorem witness_StopCommands : ∃ a b,
    ((∀ x, (served on).accepts (hdr 0) (specStop x) a) ∧ isSet (hdr 0) = false ∧ pathLevel 0 ≤ 3 ∧ a.downFloor [0] = none ∧
      a.stoppable [0] = [0] ∧ a.aborts 0 = false ∧ a.downFloor (a.unitsOf (hdr 0)) = none) ∧
    ((∀ x, (served fenced0).accepts (hdr 0) (specStop x) b) ∧ b.downFloor (b.unitsOf (hdr 0)) = some 0) ∧
    (∀ off ∈ [false, true], let s := (on.setUnit 0 { UnitRegs.reset with stop := true }).setRoom 0 { Room.reset with clockOff := off }
      s.ready = true ∧ s.floorUp (roomFloor 0) = true ∧ (unitRooms 0).contains 0 = true ∧ (s.unit 0).stop = true ∧
        (s.room 0).clockOff = off) := by
  exact ⟨_, _, ⟨fun _ => ⟨rfl, rfl⟩, by decide⟩, ⟨fun _ => ⟨rfl, rfl⟩, by decide⟩, by decide⟩
/-- An ABORT of tile 0 in progress that rooms have not reported quiet. -/
def abortOf (rooms : List Nat) : Cmd := { h := hdr 0, opc := 0x41, tick := 0, work := .abort [0] [0] rooms 0 0, mute := false }
/-- AbortCommands: a floor that is down; no program; one that runs, and an abort in progress; announcements with and without a
clock; reports, and the quiet limit. -/
theorem witness_AbortCommands : ∃ a b c d,
    ((served fenced0).accepts (hdr 0) (specAbort (served fenced0)) a ∧ a.downFloor (a.unitsOf (hdr 0)) = some 0) ∧
    ((served on).accepts (hdr 0) (specAbort (served on)) b ∧ b.downFloor (b.unitsOf (hdr 0)) = none ∧
      b.reaches (b.unitsOf (hdr 0)) = false ∧ (b.unitsOf (hdr 0)).flatMap b.abortsOver = [] ∧
      b.runsProgram (b.unitsOf (hdr 0)) = false) ∧
    (let s := served (with0 (runs .reset))
     s.accepts (hdr 0) (specAbort s) c ∧ c.downFloor (c.unitsOf (hdr 0)) = none ∧ c.reaches (c.unitsOf (hdr 0)) = true ∧
      (c.endLoad 1).runsProgram (c.unitsOf (hdr 0)) = true) ∧
    (let s := served { on with cmds := [abortOf [0]] }
     s.accepts (hdr 0) (specAbort s) d ∧ d.downFloor (d.unitsOf (hdr 0)) = none ∧ d.reaches (d.unitsOf (hdr 0)) = false ∧
      (d.unitsOf (hdr 0)).flatMap d.abortsOver ≠ []) ∧
    (∀ off ∈ [false, true], let s := { on.setRoom 0 { Room.reset with clockOff := off } with aborting := [(0, 0)] }
     s.aborting.contains (0, 0) = true ∧ s.floorUp (roomFloor 0) = true ∧ (s.room 0).clockOff = off) ∧
    (let s := { on with cmds := [abortOf [255]], pkt := 100000 }
     s.cmdOf ⟨0, 1, 1⟩ = some (abortOf [255]) ∧ ([255] : List Nat).contains 255 = true ∧
       (∀ v ∈ [(0 : Word)], s.aborting.contains (255, v) = false) ∧
       (∀ z ∈ s.cmds, ∀ own rs x y, z.work = .abort [0] own rs x y → (abortOf [255]).tick ≤ z.tick) ∧
       (abortOf [255]).tick + quietLimit [0] ≤ s.pkt) := by
  refine ⟨_, _, _, _, ⟨⟨rfl, by decide⟩, by decide⟩, ⟨⟨rfl, by decide⟩, by decide⟩,
    ⟨⟨rfl, by decide⟩, by decide⟩, ⟨⟨rfl, by decide⟩, by decide⟩, by decide, rfl,
    by decide, fun _ _ => rfl, fun z hz _ _ _ _ _ => by simp only [List.mem_singleton] at hz; subst hz; exact Nat.le_refl _, by decide⟩
/-- The check of FENCE and FLOOR RESET. -/
def specFloor (opc : Byte) : CmdSpec := { opc := opc, since := 0, sets := false, level := onFloor, bad := none, par := [] }
/-- Floor 15 is being reset; its steps stand due. -/
def resetting15 : State := on.setFloor 15 { Floor.reset with mode := .resetting, due := some (some []) }
/-- A FLOOR RESET is in progress. -/
def busy49 : State := { resetting15 with cmds := [{ h := hM, opc := 0x49, tick := 0, work := .floorReset 15, mute := false }] }
/-- FloorRecovery: both commands while a FLOOR RESET is in progress. -/
theorem witness_FloorBusy : ∃ a b, (served busy49).accepts (hdr (floorPath 0)) (specFloor 0x48) a ∧ a.moduleBusy = some 0x49 ∧
    (served busy49).accepts (hdr (floorPath 0)) (specFloor 0x49) b ∧ b.moduleBusy = some 0x49 := by
  exact ⟨_, _, ⟨rfl, by decide⟩, by decide, ⟨rfl, by decide⟩, by decide⟩
/-- FloorRecovery: a floor whose steps stand due, its clocks fallen. -/
theorem witness_ResetDue : (resetting15.floor 15).due = some (some []) ∧ resetting15.tripped = false ∧ resetting15.mreset = false ∧
    (∀ i < 16, (resetting15.room (16 * 15 + i)).fall = none) := ⟨rfl, rfl, rfl, fun _ _ => rfl⟩
/-- FenceCommand: a floor that is fenced, one that is up, and one that is up and holds a tile of the image. -/
theorem witness_FenceCommand : ∃ a b c,
    ((served fenced0).accepts (hdr (floorPath 0)) (specFloor 0x48) a ∧ a.moduleBusy = none ∧
      a.floorUp (pathFloor (floorPath 0)) = false) ∧
    ((served on).accepts (hdr (floorPath 15)) (specFloor 0x48) b ∧ b.moduleBusy = none ∧
      b.floorUp (pathFloor (floorPath 15)) = true ∧ b.image = none) ∧
    ((served (held on)).accepts (hdr (floorPath 0)) (specFloor 0x48) c ∧ c.moduleBusy = none ∧
      c.floorUp (pathFloor (floorPath 0)) = true ∧ im1.tiles.any (fun t => tileFloor t == pathFloor (floorPath 0)) = true) := by
  exact ⟨_, _, _, ⟨⟨rfl, by decide⟩, by decide⟩, ⟨⟨rfl, by decide⟩, by decide⟩,
    ⟨rfl, by decide⟩, by decide⟩
/-- A start in which nothing fails, with PWRGD_IN as given. -/
def env (p : Bool) : StartEnv :=
  let c : FirmwareCopy := ⟨0, 0, false, 0, 0, 0, true, [], 0, 0⟩
  ⟨[], p, true, c, c, ⟨[], [], 0⟩, 64, [], []⟩
/-- FloorResets: a floor that is up and one that is fenced. -/
theorem witness_FloorResets : ∀ m ∈ [FloorMode.up, .fenced], ∃ a,
    (served (on.setFloor 15 { Floor.reset with mode := m })).accepts (hdr (floorPath 15)) (specFloor 0x49) a ∧ a.moduleBusy = none ∧
    (a.floor (pathFloor (floorPath 15))).mode = m ∧ (env true).attempts = [] := by
  intro m h
  simp only [List.mem_cons, List.not_mem_nil, or_false] at h
  rcases h with rfl | rfl <;> exact ⟨_, ⟨rfl, by decide⟩, by decide⟩
/-- A change to G3. -/
def up3 (target : Option Nat) (waits : Bool) : GearChange :=
  { chain := [3], target := target, awaiting := waits, since := 0, thermal := false, was := 0, tail := none }
/-- FloorRejoins: floor 15 at its rejoin stop with every room stopped, with a gear change, and with a room that has not stopped. -/
theorem witness_FloorRejoins :
    (let s := { on.setFloor 15 { Floor.reset with mode := .resetting, atRejoin := true } with holdAll := true }
     (s.floor 15).atRejoin = true ∧ s.change = none ∧ (∀ r ∈ s.upRooms, s.atRejoinStop r = true) ∧ s.spinesFit s.gear.toNat 16 = true) ∧
    (on.floor 15).atRejoin = false ∧ ({ on with change := some (up3 none true) } : State).change ≠ none ∧
    (∃ r ∈ on.upRooms, on.atRejoinStop r = false) ∧ ({ on with spineEvs := [(0, 88000)] } : State).spinesFit 2 16 = false := by
  exact ⟨by decide +kernel, by decide, by decide, ⟨0, by decide +kernel, by decide⟩, by decide⟩
/-- A start that hangs in a step of the module itself, at its second attempt. -/
def hangs : Boot := ⟨1, some (1, ⟨0, 0⟩, 2), env true, 0⟩
/-- Starts: each of the states in which the events are met. -/
theorem witness_Starts :
    (State.reset.tripped = false ∧ State.reset.mreset = true ∧ State.reset.ramping = false ∧ (env true).pwrgd = true ∧
      (env false).pwrgd = false) ∧
    (let s := State.reset.setRoom 0 { Room.reset with fall := some 1 }
     s.tripped = false ∧ s.mreset = true ∧ s.ramping = true) ∧
    (let s := { State.reset with mreset := false }
     s.tripped = false ∧ s.mreset = false ∧ s.pwrgd = false) ∧
    (let s := { on with refLost := true }
     s.tripped = false ∧ s.refLost = true ∧ s.powered = true ∧ s.mreset = false ∧ s.pwrgd = true) := by decide
/-- ModuleResets: a MODULE RESET with no other module command in progress. -/
theorem witness_ModuleResets : ∃ a, (served on).accepts hM (.onM 0x4A none) a ∧ a.moduleBusy = none := by
  exact ⟨_, ⟨rfl, by decide⟩, by decide⟩
/-- A journal entry of zeros. -/
def jent : JEnt := ⟨0, 0, 0, false, 0, false, 0, 0, 0, 0⟩
/-- PowerEvents: out of reset, in reset, and with an entry for the journal's flash. -/
theorem witness_PowerEvents : on.mreset = false ∧ (State.reset.powered = true ∧ State.reset.mreset = true) ∧
    (let s := { on with jQueue := [jent] }
     s.powered = true ∧ s.jQueue = [jent]) := by decide
/-- VsramBelowRange: a module with power. -/
theorem witness_VsramBelowRange : on.powered = true := by decide
/-- StartStepTimeouts: a start whose second attempt has hung. -/
theorem witness_StartStepTimeouts : let s := { State.reset with boot := some hangs }
    s.boot = some hangs ∧ hangs.hung = some (1, ⟨0, 0⟩, 2) ∧ (⟨0, 0⟩ : BootUnit).kind = 0 := ⟨rfl, rfl, rfl⟩
/-- GearCommand: throttled below the target, at the gear in force, below it, above it, and to G0 with an allowance left. -/
theorem witness_GearCommand : ∃ a b c d e,
    ((served { on with throttled := some 2 }).accepts hM (.onM 0x50 none [byteField 16 1 (3 : Byte).toNat]) a ∧ a.change = none ∧
      a.moduleBusy = none ∧ a.throttled = some 2 ∧ 2 < (3 : Byte).toNat) ∧
    ((served on).accepts hM (.onM 0x50 none [byteField 16 1 (2 : Byte).toNat]) b ∧ b.change = none ∧ b.moduleBusy = none ∧ b.throttled = none ∧
      b.gear.toNat = (2 : Byte).toNat) ∧
    ((served { on with gear := 0 }).accepts hM (.onM 0x50 none [byteField 16 1 (3 : Byte).toNat]) c ∧ c.change = none ∧ c.moduleBusy = none ∧ c.throttled = none ∧
      c.gear.toNat < (3 : Byte).toNat) ∧
    ((served on).accepts hM (.onM 0x50 none [byteField 16 1 (1 : Byte).toNat]) d ∧ d.change = none ∧ d.moduleBusy = none ∧ d.throttled = none ∧
      (1 : Byte).toNat < d.gear.toNat ∧ 1 < d.gear.toNat) ∧
    ((served ({ on with gear := 1 }.setRoom 0 { Room.reset with allow := 16 })).accepts hM (.onM 0x50 none [byteField 16 1 (0 : Byte).toNat]) e ∧ e.change = none ∧
      e.moduleBusy = none ∧ e.throttled = none ∧ e.gear = 1 ∧ ∃ r ∈ e.upRooms, (e.room r).allow ≠ 0) := by
  exact ⟨_, _, _, _, _, ⟨⟨rfl, by decide⟩, by decide⟩,
    ⟨⟨rfl, by decide⟩, by decide⟩, ⟨⟨rfl, by decide⟩, by decide⟩,
    ⟨⟨rfl, by decide⟩, by decide⟩,
    ⟨rfl, by decide⟩, by decide, by decide, by decide, by decide, 0, by decide⟩
/-- GearWhilePending: a GEAR during a change. -/
theorem witness_GearWhilePending : ∃ a, (served { on with change := some (up3 none true) }).accepts hM (.onM 0x50 none [byteField 16 1 (3 : Byte).toNat]) a ∧
    (3 : Byte).toNat ≤ 3 ∧ a.change = some (up3 none true) := by
  exact ⟨_, ⟨rfl, by decide⟩, by decide⟩
/-- GearChanges: a change that waits for its regulator at G2 and at G0, at its limit, announced, and reached; a restart that is over. -/
theorem witness_GearChanges :
    (let s := { on with change := some (up3 none true), pkt := 25000 }
     s.change = some (up3 none true) ∧ (up3 none true).chain = 3 :: [] ∧ (up3 none true).awaiting = true ∧ s.gear ≠ 0 ∧
       (up3 none true).since + 25000 ≤ s.pkt ∧ s.overSince = none ∧ s.throttled = none) ∧
    (let s := { on with change := some (up3 none true), gear := 0 }
     s.change = some (up3 none true) ∧ (up3 none true).awaiting = true ∧ s.gear = 0) ∧
    (let s := { on with change := some (up3 (some 65535) false) }
     (up3 (some 65535) false).target = some 65535 ∧ (s.floor (roomFloor 255)).mode = .up ∧ (s.room 255).clockOff = false ∧
       (s.room 255).tread ≤ 65535 ∧ 65535 < (s.room 255).tread + 65536 ∧ (255 : RoomId).val ∈ s.upRooms ∧ (s.room 255).tread < 65535) ∧
    (let s := { on with change := some (up3 (some 0) false) }
     (∀ q ∈ s.upRooms, 0 ≤ (s.room q).tread ∧ (s.room q).pendGear = none) ∧ s.overSince = none ∧ s.throttled = none) ∧
    (let s := { on with change := some (up3 none false), gear := 0 }
     (up3 none false).target = none ∧ s.gear = 0 ∧ (up3 none false).awaiting = false ∧ s.restart = none ∧
       ∀ q ∈ s.upRooms, (s.room q).clockOff = false) := by decide +kernel
/-- RoomRestarts: a room's turn, on a floor that is up and on one that is not. -/
theorem witness_RoomRestarts : (let s := { on with change := some (up3 none false), restart := some (255, 0) }
     s.restart = some (255, 0) ∧ s.change = some (up3 none false) ∧ 0 ≤ s.pkt ∧ (s.floor (roomFloor 255)).mode = .up) ∧
    (({ fenced0 with restart := some (0, 0) } : State).floor (roomFloor 0)).mode ≠ .up := by decide
/-- Room 0 has refused a tread, and the allowance of room 255 falls. -/
def ticking : State := (on.setRoom 0 { Room.reset with refused := true }).setRoom 255 { Room.reset with allow := 16, fall := some 2 }
/-- TicksAndPulses: no crate and no floor reset is under way. -/
theorem witness_TicksAndPulses_idle : (∀ d, ticking.crateCmds d = []) ∧ (∀ f, (ticking.floor f).due = none) :=
  ⟨fun _ => rfl, fun _ => rfl⟩
/-- TicksAndPulses: a tick with and without power, rooms that have refused a tread and whose allowance falls, and pulses. -/
theorem witness_TicksAndPulses :
    (let s := ticking
     s.powered = true ∧ s.cmds.findSome? Cmd.loading = none ∧ s.startWait = none ∧ (s.rooms.map (·.1)).Nodup ∧
       0 ∈ s.rooms.map (·.1) ∧ 255 ∈ s.rooms.map (·.1) ∧ s.clockRuns 0 = true ∧ s.clockRuns 255 = true ∧
       s.gearWindow (s.room 0).tread = false ∧ s.gearWindow (s.room 255).tread = false ∧ (s.room 0).fall = none ∧
       (s.room 0).refused = true ∧ (s.room 255).fall = some 2) ∧
    ({ on with powered := false } : State).powered = false ∧
    (let s := { on with pkt := 4096 }
     s.holdAll = false ∧ s.pkt % 4096 = 0) ∧ ({ on with pkt := 4097 } : State).pkt % 4096 ≠ 0 ∧ State.reset.holdAll = true := by decide
/-- HoldLimits: holds at and below their limits, and reports that wait and do not. -/
theorem witness_HoldLimits :
    (∀ n ∈ [(12500, 50000), (12499, 49999)], let s := on.setRoom 255 { Room.reset with holdSrcs := [⟨0, 1, 0, 4⟩], holdTicks := n.1, wdogTicks := n.2 }
     (s.room 255).holdSrcs = [⟨0, 1, 0, 4⟩] ∧ s.ready = true ∧ (s.floor (roomFloor 255)).mode = .up ∧
       (s.room 255).holdTicks = n.1 ∧ (s.room 255).wdogTicks = n.2 ∧ (s.room 255).holdFired = false ∧
       (∀ w ∈ s.hangWait, w.room ≠ 255) ∧ s.limsIn = (12500, 50000)) ∧
    (let s := { on with hangWait := [⟨255, [], []⟩] }
     ∃ w ∈ s.hangWait, w.room = 255) := by decide
/-- A request of tile 0. -/
def req (waits : Bool) (left : Nat) : Req :=
  ⟨⟨.write, false, false, 0, 1, 0, 63, 0, .tile 0, .uni ⟨0, false, 0, false, 0⟩, [], [], true, none, []⟩, false, 0, 0, 0, waits, left, false⟩
/-- RequestLimits: a request past its limit and one at it, bounced and not, and with periods left. -/
theorem witness_RequestLimits : ∀ w ∈ [false, true], ∀ l ∈ [0, 64], ∀ n ∈ [1562, 1563],
    let s := { with0 ((runs .reset).setReq 63 (some (req w l))) with pkt := n }
    s.tileOn 0 = true ∧ (s.tile 0).req 63 = some (req w l) ∧ (req w l).heldBack = false ∧ (req w l).waiting = w ∧ (req w l).left = l ∧
      (req w l).sent + s.replyLimit = 1562 := by decide
/-- A reading of sensor 63 of floor 15 has come. -/
def reads (t : BitVec 16) (s : State) : State := s.setFloor 15 { s.floor 15 with therm := Tbl.set 0 (s.floor 15).therm 63 t }
/-- ThermalEvents: a module that has been above 100 °C for 10 ms at G2; one that has been at 95 °C for 100 ms, at the gear
commanded, one below it and two below it; a change that is pending; and a module that does not poll. -/
theorem witness_ThermalEvents_after :
    (let s := { on with overSince := some 0, pkt := 250000 }
     s.ready = true ∧ 1600 < (highest (reads 1601 s).readings).2.2 ∧ s.change = none ∧ s.gear = 2 ∧ s.overSince = some 0 ∧ 0 + 250000 ≤ s.pkt) ∧
    (∀ c ∈ [(1 : BitVec 2), 2, 3],
      let s := { on with gear := 1, cgear := c, throttled := some 1, underSince := some 0, pkt := 2500000 }
      s.ready = true ∧ (highest (reads 1520 s).readings).2.2 ≤ 1520 ∧ s.change = none ∧ s.underSince = some 0 ∧ 0 + 2500000 ≤ s.pkt ∧
        s.throttled = some 1) ∧
    ({ on with change := some (up3 none true) } : State).change ≠ none ∧ ((highest (reads 1600 on).readings).2.2 ≤ 1600 ∧ on.throttled = none) ∧
    State.reset.ready = false := by decide
/-- ThermalEvents: above 100 °C at G3, at 95 °C, and at 115 °C; a module without power, one that has tripped, and a cooler reading. -/
theorem witness_ThermalEvents :
    (let s := { on with gear := 3 }
     let a := s.setFloor 15 { s.floor 15 with therm := Tbl.set 0 (s.floor 15).therm 63 1601 }
     s.ready = true ∧ 1600 < (highest a.readings).2.2 ∧ a.change = none ∧ a.gear = 3) ∧
    (let a := on.setFloor 15 { on.floor 15 with therm := Tbl.set 0 (on.floor 15).therm 63 1520 }
     (highest a.readings).2.2 ≤ 1520 ∧ a.throttled = none) ∧
    (on.powered = true ∧ on.tripped = false ∧ 1840 ≤ temp 1840) ∧ ({ on with powered := false } : State).powered = false ∧
    ({ on with tripped := true } : State).tripped = true ∧ temp 1839 < 1840 := by decide
/-- ClockLosses: the clocks of a module that runs; and of one without power, without reference, that has not started, and with a
floor that is fenced. -/
theorem witness_ClockLosses : on.powered = true ∧ on.refLost = false ∧ on.ready = true ∧ (on.floor 15).mode = .up ∧
    on.clockRuns 255 = true ∧ ({ on with powered := false } : State).powered = false ∧ ({ on with refLost := true } : State).refLost = true ∧
    State.reset.ready = false ∧ (fenced0.floor 0).mode ≠ .up ∧ fenced0.clockRuns 0 = false := by decide
/-- EdgeDieFailures: a first and a second failure, and a module without power. -/
theorem witness_EdgeDieFailures :
    (on.powered = true ∧ on.mreset = false ∧ (on.die 3).failed = false ∧ on.dieFailures = 0) ∧
    0 < ({ on with dieFailures := 1 } : State).dieFailures ∧ ({ on with powered := false } : State).powered ≠ true := by decide
/-- LeadTakeovers: a failed lead with a live next die, without and with a start past its third step, and with none. -/
theorem witness_LeadTakeovers :
    (∀ b ∈ [none, some (⟨4, none, env true, 0⟩ : Boot)], let s := { on.setDie 0 { Die.reset with failed := true } with boot := b }
     s.powered = true ∧ s.mreset = false ∧ (s.die s.lead.val).failed = true ∧ (s.die (s.nextLead s.lead.val).val).failed = false ∧
       s.boot = b) ∧
    (let s := (((on.setDie 0 { Die.reset with failed := true }).setDie 1 { Die.reset with failed := true }).setDie 2
      { Die.reset with failed := true }).setDie 3 { Die.reset with failed := true }
     (s.die s.lead.val).failed = true ∧ (s.die (s.nextLead s.lead.val).val).failed = true) := by
  refine ⟨fun b hb => ?_, by decide⟩
  simp only [List.mem_cons, List.not_mem_nil, or_false] at hb
  rcases hb with rfl | rfl <;> exact ⟨by decide, by decide, by decide, by decide, rfl⟩
/-- ScrubReads: the last lines, at which the walks stand, clean, with a single-bit error and with a double-bit error. -/
theorem witness_ScrubReads : ∀ n ∈ [0, 1, 2],
    let v := { Tile.reset with scrubAttic := 2047, scrubWhole := 8191, stairFree := 2, atticMark := (if n = 0 then [] else [(8188, n)])
                               cellarMark := (if n = 0 then [] else [(32764, n)]) }
    (with0 v).tileOn 0 = true ∧ v.scrubAttic = (2047 : BitVec 13).toNat ∧ v.banksUsed.getLsbD ((2047 : BitVec 13).toNat % 4) = false ∧
    (v.scrubTarget = some (8191 : BitVec 13).toNat ∨ v.scrubWhole = (8191 : BitVec 13).toNat) ∧ v.stairFree = 2 ∧
    Tbl.get 0 v.atticMark (4 * (2047 : BitVec 13).toNat) = n ∧ Tbl.get 0 v.cellarMark (4 * (8191 : BitVec 13).toNat) = n ∧
    (∀ i ∈ [1, 2, 3], Tbl.get 0 v.atticMark (4 * (2047 : BitVec 13).toNat + i) = 0 ∧
      Tbl.get 0 v.cellarMark (4 * (8191 : BitVec 13).toNat + i) = 0) ∧
    v.scrubAttic ≠ (0 : BitVec 13).toNat ∧ v.scrubTarget ≠ some (0 : BitVec 13).toNat ∧ v.scrubWhole ≠ (0 : BitVec 13).toNat ∧
    ({ v with banksUsed := 8 } : Tile).banksUsed.getLsbD ((2047 : BitVec 13).toNat % 4) ≠ false ∧ ({ v with stairFree := 1 } : Tile).stairFree ≠ 2 := by decide

/-! ### Witnesses for the statements: the boundary -/

/-- CommandFetches: ring 1 has an entry and a place for its reply; and a ring whose turn it is not. -/
theorem witness_CommandFetches :
    (let e : Die := { Die.reset with portUp := true, sub := [(1, { SubRing.reset with size := 4, avail := 1 })],
                                     comp := [(1, { CompRing.reset with size := 4, used := 15 })] }
     let s := on.setDie 0 e
     s.ready = true ∧ s.resetting = false ∧ (s.die 0).failed = false ∧ (s.die 0).portUp = true ∧ (s.die 0).d3 = false ∧
       (s.die 0).nextRing = some 1) ∧
    (on.die 0).nextRing ≠ some 1 := by decide
/-- ReplyEntries: an enabled ring at its last entry, and a disabled one. -/
theorem witness_ReplyEntries :
    ({ Die.reset with comp := [(8, { CompRing.reset with size := 4, tail := 15 })] } : Die).compRing 8 =
      { CompRing.reset with size := 4, tail := 15 } ∧ (4 : Nat) ≠ 0 ∧ (Die.reset.compRing 8).size = 0 := by decide
/-- RepliesTouchPortsOnly: a command that its ring gives up. -/
theorem witness_RepliesTouchPortsOnly : ∃ a, (served on).takeCmd hM (.onM 0x01 none) = some a := ⟨_, rfl⟩
/-- A start that waits for the PERST_N of NW. -/
def waitsPerst : Boot := ⟨10, some (10, ⟨4, 3⟩, 0), env true, 0⟩
/-- PortEvents: a port that is up, one that is down, one in D3hot, no power, a reset module without a start under way, a module
that has not started, and a start that waits for the port. -/
theorem witness_PortEvents : on.powered = true ∧ ({ on with powered := false } : State).powered = false ∧
    ((served on).die 0).failed = false ∧ ((served on).die 0).portUp = true ∧ (on.die 3).portUp = false ∧
    ((on.setDie 0 { Die.reset with d3 := true }).die 0).d3 = true ∧ (on.die 0).d3 = false ∧
    (on.boot = none ∧ on.ready = true ∧ ((on.setDie 3 { on.die 3 with perst := false }).die 3).failed = false ∧
      on.portsDown.getLsbD 3 = false) ∧ (State.reset.boot = none ∧ State.reset.ready = false) ∧
    (({ State.reset with boot := some waitsPerst } : State).boot = some waitsPerst ∧
      waitsPerst.hung = some (10, ⟨4, BitVec.ofNat 8 (3 : DieId).val⟩, 0)) := by
  exact ⟨by decide, by decide, by decide, by decide, by decide, by decide, by decide, by decide, by decide, rfl, rfl⟩
/-- The path of module 16,383. -/
def peerPath : Word := 0x4FFFC000
/-- PeerNotices: a peer with and without a port, in the gang and not, fenced and not. -/
theorem witness_PeerNotices : ∃ a b c d,
    ((served on).accepts (hdr peerPath) ⟨0x60, 0, false, (served on).isPeer, none, []⟩ a ∧ (a.peer (pathModule peerPath)).port = none ∧
      a.inGang (pathModule peerPath) = false) ∧
    (let s := served ({ on with started := some 0, params := [16384] }.setPeer 16383 { state := 1, port := some 15, chg := 0 })
     s.accepts (hdr peerPath) ⟨0x60, 0, false, s.isPeer, none, []⟩ b ∧ (b.peer 16383).port = some 15 ∧ b.inGang 16383 = true) ∧
    ((served on).accepts (hdr peerPath) ⟨0x61, 0, false, (served on).isPeer, none, []⟩ c ∧ (c.peer 16383).state ≠ 3) ∧
    (let s := served (on.setPeer 16383 { state := 3, port := none, chg := 0 })
     s.accepts (hdr peerPath) ⟨0x61, 0, false, s.isPeer, none, []⟩ d ∧ (d.peer 16383).state = 3 ∧ (d.peer 16383).port = none) := by
  exact ⟨_, _, _, _, ⟨⟨rfl, by decide⟩, by decide⟩, ⟨⟨rfl, by decide⟩, by decide⟩,
    ⟨⟨rfl, by decide⟩, by decide⟩, ⟨rfl, by decide⟩, by decide⟩
/-- SidebandReads: a module out of reset, and one in reset. -/
theorem witness_SidebandReads : (on.powered = true ∧ on.mreset = false) ∧ ¬(State.reset.powered = true ∧ State.reset.mreset = false) := by decide
/-- MessageFragments: a first fragment, the one expected, another, and a last one. -/
theorem witness_MessageFragments : (on.powered = true ∧ on.mreset = false) ∧
    (1 ≤ ([7] : List Byte).length ∧ ([7] : List Byte).length ≤ 254) ∧
    ((0x00 : Byte).toNat % 128 = 0 ∧ (0x00 : Byte).getLsbD 7 = false) ∧
    ((0x05 : Byte).toNat % 128 ≠ 0 ∧ (0x05 : Byte).toNat % 128 ≠ on.msg.next) ∧
    (let s := { on with msg := ⟨[], 5, []⟩ }
     (0x85 : Byte).toNat % 128 = s.msg.next ∧ (0x85 : Byte).getLsbD 7 = true) ∧
    ((0x80 : Byte).toNat % 128 = 0 ∧ [] ++ ([1] : List Byte) = [1]) := by decide
/-- A module whose owner key of a slot is given. -/
def owned (i : Nat) (k : BitVec 768) : State := on.setOwner i (some k)
/-- KeyMessages: an OWNER SET of slot 3, of a key of zeros, that owner key 0 has signed. -/
theorem witness_OwnerSet : (owned 0 0x4305837d8e8e57130decc2f1732867176b56f4ae75cb7d9f5a056b26dedbe57f787f8e32352443798789ec5104059f2d8fc08d80ba4a52af5d235a0820566470db5c2e61c2ea7b6c25c04193b7e4833431c753ebe7edaf95a3aefe028226e1f).msgCheck (decide (1 ≤ (3 : Byte).toNat) && decide ((3 : Byte).toNat < 4))
    0 1
    ([3, 3] ++ leBytes 4 (1 : Word).toNat ++ keyBytes 0)
    0x4fcebebee672c7adb100c37802c2360b3d1aa93f354d1339b5d396d463305782011c312e849f39ff7dc3cb0f27cc694d4fcebebee672c7adb100c37802c2360b3d1aa93f354d1339b5d396d463305782011c312e849f39ff7dc3cb0f27cc694d = 0 := by decide +kernel
/-- KeyMessages: an OWNER CLEAR of slot 3, whose owner key is present, that owner key 0 has signed. -/
theorem witness_OwnerClear : ((owned 0 0x34f0ff0c617884a90fa666343d044bd16610aabcb451a2bbc0f5dd9bd301ba60a4f0c93acdaf8d326e95a159af3ffbad979753d7e71127a0aa5e9f9f5d5940b3ce80649722c98b14badef3e7c81ab194865f614d7fdc66c4677b4f8085fc24d8).setOwner 3 (some 0)).msgCheck (decide (1 ≤ (3 : Byte).toNat) && decide ((3 : Byte).toNat < 4) && ((on.setOwner 3 (some 0)).ownerKey 3).isSome)
    0 6
    ([4, 3] ++ leBytes 4 (6 : Word).toNat)
    0xf5047a3f1468ef96708ce15a27ce3ba6001d4568f6537c99e474f795fdae998669a8f32209835abe826c8558ae8f7a36f5047a3f1468ef96708ce15a27ce3ba6001d4568f6537c99e474f795fdae998669a8f32209835abe826c8558ae8f7a36 = 0 := by decide +kernel
/-- KeyMessages: a CRATE KEY SET of slot 3, of fields of zeros, that owner key 3 has signed. -/
theorem witness_CrateKeySet : (owned 3 0xf8fc0e06f2431dfe40cfda7b5c956d597394917b429a0bec40a35e537e0e41863511ac346d706a67506975bc709b45e617e4baf19f5b2ae7d90ce0c60158f10fb8c128d10a82775970a96aefa67551536de88ba6a6dceef1613c75b6615dda8d).msgCheck (decide ((3 : Byte).toNat < 4))
    (3 : Byte).toNat 1
    ([5, 3, 3] ++ leBytes 4 (1 : Word).toNat ++ keyBytes 0 ++ beBytes 12 (0 : BitVec 96).toNat ++ beBytes 32 (0 : BitVec 256).toNat ++ beBytes 16 (0 : BitVec 128).toNat)
    0x648f8ae3333f5398fde0211813878be2b67029edcd774c7413aee7538591e9ce7b2387487edb111d993a54ce15dc264f648f8ae3333f5398fde0211813878be2b67029edcd774c7413aee7538591e9ce7b2387487edb111d993a54ce15dc264f = 0 := by decide +kernel
/-- KeyMessages: a CRATE KEY CLEAR of slot 3, whose key is present, that owner key 3 has signed. -/
theorem witness_CrateKeyClear : ((owned 3 0x5ea7e160b7104d3a070b252129610545099f30a150c4aad1d3b98513694b6fd37b3e516d0c0c5d8be34734c6314eb268a4131ff20f1afbf8122b48d81079a6786fe0ea5edc75a0f04e8b1f0cbcf556eea8915ce9a61de1bc5c116d9ae19cdf38).setCrateKey 3 (some 0)).msgCheck (decide ((3 : Byte).toNat < 4) && ((on.setCrateKey 3 (some 0)).crateKey 3).isSome)
    (3 : Byte).toNat 1
    ([6, 3, 3] ++ leBytes 4 (1 : Word).toNat)
    0xf994b75640014571bbb78c7f86db27246202a5390a7cf00ec2402d22459fbd68837f500c46ef7592ea9041a022fcde86f994b75640014571bbb78c7f86db27246202a5390a7cf00ec2402d22459fbd68837f500c46ef7592ea9041a022fcde86 = 0 := by decide +kernel
/-- KeyMessages: an unclaimed and a claimed module, one that is not ready, and a signed message without a key to check it. -/
theorem witness_KeyMessages : on.ready = true ∧ on.fuses.okey0 = 0 ∧ State.reset.ready = false ∧
    ({ on with fuses := { on.fuses with okey0 := 1 } } : State).fuses.okey0 ≠ 0 ∧
    on.msgCheck (decide (1 ≤ (3 : Byte).toNat) && decide ((3 : Byte).toNat < 4)) 0 1 [] 0 ≠ 0 ∧
    on.msgCheck (decide ((3 : Byte).toNat < 4)) 0 1 [] 0 ≠ 0 := by decide
/-- StatusWordWrites: a tile's status word with the SEQ and with another, and the last event bit. -/
theorem witness_StatusWordWrites : (served on).regsUp (.port 0) = true ∧ pathValid 0 = true ∧ pathLevel 0 ≤ 3 ∧
    (served on).tileLive (pathTile 0) = true ∧ (0x000003FF : Word).toNat / 65536 = ((served on).unit 0).seq.toNat ∧
    (0x000103FF : Word).toNat / 65536 ≠ ((served on).unit 0).seq.toNat ∧ 9 < 10 := by decide
/-- LimitWrites: the bounds of the two limits and the values beyond them, and FLOGR at and past FLOGW. -/
theorem witness_LimitWrites : on.ready = true ∧
    (250 ≤ (250 : Word).toNat % 2 ^ 22 ∧ (250 : Word).toNat % 2 ^ 22 ≤ 2500000) ∧ (249 : Word).toNat % 2 ^ 22 < 250 ∧
    2500000 < (2500001 : Word).toNat % 2 ^ 22 ∧ (25 ≤ (25 : Word).toNat % 2 ^ 18 ∧ (25 : Word).toNat % 2 ^ 18 ≤ 250000) ∧
    (24 : Word).toNat % 2 ^ 18 < 25 ∧ 250000 < (250001 : Word).toNat % 2 ^ 18 ∧
    serialLater (BitVec.ofNat 16 0) on.flogW = false ∧ serialLater (BitVec.ofNat 16 1) on.flogW = true := by decide
/-- UnitAndGoalWrites: entries of unit sets, a stop bit as it stands and otherwise, and goals. -/
theorem witness_UnitAndGoalWrites : on.regsUp .firmware = true ∧ on.ready = true ∧
    (pathValid 0x30000000 = true ∧ pathLevel 0x30000000 ≤ 3) ∧ ((0x50000000 : Word) ≠ 0xFFFFFFFF ∧ pathValid 0x50000000 = false) ∧
    (pathLevel 0x30000000 ≠ 0 ∧ pathValid 0 = true ∧ pathLevel 0 = 0 ∧ on.tileLive (pathTile 0) = true) ∧
    ((on.unit 0x30000000).stop = (0 : Word).getLsbD 0 ∧ (on.unit 0x30000000).stop ≠ (1 : Word).getLsbD 0) := by decide
/-- EN's rings 7 and output ring 15 with the sizes given. -/
def ringed (sub comp out : Nat) : State :=
  on.setDie 0 { Die.reset with portUp := true, sub := if sub = 0 then [] else [(7, { SubRing.reset with size := sub })],
                               comp := if comp = 0 then [] else [(7, { CompRing.reset with size := comp })],
                               outp := if out = 0 then [] else [(15, { OutRing.reset with size := out })] }
/-- RingPointerWrites: pointers at the last entries of their rings and beyond, a ring with its entries taken, and rings disabled. -/
theorem witness_RingPointerWrites : (ringed 4 4 12).regsUp (.port 0) = true ∧ (ringed 0 0 0).regsUp (.port 0) = true ∧
    (let q := ((ringed 4 4 12).die 0).subRing 7
     let c := ((ringed 4 4 12).die 0).compRing 7
     let o := ((ringed 4 4 12).die 0).outRing 15
     q.size ≠ 0 ∧ (15 : Word).toNat % 4096 < 2 ^ q.size ∧ 2 ^ q.size ≤ (16 : Word).toNat % 4096 ∧ q.size ≤ c.size ∧
       q.avail + q.open_ + ((15 : Word).toNat % 4096 + 2 ^ q.size - q.tail) % 2 ^ q.size ≤ 2 ^ q.size ∧
       c.size ≠ 0 ∧ (15 : Word).toNat % 4096 < 2 ^ c.size ∧ 2 ^ c.size ≤ (16 : Word).toNat % 4096 ∧
       o.size ≠ 0 ∧ (4095 : Word).toNat % 2 ^ 24 < 2 ^ o.size ∧ 2 ^ o.size ≤ (4096 : Word).toNat % 2 ^ 24) ∧
    (let q : SubRing := { SubRing.reset with size := 4, avail := 2 }
     2 ^ q.size < q.avail + q.open_ + ((15 : Word).toNat % 4096 + 2 ^ q.size - q.tail) % 2 ^ q.size) ∧
    (((ringed 4 0 0).die 0).compRing 7).size < (((ringed 4 0 0).die 0).subRing 7).size ∧
    (((ringed 0 0 0).die 0).subRing 7).size = 0 ∧ (((ringed 0 0 0).die 0).compRing 7).size = 0 ∧
    (((ringed 0 0 0).die 0).outRing 15).size = 0 := by decide
/-- RingSizeWrites: rings disabled and enabled, the bounds of the sizes, and a session that uses another ring. -/
theorem witness_RingSizeWrites : (ringed 4 4 12).regsUp (.port 0) = true ∧ (ringed 0 4 0).regsUp (.port 0) = true ∧
    ((((ringed 0 0 0).die 0).subRing 7).size = 0 ∧ (((ringed 0 0 0).die 0).compRing 7).size = 0 ∧
      (((ringed 0 0 0).die 0).outRing 15).size = 0) ∧
    ((4 : Word).toNat % 16 ≠ 0 ∧ 4 ≤ (4 : Word).toNat % 16 ∧ (12 : Word).toNat % 16 ≤ 12 ∧
      (((ringed 4 0 0).die 0).subRing 7).size ≤ (4 : Word).toNat % 16) ∧
    (12 ≤ (12 : Word).toNat % 32 ∧ (24 : Word).toNat % 32 ≤ 24) ∧ ((0 : Word).toNat % 16 = 0 ∧ (0 : Word).toNat % 32 = 0) ∧
    ((((ringed 4 4 12).die 0).subRing 7).size ≠ 0 ∧ (((ringed 4 4 12).die 0).subRing 7).avail = 0 ∧
      (((ringed 4 4 12).die 0).subRing 7).open_ = 0 ∧ (((ringed 4 4 12).die 0).compRing 7).size ≠ 0 ∧
      (((ringed 4 4 12).die 0).outRing 15).size ≠ 0) ∧
    ((((ringed 0 4 0).die 0).compRing 7).size ≠ 0 ∧ (((ringed 0 4 0).die 0).subRing 7).size = 0) ∧
    (∀ x ∈ ((ringed 4 4 12).setSess 0 { Sess.reset with state := .opened, oring := 14 }).ledger, sessDie x.1 = 0 →
      x.2.state ≠ .free → x.2.oring ≠ 15) := by
  refine ⟨by decide, by decide, by decide, by decide, by decide, by decide,
    by decide, by decide, ?_⟩
  intro x hx _ _
  rw [show ((ringed 4 4 12).setSess 0 { Sess.reset with state := .opened, oring := 14 }).ledger =
    [(0, { Sess.reset with state := .opened, oring := 14 })] from rfl, List.mem_singleton] at hx
  subst hx; decide
/-- RegisterAccesses: HOLDLIM, the base of ring 0 with its low word held and not, package time, and accesses of another form. -/
theorem witness_RegisterAccesses : (served on).regsUp (.port 0) = true ∧ (served on).reached (.port 0) = true ∧
    (served on).ready = true ∧ ({ served on with ready := false } : State).reached (.port 0) = true ∧
    ((0x60 : BitVec 31).toNat % 4 = 0 ∧ rwMask (blkAt .bar0 0) 0x60 ≠ 0 ∧ rw64 (blkAt .bar0 0) 0x60 = false ∧
      rw64 (blkAt .bar0 0) (0x60 - 4) = false ∧ (0x60 : BitVec 31).toNat % 4096 < 1024) ∧
    (((2 : Nat) ≠ 4 ∨ (0x60 : BitVec 31).toNat % 4 ≠ 0) ∧ ((2 : Nat) ≠ 8 ∨ (0x60 : BitVec 31).toNat % 8 ≠ 0)) ∧
    (((4 : Nat) ≠ 4 ∨ (0x62 : BitVec 31).toNat % 4 ≠ 0) ∧ ((8 : Nat) ≠ 8 ∨ (0x64 : BitVec 31).toNat % 8 ≠ 0)) ∧
    (∀ x ∈ [none, some (5 : Word)], let off : BitVec 31 := 0x401204
     let s := { served on with low := [(lowKey .bar0 (off.toNat - 4) (.port 0), x)] }
     off.toNat % 4 = 0 ∧ off.toNat % 4096 < 1024 ∧ 4 ≤ off.toNat % 1024 ∧ rw64 (blkAt .bar0 (off.toNat / 4096)) (off.toNat % 1024) = false ∧
       rw64 (blkAt .bar0 (off.toNat / 4096)) (off.toNat % 1024 - 4) = true ∧
       Tbl.get none s.low (lowKey .bar0 (off.toNat - 4) (.port 0)) = x) ∧
    ((served on).reg64 (blkAt .bar0 ((0x20 : BitVec 31).toNat / 4096)) 0x20 = some 0) ∧
    (served on).reg64 (blkAt .bar0 ((0x24 : BitVec 31).toNat / 4096)) 0x24 = none := by
  refine ⟨by decide, by decide, by decide, by decide, by decide, by decide, by decide, fun x hx => ?_, by decide⟩
  simp only [List.mem_cons, List.not_mem_nil, or_false] at hx
  rcases hx with rfl | rfl <;> exact ⟨by decide, by decide, by decide, by decide, by decide, rfl⟩
/-- CounterWrites: the last counter of each block, and the high word of ring 7's base with its low word held. -/
theorem witness_CounterWrites : on.regsUp .firmware = true ∧
    (let off : BitVec 31 := 0xA00018
     off.toNat % 4 = 0 ∧ off.toNat % 4096 < 1024 ∧ blkAt .bar0 (off.toNat / 4096) = .die 3 ∧ off.toNat % 1024 = 0x18) ∧
    (let off : BitVec 31 := 0x64
     off.toNat % 4 = 0 ∧ off.toNat % 4096 < 1024 ∧ blkAt .bar2 (off.toNat / 4096) = .tile 0 ∧ off.toNat % 1024 = 0x64 ∧
       on.tileLive 0 = true) ∧
    (let off : BitVec 31 := 0x70
     off.toNat % 4 = 0 ∧ off.toNat % 4096 < 1024 ∧ blkAt .bar0 (off.toNat / 4096) = .module ∧ off.toNat % 1024 = 0x70) ∧
    (let off : BitVec 31 := 0x4010E4
     let s := { on with low := [(lowKey .bar0 (off.toNat - 4) .firmware, some 64)] }
     off.toNat % 4 = 0 ∧ off.toNat % 4096 < 1024 ∧ blkAt .bar0 (off.toNat / 4096) = .rings 0 ∧ off.toNat % 1024 = 0x20 * 7 + 4 ∧
       ((s.die 0).subRing 7).size = 0 ∧ (64 : Word).toNat % 64 = 0 ∧
       Tbl.get none s.low (lowKey .bar0 (off.toNat - 4) .firmware) = some 64) := by decide +kernel

/-! ### Witnesses for the statements: the network, floors and links -/

/-- A packet of tile 1 for line `line` of tile 0. -/
def pkt (k : PktKind) (cellar : Bool) (line : BitVec 13) (payload : List Byte) : Packet :=
  ⟨k, false, false, 0, 2, 0, 0, 0, .tile 1, .uni ⟨0, cellar, line, false, 0⟩, payload, [], true, none, []⟩
/-- A write of one line to tile 0. -/
def wr0 : Packet := pkt .write false 0 (List.replicate 32 1)
/-- A write, and an ACK, for the first tile of floor 1 on the escape channels. -/
def eastWrite : Packet := { wr0 with esc := true, tgt := .uni ⟨0x8000, false, 0, false, 0⟩ }
/-- The ACK. -/
def eastAck : Packet := { wr0 with kind := .ack, esc := true, len := 0, payload := [], tgt := .reply (.tile 19200) }
/-- Windows for every tile of the module on attic and cellar, and for EN on the attic. -/
def windows : Tbl DWord := [(0, 0x9BFFE00030000000), (1, 0x9FFFE00030000000), (2, 0xBBFFE00000000001)]
/-- A module with packets in channel ch of port L of a tile. -/
def inL (t ch : Nat) (l : List Packet) : State := on.setBuf (bufKey t 4 ch) l
/-- PacketRoutes: a channel that is empty, that holds a bad header, and a packet for its tile that port L takes and one that it
does not. -/
theorem witness_PacketRoutes : on.tileOn 0 = true ∧ on.waitAt (bufKey 0 4 3) = [] ∧ on.buf (bufKey 0 4 3) = [] ∧
    (let p := { wr0 with hdrGood := false }
     (inL 0 3 [p]).buf (bufKey 0 4 3) = [p] ∧ (inL 0 3 [p]).headerOk p = false) ∧
    (let s := inL 0 3 [wr0]
     s.buf (bufKey 0 4 3) = [wr0] ∧ s.headerOk wr0 = true ∧ wr0.destTile = some 0 ∧ s.ejects 0 wr0 = true ∧ s.wins 0 4 3 4 3 = true) ∧
    (let s := { inL 0 3 [wr0] with netWait := [(bufKey 0 4 2, List.replicate 16 eastAck)] }
     s.waitAt (bufKey 0 4 3) = [] ∧ s.buf (bufKey 0 4 3) = [wr0] ∧ s.headerOk wr0 = true ∧ s.ejects 0 wr0 = false) := by decide
/-- PacketRoutes: a request and a reply for the next floor, with and without credit, and where the floor is fenced. -/
theorem witness_PacketRoutes_on : (eastWrite.destTile = some 19200 ∧ eastAck.destTile = some 19200) ∧
    eastWrite.isReply = false ∧ eastAck.isReply = true ∧
    (let s := inL 3639 1 [eastWrite]
     s.tileOn 3639 = true ∧ s.waitAt (bufKey 3639 4 1) = [] ∧ s.buf (bufKey 3639 4 1) = [eastWrite] ∧ s.headerOk eastWrite = true ∧
       s.productive 3639 19200 = 1 :: [] ∧ s.nbr 3639 1 = some 19200 ∧ s.floorUp (tileFloor 19200) = true ∧
       eastWrite.flits ≤ s.credit (bufKey 19200 (opp 1) 1) ∧ s.wins 3639 4 1 1 1 = true) ∧
    (let s := (inL 3639 1 [eastWrite]).setBuf (bufKey 19200 (opp 1) 1) (List.replicate 5 eastWrite)
     s.waitAt (bufKey 3639 4 1) = [] ∧ s.buf (bufKey 3639 4 1) = [eastWrite] ∧ s.headerOk eastWrite = true ∧
       s.credit (bufKey 19200 (opp 1) 1) < eastWrite.flits) ∧
    (∀ q ∈ [(eastWrite, 1), (eastAck, 3)], let s := (inL 3639 q.2 [q.1]).setFloor 1 { Floor.reset with mode := .fenced }
      s.tileOn 3639 = true ∧ s.buf (bufKey 3639 4 q.2) = [q.1] ∧ s.headerOk q.1 = true ∧ s.productive 3639 19200 = 1 :: [] ∧
       s.nbr 3639 1 = some 19200 ∧ ¬ (tileFloor 19200 = tileFloor 3639 ∨ s.floorUp (tileFloor 19200) = true) ∧
       s.wins 3639 4 q.2 1 q.2 = true ∧ s.waitAt (bufKey 3639 4 q.2) = [] ∧ q.1.isReply = decide (q.2 = 3)) := by decide
/-- A tile with windows. -/
def open0 : Tile := { Tile.reset with windows := windows }
/-- TileAccesses: a write outside the windows, one whose flag is no arrival flag, and one without bytes. -/
theorem witness_TileAccesses_first : let p := pkt .write false 0 []
    ((with0 .reset).tile 0).turnOf wr0 = true ∧ ((with0 .reset).tile 0).portFits wr0.payload.length = true ∧
    (((with0 .reset).takeEject 0 wr0).tile 0).covers wr0.src false true 0 32 = false ∧
    (((with0 open0).takeEject 0 wr0).tile 0).covers wr0.src false true 0 32 = true ∧ open0.isArrival ({ wr0 with flg := true } : Packet).tf.toNat = false ∧
    p.payload.length = 0 ∧ (((with0 open0).takeEject 0 p).tile 0).covers p.src false true 0 0 = true := by decide
/-- TileAccesses: a write that is made, that bounces and that is refused. -/
theorem witness_TileAccesses : (with0 .reset).tileOn 0 = true ∧ wr0.tgt = .uni ⟨0, false, 0, false, 0⟩ ∧ wr0.str = 0 ∧ wr0.flg = false ∧
    wr0.kind = .write ∧ wr0.payload ≠ [] ∧
    (∀ q ∈ [(open0, Admit.ok), ({ shelved with windows := windows, tags := [(0, true)] }, .bounce),
        ({ open0 with shelves := [⟨0, 9, false, false⟩] }, .refuse 1 0x61 2 false)],
      ((with0 q.1).tile 0).portFits wr0.payload.length = true ∧ ((with0 q.1).tile 0).turnOf wr0 = true ∧
      (((with0 q.1).takeEject 0 wr0).tile 0).covers wr0.src false true (0 : Nat) wr0.payload.length = true ∧
      (((with0 q.1).takeEject 0 wr0).tile 0).admitWrite wr0.src false (0 : Nat) wr0.payload.length = q.2) := by decide
/-- TileAccesses: a read of the attic outside the windows; and ones that are made, that bounce and that are refused. -/
theorem witness_TileAccesses_read : let p := pkt .read false 20 []
    p.kind = .read ∧ p.tgt = .uni ⟨0, false, 20, false, 0⟩ ∧ (⟨0, false, 20, false, 0⟩ : Unicast).addr = 640 ∧
    p.flg = false ∧ (((with0 .reset).takeEject 0 p).tile 0).covers p.src false false 640 (p.len * 16) = false ∧
    (∀ q ∈ [(open0, Admit.ok), ({ shelved with windows := windows }, .bounce), ({ open0 with atticMark := [(80, 3)] }, .refuse 4 0x60 0 true)],
      ((with0 q.1).tile 0).portFits (p.len * 16) = true ∧ ((with0 q.1).tile 0).turnOf p = true ∧
      (((with0 q.1).takeEject 0 p).tile 0).covers p.src false false 640 (p.len * 16) = true ∧
      (((with0 q.1).takeEject 0 p).tile 0).admitRead p.src false 640 (p.len * 16) = q.2) := by decide
/-- TileAccesses: a read of the last line of the cellar that comes, that waits, and that has its bytes. -/
theorem witness_TileAccesses_cellar : let p := pkt .read true 8191 []
    p.kind = .read ∧ p.tgt = .uni ⟨0, true, 8191, false, 0⟩ ∧ (⟨0, true, 8191, false, 0⟩ : Unicast).addr = 32 * 8191 ∧ p.len ≠ 0 ∧
    (let s := with0 { Tile.reset with windows := windows, kinds := [(63, 1)] }
     let v := (s.takeEject 0 p).tile 0
     (s.tile 0).portFits 0 = true ∧ (s.tile 0).turnOf p = true ∧ p.flg = false ∧ v.cellJobs.find? (fun j => j.pkt == p) = none ∧
       v.admitRead p.src true (32 * 8191) (p.len * 16) = .ok) ∧
    (∀ n ∈ [0, 16], let s := with0 { Tile.reset with windows := windows, kinds := [(63, 1)], cellJobs := [⟨p, n⟩] }
     let a := s.takeEject 0 p
     let v := a.tile 0
     (s.tile 0).portFits 0 = true ∧ (s.tile 0).turnOf p = true ∧ v.cellJobs.find? (fun j => j.pkt == p) = some ⟨p, n⟩ ∧
       (⟨p, n⟩ : CellJob).left = n ∧ a.replySlots 0 < 16 ∧
       ((a.setTile 0 { v with cellJobs := v.cellJobs.erase ⟨p, n⟩ }).tile 0).covers p.src true false (32 * 8191) (p.len * 16) = true ∧
       ((a.setTile 0 { v with cellJobs := v.cellJobs.erase ⟨p, n⟩ }).tile 0).admitRead p.src true (32 * 8191) (p.len * 16) = .ok) := by
  decide
/-- An ordered write, flagged or not, with a count. -/
def ordered (flg : Bool) (cnt : BitVec 16) : Packet := { wr0 with flg := flg, str := 15, tgt := .uni ⟨0, false, 0, false, cnt⟩ }
/-- A tile whose stream 15 of tile 1 has a count, with n packets deferred. -/
def streaming (count n : Nat) : State :=
  with0 { Tile.reset with windows := windows, streams := [⟨.tile 1, 15, count⟩], deferred := List.replicate n (ordered true 9) }
/-- OrderedArrivals: a flagged packet before its count, with a place to wait and none, and at its count. -/
theorem witness_OrderedArrivals : ((streaming 1 0).tileOn 0 = true ∧ (ordered true 2).kind = .write ∧ (ordered true 2).str ≠ 0 ∧
      ((streaming 1 0).tile 0).portFits (ordered true 2).payload.length = true ∧ ((streaming 1 8).tile 0).turnOf (ordered true 2) = true) ∧
    (∀ n ∈ [7, 8], let a := (streaming 1 n).takeEject 0 (ordered true 2)
      (a.tile 0).streams.find? (fun e => e.is (ordered true 2)) = some ⟨.tile 1, 15, 1⟩ ∧ (ordered true 2).flg = true ∧
        (1 : Nat) ≠ (ordered true 2).cnt ∧ (a.tile 0).deferred.length = n) ∧
    (let a := (streaming 2 0).takeEject 0 (ordered true 2)
     (a.tile 0).streams.find? (fun e => e.is (ordered true 2)) = some ⟨.tile 1, 15, 2⟩ ∧ (2 : Nat) = (ordered true 2).cnt ∧
       (a.apply 0 (ordered true 2)).reply.kind ≠ .bounce) := by decide
/-- OrderedArrivals: a packet without a flag, a flagged one of count 0 without an entry, and a full stream table. -/
theorem witness_OrderedArrivals_entry :
    (let p := ordered false 0
     let a := (streaming 1 0).takeEject 0 p
     let x := a.apply 0 p
     let y := x.s.sendReply 0 p x.reply
     p.flg = false ∧ (a.tile 0).streams.find? (fun e => e.is p) = some ⟨.tile 1, 15, 1⟩ ∧ x.reply.kind ≠ .bounce ∧
       ((y.setTile 0 ((y.tile 0).setStream p (some (1 + 1)))).tile 0).deferred = []) ∧
    (let a := (with0 { Tile.reset with windows := windows }).takeEject 0 (ordered true 0)
     (a.tile 0).streams.find? (fun e => e.is (ordered true 0)) = none ∧ (ordered true 0).cnt = 0) ∧
    (let s := with0 { Tile.reset with streams := List.replicate 32 ⟨.tile 2, 15, 0⟩ }
     let a := s.takeEject 0 (ordered false 0)
     (a.tile 0).streams.find? (fun e => e.is (ordered false 0)) = none ∧ 32 ≤ (a.tile 0).streams.length) := by decide +kernel
/-- ZeroAndDeliver: the last block of the cellar kept, one line too many, jobs with bytes left and without, and none. -/
theorem witness_ZeroAndDeliver :
    (let v := (with0 { Tile.reset with kinds := [(63, 2)] }).tile 0
     (∀ k ∈ linesOf (32 * 8191) (32 * 1), v.kind (k / 128) = 2) ∧ 8191 + 1 ≤ 8192 ∧ (1 : Nat) ≠ 0 ∧ ¬ 8191 + 2 ≤ 8192) ∧
    (∀ n ∈ [0, 16], let z : ZeroJob := ⟨0, n, pkt .zero true 0 [1, 0]⟩
     ((with0 { Tile.reset with zero := [z] }).tile 0).zero = z :: [] ∧ z.left = n) ∧ ((with0 .reset).tile 0).zero = [] ∧
    ((with0 .reset).tile 0).portFits 0 = true ∧ ((with0 .reset).tile 0).turnOf (pkt .zero true 0 [1, 0]) = true ∧
    (with0 .reset).replySlots 0 < 16 ∧
    16 ≤ (with0 { Tile.reset with deferred := List.replicate 8 (ordered true 9), eject := List.replicate 8 wr0 }).replySlots 0 := by decide
/-- A slot table of EN for pipeline 0. -/
def table0 : Packet := { pkt .deliver false 0 (List.replicate 160 0) with src := .die 0 0 }
/-- ZeroAndDeliver: a table for another pipeline, for the tile's own outside its inbound lines and within, one that it holds
already, and one that meets another. -/
theorem witness_ZeroAndDeliver_table : table0.kind = .deliver ∧ ((with0 .reset).tile 0).pipe ≠ table0.payload.getD 4 0 ∧
    (let v := ((with0 { open0 with pipe := 0 }).takeEject 0 table0).tile 0
     v.pipe = table0.payload.getD 4 0 ∧ v.pipe ≠ 0xFF ∧ v.turnOf table0 = true ∧ v.shelfOf 0 = none ∧ v.tag 0 = false) ∧
    (∀ q ∈ [([], 0), ([(0, true), (1, true), (2, true), (3, true), (4, true)], (0 : Nat)),
        ([(0, true), (1, true), (2, true), (3, true), (4, true)], 1)],
      let s := with0 { shelved with windows := windows, phase := .running, tags := q.1, attic := (if q.2 = 0 then [] else [(0, 1)]) }
      let v := (s.takeEject 0 table0).tile 0
      (s.tile 0).portFits table0.payload.length = true ∧ (s.tile 0).turnOf table0 = true ∧ v.pipe = table0.payload.getD 4 0 ∧ v.pipe ≠ 0xFF ∧ v.phase = .running ∧
        (∀ l ∈ (List.range 5).map (· + 0), v.shelfOf l = some ⟨0, 9, true, false⟩ ∧ v.tag l = !q.1.isEmpty) ∧
        (memRead v.attic (0 * 32) 5 = table0.payload.take 5 ↔ q.2 = 0) ∧ v.admits table0.src false true 0 4 = true) := by decide +kernel
/-- The reply of a kind to request 63 of tile 0. -/
def answer (k : PktKind) : Packet :=
  ⟨k, false, false, 0, 2, 0, 63, 4, .tile 1, .reply (.tile 0), List.replicate 32 1, [], true, none, []⟩
/-- A request of tile 0 that carries the flag of stream 15. -/
def flagged : Req := { req false 0 with pkt := { (req false 0).pkt with flg := true, str := 15 } }
/-- TileReplies: a tile with its request, with and without a flag, and with empty inbound lines for the data. -/
theorem witness_TileReplies : ∀ x ∈ [req false 0, flagged], ∀ k ∈ [PktKind.ack, .data, .bounce, .refused, .fenced],
    let s := with0 (shelved.setReq 63 (some x))
    s.tileOn 0 = true ∧ (answer k).tgt = .reply (.tile 0) ∧
      ((s.takeEject 0 (answer k)).tile 0).req (answer k).tag.toNat = some x ∧ (answer k).kind = k ∧ x.pkt.flg = (x == flagged) ∧
      (x = flagged → x.pkt.str ≠ 0) ∧ (s.tile 0).portFits (answer k).payload.length = true ∧
      x.pkt.tgt = .uni ⟨0, false, 0, false, 0⟩ ∧
      (∀ l ∈ linesOf (x.dst * 32) (answer k).payload.length,
        (((s.takeEject 0 (answer k)).freeReq 0 (answer k) x).tile 0).shelfOf l = some ⟨0, 9, true, false⟩ ∧
        (((s.takeEject 0 (answer k)).freeReq 0 (answer k) x).tile 0).tag l = false) := by decide
/-- An edge die's request for a purpose, to tile 0. -/
def ereq (u : Purpose) (floors : List Nat) : EdgeReq := ⟨0, 5, pkt .zero true 0 [1, 0], u, floors, false, none, false⟩
/-- A reply of a kind to it. -/
def eans (k : PktKind) : Packet := { answer k with tgt := .reply (.die 0 5) }
/-- EdgeDieReplies: an edge die with its request, on a floor that is up and fenced, and without it. -/
theorem witness_EdgeDieReplies :
    (∀ k ∈ [PktKind.ack, .branchDropped, .data, .refused, .bounce, .fenced, .zeroDone], ∀ u ∈ [Purpose.zero 8191, .other],
      let s := { on with edgeReqs := [ereq u [0]] }
      s.ready = true ∧ (eans k).tgt = .reply (.die 0 5) ∧ (s.takeInbox 0 (eans k)).edgeReq 0 5 = some (ereq u [0]) ∧
        (ereq u [0]).floors ≠ [] ∧ (eans k).kind = k ∧ (ereq u [0]).purpose = u ∧ (ereq u [0]).pkt.destTile = some 0 ∧
        (s.takeInbox 0 (eans k)).floorUp (tileFloor 0) = true ∧
        (({ fenced0 with edgeReqs := [ereq u [0]] } : State).takeInbox 0 (eans k)).floorUp (tileFloor 0) = false ∧
        (on.takeInbox 0 (eans k)).edgeReq 0 5 = none) ∧
    (∀ k, Purpose.zero 8191 ≠ .link k ∧ Purpose.other ≠ .link k) := by
  exact ⟨by decide, fun k => ⟨by simp, by simp⟩⟩
/-- FloorCombiners: an entry with replies to come, and one at its last. -/
theorem witness_FloorCombiners : ∀ n ∈ [1, 2], let e : CombEnt := ⟨.die 0 5, n, 0, 0⟩
    let p : Packet := { answer .ack with tgt := .combiner 15 (.die 0 5) }
    let s := on.setFloor 15 { Floor.reset with comb := [e] }
    s.ready = true ∧ (s.floor 15).mode = .up ∧ p.tgt = .combiner 15 (.die 0 5) ∧
      (s.floor 15).comb.find? (fun x => x.src == .die 0 5) = some e ∧ (n = 1 → e.targets ≤ e.replies + 1) ∧
      (n = 2 → e.replies + 1 < e.targets) ∧
      (s.setFloor 15 { s.floor 15 with comb := (s.floor 15).comb.filter (fun x => x.src != .die 0 5) }).floorPort 15 = some 300000 := by
  decide
/-- Tile 0 is the one member of barrier 31, of a gang or not, and has arrived with the reduction given. -/
def arrived (gang : Bool) (red : Option (Nat × Word × Nat)) : State :=
  let s := (with0 { Tile.reset with member := 0x80000000 }).setBarrier 31 [⟨0, 15, red, 0, 0⟩]
  if gang then { s with image := some { im1 with gbar := 0x80000000 }, started := some 0 } else s
/-- SyncRounds: a round of each kind, of the module and of the gang, and one with a member to come. -/
theorem witness_SyncRounds :
    (let s := arrived false none
     s.ready = true ∧ s.allArrived 31 = true ∧ s.gangBars.contains 31 = false ∧ ∀ a ∈ s.barrier 31, a.red = none) ∧
    (let s := arrived false (some (1, 7, 0))
     s.allArrived 31 = true ∧ s.gangBars.contains 31 = false ∧ (∃ a ∈ s.barrier 31, a.red ≠ none) ∧
       reduced (s.barrier 31) = some (0, 7)) ∧
    (let s := arrived true none
     let t := s.setGang 31 { s.gang 31 with done := some (some 5, true) }
     s.allArrived 31 = true ∧ s.gangBars.contains 31 = true ∧ (∀ a ∈ s.barrier 31, a.red = none) ∧ (s.gang 31).done = none ∧
       t.allArrived 31 = true ∧ t.gangBars.contains 31 = true ∧ (t.gang 31).done = some (some 5, true)) ∧
    on.allArrived 31 = false := by decide
/-- A void of EN's pipeline 0. -/
def void0 (rooms : List Nat) : VoidOut := { die := 0, pipe := 0, mask := 1, sess := 0, held := false, rooms := rooms, gen := 0 }
/-- VoidRounds: a void that room 255 has still to take, with and without its clock, and one that all rooms have. -/
theorem witness_VoidRounds :
    (∀ off ∈ [false, true], let s := { on.setRoom 255 { Room.reset with clockOff := off } with voids := [void0 [255]] }
      s.voids.find? (fun (v : VoidOut) => v.pipe == 0 && v.mask == 1 && !v.held && v.rooms.contains 255) = some (void0 [255]) ∧
        (s.room 255).clockOff = off) ∧
    (let s := { on with voids := [void0 []] }
     s.voids.find? (fun (v : VoidOut) => v.die == 0 && v.pipe == 0 && !v.held && v.rooms.isEmpty) = some (void0 [])) := by
  decide
/-- A run whose report line is full or not, at a step. -/
def reporting (full : Bool) (step : Word) : State :=
  ({ with0 { shelved with windows := windows, tags := if full then [(20, true)] else [] } with pipes := [pipe0] }.setDie 0
    { Die.reset with portUp := true }).setPipe 0 { Pipe.reset with step := step }
/-- HomeDieRounds: a report that has not come, one of this step, one of another, and tables due and not. -/
theorem witness_HomeDieRounds : (∀ b ∈ [false, true], (reporting b 0).pipeRec (0 : Byte).toNat = some pipe0 ∧
      (reporting b 0).ready = true ∧ (reporting b 0).resetting = false ∧ ((reporting b 0).die pipe0.home).failed = false) ∧
    ((reporting false 0).dieRead pipe0.home (pathTile pipe0.rpath) pipe0.rline).2 = none ∧
    ((reporting true 0).dieRead pipe0.home (pathTile pipe0.rpath) pipe0.rline).2 = some (List.replicate 32 0) ∧
    (let a := ((reporting true 1).dieRead pipe0.home (pathTile pipe0.rpath) pipe0.rline).1
     leNat ((List.replicate 32 (0 : Byte)).take 4) ≠ (a.pipe pipe0.pipe).step.toNat) ∧
    (∀ x ∈ ((reporting true 0).pipe 0).sends, x.floor = 15 → x.due = false) ∧
    (let r := { pipe0 with cover := [⟨0, 0, 0, 0, 0, 0, 0, 0, 0, false⟩] }
     let s := ({ on with pipes := [r] } : State).setPipe 0 { Pipe.reset with sends := [⟨15, 0, 1, false, true, false⟩] }
     s.pipeRec 0 = some r ∧ r.cover[0]? = some ⟨0, 0, 0, 0, 0, 0, 0, 0, 0, false⟩ ∧ (s.pipe 0).sends.filter (fun x => x.floor == 15 && x.due) = [⟨15, 0, 1, false, true, false⟩]) := by decide
/-- The train flit of a module with serial number 9. -/
def other : TrainInfo := ⟨9, 0, 0, 1, 0, 1, 0⟩
/-- Link 0 as given, on port 0. -/
def linked (l : Link) : State := (on.setLink 0 l).setPort 0 { Port.reset with members := [0], live := true }
/-- A flit that a link has sent. -/
def sent (t : Nat) : SentFlit := ⟨0, none, 0, 0, [], t⟩
/-- A header with a sequence number, acknowledging or not. -/
def fh (lseq : Byte) (ackv nak : Bool) (lack : Byte) : FlitHdr := ⟨lseq, ackv, lack, nak, 0, 0⟩
/-- A sync frame of barrier 0 in round 0. -/
def frame0 : SyncFrame := ⟨0, 0, 0, false, false, 1, 5, 0, 0, 0, 0, 0⟩
/-- A flit whose codewords are good, and one in a codeword that is marked. -/
def rxGood : FlitRx := ⟨true, true, [511]⟩
/-- The marked one. -/
def rxBad : FlitRx := ⟨true, true, [0]⟩
/-- FlitReception: a link that takes flits, with flits bad, acknowledging, asking for a replay, out of order and in order. -/
theorem witness_FlitReception :
    (∀ m ∈ [LinkMode.live, .held], ∀ n ∈ [false, true], let s := linked { Link.reset with mode := m, nakking := n }
      (s.link 0).mode = m ∧ (s.link 0).nakking = n ∧ (s.link 0).good rxGood = true ∧ (s.link 0).good rxBad = false ∧
        (let a := (s.setLink 0 { s.link 0 with rxFlit := 1 }).takeAck 0 (fh 1 false false 0)
         (a.link 0).expect ≠ 1 ∧ (a.link 0).nakking = n ∧ a.portOf 0 = some 0 ∧ (a.link 0).expect = 0)) ∧
    (let v := { Link.reset with mode := .live, retry := [sent 0], nextSeq := 1 }
     (∃ x ∈ v.retry, serialLater x.lseq (fh 0 true false 0).lack = false) ∧ v.retry ≠ [] ∧ v.tries < 16 ∧
       (∀ x ∈ v.retry, serialLater x.lseq (fh 0 false true 255).lack = true)) ∧
    (let s := on.setLink 31 { Link.reset with mode := .live }
     ((s.setLink 31 { s.link 31 with rxFlit := 1 }).takeAck 31 (fh 0 false false 0)).portOf 31 = none) := by decide
/-- A module below the root of its gang, whose part of barrier 0 has been handed on, with its link 0 before flit 0. -/
def below : State :=
  let s := { (linked { Link.reset with mode := .live }).setGang 0 { Gang.reset with local_ := true } with
    image := some { im1 with gbar := 1 }, started := some 0, coords := (1, 0, 0) }
  s.setPort 0 { s.port 0 with helloGot := some frame0 }
/-- FlitReception: HELLO, ARRIVE and COMPLETE in order. -/
theorem witness_FlitReception_sync :
    let s := below
    let h := fh 0 false false 0
    let c := s.setLink 0 { s.link 0 with rxFlit := 1 }
    let a := c.takeAck 0 h
    let b := (a.setLink 0 { a.link 0 with expect := h.lseq + 1, nakking := false, nakTries := 0 }).takeCredits 0 h
    (s.link 0).mode = .live ∧ (a.link 0).expect = h.lseq ∧ b.portOf 0 = some 0 ∧ (b.port 0).live = true ∧
      b.gangBars.contains frame0.bar.toNat = true ∧ frame0.round = (b.gang frame0.bar.toNat).round ∧
      (b.gang frame0.bar.toNat).local_ = true ∧ b.isRoot = false ∧ b.parentPort = some 0 := by decide
/-- LinkTrainings: a dark link and one that trains; this module at the other end, one without a common minor, and one with. -/
theorem witness_LinkTrainings :
    (∀ m ∈ [LinkMode.dark, .training 5], ((linked { Link.reset with mode := m }).link 0).mode = m) ∧ on.ready = true ∧
    (on.die 3).failed = false ∧ (on.link 31).mode = .dark ∧ other.serial ≠ on.fuses.serial ∧
    commonMinor other = some 1 ∧ ({ other with serial := 0 } : TrainInfo).serial = on.fuses.serial ∧
    ({ other with vmaj := 9 } : TrainInfo).serial ≠ on.fuses.serial ∧ commonMinor { other with vmaj := 9 } = none ∧
    Link.reset.good rxGood = true ∧ Link.reset.good rxBad = false := by decide
/-- LinkTrainings: a link that takes flits with a flit or a NAK outstanding, at its attempts and before; and one that is silent. -/
theorem witness_LinkTrainings_live :
    (∀ m ∈ [LinkMode.live, .held], ∀ n ∈ [15, 16],
      (let s := { linked { Link.reset with mode := m, retry := [sent 0], tries := n } with pkt := 39 }
       (s.link 0).mode = m ∧ (s.link 0).retry = sent 0 :: [] ∧ (sent 0).at_ + 39 ≤ s.pkt ∧ (s.link 0).nakking = false ∧ (s.link 0).tries = n) ∧
      (let s := { linked { Link.reset with mode := m, nakking := true, nakTries := n } with pkt := 39 }
       (s.link 0).retry = [] ∧ (s.link 0).nakking = true ∧ (s.link 0).lastNak + 39 ≤ s.pkt ∧ (s.link 0).nakTries = n)) ∧
    (∀ n ∈ [49, 50], let s := { linked { Link.reset with mode := .silent } with pkt := n }
      (s.link 0).mode = .silent ∧ (s.link 0).since + 50 = 50 ∧ s.pkt = n) := by decide
/-- A record of 32 bytes for tile 0 of module 5. -/
def wire (head : Byte) : List Byte := [head] ++ List.replicate 47 0
/-- A send ring of EN on tile 0 with that record read whole. -/
def sending (head : Byte) (live : Bool) : State :=
  let s := { with0 { shelved with windows := [(0, 0xA802C01400000001)] } with started := some 0, sendRings := [⟨0, 0, 0, wire head ++ List.replicate 16 0, 0⟩] }
  if live then s.setPort 0 { Port.reset with live := true, helloGot := some frame0 } else s
/-- LinkRecords: a record for module 5 with and without its port, one for this module, and one with a bad header. -/
theorem witness_LinkRecords :
    (∀ q ∈ [((5 : Byte), false), (5, true), (0, false)], let s := sending q.1 q.2
      let x := s.sendRing 0 (0 : BitVec 12).toNat
      (s.die 0).failed = false ∧ s.started.isSome = true ∧ x.after ≤ s.pkt ∧ (s.sendRingsOf 0)[(0 : BitVec 12).toNat]? = some (0, 20, 22) ∧
        x.part ≠ [] ∧ headerLegal (x.part.take 32) = true ∧ wireLen x.part + 16 ≤ x.part.length ∧
        (leNat (x.part.take 8) % 2 ^ 14 = s.moduleNo ↔ q.1 = 0) ∧
        (q.1 = 5 → s.portTo 0 (leNat (x.part.take 8) % 2 ^ 14) = if q.2 then some 0 else none)) ∧
    (let s := { sending 0 false with sendRings := [⟨0, 0, 0, [0, 0x40] ++ List.replicate 62 0, 0⟩] }
     let x := s.sendRing 0 (0 : BitVec 12).toNat
     headerLegal (x.part.take 32) = false ∧ wireLen x.part + 16 ≤ x.part.length ∧ x.part ≠ []) := by
  refine ⟨?_, by decide⟩
  intro q hq
  simp only [List.mem_cons, List.not_mem_nil, or_false] at hq
  rcases hq with rfl | rfl | rfl <;>
  exact ⟨by decide, by decide⟩
/-- A received record. -/
def lrec : LinkRec := ⟨0, 0, false, 0, 0, 0, 0, List.replicate 32 1, []⟩
/-- Port 3 of EN as given, with the WRITE of its record under way. -/
def writing (p : Port) : State := { on.setPort 3 p with edgeReqs := [ereq (.link 3) []] }
/-- LinkRecords: a record that waits, none, one whose WRITE has bounced 4 and 5 ticks ago, and one whose WRITE is under way. -/
theorem witness_LinkRecords_write : (3 : Fin 16).val / 4 = (0 : DieId).val ∧ (on.die 0).failed = false ∧ (on.die 0).lost = [] ∧
    (let s := on.setPort 3 { Port.reset with waiting := [lrec] }
     (s.port 3).inFlight = none ∧ (s.port 3).waiting = lrec :: [] ∧ lrec.str = 0 ∧
       s.floorUp (tileFloor (pathTile lrec.dpath)) = true) ∧ (on.port 3).inFlight = none ∧ (on.port 3).waiting = [] ∧
    (∀ n ∈ [4, 5], let s := { writing { Port.reset with inFlight := some lrec, bounced := some 0 } with pkt := n }
      (s.port 3).inFlight = some lrec ∧ (s.port 3).bounced = some 0 ∧
        s.edgeReqs.find? (fun z => z.purpose == .link 3) = some (ereq (.link 3) []) ∧ s.pkt = n) ∧
    (let s := writing { Port.reset with inFlight := some lrec }
     (s.port 3).inFlight = some lrec ∧ (s.port 3).bounced = none) := by decide
/-- LinkRecords: a line that a poisoned record has still to write. -/
theorem witness_LinkRecords_lost : let z : LostLine := ⟨0, 0, List.replicate 32 0, ⟨1, 0, 0⟩⟩
    let e : Die := { Die.reset with lost := [z] }
    let s := (with0 { shelved with windows := windows }).setDie 0 e
    let lost := (s.setDie 0 { e with lost := [] }).dieWrite 0 (pathTile z.dpath) z.line z.bytes [0, 1, 2, 3] (some z.org)
    (s.die 0).failed = false ∧ (s.die 0).lost = [z] ∧ lost.2 = .done ∧ (lost.1.port 3).inFlight = none ∧ (lost.1.port 3).waiting = [] := by
  decide

/-! ### Witnesses for the statements: clock periods, wires, the queue and words -/

/-- PredicateOperations: condition codes and functions within the table, and past it. -/
theorem witness_PredicateOperations : let s := with0 (runs { Seq.reset with regs := [(1, 5), (2, 0xFFFFFFFF)] })
    s.mayIssue 0 always ∧ (s.tile 0).settled [1, 2] ∧ (5 : BitVec 4) ≠ 6 := by
  refine ⟨⟨by decide, by decide⟩, ?_, by decide⟩; unfold Tile.settled; decide
/-- A room at tread 1 whose tile 0 has an instruction at work in its vector queue. -/
def atWork (allow debit : Nat) : State :=
  (with0 ((runs .reset).setQueue 2 [waitsIn bare (some 0)])).setRoom 0
    { Room.reset with tread := 1, start := some 0, allow := allow, debit := debit }
/-- ClockPeriods: a clock that does not run; a room that stops, one that lags, one whose spine must wait, one that may take
its tread's work, one that the allowance denies it, and one that the credit denies it. -/
theorem witness_ClockPeriods :
    State.reset.clockRuns 0 = false ∧
    (let s := on.setRoom 255 { Room.reset with stops := [0x40000000] }
     let a := (s.setRoom 255 ((s.room 255).open_ (s.roomGear 255) s.fallback .quiet)).startRoutes 255
     s.clockRuns 255 = true ∧ (a.room 255).stops ≠ []) ∧
    (let s := on.setRoom 255 { Room.reset with tread := 2 }
     let a := (s.setRoom 255 ((s.room 255).open_ (s.roomGear 255) s.fallback .quiet)).startRoutes 255
     s.clockRuns 255 = true ∧ a.rejoinStop = [] ∧ (a.room 255).stops = [] ∧ a.holdsOf 255 2 = [] ∧ a.treadRule 255 = false) ∧
    (let s := { on with spineEvs := [(0, 1000000)] }.setRoom 255 { Room.reset with tread := 1, spineOff := true, start := some 0 }
     let a := (s.setRoom 255 ((s.room 255).open_ (s.roomGear 255) s.fallback .quiet)).startRoutes 255
     s.clockRuns 255 = true ∧ a.rejoinStop = [] ∧ (a.room 255).stops = [] ∧ a.holdsOf 255 1 = [] ∧ a.treadRule 255 = true ∧
       (a.spineFor 255 1).2 = true) ∧
    (∀ q ∈ [(0, 0), (100, 0), (100, 2700000000)], let s := atWork q.1 q.2
     let a := (s.setRoom 0 ((s.room 0).open_ (s.roomGear 0) s.fallback .quiet)).startRoutes 0
     let w := (a.spineFor 0 1).1
     let work := w.treadWork 0 (w.roomWork 0 1 [])
     s.clockRuns 0 = true ∧ a.rejoinStop = [] ∧ (a.room 0).stops = [] ∧ (a.room 0).tread = 1 ∧ (a.room 0).gatedAt 1 = false ∧
       a.holdsOf 0 1 = [] ∧ a.treadRule 0 = true ∧ (a.spineFor 0 1).2 = false ∧ work = 800 ∧
       (Config.budget (w.roomGear 0) = 0 ∨ (w.room 0).debit + work ≤ fullCredit (w.roomGear 0) ↔ q.2 = 0) ∧
       (withinAllow (w.roomGear 0) (work + winSum 63 (w.room 0).win) (w.room 0).allow = true ↔ q.1 = 100)) := by
  decide
/-- TreadRule: a neighbour two treads behind, at the far corner of the package. -/
theorem witness_TreadRule : let s := on.setRoom 255 { Room.reset with tread := 2 }
    (∃ q ∈ s.nbrRooms 255, Tbl.get 0 (s.room 255).recv q.1 + 1 < (s.room 255).tread) := by decide
/-- WireDifferences: a room whose clock runs until its floor is fenced, and one of a floor that is down already; wires that differ. -/
theorem witness_WireDifferences : (0 : Nat) ≠ 1 ∧
    (let x := (on.syncRecord (roomPath 255) 2 1 0 7 0 1).fenceReset (roomFloor 255)
     on.clockRuns 255 = true ∧ x.clockRuns 255 = false) ∧
    (let y := (on.syncRecord (floorPath (roomFloor 255)) 2 3 0 7 0 1).fenceReset (roomFloor 255)
     on.ready = true ∧ y.clockRuns 255 = false) ∧ fenced0.ready = true ∧ fenced0.clockRuns 0 = false := by decide
/-- StepRunsFrontCommand: a queue of two commands; and an empty one. -/
theorem witness_StepRunsFrontCommand :
    ({ State.reset with pending := [.halt 0 always, .nop 0 always] } : State).pending = [.halt 0 always, .nop 0 always] ∧
    State.reset.pending = [] := by decide
/-- StepKeepsLimits: the state after reset, whose step answers itself. -/
theorem witness_StepKeepsLimits : State.reset.limitsOk ∧ step State.reset = .next State.reset :=
  ⟨⟨⟨by decide, by decide⟩, by decide⟩, rfl⟩
/-- TileWordsDecode: instructions of each shape, at the ends of their fields. -/
theorem witness_TileWordsDecode : progWf always .nop = true ∧ progWf ⟨true, true, 7⟩ (.alu .add 31 31 31) = true ∧
    progWf ⟨true, false, 7⟩ (.li 31 0xFFFFFFFF) = true ∧ progWf always (.loop 31 0x3FF) = true ∧
    progWf always (.engine .hzero bare 0) = true := by decide

end Sys2Proof.Tests
end

section
/-!
What RESIDE, EVICT and EVICTION COMPLETE come to in each case (R435, R437, R439, R673), and the obligation of the residency of
models (O16).
-/

namespace Sys2Proof.Machine

/-! ### RESIDE (R435) -/

/-- The command that its ring gives up and that passes the checks of R508 asks for its model. -/
theorem exec_reside_of_accepts {s a : State} {h : CmdHdr} {m : Byte}
    (acc : s.accepts h (.onM 0x21 none [byteField 16 1 m.toNat]) a) :
    exec (.reside h m) s = .next ((a.reside h m.toNat).moveOn h) :=
  congrArg Host.Outcome.next (State.decode_of_accepts _ acc)

/-- A load whose blocks lie on floors that are up begins, once the crates of an earlier load are abandoned (R673). -/
theorem State.startLoad_of_up {s : State} {place : List (Nat × Nat × Nat)} (h : CmdHdr) (e : Nat) (ident : DWord)
    (up : s.downBlock (placeBlocks place) = none) :
    s.startLoad h e ident place = ((s.abandonCrates false e).beginLoad e ident place).begin_ h 0x21 (.reside e) := by
  rw [State.startLoad, up]

section
variable {s : State} {m : Nat} {im : Image} {ident : DWord} {x e : Nat} (h : CmdHdr)
  (loaded : s.image = some im) (listed : im.models[m]? = some (ident, x))
include loaded listed

theorem State.reside_of_resident (entry : s.modelEntry m = some e) (resident : (s.invOf e).state = 3) :
    s.reside h m = s.reply h 0x21 0 (leBytes 1 e) := by
  simp only [State.reside, loaded, listed, entry, resident]

theorem State.reside_of_evicting (entry : s.modelEntry m = some e) (evicting : (s.invOf e).state = 5) :
    s.reside h m = s.reply h 0x21 0x0109 [0x22] := by
  simp only [State.reside, loaded, listed, entry, evicting]

/-- The command waits for the load or the repair that is under way. -/
theorem State.reside_of_loading_or_repairing (entry : s.modelEntry m = some e)
    (underWay : (s.invOf e).state = 1 ∨ (s.invOf e).state = 4) :
    s.reside h m = s.begin_ h 0x21 (.reside e) := by
  obtain loading | repairing := underWay
  · simp only [State.reside, loaded, listed, entry, loading]
  · simp only [State.reside, loaded, listed, entry, repairing]

/-- A model with no entry is loaded into the first empty one, where no other entry holds a block of its placement (R437). -/
theorem State.reside_of_no_entry (noEntry : s.modelEntry m = none)
    (empty : (List.range 16).find? (fun e => (s.invOf e).state == 0) = some e)
    (unowned : ∀ q ∈ im.placement m, s.ownedBlock q.1 q.2.1 = false) :
    s.reside h m = s.startLoad h e ident (im.placement m) := by
  have noneOwned : (im.placement m).any (fun q => s.ownedBlock q.1 q.2.1) = false :=
    List.any_eq_false.mpr fun q mem => by simp [unowned q mem]
  simp [State.reside, loaded, listed, noEntry, empty, noneOwned]

end

/-! ### EVICT (R439) -/

/-- The command of an inventory entry that its ring gives up and that passes the checks of R508 evicts the entry. -/
theorem exec_evict_of_accepts {s a : State} {h : CmdHdr} {e : Byte} (inRange : e.toNat < 16)
    (acc : s.accepts h (.onM 0x22 none [byteField 16 1 e.toNat]) a) :
    exec (.evict h e) s = .next ((a.evict h e.toNat).moveOn h) := by
  have noBad : badAt (decide (16 ≤ e.toNat)) 16 = none := by simp [badAt, inRange]
  rw [← noBad] at acc
  exact congrArg Host.Outcome.next (State.decode_of_accepts _ acc)

section
variable {s : State} {e : Nat} (h : CmdHdr)

theorem State.evict_of_empty (empty : (s.invOf e).state = 0) : s.evict h e = s.reply h 0x22 0 [] := by
  simp only [State.evict, empty, if_true]

theorem State.evict_of_referenced (taken : (s.invOf e).state ≠ 0) (refs : 0 < (s.invOf e).refs) :
    s.evict h e = s.reply h 0x22 0x0301 (leBytes 2 (s.invOf e).refs) := by
  simp only [State.evict, taken, refs, if_true, if_false]

theorem State.evict_of_evicting (evicting : (s.invOf e).state = 5) (noRefs : (s.invOf e).refs = 0) :
    s.evict h e = s.begin_ h 0x22 (.evict e) := by
  simp [State.evict, evicting, noRefs]

/-- An entry with contents that nothing refers to, and whose blocks can be reached, begins to be evicted. -/
theorem State.evict_of_idle (taken : (s.invOf e).state ≠ 0) (notEvicting : (s.invOf e).state ≠ 5)
    (noRefs : (s.invOf e).refs = 0) (up : s.downBlock (placeBlocks (s.invOf e).place) = none) :
    s.evict h e = (((((s.setKinds (placeBlocks (s.invOf e).place) 3).setInv e { s.invOf e with state := 5 }).abandonCrates
      false e).finishSet (.model e) 0x0300 (leBytes 4 0xFFFFFFFF ++ leBytes 1 0)).begin_ h 0x22 (.evict e)) := by
  simp only [State.evict, taken, notEvicting, noRefs, up, Nat.lt_irrefl, if_false]

end

/-! ### EVICTION COMPLETE (R439) -/

/-- With the module ready and the entry's blocks on floors that are up, the eviction ends. -/
theorem exec_evictionComplete_of_reachable {s : State} {i : Fin 16} (ready : s.ready = true)
    (up : s.downBlock (placeBlocks (s.invOf i.val).place) = none) :
    exec (.evictionComplete i) s = .next (s.endEvict i.val) := by
  change execEvictionComplete i s = _
  simp [execEvictionComplete, ready, up]

/-- The blocks and the entry are given up; the commands that the end answers are the EVICT commands of the entry. -/
theorem State.endEvict_of_evicting {s : State} {e : Nat} (evicting : (s.invOf e).state = 5) :
    s.endEvict e =
      (((placeBlocks (s.invOf e).place).foldl (fun b q => b.setDigest (64 * q.1 + q.2) .reset)
        ((s.zeroBlocks (placeBlocks (s.invOf e).place)).setKinds (placeBlocks (s.invOf e).place) 0)).setInv e
          { Inv.reset with useOvf := (s.invOf e).useOvf }).finishAll
        (fun c => decide (c.work = .evict e)) (fun _ => (0, [])) := by
  rw [State.endEvict, if_neg (not_not_intro evicting)]
  refine congrArg (fun waits => State.finishAll _ waits _) (funext fun c => ?_)
  cases c.work with
  | evict n =>
    have same : (Work.evict n = Work.evict e) = (n = e) := Work.evict.injEq n e
    rw [Bool.eq_iff_iff, beq_iff_eq, decide_eq_true_iff, same]
  | _ => exact (decide_eq_false nofun).symm

/-! ### The obligation -/

/-- Settles O16: an accepted command is the operation on the state that its ring leaves, and each case of the operation is one
of the lemmas above; the end of an eviction is that of its entry. -/
theorem modelResidence : Obligations.ModelResidence := by
  unfold Obligations.ModelResidence
  refine ⟨fun h m im ident x e s a acc loaded listed => ?_, fun h e s a acc inRange => ?_,
    fun i s ready up evicting => ?_⟩
  · rw [exec_reside_of_accepts acc]
    refine ⟨fun entry resident => ?_, fun entry evicting => ?_, fun entry underWay => ?_,
      fun noEntry empty unowned up => ?_⟩
    · rw [State.reside_of_resident h loaded listed entry resident]
    · rw [State.reside_of_evicting h loaded listed entry evicting]
    · rw [State.reside_of_loading_or_repairing h loaded listed entry underWay]
    · rw [State.reside_of_no_entry h loaded listed noEntry empty unowned, State.startLoad_of_up h e ident up]
      rfl
  · rw [exec_evict_of_accepts inRange acc]
    refine ⟨fun empty => ?_, fun taken refs => ?_, fun evicting noRefs => ?_,
      fun taken notEvicting noRefs up => ?_⟩
    · rw [State.evict_of_empty h empty]
    · rw [State.evict_of_referenced h taken refs]
    · rw [State.evict_of_evicting h evicting noRefs]
    · rw [State.evict_of_idle h taken notEvicting noRefs up]
  · rw [exec_evictionComplete_of_reachable ready up, State.endEvict_of_evicting evicting]

end Sys2Proof.Machine
end

section
/-!
What the writes of the module's limits, of unit sets, of stop bits and of class goals come to (R35, R537–R540, R542), and the
obligation of these writes (O41).
-/

namespace Sys2Proof.Machine

variable {s : State}

/-! ### HOLDLIM, WDOG and FLOGR (R537, R538) -/

theorem State.writeHoldLim_of_inRange {n : Nat} (least : 250 ≤ n) (most : n ≤ 2500000) :
    s.writeHoldLim n = { s with holdLim := n } :=
  if_pos ⟨least, most⟩

theorem State.writeHoldLim_of_outOfRange {n : Nat} (out : n < 250 ∨ 2500000 < n) : s.writeHoldLim n = s :=
  if_neg (by omega)

theorem State.writeWdog_of_inRange {n : Nat} (least : 25 ≤ n) (most : n ≤ 250000) : s.writeWdog n = { s with wdog := n } :=
  if_pos ⟨least, most⟩

theorem State.writeWdog_of_outOfRange {n : Nat} (out : n < 25 ∨ 250000 < n) : s.writeWdog n = s :=
  if_neg (by omega)

theorem State.writeFlogR_of_not_later {n : Nat} (notLater : serialLater (BitVec.ofNat 16 n) s.flogW = false) :
    s.writeFlogR n = { s with flogR := BitVec.ofNat 16 n } :=
  if_neg (ne_true_of_eq_false notLater)

theorem State.writeFlogR_of_later {n : Nat} (later : serialLater (BitVec.ofNat 16 n) s.flogW = true) : s.writeFlogR n = s :=
  if_pos later

/-- Once the module is ready, a write of a limit, of FLOGR or of PEERSEL is the operation on the state. -/
theorem exec_moduleWrites_of_ready (v : Word) (ready : s.ready = true) :
    exec (.holdlimWrite v) s = .next (s.writeHoldLim (v.toNat % 2 ^ 22)) ∧
    exec (.wdogWrite v) s = .next (s.writeWdog (v.toNat % 2 ^ 18)) ∧
    exec (.flogrWrite v) s = .next (s.writeFlogR v.toNat) ∧
    exec (.peerselWrite v) s = .next { s with peerSel := BitVec.ofNat 14 v.toNat } :=
  ⟨if_pos ready, if_pos ready, if_pos ready, if_pos ready⟩

/-! ### Unit sets (R539) -/

theorem exec_unitSetEntryWrite_of_regsUp {w : Requester} (k j : Fin 64) (v : Word) (up : s.regsUp w = true) :
    exec (.unitSetEntryWrite ⟨w, k⟩ j v) s = .next (s.writeSet (s.dieOf w) k.val j.val v) :=
  if_pos up

/-- The unused mark and a valid path of level 0 to 3 are stored. -/
theorem State.writeSet_of_member {v : Word} (d k j : Nat)
    (member : v = 0xFFFFFFFF ∨ (pathValid v = true ∧ pathLevel v ≤ 3)) :
    s.writeSet d k j v = { s with unitSets := Tbl.set 0xFFFFFFFF s.unitSets (64 * k + j) v } :=
  if_pos (by simpa using member)

/-- Anything else is counted in the REGERR of the die that the access came through. -/
theorem State.writeSet_of_not_member {v : Word} (d k j : Nat) (used : v ≠ 0xFFFFFFFF)
    (noMember : pathValid v = false ∨ 3 < pathLevel v) : s.writeSet d k j v = s.bumpDie d 1 :=
  if_neg (not_or.mpr ⟨used, by
    obtain invalid | high := noMember
    · simp [invalid]
    · simp [Nat.not_le.mpr high]⟩)

/-! ### Stop bits (R35) -/

/-- A write of the CTRL register of a unit that has one reaches it. -/
theorem exec_ctrlStopWrite_of_live {unit : Word} (v : Word)
    (live : s.ready = true ∧ pathValid unit = true ∧ pathLevel unit ≤ 3 ∧
      (pathLevel unit = 0 → s.tileLive (pathTile unit) = true)) :
    exec (.ctrlStopWrite unit v) s = .next (s.writeCtrl unit v) := by
  obtain ⟨ready, valid, level, tile⟩ := live
  have reached : pathLevel unit ≠ 0 ∨ s.tileLive (pathTile unit) = true := Decidable.not_or_of_imp tile
  exact if_pos (by simp [ready, valid, level, reached])

theorem State.writeCtrl_of_same {p v : Word} (same : (s.unit p).stop = v.getLsbD 0) : s.writeCtrl p v = s := if_pos same

theorem State.writeCtrl_of_change {p v : Word} (change : (s.unit p).stop ≠ v.getLsbD 0) :
    s.writeCtrl p v = s.requestStop [p] (v.getLsbD 0) noHdr 0x40 true := if_neg change

/-! ### Class goals (R540) -/

theorem exec_classGoalWrite_of_ready (c : Fin 8) (f : GoalField) (v : Word) (ready : s.ready = true) :
    exec (.classGoalWrite c f v) s = .next (s.writeGoal c.val f v) :=
  if_pos ready

/-- A reserved KIND and a LEAD of 0 each leave their own field as it is. -/
theorem State.writeGoal_goal (c : Nat) (v : Word) : s.writeGoal c .goal v = s.setCls c { s.cls c with
    kind := if v.toNat % 8 ∈ [3, 4, 6, 7] then (s.cls c).kind else v.toNat % 8
    lead := if v.toNat / 65536 = 0 then (s.cls c).lead else v.toNat / 65536 } := by
  simp only [State.writeGoal, List.mem_cons, List.not_mem_nil, or_false]
  by_cases reserved : v.toNat % 8 = 3 ∨ v.toNat % 8 = 4 ∨ v.toNat % 8 = 6 ∨ v.toNat % 8 = 7 <;>
    by_cases noLead : v.toNat / 65536 = 0 <;> simp only [reserved, noLead, if_true, if_false]

/-! ### The obligation -/

/-- Settles O41: each write that takes effect is its operation on the state, and each case of the operation is one of the
lemmas above. -/
theorem moduleRegisterWrites : Obligations.ModuleRegisterWrites := by
  unfold Obligations.ModuleRegisterWrites
  refine ⟨fun v s ready => ?_, fun w k j unit v c s => ?_⟩
  · obtain ⟨holdlim, wdog, flogr, peersel⟩ := exec_moduleWrites_of_ready v ready
    refine ⟨fun least most => ?_, fun out => ?_, fun least most => ?_, fun out => ?_, fun notLater => ?_, fun later => ?_,
      peersel⟩
    · rw [holdlim, State.writeHoldLim_of_inRange least most]
    · rw [holdlim, State.writeHoldLim_of_outOfRange out]
    · rw [wdog, State.writeWdog_of_inRange least most]
    · rw [wdog, State.writeWdog_of_outOfRange out]
    · rw [flogr, State.writeFlogR_of_not_later notLater]
    · rw [flogr, State.writeFlogR_of_later later]
  · refine ⟨fun up member => ?_, fun up used noMember => ?_, fun live same => ?_, fun live change => ?_,
      fun ready => ?_, exec_classGoalWrite_of_ready c .ttft v,
      exec_classGoalWrite_of_ready c .tbt v, exec_classGoalWrite_of_ready c .spec v⟩
    · rw [exec_unitSetEntryWrite_of_regsUp k j v up, State.writeSet_of_member _ _ _ member]
    · rw [exec_unitSetEntryWrite_of_regsUp k j v up, State.writeSet_of_not_member _ _ _ used noMember]
    · rw [exec_ctrlStopWrite_of_live v live, State.writeCtrl_of_same same]
    · rw [exec_ctrlStopWrite_of_live v live, State.writeCtrl_of_change change]
    · rw [exec_classGoalWrite_of_ready c .goal v ready, State.writeGoal_goal]

end Sys2Proof.Machine
end

section
/-!
What STOP, ABORT, their announcements, the quiet reports and the quiet limit come to in each case (R35–R37, R516, R522, R523,
R588), and the obligation of stops and aborts (O22).
-/

namespace Sys2Proof.Machine

/-! ### The stop bits of the units

What an event, an answer and a request leave of them. -/

theorem State.unit_setUnit (s : State) (p : Word) (v : UnitRegs) (q : Word) :
    (s.setUnit p v).unit q = if q = p then v else s.unit q := by
  by_cases same : q = p
  · rw [if_pos same, same, State.unit_setUnit_self]
  · rw [if_neg same]
    exact Tbl.get_set_ne _ _ _ fun eq => same (BitVec.eq_of_toNat_eq eq)

theorem State.portsOnly.units {s t : State} (h : s.portsOnly t) : t.units = s.units :=
  (congrArg State.units h).trans rfl

theorem State.unit_eq_of_units {s t : State} (same : t.units = s.units) (v : Word) : t.unit v = s.unit v :=
  congrArg (fun units => Tbl.get UnitRegs.reset units v.toNat) same

theorem State.finish_ports (s : State) (c : Cmd) (status : Nat) (detail : List Byte) :
    s.portsOnly (s.finish c status detail) := by
  unfold State.finish
  split
  · exact State.portsOnly_refl s
  · exact State.reply_ports s _ _ _ _

theorem State.finishAll_units (s : State) (p : Cmd → Bool) (status : Cmd → Nat × List Byte) :
    (s.finishAll p status).units = s.units :=
  foldl_leaves State.units _ (fun s c => (State.finish_ports s c _ _).units) _ _

/-- An event changes the event bits and SEQ alone. -/
theorem State.stop_event (s : State) (p : Word) (b : Nat) (v : Word) : ((s.event p b).unit v).stop = (s.unit v).stop := by
  refine foldl_leaves (fun t => (t.unit v).stop) _ (fun t q => ?_) _ _
  rw [State.unit_setUnit]
  split
  · next same => rw [same]; rfl
  · rfl

/-- The completion of stops sets STOPPED and answers commands. -/
theorem State.stop_stopsDone (s : State) (v : Word) : (s.stopsDone.unit v).stop = (s.unit v).stop := by
  rw [State.stopsDone, State.unit_eq_of_units (State.finishAll_units _ _ _)]
  exact foldl_leaves (fun t => (t.unit v).stop) _ (fun t u => State.stop_event t u evStopped v) _ _

theorem State.unit_moveOn (s : State) (h : CmdHdr) (v : Word) : (s.moveOn h).unit v = s.unit v :=
  State.unit_eq_of_units (State.moveOn_ports s h).units v

/-- One value put in the stop bits of some units. -/
theorem State.stop_foldl_setUnit (b : Bool) (us : List Word) (s : State) (v : Word) :
    ((us.foldl (fun (s : State) (u : Word) => s.setUnit u { s.unit u with stop := b }) s).unit v).stop =
      if v ∈ us then b else (s.unit v).stop := by
  induction us generalizing s with
  | nil => rfl
  | cons u us ih =>
    rw [List.foldl_cons, ih, State.unit_setUnit]
    by_cases here : v = u <;> by_cases later : v ∈ us <;> simp [here, later]

/-! ### Stop requests (R35, R37) -/

section
variable {s : State} {us : List Word} {u : Word} (c : CmdHdr) (opc : Byte) (mute : Bool)

/-- A request raises the stop bit of each unit that can be stopped, and of no other. -/
theorem State.stop_requestStop_set (v : Word) : ((s.requestStop us true c opc mute).unit v).stop =
    ((s.unit v).stop || (s.stoppable us).any (fun w => w == v)) := by
  rw [State.requestStop, if_pos rfl, State.stop_stopsDone]
  refine (State.stop_foldl_setUnit true (s.stoppable us) s v).trans ?_
  by_cases among : v ∈ s.stoppable us <;> simp [among]

/-- A withdrawal clears the stop bit of each unit that no abort holds, and of no other. -/
theorem State.stop_requestStop_clear (v : Word) : ((s.requestStop us false c opc mute).unit v).stop =
    ((s.unit v).stop && !(us.any (fun w => w == v && !(s.aborts w)))) := by
  rw [State.requestStop, if_neg Bool.false_ne_true, State.stop_stopsDone]
  refine (State.stop_foldl_setUnit false (us.eraseDups.filter (fun u => !(s.aborts u))) s v).trans ?_
  have among : v ∈ us.eraseDups.filter (fun u => !(s.aborts u)) ↔ us.any (fun w => w == v && !(s.aborts w)) = true := by
    simp only [List.mem_filter, List.mem_eraseDups, List.any_eq_true, Bool.and_eq_true, beq_iff_eq]
    exact ⟨fun ⟨mem, free⟩ => ⟨v, mem, rfl, free⟩, fun ⟨_, mem, same, free⟩ => same ▸ ⟨mem, free⟩⟩
  by_cases mem : v ∈ us.eraseDups.filter (fun u => !(s.aborts u))
  · rw [if_pos mem, among.mp mem, Bool.not_true, Bool.and_false]
  · rw [if_neg mem, Bool.eq_false_iff.mpr (mt among.mpr mem), Bool.not_false, Bool.and_true]

/-- The request for one unit that can be stopped waits for the rooms that do not hold it yet. -/
theorem State.requestStop_set_of_stoppable (can : s.stoppable [u] = [u]) :
    s.requestStop [u] true c opc mute =
      ({ s.setUnit u { s.unit u with stop := true } with
        cmds := s.cmds ++ [{ h := c, opc := opc, tick := s.pkt, mute := mute, work := .stopSet [⟨u, !(s.unit u).stop,
          s.stopRooms u (fun r => !((s.unit u).stop && (s.room r).stopsNow.contains u))⟩] }] } : State).stopsDone := by
  rw [State.requestStop, if_pos rfl, can]
  rfl

/-- The withdrawal for one unit that no abort holds takes it from the stops that wait for it, and waits for the rooms that hold
it. -/
theorem State.requestStop_clear_of_not_aborts (free : s.aborts u = false) :
    s.requestStop [u] false c opc mute =
      ({ s.setUnit u { s.unit u with stop := false } with
        cmds := s.cmds.map (fun (q : Cmd) => q.withdrawn [u] (fun v => s.stopRooms v (fun _ => true))) ++
          [{ h := c, opc := opc, tick := s.pkt, mute := mute, work := .stopClear [⟨u, false,
            s.stopRooms u (fun r => (s.room r).stopsNow.contains u)⟩] }] } : State).stopsDone := by
  have only : [u].eraseDups.filter (fun u => !(s.aborts u)) = [u] := by simp [List.eraseDups_cons, free]
  rw [State.requestStop, if_neg Bool.false_ne_true, only]
  rfl

end

/-! ### STOP (R35, R516, R588) -/

/-- A command on a unit of the module acts on that unit. -/
theorem State.unitsOf_of_unit {s : State} {h : CmdHdr} (noSet : isSet h = false) (level : pathLevel h.unit ≤ 3) :
    s.unitsOf h = [h.unit] := by
  rw [State.unitsOf, if_neg (ne_true_of_eq_false noSet), if_neg (by omega)]

section
variable {s a : State} {h : CmdHdr} {set : Bool}
  (acc : s.accepts h { opc := 0x40, since := 0, sets := true, level := inModule, bad := none, par := [⟨128, 1, bit1 set⟩] } a)
include acc

theorem State.stopCmd_of_up (up : a.downFloor (a.unitsOf h) = none) :
    s.stopCmd h set = (a.requestStop (a.unitsOf h) set h 0x40 false).moveOn h := by
  rw [State.stopCmd, State.decode_of_accepts _ acc, up]

theorem State.stopCmd_of_down {f : Nat} (down : a.downFloor (a.unitsOf h) = some f) :
    s.stopCmd h set = (a.reply h 0x40 0x010C (leBytes 1 f)).moveOn h := by
  rw [State.stopCmd, State.decode_of_accepts _ acc, down]

end

theorem exec_stopSet (h : CmdHdr) (s : State) : exec (.stopSet h) s = .next (s.stopCmd h true) := rfl
theorem exec_stopClear (h : CmdHdr) (s : State) : exec (.stopClear h) s = .next (s.stopCmd h false) := rfl

/-! ### STOP ANNOUNCEMENT (R35, R371) -/

/-- The announcement of a request as it stands, in a room of the unit on a floor that is up: it is in force in the room, or kept
while the room has no clock. -/
theorem exec_stopAnnouncement_of_reached {s : State} {r : RoomId} {u : Word} {set : Bool} (ready : s.ready = true)
    (up : s.floorUp (roomFloor r.val) = true) (inUnit : (unitRooms u).contains r.val = true)
    (stands : (s.unit u).stop = set) :
    exec (.stopAnnouncement r u set) s = .next (if (s.room r.val).clockOff then
      (s.setRoom r.val { s.room r.val with keeper := (s.room r.val).keeper ++ [.stop u set] }).stopAdvance r.val
      else (s.setRoom r.val { s.room r.val with stops := stopIn (s.room r.val).stops u set }).stopAdvance r.val) := by
  have reached : ¬(!s.ready || !(s.floorUp (roomFloor r.val)) || !(unitRooms u).contains r.val ||
      (s.unit u).stop != set) = true := by
    simp [ready, up, stands, List.contains_iff_mem.mp inUnit]
  exact (if_neg reached).trans (apply_ite _ _ _ _).symm

/-! ### ABORT (R36, R37, R522, R523, R588) -/

section
variable {s a : State} {h : CmdHdr}

theorem exec_abort_of_accepts
    (acc : s.accepts h { opc := 0x41, since := 0, sets := true, level := fun p => !(s.isPeer p), bad := none, par := [] } a) :
    exec (.abort h) s = .next ((a.abortUnits h (a.unitsOf h)).moveOn h) :=
  congrArg Host.Outcome.next (State.decode_of_accepts _ acc)

variable {us : List Word}

theorem State.abortUnits_of_down {f : Nat} (h : CmdHdr) (down : s.downFloor us = some f) :
    s.abortUnits h us = s.reply h 0x41 0x010C (leBytes 2 f) := by
  rw [State.abortUnits, down]

/-- The state in which an ABORT finds the module: an image load that its units reach has ended (R512). -/
def State.loadEnded (s : State) (us : List Word) : State := if s.reaches us then s.endLoad 1 else s

theorem State.abortUnits_of_idle (h : CmdHdr) (up : s.downFloor us = none)
    (noAbort : us.flatMap (s.loadEnded us).abortsOver = []) (noProgram : (s.loadEnded us).runsProgram us = false) :
    s.abortUnits h us = (s.loadEnded us).reply h 0x41 0 (leBytes 8 0) := by
  rw [State.abortUnits, up]
  exact if_pos (by
    change ((us.flatMap (s.loadEnded us).abortsOver).isEmpty && !((s.loadEnded us).runsProgram us)) = true
    rw [noAbort, noProgram]
    rfl)

theorem State.abortUnits_of_busy (h : CmdHdr) (up : s.downFloor us = none)
    (busy : us.flatMap (s.loadEnded us).abortsOver ≠ [] ∨ (s.loadEnded us).runsProgram us = true) :
    let b := s.loadEnded us
    let old := us.flatMap b.abortsOver
    let new := us.filter (fun u => (b.abortsOver u).isEmpty)
    let pairs := new.flatMap (fun u => ((unitRooms u).filter (fun r => b.floorUp (roomFloor r))).map (fun r => (r, u)))
    s.abortUnits h us = ({ b with
      aborting := b.aborting ++ pairs.filter (fun q => !b.aborting.contains q) } : State).begin_ h 0x41
        (.abort (new ++ old.flatMap (·.1)).eraseDups new (pairs.map (·.1) ++ old.flatMap (·.2.1)).eraseDups
          (old.foldl (fun m q => m ||| q.2.2) 0) 0) := by
  have waits : ¬((us.flatMap (s.loadEnded us).abortsOver).isEmpty && !((s.loadEnded us).runsProgram us)) = true := by
    rw [Bool.and_eq_true, List.isEmpty_iff, Bool.not_eq_true']
    rintro ⟨noAbort, noProgram⟩
    exact busy.elim (fun some => some noAbort) (ne_true_of_eq_false noProgram)
  rw [State.abortUnits, up]
  exact if_neg waits

end

/-! ### ABORT ANNOUNCEMENT and QUIET REPORT (R36, R371, R522, R523) -/

section
variable {s : State} {r : RoomId} {u : Word}

/-- An announcement that is under way, to a room on a floor that is up, is used up: the unit's tiles in the room abort, or the
announcement is kept while the room has no clock. -/
theorem exec_abortAnnouncement_of_reached (underWay : s.aborting.contains (r.val, u) = true)
    (up : s.floorUp (roomFloor r.val) = true) :
    let t : State := { s with aborting := s.aborting.erase (r.val, u) }
    exec (.abortAnnouncement r u) s = .next (if (s.room r.val).clockOff then
      t.setRoom r.val { t.room r.val with keeper := (t.room r.val).keeper ++ [.abort u] } else t.abortRoom r.val u) := by
  have reached : ¬(!(s.aborting.contains (r.val, u)) || !(s.floorUp (roomFloor r.val))) = true := by
    rw [underWay, up]; exact Bool.false_ne_true
  exact (if_neg reached).trans (apply_ite _ _ _ _).symm

/-- A room that an abort waits for reports quiet once every announcement of the abort has taken effect in it. -/
theorem exec_quietReport_of_awaited {c : CmdId} {k : Cmd} {us own : List Word} {rs : List Nat} {m : BitVec 16} {q : Nat}
    (found : s.cmdOf c = some k) (work : k.work = .abort us own rs m q) (awaited : rs.contains r.val = true)
    (taken : ∀ v ∈ us, s.aborting.contains (r.val, v) = false) :
    exec (.quietReport c r) s = .next (s.roomQuiet r.val) := by
  have noneLeft : us.any (fun u => s.aborting.contains (r.val, u)) = false :=
    List.any_eq_false.mpr fun v mem => ne_true_of_eq_false (taken v mem)
  change execQuietReport c r s = _
  simp only [execQuietReport, found, work, awaited, noneLeft, Bool.not_false, Bool.and_self, if_true]

end

/-! ### QUIET LIMIT (R523) -/

/-- The least of a number and of the ticks of some commands that are no earlier is the number. -/
theorem foldl_min_tick_eq {n : Nat} {cs : List Cmd} (least : ∀ z ∈ cs, n ≤ z.tick) :
    cs.foldl (fun n (x : Cmd) => min n x.tick) n = n :=
  List.foldlRecOn cs _ (motive := (· = n)) rfl fun _ same z mem => by
    rw [same, Nat.min_eq_left (least z mem)]

/-- The limit of an abort runs from the first command that waits for the same units. -/
theorem exec_quietLimit_of_passed {s : State} {c : CmdId} {k : Cmd} {us own : List Word} {rs : List Nat} {m : BitVec 16}
    {q : Nat} (found : s.cmdOf c = some k) (work : k.work = .abort us own rs m q) (left : rs ≠ [])
    (first : ∀ z ∈ s.cmds, ∀ own' rs' m' q', z.work = .abort us own' rs' m' q' → k.tick ≤ z.tick)
    (passed : k.tick + quietLimit us ≤ s.pkt) :
    exec (.quietLimit c) s = .next (s.escalate us rs k.h.port.val) := by
  change execQuietLimit c s = _
  simp only [execQuietLimit, found, work]
  rw [foldl_min_tick_eq, if_neg]
  · simp [left, passed]
  · intro z mem
    obtain ⟨among, same⟩ := List.mem_filter.mp mem
    split at same
    · next vs own' rs' m' q' eq => exact first z among own' rs' m' q' (beq_iff_eq.mp same ▸ eq)
    · cases same

/-! ### The obligation -/

/-- Settles O22: an accepted command is the operation on the state that its ring leaves, and each case of the operation is one
of the lemmas above. -/
theorem stopsAndAborts : Obligations.StopsAndAborts := by
  unfold Obligations.StopsAndAborts
  refine ⟨fun h r set f s a => ?_, fun h r u c k us own rs x y f s a => ?_⟩
  · refine ⟨fun acc noSet level up can => ?_, fun acc noSet level up free => ?_, fun acc up => ?_, fun acc up => ?_,
      fun acc down => ?_, fun acc down => ?_, fun ready up inUnit stands => ?_⟩
    · rw [← State.unitsOf_of_unit (s := a) noSet level] at up
      rw [exec_stopSet, State.stopCmd_of_up acc up, State.unitsOf_of_unit noSet level,
        State.requestStop_set_of_stoppable _ _ _ can]
      rfl
    · rw [← State.unitsOf_of_unit (s := a) noSet level] at up
      rw [exec_stopClear, State.stopCmd_of_up acc up, State.unitsOf_of_unit noSet level,
        State.requestStop_clear_of_not_aborts _ _ _ free]
      rfl
    · refine ⟨_, (exec_stopSet h s).trans (congrArg _ (State.stopCmd_of_up acc up)), fun v => ?_⟩
      rw [State.unit_moveOn, State.stop_requestStop_set]
    · refine ⟨_, (exec_stopClear h s).trans (congrArg _ (State.stopCmd_of_up acc up)), fun v => ?_⟩
      rw [State.unit_moveOn, State.stop_requestStop_clear]
    · rw [exec_stopSet, State.stopCmd_of_down acc down]
    · rw [exec_stopClear, State.stopCmd_of_down acc down]
    · rw [exec_stopAnnouncement_of_reached ready up inUnit stands]
      exact ⟨fun clock => by rw [if_neg (ne_true_of_eq_false clock)], fun clock => by rw [if_pos clock]⟩
  · refine ⟨fun acc down => ?_, fun acc up noAbort noProgram => ?_, fun acc up busy => ?_, fun underWay up clock => ?_,
      fun underWay up clock => ?_, exec_quietReport_of_awaited, exec_quietLimit_of_passed⟩
    · rw [exec_abort_of_accepts acc, State.abortUnits_of_down h down]
    · rw [exec_abort_of_accepts acc, State.abortUnits_of_idle h up noAbort noProgram]
      rfl
    · rw [exec_abort_of_accepts acc, State.abortUnits_of_busy h up busy]
      rfl
    · rw [exec_abortAnnouncement_of_reached underWay up, if_neg (ne_true_of_eq_false clock)]
    · rw [exec_abortAnnouncement_of_reached underWay up, if_pos clock]

end Sys2Proof.Machine
end

section
/-!
What a reply limit and the end of a bounced request's wait come to in each case (R284, R344), and the obligation of request limits
(O30).
-/

namespace Sys2Proof.Machine

section
variable {s : State} {t : TileId} (on : s.tileOn t.val = true)
include on

theorem exec_replyLimit_of_on (e : Fin 64) : exec (.replyLimit t e) s = .next (s.tileReplyLimit t.val e.val) := if_pos on

theorem exec_requestResend_of_on (e : Fin 64) : exec (.requestResend t e) s = .next (s.resend t.val e.val) := if_pos on

end

section
variable {s : State} {t e : Nat} {x : Req} (pends : (s.tile t).req e = some x)
include pends

/-- A request that is out for longer than the reply limit leaves its entry, and its tile aborts. -/
theorem State.tileReplyLimit_of_late (late : x.sent + s.replyLimit < s.pkt) (out : x.heldBack = false) :
    s.tileReplyLimit t e = (s.setTile t ((s.tile t).setReq e none)).tileAbort t 0x6C 4 none
      (reqDetail x.pkt.targetPath x.pkt.str.toNat (s.pkt - x.sent) x.bounces) := by
  simp only [State.tileReplyLimit, pends, late, out, decide_true, Bool.not_false, Bool.and_self, if_true, State.pkt_setTile]

theorem State.tileReplyLimit_of_timely (timely : s.pkt ≤ x.sent + s.replyLimit) : s.tileReplyLimit t e = s := by
  simp [State.tileReplyLimit, pends, Nat.not_lt.mpr timely]

/-- A bounced request goes out again once its periods have passed. -/
theorem State.resend_of_waited (waiting : x.waiting = true) (passed : x.left = 0) :
    s.resend t e = (s.putTile t { (s.tile t).setReq e (some { x with waiting := false, bounces := x.bounces + 1 }) with
      bounces := stick (s.tile t).bounces, ovf := fillBit 1 (s.tile t).bounces (s.tile t).ovf }).inject t x.pkt := by
  simp only [State.resend, pends, waiting, passed, beq_self_eq_true, Bool.and_self, if_true, Tile.setReq]

theorem State.resend_of_not_waited (stays : x.waiting = false ∨ x.left ≠ 0) : s.resend t e = s := by
  obtain idle | early := stays
  · simp [State.resend, pends, idle]
  · simp [State.resend, pends, early]

end

/-! ### The obligation -/

/-- Settles O30: each case of the two commands is one of the lemmas above. -/
theorem requestLimits : Obligations.RequestLimits := by
  unfold Obligations.RequestLimits
  intro t e x s on pends
  rw [exec_replyLimit_of_on on, exec_requestResend_of_on on]
  refine ⟨fun late out => ?_, fun timely => ?_, fun waiting passed => ?_, fun stays => ?_⟩
  · rw [State.tileReplyLimit_of_late pends late out]
  · rw [State.tileReplyLimit_of_timely pends timely]
  · rw [State.resend_of_waited pends waiting passed]
  · rw [State.resend_of_not_waited pends stays]

end Sys2Proof.Machine
end

section
/-!
What a scrub read comes to in each case (R275, R291, R296, R297), and the obligation of scrub reads (O33).
-/

namespace Sys2Proof.Machine

/-! ### What counters and records leave of the tiles and the rooms -/

section
variable {β : Type} {f : State → β} (unit : ∀ s p v, f (State.setUnit s p v) = f s)
include unit

/-- What no unit's registers bear on, an event leaves as it is. -/
theorem State.event_leaves (s : State) (p : Word) (b : Nat) : f (s.event p b) = f s :=
  foldl_leaves f _ (fun s q => unit s q _) _ _

theorem State.limitAt_leaves (s : State) (p : Word) (raise : Bool) : f (s.limitAt p raise) = f s := by
  cases raise with
  | false => rfl
  | true => exact State.event_leaves unit s p _

theorem State.putTile_leaves (s : State) (t : Nat) (v : Tile) : f (s.putTile t v) = f (s.setTile t v) :=
  foldl_leaves f _ (fun s _ => State.limitAt_leaves unit s _ _) _ _

end

@[simp] theorem State.tile_putTile_self (s : State) (t : Nat) (v : Tile) : (s.putTile t v).tile t = v := by
  rw [State.putTile_leaves (f := fun s => s.tile t) (fun _ _ _ => rfl), State.tile_setTile_self]

@[simp] theorem State.room_putTile (s : State) (t : Nat) (v : Tile) (r : Nat) : (s.putTile t v).room r = s.room r :=
  State.putTile_leaves (f := fun s => s.room r) (fun _ _ _ => rfl) s t v

theorem State.portsOnly.tiles {s t : State} (h : s.portsOnly t) : t.tiles = s.tiles :=
  (congrArg State.tiles h).trans rfl

theorem State.drainNotices_ports (k : Nat) (s : State) (d : Nat) : s.portsOnly (State.drainNotices k s d) := by
  induction k generalizing s with
  | zero => exact State.portsOnly_refl s
  | succ k later =>
    have written (q : Die) (code time : Nat) (detail : List Byte) :
        s.portsOnly ((s.setDie d q).writeEntry d 8 0xFFFF code 0 0 time detail) :=
      State.portsOnly_trans (State.setDie_ports s d q) (State.writeEntry_ports _ _ _ _ _ _ _ _ _)
    unfold State.drainNotices
    dsimp only
    split
    · split
      · exact State.portsOnly_trans (written _ _ _ _) (later _)
      · split
        · exact written _ _ _ _
        · exact State.portsOnly_refl s
    · exact State.portsOnly_refl s

theorem State.tiles_notice (s : State) (code : Nat) (detail : List Byte) : (s.notice code detail).tiles = s.tiles := by
  refine foldl_leaves State.tiles _ (fun s d => ?_) _ _
  unfold State.noticeOn
  dsimp only
  split
  · rfl
  · split
    · exact (State.drainNotices_ports _ _ d).tiles
    · exact State.limitAt_leaves (f := State.tiles) (fun _ _ _ => rfl) _ _ _

/-- A fault record changes no tile. -/
theorem State.tiles_record (s : State) (r : FaultRec) : (s.record r).tiles = s.tiles := by
  have events := State.event_leaves (f := State.tiles) fun _ _ _ => rfl
  have limits := State.limitAt_leaves (f := State.tiles) fun _ _ _ => rfl
  have counts (s : State) (p : Word) : (s.countFault p).tiles = s.tiles := by
    unfold State.countFault
    dsimp only
    split
    · exact events _ _ _
    · rfl
  simp only [State.record, State.tiles_notice, counts, events, limits]

@[simp] theorem State.tile_record (s : State) (r : FaultRec) (t : Nat) : (s.record r).tile t = s.tile t :=
  congrArg (fun tiles => Tbl.get Tile.reset tiles t) (State.tiles_record s r)

/-! ### The walk of a scrub (R275, R296) -/

/-- A tile after the scrub read of the attic line at which its walk stands. -/
def Tile.atticWalked (v : Tile) (line : Nat) : Tile :=
  { v with scrubAttic := (line + 1) % 2048, banksUsed := v.banksUsed ||| BitVec.ofNat 4 (2 ^ (line % 4)) }

/-- A tile after the scrub read of a cellar line at which one of its walks stands. -/
def Tile.cellarWalked (v : Tile) (line : Nat) : Tile :=
  { v with stairFree := 0, scrubWeight := if v.scrubTarget = some line then (line + 1) % 8192 else v.scrubWeight
           scrubWhole := if v.scrubWhole = line then (line + 1) % 8192 else v.scrubWhole }

section
variable {v : Tile} {line : Nat}

/-- The walk of the attic goes on past a line in a bank that is unused. -/
theorem Tile.scrubStep_attic (stands : v.scrubAttic = line) (free : v.banksUsed.getLsbD (line % 4) = false) :
    v.scrubStep false line = some (v.atticWalked line) := by
  simp [Tile.scrubStep, Tile.atticWalked, stands, free]

theorem Tile.scrubStep_attic_none (stays : v.scrubAttic ≠ line ∨ v.banksUsed.getLsbD (line % 4) ≠ false) :
    v.scrubStep false line = none := by
  obtain away | used := stays
  · simp [Tile.scrubStep, away]
  · simp [Tile.scrubStep, Bool.ne_false_iff.mp used]

/-- The walks of the cellar that stand at a line go on past it, once both of its transfers have found room. -/
theorem Tile.scrubStep_cellar (stands : v.scrubTarget = some line ∨ v.scrubWhole = line) (free : v.stairFree = 2) :
    v.scrubStep true line = some (v.cellarWalked line) := by
  have walks : (v.scrubTarget == some line || v.scrubWhole == line) = true := by simpa using stands
  simp [Tile.scrubStep, Tile.cellarWalked, walks, free]

theorem Tile.scrubStep_cellar_none (stays : ¬((v.scrubTarget = some line ∨ v.scrubWhole = line) ∧ v.stairFree = 2)) :
    v.scrubStep true line = none := by
  have still : ((v.scrubTarget == some line || v.scrubWhole == line) && v.stairFree == 2) = false := by
    simpa [← Bool.not_eq_true] using stays
  simp only [Tile.scrubStep, if_true, still, Bool.false_eq_true, if_false]

end

section
variable {s : State} {t : TileId} {cellar : Bool} {line : BitVec 13} (on : s.tileOn t.val = true)
include on

theorem exec_scrubRead_of_step {v : Tile} (step : (s.tile t.val).scrubStep cellar line.toNat = some v) :
    exec (.scrubRead t cellar line) s = .next ((s.setTile t.val v).scrubLine t.val cellar line.toNat) := by
  change execScrubRead t cellar line s = _
  simp [execScrubRead, on, step]

theorem exec_scrubRead_of_none (noStep : (s.tile t.val).scrubStep cellar line.toNat = none) :
    exec (.scrubRead t cellar line) s = .next s := by
  change execScrubRead t cellar line s = _
  simp [execScrubRead, on, noStep]

end

/-! ### The words of a line under a scrub read (R291, R297, R298) -/

/-- What a scrub read makes of word i of a line. -/
def State.scrubWord (t : Nat) (cellar : Bool) (line : Nat) (s : State) (i : Nat) : State :=
  let v := s.tile t
  let w := 4 * line + i
  let m := Tbl.get 0 (v.marks cellar) w
  if m = 1 then
    if cellar then
      s.putTile t { v with corrC := stick v.corrC, ovf := fillBit 6 v.corrC v.ovf, stairCorr := v.stairCorr + 1
                           cellarMark := Tbl.set 0 v.cellarMark w 0 }
    else s.putTile t { v with corrA := stick v.corrA, ovf := fillBit 5 v.corrA v.ovf, atticMark := Tbl.set 0 v.atticMark w 0 }
  else if m = 2 then
    let k := if cellar then v.kind (line / 128) else 0
    let v := v.addOrigin ⟨if cellar then 2 else 1, line + i * 65536, (s.room (tileRoom t)).tread⟩
    let v := if !cellar then { v with atticMark := Tbl.set 0 v.atticMark w 3 }
      else if k = 2 ∨ k = 0 then { v with cellarMark := Tbl.set 0 v.cellarMark w 3 } else v
    let s := s.putTile t v
    let s := s.record (s.tileRec t 0x65 0 0 none none (leBytes 1 (if cellar then 1 else 0) ++ leBytes 4 (line + i * 65536) ++ leBytes 1 k))
    if cellar ∧ k = 1 then s.reverify false t (line / 128) else s
  else s

section
variable {s : State} {t line : Nat} {cellar : Bool}

theorem State.scrubLine_eq_foldl_scrubWord :
    s.scrubLine t cellar line = (List.range 4).foldl (State.scrubWord t cellar line) s := rfl

theorem State.scrubWord_of_clean {i : Nat} (clean : Tbl.get 0 ((s.tile t).marks cellar) (4 * line + i) = 0) :
    s.scrubWord t cellar line i = s := by
  simp [State.scrubWord, clean]

/-- A read of a line whose other words are clean is that of its first word. -/
theorem State.scrubLine_eq_first
    (clean : ∀ i ∈ [1, 2, 3], Tbl.get 0 (((s.scrubWord t cellar line 0).tile t).marks cellar) (4 * line + i) = 0) :
    s.scrubLine t cellar line = s.scrubWord t cellar line 0 := by
  have words : List.range 4 = [0, 1, 2, 3] := rfl
  rw [State.scrubLine_eq_foldl_scrubWord, words, List.foldl_cons]
  exact List.foldlRecOn _ _ (motive := (· = State.scrubWord t cellar line s 0)) rfl fun r same i mem => by
    rw [same, State.scrubWord_of_clean (clean i mem)]

/-- The marks of the other words of a line stay when the first one's is written. -/
theorem Tbl.get_set_first {m : Tbl Nat} {w x : Nat} (others : ∀ i ∈ [1, 2, 3], Tbl.get 0 m (w + i) = 0) :
    ∀ i ∈ [1, 2, 3], Tbl.get 0 (Tbl.set 0 m w x) (w + i) = 0 := fun i mem => by
  have later : w + i ≠ w := by
    have : i ≠ 0 := fun zero => absurd (zero ▸ mem) (by decide)
    omega
  rw [Tbl.get_set_ne _ _ _ later, others i mem]

section
variable {v : Tile} (here : s.tile t = v)
include here

theorem State.scrubLine_of_clean (clean : ∀ i ∈ [0, 1, 2, 3], Tbl.get 0 (v.marks cellar) (4 * line + i) = 0) :
    s.scrubLine t cellar line = s := by
  subst here
  obtain ⟨first, others⟩ := List.forall_mem_cons.mp clean
  have same := State.scrubWord_of_clean first
  rw [State.scrubLine_eq_first (by rwa [same]), same]

/-- A single-bit error in the first word of an attic line is corrected and counted. -/
theorem State.scrubLine_attic_corrected (single : Tbl.get 0 v.atticMark (4 * line) = 1)
    (others : ∀ i ∈ [1, 2, 3], Tbl.get 0 v.atticMark (4 * line + i) = 0) :
    s.scrubLine t false line = s.putTile t { v with
      corrA := stick v.corrA, ovf := fillBit 5 v.corrA v.ovf, atticMark := Tbl.set 0 v.atticMark (4 * line) 0 } := by
  subst here
  have word := State.scrubLine_eq_first (s := s) (t := t) (line := line) (cellar := false)
  rw [show s.scrubWord t false line 0 = _ from if_pos single, if_neg Bool.false_ne_true, State.tile_putTile_self] at word
  exact word (Tbl.get_set_first others)

/-- A single-bit error in the first word of a cellar line is corrected and counted. -/
theorem State.scrubLine_cellar_corrected (single : Tbl.get 0 v.cellarMark (4 * line) = 1)
    (others : ∀ i ∈ [1, 2, 3], Tbl.get 0 v.cellarMark (4 * line + i) = 0) :
    s.scrubLine t true line = s.putTile t { v with
      corrC := stick v.corrC, ovf := fillBit 6 v.corrC v.ovf
      stairCorr := v.stairCorr + 1, cellarMark := Tbl.set 0 v.cellarMark (4 * line) 0 } := by
  subst here
  have word := State.scrubLine_eq_first (s := s) (t := t) (line := line) (cellar := true)
  rw [show s.scrubWord t true line 0 = _ from if_pos single, if_pos rfl, State.tile_putTile_self] at word
  exact word (Tbl.get_set_first others)

/-- A double-bit error in the first word of an attic line is recorded with its origin, and the word is poison. -/
theorem State.scrubLine_attic_poisoned (double : Tbl.get 0 v.atticMark (4 * line) = 2)
    (others : ∀ i ∈ [1, 2, 3], Tbl.get 0 v.atticMark (4 * line + i) = 0) :
    let b := s.putTile t { v.addOrigin ⟨1, line, (s.room (tileRoom t)).tread⟩ with
      atticMark := Tbl.set 0 v.atticMark (4 * line) 3 }
    s.scrubLine t false line = b.record
      (b.tileRec t 0x65 0 0 none none (leBytes 1 0 ++ leBytes 4 line ++ leBytes 1 0)) := by
  subst here
  intro b
  have word : s.scrubWord t false line 0 = b.record
      (b.tileRec t 0x65 0 0 none none (leBytes 1 0 ++ leBytes 4 line ++ leBytes 1 0)) := by
    simp [State.scrubWord, Tile.marks, double, b, Tile.addOrigin]
  have first := State.scrubLine_eq_first (s := s) (t := t) (line := line) (cellar := false)
  rw [word, State.tile_record, State.tile_putTile_self] at first
  exact first (Tbl.get_set_first others)

end

end

/-! ### The obligation -/

/-- Settles O33: the walk's step gives the tile whose line is read, and each outcome of the read is one of the lemmas above. -/
theorem scrubReads : Obligations.ScrubReads := by
  unfold Obligations.ScrubReads
  intro t line s on
  have atticTile := State.tile_setTile_self s t.val ((s.tile t.val).atticWalked line.toNat)
  have cellarTile := State.tile_setTile_self s t.val ((s.tile t.val).cellarWalked line.toNat)
  refine ⟨fun stands free clean => ?_, fun due clean => ?_, fun stands free single others => ?_,
    fun due single others => ?_, fun stands free double others => ?_, fun away => ?_, fun _ used => ?_, fun stays => ?_⟩
  · rw [exec_scrubRead_of_step on (Tile.scrubStep_attic stands free),
      State.scrubLine_of_clean (cellar := false) atticTile clean]
    rfl
  · rw [exec_scrubRead_of_step on (Tile.scrubStep_cellar due.1 due.2),
      State.scrubLine_of_clean (cellar := true) cellarTile clean]
    rfl
  · rw [exec_scrubRead_of_step on (Tile.scrubStep_attic stands free),
      State.scrubLine_attic_corrected atticTile single others]
    rfl
  · rw [exec_scrubRead_of_step on (Tile.scrubStep_cellar due.1 due.2),
      State.scrubLine_cellar_corrected cellarTile single others]
    rfl
  · rw [exec_scrubRead_of_step on (Tile.scrubStep_attic stands free),
      State.scrubLine_attic_poisoned atticTile double others]
    rfl
  · exact exec_scrubRead_of_none on (Tile.scrubStep_attic_none (.inl away))
  · exact exec_scrubRead_of_none on (Tile.scrubStep_attic_none (.inr used))
  · exact exec_scrubRead_of_none on (Tile.scrubStep_cellar_none stays)

end Sys2Proof.Machine
end

section
/-!
What SERVICE PACKET ROUTE, WRITE REQUEST, READ REQUEST and REMOTE CELLAR READ come to in each case (R265, R286, R288, R337–R345,
R349), and the obligation of packets at tiles (O44).
-/

namespace Sys2Proof.Machine

/-! ### A router's step (R337–R345) -/

section
variable {s : State} {k : Nat} (noneWaits : s.waitAt k = [])
include noneWaits

theorem State.refill_of_noneWaitswaiting : s.refill (s.waitAt k).length k = s := by rw [noneWaits]; rfl

theorem State.popBuf_of_noneWaitswaiting : s.popBuf k = s.setBuf k (s.buf k).tail := by rw [State.popBuf, noneWaits]; rfl

end

/-- A packet that goes to a tile is a request to one tile or a reply to a tile. -/
theorem Packet.tgt_of_destTile {p : Packet} {g : Nat} (dest : p.destTile = some g) :
    (∃ u, p.tgt = .uni u) ∨ ∃ q, p.tgt = .reply (.tile q) := by
  unfold Packet.destTile at dest
  split at dest
  · exact .inl ⟨_, ‹_›⟩
  · exact .inr ⟨_, ‹_›⟩
  · cases dest

section
variable {s : State} {t inp chan : Nat} {p : Packet} {l : List Packet} (noneWaits : s.waitAt (bufKey t inp chan) = [])
include noneWaits

theorem State.routePacket_of_empty (empty : s.buf (bufKey t inp chan) = []) : s.routePacket t inp chan = s := by
  simp only [State.routePacket, State.refill_of_noneWaitswaiting noneWaits, empty]

variable (first : s.buf (bufKey t inp chan) = p :: l)
include first

theorem State.popBuf_of_first : s.popBuf (bufKey t inp chan) = s.setBuf (bufKey t inp chan) l := by
  rw [State.popBuf_of_noneWaitswaiting noneWaits, first, List.tail_cons]

/-- A packet with a bad header is discarded and recorded. -/
theorem State.routePacket_of_bad_header (bad : s.headerOk p = false) :
    s.routePacket t inp chan =
      ({ s.setBuf (bufKey t inp chan) l with mcLeft := Tbl.set [] s.mcLeft (bufKey t inp chan) [] } : State).headerFault
        t inp chan p := by
  simp [State.routePacket, State.refill_of_noneWaitswaiting noneWaits, first, bad, State.popBuf_of_first noneWaits first]

/-- A packet to one tile takes its next hop. -/
theorem State.routePacket_of_destTile {g : Nat} (good : s.headerOk p = true) (dest : p.destTile = some g) :
    s.routePacket t inp chan = s.routeUni t inp chan p := by
  obtain ⟨u, tgt⟩ | ⟨q, tgt⟩ := Packet.tgt_of_destTile dest
  all_goals simp [State.routePacket, State.refill_of_noneWaitswaiting noneWaits, first, good, tgt]

/-- A packet that port L takes leaves the network there, where the output serves it. -/
theorem State.routeUni_of_eject (hop : s.uniHop t chan p = .eject) (wins : s.wins t inp chan 4 chan = true) :
    s.routeUni t inp chan p = ((s.setBuf (bufKey t inp chan) l).served t 4 inp).ejectAt t p := by
  simp only [State.routeUni, hop, wins, if_true, State.popBuf_of_first noneWaits first]

/-- A packet goes on by an escape channel to the next router, where the output serves it. -/
theorem State.routeUni_of_escape {d esc u : Nat} (hop : s.uniHop t chan p = .link d esc) (odd : esc % 2 = 1)
    (nbr : s.nbr t d = some u) (wins : s.wins t inp chan d esc = true) :
    s.routeUni t inp chan p =
      ((s.setBuf (bufKey t inp chan) l).served t d inp).putAt (bufKey u (opp d) esc) { p with esc := true } := by
  simp only [State.routeUni, hop, nbr, wins, odd, if_true, State.popBuf_of_first noneWaits first]

/-- The bridge of an output takes a packet, where the output serves it, and answers a request. -/
theorem State.routeUni_of_bridge {d u : Nat} (hop : s.uniHop t chan p = .bridge d) (nbr : s.nbr t d = some u)
    (wins : s.wins t inp chan d ((if p.isReply then 2 else 0) + 1) = true) :
    s.routeUni t inp chan p = ((s.setBuf (bufKey t inp chan) l).served t d inp).bridgeAnswer t d (tileFloor u) (tileFloor u)
      p .fenced := by
  have channel : (if p.isReply then 3 else 1) = (if p.isReply then 2 else 0) + 1 := by split <;> rfl
  simp only [State.routeUni, hop, nbr, channel, wins, if_true, State.popBuf_of_first noneWaits first]

end

section
variable {s : State} {t chan g : Nat} {p : Packet} (dest : p.destTile = some g)
include dest

/-- A packet at its own tile leaves the network as soon as port L takes it. -/
theorem State.uniHop_of_here (here : g = t) : s.uniHop t chan p = if s.ejects t p then .eject else .wait := by
  obtain ⟨u, tgt⟩ | ⟨q, tgt⟩ := Packet.tgt_of_destTile dest
  all_goals simp [State.uniHop, Packet.destDie, tgt, dest, here]

/-- On an escape channel a packet takes its first productive output (R339), which a fenced or benched floor closes (R345). -/
theorem State.uniHop_of_escape {d u : Nat} {ds : List Nat} (away : g ≠ t) (escapes : p.esc = true ∨ chan % 2 = 1)
    (outs : s.productive t g = d :: ds) (nbr : s.nbr t d = some u) :
    s.uniHop t chan p =
      if tileFloor u = tileFloor t ∨ s.floorUp (tileFloor u) = true then
        if p.flits ≤ s.credit (bufKey u (opp d) ((if p.isReply then 2 else 0) + 1)) then
          .link d ((if p.isReply then 2 else 0) + 1)
        else .wait
      else .bridge d := by
  have onEscape : (p.esc || chan % 2 == 1) = true := by simpa using escapes
  have noAdaptive : (!p.esc && chan % 2 == 0) = false := by
    obtain esc | odd := escapes
    · simp [esc]
    · simp [odd]
  obtain ⟨w, tgt⟩ | ⟨q, tgt⟩ := Packet.tgt_of_destTile dest
  all_goals simp [State.uniHop, Packet.destDie, tgt, dest, away, outs, nbr, onEscape, Bool.and_assoc, noAdaptive]

end

/-- A packet that waits for port L or for the next router's credit stays. -/
theorem State.routeUni_of_wait {s : State} {t inp chan : Nat} {p : Packet} (hop : s.uniHop t chan p = .wait) :
    s.routeUni t inp chan p = s := by
  simp only [State.routeUni, hop]

theorem exec_servicePacketRoute_of_on {s : State} {t : TileId} (on : s.tileOn t.val = true) (inp : Fin 5) (ch : Fin 4) :
    exec (.servicePacketRoute t inp ch) s = .next (s.routePacket t.val inp.val ch.val) := if_pos on

/-! ### Requests whose turn has come at their tile (R265, R349) -/

section
variable {s : State} {t : TileId} {p : Packet} {n : Nat}

/-- A request whose turn has come, for whose bytes the service port has the periods, leaves the ejection list and acts. -/
theorem State.atTile_of_turn (f : State → State) (on : s.tileOn t.val = true) (fits : (s.tile t.val).portFits n = true)
    (turn : (s.tile t.val).turnOf p = true) : s.atTile t p n true f = f (s.takeEject t.val p) := by
  simp only [State.atTile, on, fits, turn, Bool.and_self, if_true]

variable (on : s.tileOn t.val = true) (turn : (s.tile t.val).turnOf p = true)
include on turn

theorem exec_writeRequest_of_turn (kind : p.kind = .write) (fits : (s.tile t.val).portFits p.payload.length = true) :
    exec (.writeRequest t p) s = .next ((s.takeEject t.val p).requestAt t.val p) := by
  change Host.Outcome.next (s.atTile t p _ (p.kind == .write) _) = _
  rw [kind, beq_self_eq_true, State.atTile_of_turn _ on fits turn]

theorem exec_readRequest_of_turn (kind : p.kind = .read) (attic : Packet.wantsCellar p = false)
    (fits : (s.tile t.val).portFits (p.len * 16) = true) :
    exec (.readRequest t p) s = .next ((s.takeEject t.val p).requestAt t.val p) := by
  change Host.Outcome.next (s.atTile t p _ (p.kind == .read && !Packet.wantsCellar p) _) = _
  rw [kind, attic, beq_self_eq_true, Bool.not_false, Bool.and_self, State.atTile_of_turn _ on fits turn]

theorem exec_remoteCellarRead_of_turn (kind : p.kind = .read) (cellar : Packet.wantsCellar p = true)
    (fits : (s.tile t.val).portFits 0 = true) :
    exec (.remoteCellarRead t p) s = .next ((s.takeEject t.val p).cellarReadAt t.val p) := by
  change Host.Outcome.next (s.atTile t p _ (p.kind == .read && Packet.wantsCellar p) _) = _
  rw [kind, cellar, beq_self_eq_true, Bool.and_self, State.atTile_of_turn _ on fits turn]

end

/-! ### What an access comes to (R286, R343, R350, R405) -/

@[simp] theorem Packet.kind_answer (p : Packet) (k : PktKind) (src : Src) (sub : Nat) (payload : List Byte) (poi : List Nat) :
    (p.answer k src sub payload poi).kind = k := rfl

/-- A tile as the source of its replies. -/
theorem Src.tile_ofNat (t : TileId) : Src.tile (Fin.ofNat 307200 t.val) = .tile t := by rw [Fin.ofNat_val_eq_self]

section
variable {s x : State} {t : Nat} {p r : Packet}

theorem State.requestAt_of_unordered (unordered : p.str = 0) : s.requestAt t p = s.applyReply t p := by
  simp only [State.requestAt, unordered, beq_self_eq_true, if_true]

theorem State.requestAt_of_ordered (ordered : p.str ≠ 0) : s.requestAt t p = s.orderedArrive t p := by
  simp only [State.requestAt, beq_iff_eq, ordered, if_false]

theorem State.applyReply_of_refused (result : s.apply t p = ⟨x, r, true⟩) : s.applyReply t p = x.sendReply t p r := by
  simp only [State.applyReply, result, Bool.true_or, if_true]

theorem State.applyReply_of_bounced (result : s.apply t p = ⟨x, r, false⟩) (bounced : r.kind = .bounce) :
    s.applyReply t p = x.sendReply t p r := by
  simp only [State.applyReply, result, bounced, beq_self_eq_true, Bool.or_true, if_true]

/-- An access that is made sets its arrival flag before its answer goes. -/
theorem State.applyReply_of_made (result : s.apply t p = ⟨x, r, false⟩) (made : r.kind ≠ .bounce) :
    s.applyReply t p = (x.setArrival t p).sendReply t p r := by
  simp [State.applyReply, result, made]

end

theorem PktKind.read_beq_write : (PktKind.read == PktKind.write) = false := rfl

/-- A flagged access whose flag is an arrival flag raises no fault for it. -/
theorem Tile.flagFault_eq_false {v : Tile} {p : Packet} (flag : p.flg = true → v.isArrival p.tf.toNat = true) :
    (p.flg && !v.isArrival p.tf.toNat) = false := by
  cases flagged : p.flg with
  | false => rfl
  | true => rw [flag flagged]; rfl

section
variable {s : State} {t : Nat} {p : Packet} {u : Unicast} (tgt : p.tgt = .uni u)
include tgt

theorem Packet.isMulti_of_uni : p.isMulti = false := by simp only [Packet.isMulti, tgt]

section
variable (kind : p.kind = .write) (attic : u.cellar = false)
include kind attic

/-- A write outside the tile's windows is refused before all else. -/
theorem State.applyReply_write_of_outside
    (outside : (s.tile t).covers p.src false true u.addr p.payload.length = false) :
    s.applyReply t p = (s.refuse t p false true u.addr (max p.payload.length 1) 0x61 1 false).sendReply t p
      (p.answer .refused (.tile (Fin.ofNat 307200 t)) 1 [] []) :=
  State.applyReply_of_refused (by simp [State.apply, tgt, kind, attic, outside])

variable (inside : (s.tile t).covers p.src false true u.addr p.payload.length = true)
include inside

/-- A flagged write whose flag is no arrival flag is refused. -/
theorem State.applyReply_write_of_not_arrival (flagged : p.flg = true)
    (noArrival : (s.tile t).isArrival p.tf.toNat = false) :
    s.applyReply t p = (s.refuse t p false true u.addr p.payload.length 0x6D 0 false).sendReply t p
      (p.answer .refused (.tile (Fin.ofNat 307200 t)) 1 [] []) :=
  State.applyReply_of_refused (by simp [State.apply, tgt, kind, attic, inside, flagged, noArrival])

variable (flag : p.flg = true → (s.tile t).isArrival p.tf.toNat = true)
include flag

theorem State.applyReply_write_of_empty (empty : p.payload.length = 0) :
    s.applyReply t p = (s.setArrival t p).sendReply t p (p.answer .ack (.tile (Fin.ofNat 307200 t)) 0 [] []) := by
  refine State.applyReply_of_made ?_ (by simp)
  rw [empty] at inside
  simp [State.apply, tgt, kind, attic, inside, Tile.flagFault_eq_false flag, List.length_eq_zero_iff.mp empty]

variable (bytes : p.payload.length ≠ 0)
include bytes

/-- A write that nothing stands against puts its bytes. -/
theorem State.applyReply_write_of_ok (admitted : (s.tile t).admitWrite p.src false u.addr p.payload.length = .ok) :
    s.applyReply t p = ((s.putTile t (((s.tile t).servicePut u.addr p.payload p.poison
      (some (s.flitOrigin t p))).usePort p.payload.length)).setArrival t p).sendReply t p
        (p.answer .ack (.tile (Fin.ofNat 307200 t)) 0 [] []) := by
  refine State.applyReply_of_made ?_ (by simp)
  simp [State.apply, tgt, kind, attic, inside, Tile.flagFault_eq_false flag, Packet.isMulti_of_uni tgt, admitted,
    List.ne_nil_of_length_pos (Nat.pos_of_ne_zero bytes)]

theorem State.applyReply_write_of_bounce
    (bounced : (s.tile t).admitWrite p.src false u.addr p.payload.length = .bounce) :
    s.applyReply t p = s.sendReply t p (p.answer .bounce (.tile (Fin.ofNat 307200 t)) 0 [] []) := by
  refine State.applyReply_of_bounced ?_ (by simp)
  simp [State.apply, tgt, kind, attic, inside, Tile.flagFault_eq_false flag, Packet.isMulti_of_uni tgt, bounced,
    List.ne_nil_of_length_pos (Nat.pos_of_ne_zero bytes)]

theorem State.applyReply_write_of_refuse {sub code fsub : Nat} {ab : Bool}
    (refused : (s.tile t).admitWrite p.src false u.addr p.payload.length = .refuse sub code fsub ab) :
    s.applyReply t p = (s.refuse t p false true u.addr p.payload.length code fsub ab).sendReply t p
      (p.answer .refused (.tile (Fin.ofNat 307200 t)) sub [] []) := by
  refine State.applyReply_of_refused ?_
  simp [State.apply, tgt, kind, attic, inside, Tile.flagFault_eq_false flag, Packet.isMulti_of_uni tgt, refused,
    List.ne_nil_of_length_pos (Nat.pos_of_ne_zero bytes)]

end

section
variable (kind : p.kind = .read)
include kind

section
variable (attic : u.cellar = false)
include attic

/-- A read outside the tile's windows is refused before all else. -/
theorem State.applyReply_read_of_outside
    (outside : (s.tile t).covers p.src false false u.addr (p.len * 16) = false) :
    s.applyReply t p = (s.refuse t p false false u.addr (max (p.len * 16) 1) 0x61 1 false).sendReply t p
      (p.answer .refused (.tile (Fin.ofNat 307200 t)) 1 [] []) :=
  State.applyReply_of_refused (by simp [State.apply, tgt, kind, PktKind.read_beq_write, attic, outside])

variable (unflagged : p.flg = false) (inside : (s.tile t).covers p.src false false u.addr (p.len * 16) = true)
include unflagged inside

/-- A read that nothing stands against empties the outbound lines it takes and sends their bytes. -/
theorem State.applyReply_read_of_ok (admitted : (s.tile t).admitRead p.src false u.addr (p.len * 16) = .ok) :
    s.applyReply t p = ((s.putTile t ((((s.tile t).serviceTake u.addr (p.len * 16)).usePort (p.len * 16)).noteRead
      (s.room (tileRoom t)).tread ⟨agService, false, false, u.addr, p.len * 16⟩)).setArrival t p).sendReply t p
        (p.answer .data (.tile (Fin.ofNat 307200 t)) 0 (memRead (s.tile t).attic u.addr (p.len * 16)) []) := by
  refine State.applyReply_of_made ?_ (by simp)
  simp [State.apply, tgt, kind, PktKind.read_beq_write, attic, unflagged, inside, admitted, Tile.mem]

theorem State.applyReply_read_of_bounce (bounced : (s.tile t).admitRead p.src false u.addr (p.len * 16) = .bounce) :
    s.applyReply t p = s.sendReply t p (p.answer .bounce (.tile (Fin.ofNat 307200 t)) 0 [] []) := by
  refine State.applyReply_of_bounced ?_ (by simp)
  simp [State.apply, tgt, kind, PktKind.read_beq_write, attic, unflagged, inside, bounced]

theorem State.applyReply_read_of_refuse {sub code fsub : Nat} {ab : Bool}
    (refused : (s.tile t).admitRead p.src false u.addr (p.len * 16) = .refuse sub code fsub ab) :
    s.applyReply t p = (s.refuse t p false false u.addr (p.len * 16) code fsub ab).sendReply t p
      (p.answer .refused (.tile (Fin.ofNat 307200 t)) sub [] []) := by
  refine State.applyReply_of_refused ?_
  simp [State.apply, tgt, kind, PktKind.read_beq_write, attic, unflagged, inside, refused]

end

/-- A cellar read that nothing stands against sends the bytes as they stand. -/
theorem State.applyReply_cellarRead_of_ok (unflagged : p.flg = false) (cellar : u.cellar = true)
    (inside : (s.tile t).covers p.src true false u.addr (p.len * 16) = true)
    (admitted : (s.tile t).admitRead p.src true u.addr (p.len * 16) = .ok) :
    s.applyReply t p = ((s.putTile t ((s.tile t).noteRead (s.room (tileRoom t)).tread
      ⟨agService, false, true, u.addr, p.len * 16⟩)).setArrival t p).sendReply t p
        (p.answer .data (.tile (Fin.ofNat 307200 t)) 0 (memRead (s.tile t).cellar u.addr (p.len * 16)) []) := by
  refine State.applyReply_of_made ?_ (by simp)
  simp [State.apply, tgt, kind, PktKind.read_beq_write, cellar, unflagged, inside, admitted, Tile.mem]

end

end

/-! ### Reads of the cellar (R288) -/

section
variable {s : State} {t : Nat} {p : Packet}

/-- A cellar read that nothing stands against begins to wait for free stair bytes. -/
theorem State.cellarReadAt_of_new {u : Unicast} (tgt : p.tgt = .uni u)
    (new : (s.tile t).cellJobs.find? (fun j => j.pkt == p) = none)
    (admitted : (s.tile t).admitRead p.src true u.addr (p.len * 16) = .ok) (bytes : p.len ≠ 0) :
    s.cellarReadAt t p = s.setTile t { s.tile t with cellJobs := (s.tile t).cellJobs ++ [⟨p, p.len * 16⟩] } := by
  simp only [State.cellarReadAt, new, tgt, admitted, bytes, if_false]

variable {j : CellJob} (waits : (s.tile t).cellJobs.find? (fun j => j.pkt == p) = some j)
include waits

theorem State.cellarReadAt_of_waiting (waiting : j.left ≠ 0 ∨ 16 ≤ s.replySlots t) : s.cellarReadAt t p = s := by
  have still : ¬(j.left = 0 ∧ s.replySlots t < 16) := by omega
  simp only [State.cellarReadAt, waits, still, if_false]

/-- Once all its bytes have found room in the stair, and the reply queue has an entry, the read is made. -/
theorem State.cellarReadAt_of_served (found : j.left = 0) (room : s.replySlots t < 16) :
    s.cellarReadAt t p =
      (s.setTile t { s.tile t with cellJobs := (s.tile t).cellJobs.erase j }).requestAt t p := by
  simp only [State.cellarReadAt, waits, found, room, and_self, if_true]

end

/-! ### Ordered streams (R349, R351) -/

section
variable {s : State} {t c : Nat} {p : Packet}

section
variable (flagged : p.flg = true)
include flagged

/-- The flagged packet of a stream takes effect once its count has come, and frees the stream's entry. -/
theorem State.streamArrive_of_due (due : c = p.cnt) (made : (s.apply t p).reply.kind ≠ .bounce) :
    s.streamArrive t p c = (s.applyReply t p).setTile t (((s.applyReply t p).tile t).setStream p none) := by
  simp [State.streamArrive, State.flaggedArrive, flagged, due, made]

variable (early : c ≠ p.cnt)
include early

theorem State.streamArrive_of_early (room : (s.tile t).deferred.length < 8) :
    s.streamArrive t p c = s.setTile t { s.tile t with deferred := (s.tile t).deferred ++ [p] } := by
  simp [State.streamArrive, flagged, early, Nat.not_le.mpr room]

theorem State.streamArrive_of_early_full (full : 8 ≤ (s.tile t).deferred.length) :
    s.streamArrive t p c = s.sendReply t p (p.answer .bounce (.tile (Fin.ofNat 307200 t)) 0 [] []) := by
  simp [State.streamArrive, flagged, early, full]

end

/-- A packet without a flag takes effect and is counted; with nothing deferred, no other follows it. -/
theorem State.streamArrive_of_unflagged (unflagged : p.flg = false) (made : (s.apply t p).reply.kind ≠ .bounce) :
    let y := (s.apply t p).s.sendReply t p (s.apply t p).reply
    let z := y.setTile t ((y.tile t).setStream p (some (c + 1)))
    (z.tile t).deferred = [] → s.streamArrive t p c = z := by
  intro y z nothing
  rw [State.tile_setTile_self] at nothing
  simp [State.streamArrive, unflagged, made, nothing, y, z]

theorem State.orderedArrive_of_entry {e : StreamEnt} (entry : (s.tile t).streams.find? (fun e => e.is p) = some e) :
    s.orderedArrive t p = s.streamArrive t p e.count := by
  simp only [State.orderedArrive, entry]

variable (noEntry : (s.tile t).streams.find? (fun e => e.is p) = none)
include noEntry

/-- A flagged packet that counts none before it needs no entry. -/
theorem State.orderedArrive_of_alone (flagged : p.flg = true) (alone : p.cnt = 0) :
    s.orderedArrive t p = s.applyReply t p := by
  simp only [State.orderedArrive, noEntry, flagged, alone, beq_self_eq_true, Bool.and_self, if_true]

theorem State.orderedArrive_of_full (follows : p.flg = false ∨ p.cnt ≠ 0) (full : 32 ≤ (s.tile t).streams.length) :
    s.orderedArrive t p = s.sendReply t p (p.answer .bounce (.tile (Fin.ofNat 307200 t)) 0 [] []) := by
  have notAlone : (p.flg && p.cnt == 0) = false := by
    obtain unflagged | counts := follows
    · simp [unflagged]
    · simp [counts]
  simp only [State.orderedArrive, noEntry, notAlone, full, Bool.false_eq_true, if_false, if_true]

end

/-! ### The obligation -/

/-- Settles O44: a router's step is that of the packet's next hop; a request whose turn has come acts as its access does, or as its
stream lets it. -/
theorem packetsAtTiles : Obligations.PacketsAtTiles := by
  unfold Obligations.PacketsAtTiles
  refine ⟨fun t inp ch p l g d u ds s on noneWaits => ?_, fun t p u s on tgt unordered turn => ?_,
    fun t p s on kind ordered fits turn => ?_⟩
  · rw [exec_servicePacketRoute_of_on on]
    refine ⟨fun empty => ?_, fun first bad => ?_, fun first good dest => ⟨fun takes wins => ?_, fun full => ?_⟩,
      fun first good dest away escapes outs nbr => ⟨fun up credit wins => ?_, fun up noCredit => ?_,
        fun down wins => ⟨fun request => ?_, fun reply => ?_⟩⟩⟩
    · rw [State.routePacket_of_empty noneWaits empty]
    · rw [State.routePacket_of_bad_header noneWaits first bad]
    · rw [State.routePacket_of_destTile noneWaits first good dest, State.routeUni_of_eject noneWaits first _ wins]
      rw [State.uniHop_of_here dest rfl, if_pos takes]
    · rw [State.routePacket_of_destTile noneWaits first good dest, State.routeUni_of_wait]
      rw [State.uniHop_of_here dest rfl, full, if_neg Bool.false_ne_true]
    all_goals have hop := State.uniHop_of_escape dest away escapes outs nbr
    · rw [if_pos up, if_pos credit] at hop
      rw [State.routePacket_of_destTile noneWaits first good dest, State.routeUni_of_escape noneWaits first hop (by split <;> rfl) nbr wins]
    · rw [if_pos up, if_neg (Nat.not_le.mpr noCredit)] at hop
      rw [State.routePacket_of_destTile noneWaits first good dest, State.routeUni_of_wait hop]
    · rw [if_neg down] at hop
      rw [State.routePacket_of_destTile noneWaits first good dest, State.routeUni_of_bridge noneWaits first hop nbr wins,
        State.bridgeAnswer, request, if_neg Bool.false_ne_true]
    · rw [if_neg down] at hop
      rw [State.routePacket_of_destTile noneWaits first good dest, State.routeUni_of_bridge noneWaits first hop nbr wins,
        State.bridgeAnswer, reply, if_pos rfl]
  · have tile := Src.tile_ofNat t
    have wants : Packet.wantsCellar p = u.cellar := by simp only [Packet.wantsCellar, tgt]
    refine ⟨fun kind attic fits => ?_, fun kind unflagged attic fits => ?_, fun kind unflagged cellar fits => ?_⟩
    · have write := exec_writeRequest_of_turn on turn kind fits
      rw [State.requestAt_of_unordered unordered] at write
      refine ⟨fun outside => write.trans ?_, fun inside flagged noArrival => write.trans ?_, fun inside flag =>
        ⟨fun empty => write.trans ?_, fun bytes ok => write.trans ?_, fun bytes bounced => write.trans ?_,
          fun sub code fsub ab bytes refused => write.trans ?_⟩⟩
      · rw [State.applyReply_write_of_outside tgt kind attic outside, tile]
      · rw [State.applyReply_write_of_not_arrival tgt kind attic inside flagged noArrival, tile]
      · rw [State.applyReply_write_of_empty tgt kind attic inside flag empty, tile]
      · rw [State.applyReply_write_of_ok tgt kind attic inside flag bytes ok, tile]
      · rw [State.applyReply_write_of_bounce tgt kind attic inside flag bytes bounced, tile]
      · rw [State.applyReply_write_of_refuse tgt kind attic inside flag bytes refused, tile]
    · have read := exec_readRequest_of_turn on turn kind (wants.trans attic) fits
      rw [State.requestAt_of_unordered unordered] at read
      refine ⟨fun outside => read.trans ?_, fun inside => ⟨fun ok => read.trans ?_, fun bounced => read.trans ?_,
        fun sub code fsub ab refused => read.trans ?_⟩⟩
      · rw [State.applyReply_read_of_outside tgt kind attic outside, tile]
      · rw [State.applyReply_read_of_ok tgt kind attic unflagged inside ok, tile]
      · rw [State.applyReply_read_of_bounce tgt kind attic unflagged inside bounced, tile]
      · rw [State.applyReply_read_of_refuse tgt kind attic unflagged inside refused, tile]
    · rw [exec_remoteCellarRead_of_turn on turn kind (wants.trans cellar) fits]
      refine ⟨fun new ok bytes => ?_, fun j waits => ⟨fun waiting => ?_, fun found room inside ok => ?_⟩⟩
      · rw [State.cellarReadAt_of_new tgt new ok bytes]
      · rw [State.cellarReadAt_of_waiting waits waiting]
      · rw [State.cellarReadAt_of_served waits found room, State.requestAt_of_unordered unordered,
          State.applyReply_cellarRead_of_ok tgt kind unflagged cellar inside ok, tile]
  · rw [exec_writeRequest_of_turn on turn kind fits, State.requestAt_of_ordered ordered]
    refine ⟨fun e entry => ?_, fun noEntry => ⟨fun flagged alone => ?_, fun follows full => ?_⟩⟩
    · rw [State.orderedArrive_of_entry entry]
      refine ⟨fun flagged early => ⟨fun room => ?_, fun full => ?_⟩, fun flagged due made => ?_,
        fun unflagged made nothing => ?_⟩
      · rw [State.streamArrive_of_early flagged early room]
      · rw [State.streamArrive_of_early_full flagged early full]
      · rw [State.streamArrive_of_due flagged due made]
      · rw [State.streamArrive_of_unflagged unflagged made nothing]
    · rw [State.orderedArrive_of_alone noEntry flagged alone]
    · rw [State.orderedArrive_of_full noEntry follows full]

end Sys2Proof.Machine
end

section
/-!
What ZERO REQUEST, CELLAR ZEROING COMPLETE and DELIVER come to in each case (R272, R290, R341, R464), and the obligation of zeroing
and of slot tables (O45).
-/

namespace Sys2Proof.Machine

section
variable {s : State} {t : TileId} {p : Packet} (on : s.tileOn t.val = true) (turn : (s.tile t.val).turnOf p = true)
include on turn

theorem exec_zeroRequest_of_turn (kind : p.kind = .zero) (fits : (s.tile t.val).portFits 0 = true) :
    exec (.zeroRequest t p) s = .next ((s.takeEject t.val p).zeroAt t.val p) := by
  change Host.Outcome.next (s.atTile t p _ (p.kind == .zero) _) = _
  rw [kind, beq_self_eq_true, State.atTile_of_turn _ on fits turn]

theorem exec_deliver_of_turn (kind : p.kind = .deliver) (fits : (s.tile t.val).portFits p.payload.length = true) :
    exec (.deliver t p) s = .next ((s.takeEject t.val p).deliverAt t.val p) := by
  change Host.Outcome.next (s.atTile t p _ (p.kind == .deliver) _) = _
  rw [kind, beq_self_eq_true, State.atTile_of_turn _ on fits turn]

end

theorem exec_cellarZeroingComplete_of_on {s : State} {t : TileId} (on : s.tileOn t.val = true) :
    exec (.cellarZeroingComplete t) s = .next (s.zeroDoneAt t.val) := if_pos on

/-! ### ZERO and its completion (R272, R290, R341) -/

/-- R272, R290: n lines of the cellar that lie in kept blocks. -/
def Tile.keeps (v : Tile) (line n : Nat) : Prop :=
  (∀ k ∈ linesOf (32 * line) (32 * n), v.kind (k / 128) = 2) ∧ line + n ≤ 8192 ∧ n ≠ 0

/-- What the tile checks of a ZERO is that its lines are not all kept. -/
theorem Tile.not_keeps_iff (v : Tile) (line n : Nat) :
    ((linesOf (line * 32) (32 * n)).any (fun l => v.kind (l / 128) != 2) || decide (8192 < line * 32 / 32 + n) || n == 0) = true ↔
      ¬v.keeps line n := by
  rw [Tile.keeps, Nat.mul_div_cancel line (by decide), Nat.mul_comm line]
  simp only [Classical.not_and_iff_not_or_not, Bool.or_eq_true, List.any_eq_true, bne_iff_ne, decide_eq_true_eq, beq_iff_eq,
    Classical.not_forall, exists_prop, Nat.not_le, Classical.not_not, or_assoc, ne_eq]

section
variable {s : State} {t : Nat} {p : Packet} {u : Unicast} (tgt : p.tgt = .uni u)
include tgt

theorem State.zeroAt_of_keeps (kept : (s.tile t).keeps u.line.toNat (leNat (p.payload.take 2) % 16384)) :
    s.zeroAt t p = s.setTile t { s.tile t with
      zero := (s.tile t).zero ++ [⟨u.line.toNat * 32, 32 * (leNat (p.payload.take 2) % 16384), p⟩] } := by
  have taken := mt (Tile.not_keeps_iff _ _ _).mp (not_not_intro kept)
  simp only [State.zeroAt, tgt, if_neg taken]

theorem State.zeroAt_of_not_keeps (notKept : ¬(s.tile t).keeps u.line.toNat (leNat (p.payload.take 2) % 16384)) :
    s.zeroAt t p = (s.refuse t p true true (u.line.toNat * 32) (32 * (leNat (p.payload.take 2) % 16384)) 0x61 3 false).sendReply
      t p (p.answer .refused (.tile (Fin.ofNat 307200 t)) 1 [] []) := by
  have refused := (Tile.not_keeps_iff _ _ _).mpr notKept
  simp only [State.zeroAt, tgt, if_pos refused]

end

section
variable {s : State} {t : Nat}

theorem State.zeroDoneAt_of_none (noZero : (s.tile t).zero = []) : s.zeroDoneAt t = s := by
  simp only [State.zeroDoneAt, noZero]

variable {z : ZeroJob} {l : List ZeroJob} (oldest : (s.tile t).zero = z :: l)
include oldest

theorem State.zeroDoneAt_of_written (written : z.left = 0) (room : s.replySlots t < 16) :
    s.zeroDoneAt t = (s.setTile t { s.tile t with zero := l }).sendReply t z.pkt
      (z.pkt.answer .zeroDone (.tile (Fin.ofNat 307200 t)) 0 [] []) := by
  simp only [State.zeroDoneAt, oldest, written, room, and_self, if_true]

theorem State.zeroDoneAt_of_waiting (waiting : z.left ≠ 0 ∨ ¬s.replySlots t < 16) : s.zeroDoneAt t = s := by
  have still : ¬(z.left = 0 ∧ s.replySlots t < 16) := fun ⟨written, room⟩ => waiting.elim (· written) (· room)
  simp only [State.zeroDoneAt, oldest, if_neg still]

end

/-! ### A slot table at a tile (R464) -/

section
variable {v : Tile} {p : Packet} {line : Nat} (o : Origin)

/-- The five lines of the slot table that begins at a line. -/
def tableLines (line : Nat) : List Nat := (List.range 5).map (· + line)

/-- R464: a tile that holds the slot table of a packet already: its five lines are full, and begin with the packet's first bytes. -/
def Tile.holdsTable (v : Tile) (p : Packet) (line : Nat) : Prop :=
  (∀ l ∈ tableLines line, v.tag l = true) ∧ memRead v.attic (line * 32) 5 = p.payload.take 5

/-- R286, R464: a tile whose inbound lines and whose windows take the slot table of a packet. -/
def Tile.takesTable (v : Tile) (p : Packet) (line : Nat) : Prop :=
  (∀ l ∈ tableLines line, ∃ h, v.shelfOf l = some h ∧ h.inbound = true) ∧ v.admits p.src false true line (line + 4) = true

theorem Tile.holdsTable_iff :
    (((List.range 5).map (· + line)).all (fun l => v.tag l) && (memRead v.attic (line * 32) 5 == p.payload.take 5)) = true ↔
      v.holdsTable p line := by
  simp only [Tile.holdsTable, tableLines, Bool.and_eq_true, List.all_eq_true, beq_iff_eq]

theorem Tile.not_takesTable_iff :
    (((List.range 5).map (· + line)).any (fun l => (v.shelfOf l).isNone || (v.shelfOf l).any (fun h => !h.inbound)) ||
      !(v.admits p.src false true line (line + 4))) = true ↔ ¬v.takesTable p line := by
  have lineOk (l : Nat) : ((v.shelfOf l).isNone || (v.shelfOf l).any (fun h => !h.inbound)) = true ↔
      ¬∃ h, v.shelfOf l = some h ∧ h.inbound = true := by
    cases v.shelfOf l <;> simp
  rw [Tile.takesTable, tableLines, Classical.not_and_iff_not_or_not, Bool.or_eq_true, List.any_eq_true]
  simp only [lineOk, Classical.not_forall, exists_prop, Bool.not_eq_true, Bool.not_eq_true']

theorem Tile.deliver_of_other_pipe (other : v.pipe ≠ p.payload.getD 4 0 ∨ v.pipe = 0xFF) :
    v.deliver p line o = (v, true, none) := by
  refine if_pos ?_
  by_cases same : v.pipe = p.payload.getD 4 0
  · exact .inr (same ▸ other.resolve_left (not_not_intro same))
  · exact .inl same

variable (mine : v.pipe = p.payload.getD 4 0) (used : v.pipe ≠ 0xFF)
include mine used

/-- A table for the tile's own pipeline is looked at. -/
theorem Tile.not_other_pipe : ¬(v.pipe ≠ p.payload.getD 4 0 ∨ p.payload.getD 4 0 = 0xFF) :=
  not_or.mpr ⟨not_not_intro mine, mine ▸ used⟩

theorem Tile.deliver_of_holdsTable (held : v.holdsTable p line) : v.deliver p line o = (v, true, none) :=
  (if_neg (Tile.not_other_pipe mine used)).trans (if_pos (Tile.holdsTable_iff.mpr held))

section
variable (new : ¬v.holdsTable p line)
include new

theorem Tile.deliver_of_not_takesTable (unfit : ¬v.takesTable p line) : v.deliver p line o = (v, false, some 0x61) :=
  (if_neg (Tile.not_other_pipe mine used)).trans
    ((if_neg (mt Tile.holdsTable_iff.mp new)).trans (if_pos (Tile.not_takesTable_iff.mpr unfit)))

theorem Tile.deliver_of_full (takes : v.takesTable p line) (full : ∃ l ∈ tableLines line, v.tag l = true) :
    v.deliver p line o = (v, false, none) :=
  (if_neg (Tile.not_other_pipe mine used)).trans
    ((if_neg (mt Tile.holdsTable_iff.mp new)).trans
      ((if_neg (mt Tile.not_takesTable_iff.mp (not_not_intro takes))).trans (if_pos (List.any_eq_true.mpr full))))

end

/-- The generations that a slot table sets (R220). -/
def tableSets (p : Packet) : List (Nat × Option Byte) :=
  (List.range 8).filterMap (fun i =>
    let e := (p.payload.drop (32 + 16 * i)).take 16
    if leNat ((e.drop 12).take 2) = 0xFFFF then none else some (i, some (e.getD 14 0)))

/-- A slot table fills the tile's empty lines and sets its slots' generations. -/
theorem Tile.deliver_of_empty (takes : v.takesTable p line) (empty : ∀ l ∈ tableLines line, v.tag l = false) :
    let w := (v.servicePut (line * 32) (padTo 160 p.payload) p.poison (some o)).usePort 160
    v.deliver p line o = ({ w with slotEvs := w.slotEvs ++ tableSets p }, true, none) := by
  have first : line ∈ tableLines line := List.mem_map.mpr ⟨0, by decide, Nat.zero_add line⟩
  have new : ¬v.holdsTable p line := fun held => Bool.false_ne_true ((empty _ first).symm.trans (held.1 _ first))
  have noneFull : ¬(tableLines line).any (fun l => v.tag l) = true := fun any => by
    obtain ⟨l, mem, full⟩ := List.any_eq_true.mp any
    exact Bool.false_ne_true ((empty l mem).symm.trans full)
  exact (if_neg (Tile.not_other_pipe mine used)).trans
    ((if_neg (mt Tile.holdsTable_iff.mp new)).trans
      ((if_neg (mt Tile.not_takesTable_iff.mp (not_not_intro takes))).trans (if_neg noneFull)))

end

section
variable {s : State} {t : Nat} {p : Packet} {u : Unicast} {w : Tile} (tgt : p.tgt = .uni u)
include tgt

theorem State.deliverAt_of_accepted
    (result : (s.tile t).deliver p u.line.toNat (s.flitOrigin t p) = (w, true, none)) :
    s.deliverAt t p = (s.putTile t w).sendReply t p (p.answer .ack (.tile (Fin.ofNat 307200 t)) 0 [] []) := by
  simp only [State.deliverAt, tgt, result, if_true]

theorem State.deliverAt_of_full
    (result : (s.tile t).deliver p u.line.toNat (s.flitOrigin t p) = (w, false, none)) :
    s.deliverAt t p = (s.putTile t w).sendReply t p (p.answer .refused (.tile (Fin.ofNat 307200 t)) 1 [] []) := by
  simp only [State.deliverAt, tgt, result, Bool.false_eq_true, if_false]

theorem State.deliverAt_of_refused {code : Nat}
    (result : (s.tile t).deliver p u.line.toNat (s.flitOrigin t p) = (w, false, some code)) :
    s.deliverAt t p = ((s.putTile t w).refuse t p false true (u.line.toNat * 32) 160 code 1 false).sendReply t p
      (p.answer .refused (.tile (Fin.ofNat 307200 t)) 1 [] []) := by
  simp only [State.deliverAt, tgt, result, Bool.false_eq_true, if_false]

end

/-! ### The obligation -/

/-- Settles O45: each case of a ZERO, of its completion and of a slot table at its tile is one of the lemmas above. -/
theorem zeroAndDeliver : Obligations.ZeroAndDeliver := by
  unfold Obligations.ZeroAndDeliver
  intro t p u z l s on
  have tile := Src.tile_ofNat t
  refine ⟨fun kind tgt fits turn => ?_, fun oldest => ?_, fun noZero => ?_, fun kind tgt fits turn => ?_⟩
  · rw [exec_zeroRequest_of_turn on turn kind fits]
    refine ⟨fun kept => ?_, fun notKept => ?_⟩
    · rw [State.zeroAt_of_keeps tgt kept]
    · rw [State.zeroAt_of_not_keeps tgt notKept, tile]
  · rw [exec_cellarZeroingComplete_of_on on]
    refine ⟨fun written room => ?_, fun waiting => ?_⟩
    · rw [State.zeroDoneAt_of_written oldest written (of_decide_eq_true room), tile]
    · rw [State.zeroDoneAt_of_waiting oldest (waiting.imp_right of_decide_eq_false)]
  · rw [exec_cellarZeroingComplete_of_on on, State.zeroDoneAt_of_none noZero]
  · have deliver := exec_deliver_of_turn on turn kind fits
    rw [← tile]
    refine ⟨fun other => deliver.trans ?_, fun mine used => ⟨fun held => deliver.trans ?_, fun new unfit => deliver.trans ?_,
      fun new takes full => deliver.trans ?_, fun takes empty => deliver.trans ?_⟩⟩
    · rw [State.deliverAt_of_accepted tgt (Tile.deliver_of_other_pipe _ other)]
    · rw [State.deliverAt_of_accepted tgt (Tile.deliver_of_holdsTable _ mine used held)]
    · rw [State.deliverAt_of_refused tgt (Tile.deliver_of_not_takesTable _ mine used new unfit)]
    · rw [State.deliverAt_of_full tgt (Tile.deliver_of_full _ mine used new takes full)]
    · rw [State.deliverAt_of_accepted tgt (Tile.deliver_of_empty _ mine used takes empty)]
      rfl

end Sys2Proof.Machine
end

section
/-!
What the replies of the service network come to at the tile or the edge die whose request they answer (R265, R267, R283, R284, R286,
R343, R345, R347, R357, R358, R460, R577), and the obligation of replies (O46).
-/

namespace Sys2Proof.Machine

/-! ### A reply at its source -/

section
variable {s : State} {p : Packet} {k : PktKind} (tile : State → Nat → State) (die : State → EdgeReq → State)

/-- A tile takes part in the networks of a ready module only. -/
theorem State.ready_of_tileOn {t : Nat} (on : s.tileOn t = true) : s.ready = true := by
  unfold State.tileOn at on
  exact (Bool.and_eq_true_iff.mp (Bool.and_eq_true_iff.mp on).1).1

theorem State.atSource_of_tile {t : TileId} (on : s.tileOn t.val = true) (tgt : p.tgt = .reply (.tile t))
    (kind : p.kind = k) : s.atSource p k tile die = tile (s.takeEject t.val p) t.val := by
  simp only [State.atSource, kind, bne_self_eq_false, State.ready_of_tileOn on, Bool.not_true, Bool.or_self, Bool.false_eq_true,
    if_false, tgt, on, if_true]

section
variable {d : DieId} {tag : BitVec 16} (ready : s.ready = true) (tgt : p.tgt = .reply (.die d tag)) (kind : p.kind = k)
include ready tgt kind

theorem State.atSource_of_die {x : EdgeReq} (request : (s.takeInbox d p).edgeReq d tag = some x) :
    s.atSource p k tile die = die (s.takeInbox d p) x := by
  simp only [State.atSource, kind, bne_self_eq_false, ready, Bool.not_true, Bool.or_self, Bool.false_eq_true, if_false, tgt,
    request]

/-- A reply to no request is dropped. -/
theorem State.atSource_of_no_request (noRequest : (s.takeInbox d p).edgeReq d tag = none) :
    s.atSource p k tile die = s.takeInbox d p := by
  simp only [State.atSource, kind, bne_self_eq_false, ready, Bool.not_true, Bool.or_self, Bool.false_eq_true, if_false, tgt,
    noRequest]

end

end

/-! ### Replies at a tile (R267, R283, R284, R286, R343, R345, R347) -/

section
variable {s : State} {t : TileId} {p : Packet} (on : s.tileOn t.val = true) (tgt : p.tgt = .reply (.tile t))
include on tgt

theorem exec_ack_of_tile (kind : p.kind = .ack) : exec (.ack p) s = .next ((s.takeEject t.val p).tileAck t.val p) :=
  congrArg Host.Outcome.next (State.atSource_of_tile _ _ on tgt kind)

theorem exec_dataReply_of_tile (kind : p.kind = .data) (fits : (s.tile t.val).portFits p.payload.length = true) :
    exec (.dataReply p) s = .next ((s.takeEject t.val p).tileData t.val p) := by
  have replyFits : s.replyFits p = true := by simp only [State.replyFits, tgt, fits]
  exact (if_pos replyFits).trans (congrArg Host.Outcome.next (State.atSource_of_tile _ _ on tgt kind))

theorem exec_bounce_of_tile (kind : p.kind = .bounce) :
    exec (.bounce p) s = .next ((s.takeEject t.val p).tileBounce t.val p) :=
  congrArg Host.Outcome.next (State.atSource_of_tile _ _ on tgt kind)

theorem exec_refused_of_tile (kind : p.kind = .refused) :
    exec (.refused p) s = .next ((s.takeEject t.val p).tileRefused t.val p) :=
  congrArg Host.Outcome.next (State.atSource_of_tile _ _ on tgt kind)

theorem exec_fencedReply_of_tile (kind : p.kind = .fenced) :
    exec (.fencedReply p) s = .next ((s.takeEject t.val p).tileFenced t.val p) :=
  congrArg Host.Outcome.next (State.atSource_of_tile _ _ on tgt kind)

end

section
variable {s : State} {t : Nat} {p : Packet} {x : Req} (awaited : (s.tile t).req p.tag.toNat = some x)
include awaited

theorem State.awaited_of_req : s.awaited t p = some x := awaited

theorem State.tileAck_of_unflagged (unflagged : x.pkt.flg = false) : s.tileAck t p = s.freeReq t p x := by
  simp only [State.tileAck, State.awaited_of_req awaited, unflagged, Bool.false_and, Bool.false_eq_true, if_false]

/-- The ACK of a flagged packet lets those held back on its stream go. -/
theorem State.tileAck_of_flagged (flagged : x.pkt.flg = true) (ordered : x.pkt.str ≠ 0) :
    s.tileAck t p = (s.freeReq t p x).releaseStream t x.pkt.str.toNat := by
  simp only [State.tileAck, State.awaited_of_req awaited, flagged, bne_iff_ne.mpr ordered, Bool.and_self, if_true]

/-- The data of a pull goes to its own lines, where they are inbound and empty. -/
theorem State.tileData_of_empty_inbound
    (lines : ∀ l ∈ linesOf (x.dst * 32) p.payload.length,
      (∃ h, ((s.freeReq t p x).tile t).shelfOf l = some h ∧ h.inbound = true) ∧ ((s.freeReq t p x).tile t).tag l = false) :
    s.tileData t p = (s.freeReq t p x).putTile t ((((s.freeReq t p x).tile t).servicePut (x.dst * 32) p.payload p.poison
      (some ((s.freeReq t p x).flitOrigin t p))).usePort p.payload.length) := by
  have empty : (linesOf (x.dst * 32) p.payload.length).find? ((s.freeReq t p x).tile t).tag = none :=
    List.find?_eq_none.mpr fun l mem => by rw [(lines l mem).2]; exact Bool.false_ne_true
  unfold State.tileData
  rw [State.awaited_of_req awaited]
  dsimp only
  split
  · next l found =>
    obtain ⟨⟨h, shelf, into⟩, -⟩ := lines l (List.mem_of_find?_eq_some found)
    have outbound := List.find?_some found
    simp [shelf, into] at outbound
  · rw [empty]

theorem State.tileBounce_of_awaited :
    s.tileBounce t p = s.setTile t ((s.tile t).setReq p.tag.toNat (some { x with waiting := true, left := 64 })) := by
  simp only [State.tileBounce, State.awaited_of_req awaited]

theorem State.tileRefused_of_awaited {w : Unicast} (uni : x.pkt.tgt = .uni w) :
    s.tileRefused t p = (s.freeReq t p x).tileAbort t 0x62 (if p.sub = 4 then 5 else p.sub.toNat) none
      (leBytes 4 x.pkt.targetPath ++ (leBytes 2 w.line.toNat ++ leBytes 2 (w.line.toNat +
        (if x.pull then x.pkt.len / 2 else x.pkt.payload.length / 32) - 1))) := by
  simp only [State.tileRefused, State.awaited_of_req awaited, uni, beq_iff_eq]

theorem State.tileFenced_of_awaited :
    s.tileFenced t p = (s.freeReq t p x).tileAbort t 0x6C 3 none
      (reqDetail x.pkt.targetPath x.pkt.str.toNat p.sub.toNat x.bounces) := by
  simp only [State.tileFenced, State.awaited_of_req awaited]

end

/-! ### Replies at an edge die (R343, R345, R357, R358, R460, R577) -/

theorem State.dieFinal_of_no_link {x : EdgeReq} (noLink : ∀ k, x.purpose ≠ Purpose.link k) (s : State) :
    s.dieFinal x = s.dropEdgeReq x := by
  unfold State.dieFinal
  split
  · next k link => exact absurd link (noLink k)
  · rfl

section
variable {s : State} {d : DieId} {tag : BitVec 16} {p : Packet} (ready : s.ready = true) (tgt : p.tgt = .reply (.die d tag))
include ready tgt

theorem exec_zeroDone_of_no_request (noRequest : (s.takeInbox d p).edgeReq d tag = none) (kind : p.kind = .zeroDone) :
    exec (.zeroDone p) s = .next (s.takeInbox d p) :=
  congrArg Host.Outcome.next (State.atSource_of_no_request _ _ ready tgt kind noRequest)

theorem exec_branchDropped_of_no_request (noRequest : (s.takeInbox d p).edgeReq d tag = none) (kind : p.kind = .branchDropped) :
    exec (.branchDropped p) s = .next (s.takeInbox d p) :=
  congrArg Host.Outcome.next (State.atSource_of_no_request _ _ ready tgt kind noRequest)

variable {x : EdgeReq} (request : (s.takeInbox d p).edgeReq d tag = some x)
include request

/-- An ACK of a multicast counts the floor that it names, with its refusals. -/
theorem exec_ack_of_multicast (kind : p.kind = .ack) (floors : x.floors ≠ []) :
    exec (.ack p) s = .next ((s.takeInbox d p).edgeFloor x p.sub.toNat (leNat ((p.payload.drop 4).take 4)) false) := by
  refine congrArg Host.Outcome.next ((State.atSource_of_die _ _ ready tgt kind request).trans (if_neg ?_))
  rwa [List.isEmpty_iff]

theorem exec_branchDropped_of_request (kind : p.kind = .branchDropped) :
    exec (.branchDropped p) s = .next ((s.takeInbox d p).edgeFloor x p.sub.toNat 0 true) :=
  congrArg Host.Outcome.next (State.atSource_of_die _ _ ready tgt kind request)

section
variable (noLink : ∀ k, x.purpose ≠ Purpose.link k)
include noLink

theorem exec_dataReply_of_die (kind : p.kind = .data) :
    exec (.dataReply p) s = .next ((s.takeInbox d p).dropEdgeReq x) := by
  have replyFits : s.replyFits p = true := by simp only [State.replyFits, tgt]
  exact (if_pos replyFits).trans (congrArg Host.Outcome.next
    ((State.atSource_of_die _ _ ready tgt kind request).trans (State.dieFinal_of_no_link noLink _)))

theorem exec_refused_of_die (kind : p.kind = .refused) :
    exec (.refused p) s = .next ((s.takeInbox d p).dropEdgeReq x) :=
  congrArg Host.Outcome.next
    ((State.atSource_of_die _ _ ready tgt kind request).trans (State.dieFinal_of_no_link noLink _))

theorem exec_bounce_of_die (kind : p.kind = .bounce) :
    exec (.bounce p) s = .next ((s.takeInbox d p).dieInject x.die.val x.pkt) := by
  refine congrArg Host.Outcome.next ((State.atSource_of_die _ _ ready tgt kind request).trans ?_)
  split
  · next k link => exact absurd link (noLink k)
  · rfl

end

/-- A request whose floor is fenced is held until the floor rejoins (R577). -/
theorem exec_fencedReply_of_die {q : Nat} (kind : p.kind = .fenced) (dest : x.pkt.destTile = some q) :
    exec (.fencedReply p) s = .next (if (s.takeInbox d p).floorUp (tileFloor q) then (s.takeInbox d p).dieInject x.die.val x.pkt
      else (s.takeInbox d p).setEdgeReq { x with held := true }) := by
  refine congrArg Host.Outcome.next ((State.atSource_of_die _ _ ready tgt kind request).trans ?_)
  simp only [dest]

/-- The last ZERO DONE of a closing session frees it (R460). -/
theorem exec_zeroDone_of_session {i : Nat} (kind : p.kind = .zeroDone) (zero : x.purpose = .zero i) :
    let b := (s.takeInbox d p).dropEdgeReq x
    let c := b.setSess i { b.sess i with zeroLeft := (b.sess i).zeroLeft - 1 }
    exec (.zeroDone p) s = .next (if (b.sess i).state = .closing ∧ (b.sess i).zeroLeft = 1 then c.freeSession i else c) := by
  refine congrArg Host.Outcome.next ((State.atSource_of_die _ _ ready tgt kind request).trans ?_)
  simp only [zero]

end

/-! ### The obligation -/

/-- Settles O46: at the source of its request each reply is one of the cases above. -/
theorem replies : Obligations.Replies := by
  unfold Obligations.Replies
  refine ⟨fun t p x s on tgt awaited => ?_, fun d tag p x i q s ready tgt => ?_⟩
  · refine ⟨fun kind unflagged => ?_, fun kind flagged ordered => ?_, fun kind fits lines => ?_, fun kind => ?_,
      fun w kind uni => ?_, fun kind => ?_⟩
    · rw [exec_ack_of_tile on tgt kind, State.tileAck_of_unflagged awaited unflagged]
    · rw [exec_ack_of_tile on tgt kind, State.tileAck_of_flagged awaited flagged ordered]
    · rw [exec_dataReply_of_tile on tgt kind fits, State.tileData_of_empty_inbound awaited lines]
    · rw [exec_bounce_of_tile on tgt kind, State.tileBounce_of_awaited awaited]
    · rw [exec_refused_of_tile on tgt kind, State.tileRefused_of_awaited awaited uni]
    · rw [exec_fencedReply_of_tile on tgt kind, State.tileFenced_of_awaited awaited]
  · refine ⟨fun request => ⟨exec_ack_of_multicast ready tgt request, exec_branchDropped_of_request ready tgt request,
      fun noLink => ⟨exec_dataReply_of_die ready tgt request noLink, exec_refused_of_die ready tgt request noLink,
        exec_bounce_of_die ready tgt request noLink⟩, fun kind dest => ⟨fun down => ?_, fun up => ?_⟩,
      exec_zeroDone_of_session ready tgt request⟩,
      exec_zeroDone_of_no_request ready tgt, exec_branchDropped_of_no_request ready tgt⟩
    · rw [exec_fencedReply_of_die ready tgt request kind dest, down, if_neg Bool.false_ne_true]
    · rw [exec_fencedReply_of_die ready tgt request kind dest, up, if_pos rfl]

end Sys2Proof.Machine
end

section
/-!
What a reply comes to at its floor's combiner (R356) and what a sync round comes to once its members have arrived (R363, R366,
R619), and the obligation of both (O47).
-/

namespace Sys2Proof.Machine

/-! ### Replies at a floor's combiner (R356) -/

/-- A floor once its combiner has taken a reply off those that wait there. -/
def Floor.takeWaiting (v : Floor) (p : Packet) : Floor :=
  { v with waiting := if v.waiting.contains p then v.waiting.erase p else v.waiting }

/-- A combiner's entry once a reply of kind `k` has been counted. -/
def CombEnt.counted (e : CombEnt) (k : PktKind) : CombEnt :=
  { e with replies := e.replies + 1, refusals := e.refusals + if k = .ack then 0 else 1 }

/-- The state once the entry of a multicast is freed at its floor's combiner. -/
def State.freeCombiner (s : State) (f : Nat) (p : Packet) (src : Src) : State :=
  s.setFloor f { (s.floor f).takeWaiting p with
    comb := (s.floor f).comb.filter (fun x => x.src != src), closed := src :: s.stillOut (s.floor f).closed }

/-- The ACK with which a combiner answers the edge die, made from the last reply to it. -/
def floorAck (p : Packet) (f : Nat) (src : Src) (targets refusals : Nat) : Packet :=
  { p with kind := .ack, sub := BitVec.ofNat 4 f, len := 1, src := .floor (Fin.ofNat 16 f), tgt := .reply src
           payload := leBytes 4 targets ++ leBytes 4 refusals ++ leBytes 8 0 }

theorem exec_floorCombinerReply_of_up {s : State} {f : FloorId} (p : Packet) (ready : s.ready = true)
    (up : (s.floor f.val).mode = .up) : exec (.floorCombinerReply f p) s = .next (s.combine f.val p) := by
  refine if_pos ?_
  rw [ready, Bool.true_and, State.floorUp, up, beq_self_eq_true]

section
variable {s : State} {f : Nat} {p : Packet} {g : FloorId} {src : Src} {e : CombEnt} (tgt : p.tgt = .combiner g src)
  (entry : (s.floor f).comb.find? (fun x => x.src == src) = some e)
include tgt entry

theorem State.combine_of_more (more : e.replies + 1 < e.targets) :
    s.combine f p = s.setFloor f { (s.floor f).takeWaiting p with
      comb := (s.floor f).comb.map (fun x => if x.src == src then e.counted p.kind else x) } := by
  simp only [State.combine, tgt, entry, more, if_true, CombEnt.counted, Floor.takeWaiting, bne_iff_ne, ne_eq, ite_not]

theorem State.combine_of_last {t : Nat} (last : e.targets ≤ e.replies + 1)
    (port : (s.freeCombiner f p src).floorPort f = some t) :
    s.combine f p = (s.freeCombiner f p src).inject t (floorAck p f src e.targets (e.counted p.kind).refusals) := by
  unfold State.freeCombiner Floor.takeWaiting at port
  simp only [State.combine, tgt, entry, Nat.not_lt.mpr last, if_false, port, State.freeCombiner, Floor.takeWaiting, CombEnt.counted,
    floorAck, bne_iff_ne, ne_eq, ite_not]

end

/-! ### The arrivals of a round without a reduction -/

section
variable {l : List Arrival} (plain : ∀ a ∈ l, a.red = none)
include plain

theorem reduced_of_no_reduction : reduced l = none := by
  rw [reduced, List.filterMap_eq_nil_iff.mpr plain, List.foldl_nil]

/-- Arrivals without a value have one operation between them, so that none is mixed with another. -/
theorem mixes_of_no_reduction : mixes l = false := by
  refine decide_eq_false (Nat.not_lt.mpr ?_)
  rw [List.map_congr_left fun a mem => congrArg (Option.map fun r => r.2.2) (plain a mem)]
  cases l with
  | nil => exact Nat.zero_le 1
  | cons a l =>
    rw [List.map_cons, List.eraseDups_cons, List.filter_eq_nil_iff.mpr fun o mem => ?_]
    · exact Nat.le_refl 1
    · obtain ⟨-, -, rfl⟩ := List.mem_map.mp mem
      exact Bool.false_ne_true

theorem all_isNone_of_no_reduction : l.all (fun a => a.red.isNone) = true :=
  List.all_eq_true.mpr fun a mem => Option.isNone_iff_eq_none.mpr (plain a mem)

theorem any_isSome_of_no_reduction : l.any (fun a => a.red.isSome) = false :=
  List.any_eq_false.mpr fun a mem => by rw [plain a mem]; exact Bool.false_ne_true

end

section
variable {l : List Arrival} (valued : ∃ a ∈ l, a.red ≠ none)
include valued

theorem any_isSome_of_reduction : l.any (fun a => a.red.isSome) = true := by
  obtain ⟨a, mem, value⟩ := valued
  exact List.any_eq_true.mpr ⟨a, mem, Option.isSome_iff_ne_none.mpr value⟩

theorem all_isNone_of_reduction : l.all (fun a => a.red.isNone) = false := by
  obtain ⟨a, mem, value⟩ := valued
  exact List.all_eq_false.mpr ⟨a, mem, fun isNone => value (Option.isNone_iff_eq_none.mp isNone)⟩

end

/-! ### The module hub's part in a round (R363, R365, R619) -/

section
variable {s : State} {b : Nat}

theorem State.hubRound_of_module (notGang : s.gangBars.contains b = false) :
    s.hubRound b = s.completeBarrier b ((reduced (s.barrier b)).map (·.2) |>.getD 0) (mixes (s.barrier b)) := by
  simp only [State.hubRound, notGang, Bool.not_false, if_true]

variable (gang : s.gangBars.contains b = true)
include gang

theorem State.hubRound_of_gang (awaited : (s.gang b).done = none) :
    s.hubRound b = s.gangLocal b ((reduced (s.barrier b)).map (·.1)) ((reduced (s.barrier b)).map (·.2) |>.getD 0)
      (mixes (s.barrier b)) := by
  simp only [State.hubRound, gang, Bool.not_true, Bool.false_eq_true, if_false, awaited]

theorem State.hubRound_of_gang_done {v : Word} {q : Bool} (done : (s.gang b).done = some (some v, q)) :
    s.hubRound b = (s.setGang b { s.gang b with done := none }).completeBarrier b v q := by
  simp only [State.hubRound, gang, Bool.not_true, Bool.false_eq_true, if_false, done, Option.getD_some, Option.isNone_some,
    Bool.or_false]

end

/-! ### BARRIER COMPLETION and REDUCTION RESULT (R363, R366) -/

section
variable {s : State} {b : BitVec 5}

theorem exec_barrierCompletion_of_awaited (awaited : s.allArrived b.toNat = false) :
    exec (.barrierCompletion b) s = .next s :=
  if_neg (by rw [awaited, Bool.and_false, Bool.false_and]; exact Bool.false_ne_true)

theorem exec_reductionResult_of_awaited (awaited : s.allArrived b.toNat = false) :
    exec (.reductionResult b) s = .next s :=
  if_neg (by rw [awaited, Bool.and_false, Bool.false_and]; exact Bool.false_ne_true)

theorem exec_barrierCompletion_of_reduction (valued : ∃ a ∈ s.barrier b.toNat, a.red ≠ none) :
    exec (.barrierCompletion b) s = .next s :=
  if_neg (by rw [all_isNone_of_reduction valued, Bool.and_false]; exact Bool.false_ne_true)

theorem exec_reductionResult_of_no_reduction (plain : ∀ a ∈ s.barrier b.toNat, a.red = none) :
    exec (.reductionResult b) s = .next s :=
  if_neg (by rw [any_isSome_of_no_reduction plain, Bool.and_false]; exact Bool.false_ne_true)

variable (ready : s.ready = true) (arrived : s.allArrived b.toNat = true)
include ready arrived

theorem exec_barrierCompletion_of_no_reduction (plain : ∀ a ∈ s.barrier b.toNat, a.red = none) :
    exec (.barrierCompletion b) s = .next (s.hubRound b.toNat) :=
  if_pos (by rw [ready, arrived, all_isNone_of_no_reduction plain, Bool.and_self, Bool.and_self])

theorem exec_reductionResult_of_reduction (valued : ∃ a ∈ s.barrier b.toNat, a.red ≠ none) :
    exec (.reductionResult b) s = .next (s.hubRound b.toNat) :=
  if_pos (by rw [ready, arrived, any_isSome_of_reduction valued, Bool.and_self, Bool.and_self])

end

/-! ### The obligation -/

/-- Settles O47: a combiner's reply is one more or the last; a round that is whole goes to the module hub under the instruction of
its own kind. -/
theorem floorCombinersAndRounds : Obligations.FloorCombinersAndRounds := by
  unfold Obligations.FloorCombinersAndRounds
  refine ⟨fun f p g src e s ready up tgt entry => ?_, fun b s ready => ?_⟩
  · rw [exec_floorCombinerReply_of_up p ready up]
    refine ⟨fun more => ?_, fun t last port => ?_⟩
    · rw [State.combine_of_more tgt entry more]
      rfl
    · refine ⟨floorAck p f.val src e.targets (e.counted p.kind).refusals, ?_, rfl, rfl, rfl, rfl, rfl⟩
      rw [State.combine_of_last tgt entry last port]
      rfl
  · refine ⟨fun arrived notGang => ⟨fun plain => ⟨?_, exec_reductionResult_of_no_reduction plain⟩,
        fun o x valued result => ⟨?_, exec_barrierCompletion_of_reduction valued⟩⟩,
      fun arrived gang plain => ?_,
      fun awaited => ⟨exec_barrierCompletion_of_awaited awaited, exec_reductionResult_of_awaited awaited⟩⟩
    · rw [exec_barrierCompletion_of_no_reduction ready arrived plain, State.hubRound_of_module notGang,
        reduced_of_no_reduction plain, mixes_of_no_reduction plain]
      rfl
    · rw [exec_reductionResult_of_reduction ready arrived valued, State.hubRound_of_module notGang, result]
      rfl
    · rw [exec_barrierCompletion_of_no_reduction ready arrived plain]
      refine ⟨fun pending => ?_, fun v q done => ?_⟩
      · rw [State.hubRound_of_gang gang pending, reduced_of_no_reduction plain, mixes_of_no_reduction plain]
        rfl
      · rw [State.hubRound_of_gang_done gang done]

end Sys2Proof.Machine
end

section
/-!
What the announcement of a void to a room and the end of its rounds come to (R370, R371, R488), and the obligation of voids (O48).
-/

namespace Sys2Proof.Machine

/-- The state once room `r` has acknowledged a void. -/
def State.ackVoid (s : State) (v : VoidOut) (r : Nat) : State :=
  { s with voids := s.voids.map (fun w => if w = v then { w with rooms := w.rooms.erase r } else w) }

section
variable {s : State} {r : RoomId} {pipe mask : Byte} {v : VoidOut}
  (announced : s.voids.find? (fun v => v.pipe == pipe && v.mask == mask && !v.held && v.rooms.contains r.val) = some v)
include announced

/-- The clock of a room is none of the things that its acknowledgement changes. -/
theorem exec_voidAnnouncement_of_announced :
    exec (.voidAnnouncement r pipe mask) s = if (s.room r.val).clockOff then
        .next ((s.ackVoid v r.val).setRoom r.val { s.room r.val with keeper := (s.room r.val).keeper ++ [.void pipe mask] })
      else .next ((s.ackVoid v r.val).voidRoom r.val pipe mask) := by
  change execVoidAnnouncement r pipe mask s = _
  unfold execVoidAnnouncement
  rw [announced]
  rfl

/-- The keeper of a room without its clock records the void (R371). -/
theorem exec_voidAnnouncement_of_clockOff (off : (s.room r.val).clockOff = true) :
    exec (.voidAnnouncement r pipe mask) s = .next ((s.ackVoid v r.val).setRoom r.val
      { s.room r.val with keeper := (s.room r.val).keeper ++ [.void pipe mask] }) := by
  rw [exec_voidAnnouncement_of_announced announced, if_pos off]

theorem exec_voidAnnouncement_of_clockOn (on : (s.room r.val).clockOff = false) :
    exec (.voidAnnouncement r pipe mask) s = .next ((s.ackVoid v r.val).voidRoom r.val pipe mask) := by
  rw [exec_voidAnnouncement_of_announced announced, on, if_neg Bool.false_ne_true]

end

/-- A void that all rooms have acknowledged is gone, and the cancellation of its session may end (R488). -/
theorem exec_voidAcknowledgement_of_all {s : State} {d : DieId} {pipe : Byte} {v : VoidOut}
    (all : s.voids.find? (fun v => v.die == d.val && v.pipe == pipe && !v.held && v.rooms.isEmpty) = some v) :
    exec (.voidAcknowledgement d pipe) s = .next (({ s with voids := s.voids.erase v } : State).tryCancel v.sess) := by
  change execVoidAcknowledgement d pipe s = _
  unfold execVoidAcknowledgement
  rw [all]

/-! ### The obligation -/

/-- Settles O48: an announced void in a room with and without its clock, and a void that all rooms have acknowledged. -/
theorem voidRounds : Obligations.VoidRounds := by
  unfold Obligations.VoidRounds
  intro r d pipe mask v s
  exact ⟨fun announced => ⟨exec_voidAnnouncement_of_clockOff announced, exec_voidAnnouncement_of_clockOn announced⟩,
    exec_voidAcknowledgement_of_all⟩

end Sys2Proof.Machine
end

section
/-!
What FENCE, FLOOR RESET, the reset whose steps stand due and FLOOR REJOIN come to (R387, R389, R511, R576–R588), and the
obligation of the recovery of floors (O23).
-/

namespace Sys2Proof.Machine

/-! ### What events, records, notices and the ends of commands leave of the site -/

/-- The site of a module: its rooms, its floors and their rejoin stop, and the run of its image. -/
structure Site where
  rooms : Tbl Room
  floors : Tbl Floor
  rejoinStop : List Nat
  image : Option Image
  started : Option Nat

def State.site (s : State) : Site := ⟨s.rooms, s.floors, s.rejoinStop, s.image, s.started⟩

theorem foldl_site {α : Type} (g : State → α → State) (h : ∀ s a, (g s a).site = s.site) (l : List α) (s : State) :
    (l.foldl g s).site = s.site := foldl_leaves State.site g h l s

theorem State.portsOnly.site {s t : State} (h : s.portsOnly t) : t.site = s.site := (congrArg State.site h).trans rfl

@[simp] theorem State.setTile_site (s : State) (t : Nat) (v : Tile) : (s.setTile t v).site = s.site := rfl
@[simp] theorem State.setDie_site (s : State) (d : Nat) (v : Die) : (s.setDie d v).site = s.site := rfl
@[simp] theorem State.setUnit_site (s : State) (p : Word) (v : UnitRegs) : (s.setUnit p v).site = s.site := rfl
@[simp] theorem State.setInv_site (s : State) (e : Nat) (v : Inv) : (s.setInv e v).site = s.site := rfl
@[simp] theorem State.setBank_site (s : State) (i : Nat) (v : Bank) : (s.setBank i v).site = s.site := rfl
@[simp] theorem State.setDigest_site (s : State) (i : Nat) (v : Digest) : (s.setDigest i v).site = s.site := rfl
@[simp] theorem State.setSess_site (s : State) (i : Nat) (v : Sess) : (s.setSess i v).site = s.site := rfl
@[simp] theorem State.setPipe_site (s : State) (p : Nat) (v : Pipe) : (s.setPipe p v).site = s.site := rfl
@[simp] theorem State.setPort_site (s : State) (i : Nat) (v : Port) : (s.setPort i v).site = s.site := rfl

@[simp] theorem State.event_site (s : State) (p : Word) (b : Nat) : (s.event p b).site = s.site :=
  State.event_leaves State.setUnit_site s p b

@[simp] theorem State.limitAt_site (s : State) (p : Word) (raise : Bool) : (s.limitAt p raise).site = s.site :=
  State.limitAt_leaves State.setUnit_site s p raise

@[simp] theorem State.putTile_site (s : State) (t : Nat) (v : Tile) : (s.putTile t v).site = s.site :=
  State.putTile_leaves State.setUnit_site s t v

@[simp] theorem State.finishAll_site (s : State) (p : Cmd → Bool) (status : Cmd → Nat × List Byte) :
    (s.finishAll p status).site = s.site :=
  foldl_site _ (fun s c => (State.finish_ports s c _ _).site) _ _

@[simp] theorem State.notice_site (s : State) (code : Nat) (detail : List Byte) : (s.notice code detail).site = s.site := by
  refine foldl_site _ (fun s d => ?_) _ _
  unfold State.noticeOn
  dsimp only
  split
  · rfl
  · split
    · exact (State.drainNotices_ports _ _ d).site
    · exact State.limitAt_site _ _ _

@[simp] theorem State.countFault_site (s : State) (p : Word) : (s.countFault p).site = s.site := by
  unfold State.countFault
  dsimp only
  split
  · exact State.event_site _ _ _
  · rfl

@[simp] theorem State.record_site (s : State) (r : FaultRec) : (s.record r).site = s.site := by
  simp only [State.record, State.notice_site, State.countFault_site, State.event_site, State.limitAt_site]
  rfl

/-! ### What the parts of a fence leave of the site (R365, R512, R577, R578) -/

@[simp] theorem State.releaseVoids_site (s : State) (p : Nat) : (s.releaseVoids p).site = s.site := by
  unfold State.releaseVoids
  split <;> rfl

@[simp] theorem State.tableReply_site (s : State) (p k f refusals : Nat) (dropped : Bool) :
    (s.tableReply p k f refusals dropped).site = s.site := by
  rw [State.tableReply, State.releaseVoids_site, State.setPipe_site]
  split
  · exact State.record_site _ _
  · rfl

@[simp] theorem State.edgeFloor_site (s : State) (r : EdgeReq) (f refusals : Nat) (dropped : Bool) :
    (s.edgeFloor r f refusals dropped).site = s.site := by
  unfold State.edgeFloor
  extract_lets r' t u
  have counted : t.site = s.site := by
    unfold t
    split <;> rfl
  have marked : u.site = s.site := by
    unfold u
    split
    · exact (State.event_site _ _ _).trans counted
    · exact counted
  split
  · rfl
  · split
    · exact (State.tableReply_site _ _ _ _ _ _).trans marked
    · exact marked

@[simp] theorem State.fenceReqs_site (s : State) (f : Nat) : (s.fenceReqs f).site = s.site :=
  foldl_site _ (fun s r => State.edgeFloor_site s r f 0 true) _ _

@[simp] theorem State.leaveBarriers_site (s : State) (f : Nat) : (s.leaveBarriers f).site = s.site := by
  refine foldl_site _ (fun s q => ?_) _ _
  dsimp only
  split
  · exact State.event_site _ _ _
  · rfl

@[simp] theorem State.stopsDone_site (s : State) : s.stopsDone.site = s.site := by
  rw [State.stopsDone, State.finishAll_site]
  exact foldl_site _ (fun s u => State.event_site s u _) _ _

@[simp] theorem State.abortDone_site (s : State) : s.abortDone.site = s.site := by
  rw [State.abortDone, State.finishAll_site]
  exact foldl_site _ (fun s u => State.event_site s u _) _ _

@[simp] theorem State.fenceWaits_site (s : State) (f : Nat) : (s.fenceWaits f).site = s.site := by
  rw [State.fenceWaits, State.abortDone_site, State.stopsDone_site, State.leaveBarriers_site]
  exact (State.finishAll_site _ _ _).trans (State.finishAll_site _ _ _)

/-! ### The end of a run (R578, R579) -/

@[simp] theorem State.zeroBank_site (s : State) (i : Nat) : (s.zeroBank i).site = s.site := by
  have kinds : (s.bankKind i 3).site = s.site := foldl_site _ (fun s q => State.setTile_site s _ _) _ _
  have digests : ((s.bankKind i 3).clearBankDigests i).site = (s.bankKind i 3).site :=
    foldl_site _ (fun s q => State.setDigest_site s _ _) _ _
  rw [State.zeroBank, State.setBank_site, State.abandonCrates, State.finishAll_site, digests, kinds]

@[simp] theorem State.unpin_site (s : State) (slot : Nat) (pin : Option Nat) : (s.unpin slot pin).site = s.site := by
  unfold State.unpin
  dsimp only
  split
  · rfl
  · split
    · exact State.zeroBank_site _ _
    · rfl

@[simp] theorem State.rollback_site (s : State) (i : Nat) : (s.rollback i).site = s.site := by
  have back (v : Sess) : (((s.endRequest i).dropNext i).setSess i v).site = s.site := by
    simp only [State.endRequest, State.dropNext, State.unpin_site, State.setSess_site]
  unfold State.rollback
  dsimp only
  split
  · exact back _
  · exact back _
  · exact back _
  · exact back _
  · rfl

@[simp] theorem State.imageRefs_site (s : State) (up : Bool) : (s.imageRefs up).site = s.site := by
  unfold State.imageRefs
  split
  · rfl
  · exact foldl_site _ (fun s e => State.setInv_site s _ _) _ _

@[simp] theorem State.holdPorts_site (s : State) : s.holdPorts.site = s.site := by
  refine (foldl_site _ (fun s q => ?_) _ _).trans
    ((foldl_site _ (fun s d => State.setDie_site s _ _) _ _).trans (foldl_site _ (fun s q => State.setPort_site s _ _) _ _))
  split <;> rfl

/-- The fields of the site that a change of rooms leaves. -/
def State.floorsAndRun (s : State) := (s.floors, s.image, s.started)

theorem State.floorsAndRun_eq_of_site {s t : State} (same : t.site = s.site) : t.floorsAndRun = s.floorsAndRun :=
  congrArg (fun x : Site => (x.floors, x.image, x.started)) same

theorem foldl_floorsAndRun {α : Type} (g : State → α → State) (h : ∀ s a, (g s a).floorsAndRun = s.floorsAndRun)
    (l : List α) (s : State) : (l.foldl g s).floorsAndRun = s.floorsAndRun := foldl_leaves State.floorsAndRun g h l s

theorem State.setRoom_floorsAndRun (s : State) (r : Nat) (v : Room) : (s.setRoom r v).floorsAndRun = s.floorsAndRun := rfl

theorem State.endRun_floorsAndRun (s : State) : s.endRun.floorsAndRun = (s.floorsAndRun.1, s.floorsAndRun.2.1, none) := by
  unfold State.endRun
  split
  · next idle => rw [← idle]; rfl
  · extract_lets rooms recordsEnded runEnded pipesIdle rolledBack released cleared
    have ended : recordsEnded.site = s.site := State.finishAll_site s _ _
    have served : released.site = runEnded.site :=
      (State.imageRefs_site rolledBack false).trans
        ((foldl_site _ (fun s (q : Nat × Sess) => (State.finishAll_site _ _ _).trans (State.rollback_site s q.1)) _ _).trans
          (foldl_site _ (fun s q => State.setPipe_site s _ _) _ _))
    have restarted : cleared.floorsAndRun = released.floorsAndRun :=
      foldl_floorsAndRun _ (fun s q => State.setRoom_floorsAndRun s _ _) _ _
    calc _ = cleared.dropHeld.floorsAndRun := State.floorsAndRun_eq_of_site (State.holdPorts_site cleared.dropHeld)
      _ = cleared.floorsAndRun := rfl
      _ = released.floorsAndRun := restarted
      _ = runEnded.floorsAndRun := State.floorsAndRun_eq_of_site served
      _ = (recordsEnded.floors, recordsEnded.image, none) := rfl
      _ = _ := congrArg (fun x : Site => (x.floors, x.image, none)) ended

/-! ### The fence (R576–R578) -/

/-- The record of a floor once it is fenced. -/
def Floor.cutOff (v : Floor) : Floor := { v with mode := .fenced, atRejoin := false }

theorem State.rampDown_floorsAndRun (s : State) (r : Nat) : (s.rampDown r).floorsAndRun = s.floorsAndRun := rfl

/-- Apart from the rooms' allowances the cut changes the floor's own record. -/
theorem State.fenceCut_floorsAndRun (s : State) (f : Nat) :
    (s.fenceCut f).floorsAndRun = ((s.setFloor f (s.floor f).cutOff).floors, s.image, s.started) := by
  rw [State.fenceCut, foldl_floorsAndRun _ fun s i => State.rampDown_floorsAndRun s _]
  refine (State.floorsAndRun_eq_of_site (s := s.setFloor f (s.floor f).cutOff) ?_).trans rfl
  rw [State.fenceWaits_site, State.fenceReqs_site, State.notice_site, State.event_site]
  rfl

theorem State.fence_of_not_up {s : State} {f : Nat} (down : s.floorUp f = false) : s.fence f = s := by
  rw [State.fence, down, if_pos Bool.not_false]

section
variable {s : State} {f : Nat} (up : s.floorUp f = true)
include up

theorem State.fence_of_no_image (noImage : s.image = none) : s.fence f = s.fenceCut f := by
  simp only [State.fence, up, noImage, Bool.not_true, Bool.false_eq_true, if_false]

theorem State.fence_of_image {im : Image} (loaded : s.image = some im) :
    s.fence f = if im.tiles.any (fun t => tileFloor t == f) then (s.fenceCut f).endRun else s.fenceCut f := by
  simp only [State.fence, up, loaded, Bool.not_true, Bool.false_eq_true, if_false]

/-- The run of the started image ends where the floor holds a tile of it. -/
theorem State.fence_floorsAndRun : (s.fence f).floorsAndRun = ((s.setFloor f (s.floor f).cutOff).floors, s.image,
    if (s.image.map (fun im => im.tiles.any (fun t => tileFloor t == f))).getD false then none else s.started) := by
  have cut := State.fenceCut_floorsAndRun s f
  cases loaded : s.image with
  | none =>
    rw [State.fence_of_no_image up loaded, cut, loaded]
    rfl
  | some im =>
    rw [State.fence_of_image up loaded, Option.map_some, Option.getD_some, ← loaded]
    split
    · rw [State.endRun_floorsAndRun, cut]
    · exact cut

end

/-! ### FENCE and FLOOR RESET -/

section
variable {s a : State} {h : CmdHdr} {o : Byte}

/-- The command that its ring gives up and that passes the checks of R508 fences its floor, unless a module command is in
progress. -/
theorem exec_fence_of_accepts
    (acc : s.accepts h { opc := 0x48, since := 0, sets := false, level := onFloor, bad := none, par := [] } a) :
    exec (.fence h) s = .next
      ((a.moduleCmd h 0x48 (fun s => (s.fence (pathFloor h.unit)).reply h 0x48 0 [])).moveOn h) :=
  congrArg Host.Outcome.next (State.decode_of_accepts _ acc)

theorem exec_floorReset_of_accepts (env : StartEnv)
    (acc : s.accepts h { opc := 0x49, since := 0, sets := false, level := onFloor, bad := none, par := [] } a) :
    exec (.floorReset h env) s = .next ((a.moduleCmd h 0x49 (fun s =>
      ((s.begin_ h 0x49 (.floorReset (pathFloor h.unit))).fence (pathFloor h.unit)).resetFloor (some env.attempts)
        (pathFloor h.unit))).moveOn h) :=
  congrArg Host.Outcome.next (State.decode_of_accepts _ acc)

theorem State.moduleCmd_of_busy (opc : Byte) (run : State → State) (busy : a.moduleBusy = some o) :
    a.moduleCmd h opc run = a.reply h opc 0x0109 [o] := by
  rw [State.moduleCmd, busy]

theorem State.moduleCmd_of_free (opc : Byte) (run : State → State) (free : a.moduleBusy = none) :
    a.moduleCmd h opc run = run a := by
  rw [State.moduleCmd, free]

end

theorem State.floor_eq_of_floors {s t : State} (same : t.floors = s.floors) (f : Nat) : t.floor f = s.floor f :=
  congrArg (fun floors => Tbl.get Floor.reset floors f) same

theorem State.floorUp_iff {s : State} {f : Nat} : s.floorUp f = true ↔ (s.floor f).mode = .up := beq_iff_eq

/-- A fence leaves a floor that was up or fenced fenced. -/
theorem State.mode_fence {s : State} {f : Nat} (held : (s.floor f).mode = .up ∨ (s.floor f).mode = .fenced) :
    ((s.fence f).floor f).mode = .fenced := by
  obtain up | fenced := held
  · have floors : (s.fence f).floors = (s.setFloor f (s.floor f).cutOff).floors :=
      congrArg Prod.fst (State.fence_floorsAndRun (State.floorUp_iff.mpr up))
    rw [State.floor_eq_of_floors floors, State.floor_setFloor_self]
    rfl
  · rw [State.fence_of_not_up (by simp [State.floorUp, fenced]), fenced]

/-- The steps of the reset of a floor that is fenced stand due. -/
theorem State.floor_resetFloor_of_fenced {s : State} {f : Nat} (l : Option (List AttemptRow))
    (fenced : (s.floor f).mode = .fenced) :
    ((s.resetFloor l f).floor f).mode = .resetting ∧ ((s.resetFloor l f).floor f).due = some l := by
  rw [State.resetFloor, if_pos fenced, State.floor_setFloor_self]
  exact ⟨rfl, rfl⟩

/-! ### The steps of a floor reset (R582–R585, R635) -/

/-- What a floor whose reset goes on shows of it, with the rejoin stop. -/
def State.standing (s : State) (f : Nat) := ((s.floor f).mode, (s.floor f).due, s.rejoinStop)

theorem State.standing_of_fl {s t : State} (same : t.fl = s.fl) (f : Nat) : t.standing f = s.standing f :=
  congrArg (fun x : Tbl Floor × List Nat => ((Tbl.get Floor.reset x.1 f).mode, (Tbl.get Floor.reset x.1 f).due, x.2)) same

/-- A change of the floor's record that leaves its mode and its due steps. -/
theorem State.standing_setFloor {s : State} {f : Nat} {v : Floor} (mode : v.mode = (s.floor f).mode)
    (due : v.due = (s.floor f).due) : (s.setFloor f v).standing f = s.standing f := by
  rw [State.standing, State.floor_setFloor_self, mode, due]
  rfl

theorem State.clearFloor_standing (s : State) (f : Nat) : (s.clearFloor f).standing f = s.standing f := by
  unfold State.clearFloor
  extract_lets a b c v d
  have same : c.fl = s.fl :=
    (foldl_fl _ (fun s _ => State.setUnit_fl s _ _) _ _).trans
      ((foldl_fl _ (fun s _ => State.setTile_fl s _ _) _ _).trans (foldl_fl _ (fun s _ => State.setRoom_fl s _ _) _ _))
  have emptied : d.standing f = c.standing f := State.standing_setFloor rfl rfl
  calc _ = d.standing f := rfl
    _ = c.standing f := emptied
    _ = s.standing f := State.standing_of_fl same f

theorem State.floorStepWork_standing (s : State) (f step : Nat) (alt : Bool) :
    (s.floorStepWork f step alt).standing f = s.standing f := by
  unfold State.floorStepWork
  split
  · exact State.standing_setFloor (s := s) rfl rfl
  · exact State.standing_of_fl (State.reverifyFloor_fl s f) f
  · rfl

/-- The state once a step of floor `f` has passed at its first attempt. -/
def State.stepPassed (s : State) (f step : Nat) : State :=
  let u : BootUnit := ⟨2, BitVec.ofNat 8 f⟩
  let alt := s.firstMethod step u
  let begun := ({ s with free := s.free + 1 } : State).journal step u alt 2 0 true 1
  (begun.journal step u alt 0 0 true 1).floorStepWork f step alt

theorem State.stepPassed_standing (s : State) (f step : Nat) : (s.stepPassed f step).standing f = s.standing f :=
  (State.floorStepWork_standing _ f step _).trans rfl

theorem State.floorSteps_nil (s : State) (l : Option (List AttemptRow)) (f : Nat) : s.floorSteps l f [] =
    { (s.restoreKinds f).setFloor f { (s.restoreKinds f).floor f with atRejoin := true } with
      rejoinStop := (s.restoreKinds f).rejoinStop ++ [f] } := rfl

/-- With no row for an attempt, every attempt passes. -/
theorem State.floorSteps_cons_of_no_rows (s : State) (f step : Nat) (rest : List Nat) :
    s.floorSteps (some []) f (step :: rest) = (s.stepPassed f step).floorSteps (some []) f rest := rfl

/-- Steps all of which pass bring the floor to its rejoin stop. -/
theorem State.floorSteps_of_no_rows (s : State) (f : Nat) (steps : List Nat) :
    (s.floorSteps (some []) f steps).standing f =
        ((s.standing f).1, (s.standing f).2.1, (s.standing f).2.2 ++ [f]) ∧
      ((s.floorSteps (some []) f steps).floor f).atRejoin = true := by
  induction steps generalizing s with
  | nil =>
    have stopped := State.standing_setFloor (s := s.restoreKinds f) (f := f)
      (v := { (s.restoreKinds f).floor f with atRejoin := true }) rfl rfl
    rw [State.floorSteps_nil, ← State.standing_of_fl (State.restoreKinds_fl s f) f, ← stopped]
    exact ⟨rfl, congrArg Floor.atRejoin (State.floor_setFloor_self (s.restoreKinds f) f _)⟩
  | cons step rest ih =>
    rw [State.floorSteps_cons_of_no_rows, ← State.stepPassed_standing s f step]
    exact ih _

/-- Steps that stand due run once the currents of the floor's rooms have fallen (R389). -/
theorem State.resetDue_of_fallen {s : State} {f : Nat} {l : Option (List AttemptRow)} (due : (s.floor f).due = some l)
    (powered : s.tripped = false) (released : s.mreset = false) (fallen : ∀ i < 16, (s.room (16 * f + i)).fall = none) :
    s.resetDue f =
      ((s.setFloor f { s.floor f with due := none }).clearFloor f).floorSteps l f [5, 6, 7, 8, 9, 13] := by
  have noneFalls : (List.range 16).any (fun i => (s.room (16 * f + i)).fall.isSome) = false :=
    List.any_eq_false.mpr fun i low => by simp [fallen i (List.mem_range.mp low)]
  simp only [State.resetDue, due, powered, released, noneFalls, Bool.or_self, Bool.false_eq_true, if_false]

/-- A reset all of whose attempts pass ends at the rejoin stop. -/
theorem State.resetDue_of_passing {s : State} {f : Nat} (due : (s.floor f).due = some (some []))
    (powered : s.tripped = false) (released : s.mreset = false) (fallen : ∀ i < 16, (s.room (16 * f + i)).fall = none) :
    (s.resetDue f).standing f = ((s.floor f).mode, none, s.rejoinStop ++ [f]) ∧
      ((s.resetDue f).floor f).atRejoin = true := by
  rw [State.resetDue_of_fallen due powered released fallen]
  have started : ((s.setFloor f { s.floor f with due := none }).clearFloor f).standing f =
      ((s.floor f).mode, none, s.rejoinStop) := by
    rw [State.clearFloor_standing, State.standing, State.floor_setFloor_self]
    rfl
  obtain ⟨stands, atStop⟩ :=
    State.floorSteps_of_no_rows ((s.setFloor f { s.floor f with due := none }).clearFloor f) f [5, 6, 7, 8, 9, 13]
  exact ⟨stands.trans (by rw [started]), atStop⟩

/-! ### What is sent again (R577, R616) -/

@[simp] theorem State.abortTile_site (s : State) (t : Nat) : (s.abortTile t).site = s.site := rfl

@[simp] theorem State.refuse_site (s : State) (t : Nat) (p : Packet) (cellar wr : Bool) (a n code fsub : Nat) (abort : Bool) :
    (s.refuse t p cellar wr a n code fsub abort).site = s.site := by
  unfold State.refuse
  extract_lets u v line last det w
  have noted : u.site = s.site := by
    unfold u
    split
    · exact State.putTile_site s t _
    · rfl
  split
  · exact noted
  · have recorded : w.site = s.site := (State.record_site u _).trans noted
    split
    · exact (State.abortTile_site w t).trans recorded
    · exact recorded

@[simp] theorem State.apply_site (s : State) (t : Nat) (p : Packet) : (s.apply t p).s.site = s.site := by
  unfold State.apply
  dsimp only
  repeat' split
  all_goals simp only [State.refuse_site, State.putTile_site]

@[simp] theorem State.dieWrite_site (s : State) (d t line : Nat) (bytes : List Byte) (poi : List Nat) (org : Option Origin) :
    (s.dieWrite d t line bytes poi org).1.site = s.site := by
  unfold State.dieWrite
  dsimp only
  repeat' split
  all_goals simp only [State.apply_site, State.putTile_site]

@[simp] theorem State.writeLost_site (s : State) (d : Nat) : (s.writeLost d).site = s.site := by
  unfold State.writeLost
  split
  · rfl
  · refine (foldl_site _ (fun s q => ?_) _ _).trans (State.setDie_site s d _)
    dsimp only
    split
    all_goals simp only [State.setDie_site, State.dieWrite_site]

/-- What a floor that rejoins shows of it: the rooms, the rejoin stop, and each floor's mode. -/
def State.footing (s : State) :=
  (s.rooms, s.rejoinStop, fun f => ((s.floor f).mode, (s.floor f).atRejoin))

theorem State.footing_of_site {s t : State} (same : t.site = s.site) : t.footing = s.footing :=
  congrArg (fun x : Site => (x.rooms, x.rejoinStop, fun f =>
    ((Tbl.get Floor.reset x.floors f).mode, (Tbl.get Floor.reset x.floors f).atRejoin))) same

section
variable {s t : State} (same : t.footing = s.footing)
include same

theorem State.room_of_footing (r : Nat) : t.room r = s.room r :=
  congrArg (fun rooms => Tbl.get Room.reset rooms r) (congrArg Prod.fst same)

theorem State.rejoinStop_of_footing : t.rejoinStop = s.rejoinStop := congrArg (fun x => x.2.1) same

theorem State.mode_of_footing (f : Nat) :
    ((t.floor f).mode, (t.floor f).atRejoin) = ((s.floor f).mode, (s.floor f).atRejoin) :=
  congrArg (fun x => x.2.2 f) same

end

theorem foldl_footing {α : Type} (g : State → α → State) (h : ∀ s a, (g s a).footing = s.footing) (l : List α)
    (s : State) : (l.foldl g s).footing = s.footing := foldl_leaves State.footing g h l s

/-- An entry of a floor's combiner changes neither its mode nor its stop. -/
theorem State.openComb_footing {s t : State} {f : Nat} {p : Packet} (opened : s.openComb f p = some t) :
    t.footing = s.footing := by
  have entered (l : List CombEnt) : (s.setFloor f { s.floor f with comb := l }).footing = s.footing := by
    refine congrArg (fun x => (s.rooms, s.rejoinStop, x)) (funext fun g => ?_)
    by_cases here : g = f
    · rw [here, State.floor_setFloor_self]
    · rw [State.floor_setFloor_ne s _ here]
  unfold State.openComb at opened
  dsimp only at opened
  split at opened
  · split at opened
    · cases opened; rfl
    · split at opened
      · cases opened; exact entered _
      · cases opened
  · cases opened; rfl

theorem State.refill_footing (n : Nat) (s : State) (k : Nat) : (s.refill n k).footing = s.footing := by
  induction n generalizing s with
  | zero => rfl
  | succ n ih =>
    unfold State.refill
    repeat' split
    · rfl
    · rfl
    · next t opened =>
      have same : t.footing = s.footing := State.openComb_footing opened
      exact (ih _).trans same
    · rfl

theorem State.dieInject_footing (s : State) (d : Nat) (p : Packet) : (s.dieInject d p).footing = s.footing := by
  unfold State.dieInject
  dsimp only
  split
  · rfl
  · split
    · exact State.refill_footing _ _ _
    · rfl

theorem State.resendHeld_footing (s : State) (f : Nat) : (s.resendHeld f).footing = s.footing :=
  (foldl_footing _ (fun s d => State.footing_of_site (State.writeLost_site s d)) _ _).trans
    (foldl_footing _ (fun s _ => State.dieInject_footing s _ _) _ _)

/-! ### FLOOR REJOIN (R387, R586, R587) -/

/-- A room of a floor that rejoins starts with its new tread (R586). -/
def State.rejoinRoom (s : State) (q : Nat × Nat) : State :=
  let s := s.setRoom q.1 { s.room q.1 with tread := q.2, fall := none, allow := 0, fill := 0, gear := none, pendGear := none
                                           stops := s.stopsOf q.1, clockOff := s.gear == 0, spineOff := true }
  if s.gear = 0 then s else s.spine q.1 false

/-- The record of a floor that is up again. -/
def Floor.rejoined (v : Floor) : Floor := { v with mode := .up, atRejoin := false, vsramLow := false }

/-- A floor whose rooms have started is up: its stop is cleared, it is told, and what was held for it is sent again (R587). -/
def State.rejoinFloor (s : State) (f : Nat) : State :=
  let s := s.setFloor f (s.floor f).rejoined
  let s := { s.dropRejoin f with
                    lands := s.lands.filter (fun q => tileFloor (q.1 / 24) != f &&
                      ((s.nbr (q.1 / 24) (q.1 / 6 % 4)).map tileFloor) != some f) }
  ((s.notice 0x8004 (leBytes 1 f)).finishAll (fun c => match c.work with
      | .floorReset g => g == f
      | _ => false) (fun _ => (0, [0]))).resendHeld f

/-- The rooms of a floor with the treads at which they rejoin (R586). -/
def State.rejoinCounts (s : State) (f : Nat) : List (Nat × Nat) :=
  ((List.range 16).map (fun i => 16 * f + i)).map (fun r => (r, s.rejoinCount r))

theorem State.rejoin_of_held {s : State} {f : Nat} (atStop : (s.floor f).atRejoin = true) (noChange : s.change = none)
    (held : ∀ r ∈ s.upRooms, s.atRejoinStop r = true) (fit : s.spinesFit s.gear.toNat 16 = true) :
    s.rejoin f = ((s.rejoinCounts f).foldl State.rejoinRoom s).rejoinFloor f := by
  refine (if_neg ?_).trans rfl
  simpa [atStop, noChange, fit] using held

theorem State.rejoin_of_not_held {s : State} {f : Nat} (early : (s.floor f).atRejoin = false ∨ s.change ≠ none ∨
    (∃ r ∈ s.upRooms, s.atRejoinStop r = false) ∨ s.spinesFit s.gear.toNat 16 = false) : s.rejoin f = s := by
  refine if_pos ?_
  obtain noStop | change | running | steep := early
  · exact .inl (by rw [noStop]; rfl)
  · exact .inr (.inl (Option.isSome_iff_ne_none.mpr change))
  · exact .inr (.inr (.inl (by simpa using running)))
  · exact .inr (.inr (.inr (by rw [steep]; rfl)))

/-! ### The rooms of a floor that rejoins -/

/-- What a rejoin sets of a room and the statement speaks of. -/
def Room.entry (m : Room) := (m.tread, m.allow, m.stops)

theorem State.entry_setRoom {s : State} {q : Nat} {v : Room} (same : v.entry = (s.room q).entry) (r : Nat) :
    ((s.setRoom q v).room r).entry = (s.room r).entry := by
  by_cases here : r = q
  · rw [here, State.room_setRoom_self, same]
  · rw [State.room_setRoom_ne s v here]

theorem State.entry_spine (s : State) (q : Nat) (off : Bool) (r : Nat) :
    ((s.spine q off).room r).entry = (s.room r).entry := by
  rw [State.spine]
  exact (State.entry_setRoom (by rfl) r).trans rfl

theorem State.entry_rejoinRoom (s : State) (q : Nat × Nat) (r : Nat) : ((s.rejoinRoom q).room r).entry =
    if r = q.1 then (q.2, 0, s.stopsOf q.1) else (s.room r).entry := by
  have put (v : Room) (entry : v.entry = (q.2, 0, s.stopsOf q.1)) : ((s.setRoom q.1 v).room r).entry =
      if r = q.1 then (q.2, 0, s.stopsOf q.1) else (s.room r).entry := by
    split
    · next here => rw [here, State.room_setRoom_self, entry]
    · next other => rw [State.room_setRoom_ne s v other]
  unfold State.rejoinRoom
  dsimp only
  split
  · exact put _ rfl
  · exact (State.entry_spine _ _ _ _).trans (put _ rfl)

theorem State.rejoinStop_rejoinRoom (s : State) (q : Nat × Nat) : (s.rejoinRoom q).rejoinStop = s.rejoinStop := by
  unfold State.rejoinRoom
  dsimp only
  split <;> rfl

theorem State.stopsOf_rejoinRoom (s : State) (q : Nat × Nat) (r : Nat) : (s.rejoinRoom q).stopsOf r = s.stopsOf r := by
  unfold State.rejoinRoom
  dsimp only
  split <;> rfl

/-- Each of the rooms gets its tread, no allowance and the stop requests that stand. -/
theorem State.entry_foldl_rejoinRoom (tread : Nat → Nat) (rs : List Nat) (s : State) (r : Nat) :
    (((rs.map (fun r => (r, tread r))).foldl State.rejoinRoom s).room r).entry =
      if r ∈ rs then (tread r, 0, s.stopsOf r) else (s.room r).entry := by
  induction rs generalizing s with
  | nil => rfl
  | cons q rs ih =>
    rw [List.map_cons, List.foldl_cons, ih, State.entry_rejoinRoom, State.stopsOf_rejoinRoom]
    by_cases here : r = q <;> by_cases later : r ∈ rs <;> simp [here, later]

/-! ### The floor that rejoins -/

theorem State.dropRejoin_fl (s : State) (f : Nat) :
    (s.dropRejoin f).fl = (s.floors, s.rejoinStop.filter (fun g => g != f)) := by
  unfold State.dropRejoin
  dsimp only
  split
  · exact (foldl_fl _ (fun s q => State.setRoom_fl s _ _) _ _).trans rfl
  · rfl

theorem State.entry_dropRejoin (s : State) (f r : Nat) : ((s.dropRejoin f).room r).entry = (s.room r).entry := by
  unfold State.dropRejoin
  dsimp only
  split
  · exact (foldl_leaves (fun s => (s.room r).entry) _ (fun s q => State.entry_setRoom (by rfl) r) _ _).trans rfl
  · rfl

/-- The notice, the replies and what is sent again change neither the rooms nor the stop. -/
theorem State.rejoinFloor_footing (s : State) (f : Nat) :
    (s.rejoinFloor f).footing = ((s.setFloor f (s.floor f).rejoined).dropRejoin f).footing := by
  unfold State.rejoinFloor
  extract_lets t u v
  have told : (v.notice 0x8004 (leBytes 1 f)).site = v.site := State.notice_site v _ _
  rw [State.resendHeld_footing, State.footing_of_site ((State.finishAll_site _ _ _).trans told)]
  rfl

theorem State.entry_rejoinFloor (s : State) (f r : Nat) : ((s.rejoinFloor f).room r).entry = (s.room r).entry := by
  rw [State.room_of_footing (State.rejoinFloor_footing s f), State.entry_dropRejoin]
  rfl

theorem State.floor_rejoinFloor (s : State) (f : Nat) : ((s.rejoinFloor f).floor f).mode = .up ∧
    ((s.rejoinFloor f).floor f).atRejoin = false ∧ (s.rejoinFloor f).rejoinStop = s.rejoinStop.filter (fun g => g != f) := by
  have dropped := State.dropRejoin_fl (s.setFloor f (s.floor f).rejoined) f
  have footing := State.rejoinFloor_footing s f
  have floor : ((s.setFloor f (s.floor f).rejoined).dropRejoin f).floor f = (s.floor f).rejoined :=
    (State.floor_eq_of_floors (congrArg Prod.fst dropped) f).trans (State.floor_setFloor_self s f _)
  obtain ⟨up, cleared⟩ := Prod.mk.inj (State.mode_of_footing footing f)
  rw [up, cleared, State.rejoinStop_of_footing footing, floor]
  exact ⟨rfl, rfl, congrArg Prod.snd dropped⟩

/-- A floor that rejoins with all rooms held is up again, its stop is cleared, and its rooms have started. -/
theorem State.rejoin_restores {s : State} {f : Nat} (atStop : (s.floor f).atRejoin = true) (noChange : s.change = none)
    (held : ∀ r ∈ s.upRooms, s.atRejoinStop r = true) (fit : s.spinesFit s.gear.toNat 16 = true) :
    ((s.rejoin f).floor f).mode = .up ∧ ((s.rejoin f).floor f).atRejoin = false ∧
      (s.rejoin f).rejoinStop = s.rejoinStop.filter (fun g => g != f) ∧
      ∀ r, roomFloor r = f → ((s.rejoin f).room r).entry = (s.rejoinCount r, 0, s.stopsOf r) := by
  rw [State.rejoin_of_held atStop noChange held fit]
  obtain ⟨up, cleared, stops⟩ := State.floor_rejoinFloor ((s.rejoinCounts f).foldl State.rejoinRoom s) f
  refine ⟨up, cleared, ?_, fun r on => ?_⟩
  · rw [stops, foldl_leaves State.rejoinStop _ State.rejoinStop_rejoinRoom]
  · have among : r ∈ (List.range 16).map (fun i => 16 * f + i) := by
      unfold roomFloor at on
      exact List.mem_map.mpr ⟨r % 16, List.mem_range.mpr (Nat.mod_lt r (by decide)), by omega⟩
    rw [State.entry_rejoinFloor, State.rejoinCounts, State.entry_foldl_rejoinRoom, if_pos among]

/-! ### The obligation -/

/-- Settles O23: both commands go by the module command in progress and by the floor; the fence, the reset whose steps all pass
and the rejoin are the lemmas above. -/
theorem floorRecovery : Obligations.FloorRecovery := by
  unfold Obligations.FloorRecovery
  refine ⟨fun h o s a => ?_, fun h env f o s a => ?_, fun f s => ?_⟩
  · intro g spec
    refine ⟨fun acc busy => ?_, fun acc free down => ?_, fun acc free up => ⟨?_, ?_⟩⟩
    · rw [exec_fence_of_accepts acc, State.moduleCmd_of_busy _ _ busy]
    · rw [exec_fence_of_accepts acc, State.moduleCmd_of_free _ _ free, State.fence_of_not_up down]
    · rw [exec_fence_of_accepts acc, State.moduleCmd_of_free _ _ free]
    · obtain ⟨floors, run⟩ := Prod.mk.inj (State.fence_floorsAndRun up)
      exact ⟨floors, Prod.mk.inj run⟩
  · intro g spec b
    refine ⟨fun acc busy => ?_, fun acc free => ?_, fun held => ?_, fun due powered released fallen => ?_⟩
    · rw [exec_floorReset_of_accepts env acc, State.moduleCmd_of_busy _ _ busy]
    · rw [exec_floorReset_of_accepts env acc, State.moduleCmd_of_free _ _ free]
    · exact State.floor_resetFloor_of_fenced _ (State.mode_fence (s := a.begin_ h 0x49 (.floorReset g)) held)
    · obtain ⟨standing, atStop⟩ := State.resetDue_of_passing due powered released fallen
      obtain ⟨mode, standing⟩ := Prod.mk.inj standing
      obtain ⟨done, stops⟩ := Prod.mk.inj standing
      exact ⟨mode, done, atStop, stops ▸ List.mem_append_right _ (List.mem_singleton_self _)⟩
  · refine ⟨fun atStop noChange held fit => ?_, fun early => congrArg Host.Outcome.next (State.rejoin_of_not_held early)⟩
    obtain ⟨up, cleared, stops, rooms⟩ := State.rejoin_restores atStop noChange held fit
    refine ⟨s.rejoin f.val, rfl, up, cleared, stops.trans (List.filter_congr fun g _ => ?_), fun r on => ?_⟩
    · rw [Bool.eq_iff_iff, bne_iff_ne, decide_eq_true_iff]
    · obtain ⟨tread, rest⟩ := Prod.mk.inj (rooms r on)
      exact ⟨tread, Prod.mk.inj rest⟩

end Sys2Proof.Machine
end

section
/-!
What the operations of an always-on tick leave of an image that is being loaded: the rooms' allowances, the unpackers, the floor
resets and the answers to hosts (R384, R389, R428, R508, R512, R582). One lemma per operation.
-/

namespace Sys2Proof.Machine

/-! ### What bears on a load in progress -/

/-- What a load puts in place, the loads in progress, and the two things that would replace them at a tick: a gear change that may
be announced, and a start that waits. -/
structure Holding where
  image : Option Image
  params : List Word
  started : Option Nat
  loads : List (Image × List Word)
  change : Option GearChange
  startWait : Option StartEnv

def State.holding (s : State) : Holding :=
  ⟨s.image, s.params, s.started, s.cmds.filterMap Cmd.loading, s.change, s.startWait⟩

/-- The holding once a load has ended. -/
def Holding.loaded (x : Holding) (im : Image) (ps : List Word) : Holding :=
  { x with image := some im, params := ps, loads := [] }

/-- The load that a tick ends is the first of those in progress. -/
theorem State.findSome?_loading (s : State) : s.cmds.findSome? Cmd.loading = s.holding.loads.head? :=
  List.head?_filterMap.symm

theorem foldl_holding {α : Type} (g : State → α → State) (h : ∀ s a, (g s a).holding = s.holding) (l : List α)
    (s : State) : (l.foldl g s).holding = s.holding := foldl_leaves State.holding g h l s

theorem State.portsOnly.holding {s t : State} (h : s.portsOnly t) : t.holding = s.holding :=
  (congrArg State.holding h).trans rfl

@[simp] theorem State.setTile_holding (s : State) (t : Nat) (v : Tile) : (s.setTile t v).holding = s.holding := rfl
@[simp] theorem State.setRoom_holding (s : State) (r : Nat) (v : Room) : (s.setRoom r v).holding = s.holding := rfl
@[simp] theorem State.setUnit_holding (s : State) (p : Word) (v : UnitRegs) : (s.setUnit p v).holding = s.holding := rfl
@[simp] theorem State.setInv_holding (s : State) (e : Nat) (v : Inv) : (s.setInv e v).holding = s.holding := rfl
@[simp] theorem State.setBank_holding (s : State) (i : Nat) (v : Bank) : (s.setBank i v).holding = s.holding := rfl
@[simp] theorem State.setDigest_holding (s : State) (i : Nat) (v : Digest) : (s.setDigest i v).holding = s.holding := rfl

@[simp] theorem State.event_holding (s : State) (p : Word) (b : Nat) : (s.event p b).holding = s.holding :=
  State.event_leaves State.setUnit_holding s p b

@[simp] theorem State.notice_holding (s : State) (code : Nat) (detail : List Byte) :
    (s.notice code detail).holding = s.holding := by
  refine foldl_holding _ (fun s d => ?_) _ _
  unfold State.noticeOn
  dsimp only
  split
  · rfl
  · split
    · exact (State.drainNotices_ports _ _ d).holding
    · exact State.limitAt_leaves State.setUnit_holding _ _ _

/-- The ends of commands take away the loads that are among them, and change nothing else. -/
theorem State.finishAll_holding (s : State) (p : Cmd → Bool) (status : Cmd → Nat × List Byte) :
    (s.finishAll p status).holding = { s.holding with loads := (s.cmds.filter (fun c => !p c)).filterMap Cmd.loading } :=
  foldl_holding _ (fun s c => (State.finish_ports s c _ _).holding) _ _

/-- Where none of the commands that end is a load, nothing changes. -/
theorem State.finishAll_holding_of_no_load {s : State} {p : Cmd → Bool} (status : Cmd → Nat × List Byte)
    (spared : ∀ c im ps, c.work = .load im ps → p c = false) : (s.finishAll p status).holding = s.holding := by
  have same : (s.cmds.filter (fun c => !p c)).filterMap Cmd.loading = s.cmds.filterMap Cmd.loading := by
    rw [List.filterMap_filter]
    refine congrArg (s.cmds.filterMap ·) (funext fun c => ?_)
    cases work : c.work with
    | load im ps => rw [spared c im ps work]; rfl
    | _ => simp only [Cmd.loading, work, ite_self]
  rw [State.finishAll_holding, same]
  rfl

/-! ### What the rooms' part of a tick leaves (R384, R389) -/

@[simp] theorem State.allowTick_holding (s : State) (r : Nat) : (s.allowTick r).holding = s.holding := by
  unfold State.allowTick
  dsimp only
  repeat' split
  all_goals rfl

/-- A room at a tick: its hold, its allowance, and the end of an interval. -/
def State.tickRoom (s : State) (r : Nat) : State :=
  let s := if s.clockRuns r then s.setRoom r (s.room r).heldTick else s
  let s := s.allowTick r
  if s.pkt % 64 = 0 then s.setRoom r (s.room r).endInterval else s

/-- The tick is counted, and every room takes it. -/
def State.tickRooms (s : State) : State := (s.rooms.map (·.1)).foldl State.tickRoom { s with pkt := s.pkt + 1 }

theorem State.tickRoom_holding (s : State) (r : Nat) : (s.tickRoom r).holding = s.holding := by
  unfold State.tickRoom
  extract_lets t u
  have held : t.holding = s.holding := by
    unfold t
    split <;> rfl
  have allowed : u.holding = s.holding := (State.allowTick_holding t r).trans held
  split
  · exact allowed
  · exact allowed

theorem State.tickRooms_holding (s : State) : s.tickRooms.holding = s.holding :=
  foldl_holding _ State.tickRoom_holding _ _

/-! ### What the unpackers leave (R428–R434, R445) -/

@[simp] theorem State.abandonCrates_holding (s : State) (adapter : Bool) (i : Nat) :
    (s.abandonCrates adapter i).holding = s.holding :=
  State.finishAll_holding_of_no_load _ fun c im ps work => by simp only [work]

@[simp] theorem State.setKinds_holding (s : State) (bs : List (Nat × Nat)) (k : Nat) : (s.setKinds bs k).holding = s.holding :=
  foldl_holding _ (fun s _ => State.setTile_holding s _ _) _ _

@[simp] theorem State.setCrateSet_holding (s : State) (k : SetId) (v : CrateSet) : (s.setCrateSet k v).holding = s.holding := by
  cases k <;> rfl

@[simp] theorem State.putBad_holding (s : State) (k : SetId) : (s.putBad k).holding = s.holding := by
  cases k <;> rfl

@[simp] theorem State.reRequest_holding (s : State) (k : SetId) (crate code attempt : Nat) :
    (s.reRequest k crate code attempt).holding = s.holding := State.notice_holding s _ _

@[simp] theorem State.finishSet_holding (s : State) (k : SetId) (status : Nat) (detail : List Byte) :
    (s.finishSet k status detail).holding = s.holding :=
  State.finishAll_holding_of_no_load _ fun c im ps work => by simp only [work]

@[simp] theorem State.zeroBank_holding (s : State) (i : Nat) : (s.zeroBank i).holding = s.holding := by
  have kinds : (s.bankKind i 3).holding = s.holding := foldl_holding _ (fun s _ => State.setTile_holding s _ _) _ _
  have digests : ((s.bankKind i 3).clearBankDigests i).holding = (s.bankKind i 3).holding :=
    foldl_holding _ (fun s _ => State.setDigest_holding s _ _) _ _
  rw [State.zeroBank, State.setBank_holding, State.abandonCrates_holding, digests, kinds]

@[simp] theorem State.failSet_holding (s : State) (k : SetId) (crate code : Nat) :
    (s.failSet k crate code).holding = s.holding := by
  cases k <;> simp [State.failSet]

@[simp] theorem State.retryCrate_holding (s : State) (k : SetId) (crate code : Nat) :
    (s.retryCrate k crate code).holding = s.holding := by
  unfold State.retryCrate
  dsimp only
  split
  · exact State.failSet_holding s k crate code
  · rw [State.reRequest_holding, State.setCrateSet_holding]

@[simp] theorem State.retireBank_holding (s : State) (i : Nat) : (s.retireBank i).holding = s.holding := by
  unfold State.retireBank
  dsimp only
  split <;> simp

@[simp] theorem State.markEdge_holding (s : State) (slot : Nat) : (s.markEdge slot).holding = s.holding := by
  unfold State.markEdge
  split <;> rfl

@[simp] theorem State.bankCurrent_holding (s : State) (i : Nat) : (s.bankCurrent i).holding = s.holding := by
  unfold State.bankCurrent
  extract_lets b slot t u
  have retired : u.holding = t.holding := by
    unfold u
    split
    · split
      · rfl
      · exact State.retireBank_holding t _
    · rfl
  split
  · rfl
  · exact retired.trans (State.markEdge_holding s slot)

@[simp] theorem State.completeSet_holding (s : State) (k : SetId) : (s.completeSet k).holding = s.holding := by
  cases k <;> simp [State.completeSet]

@[simp] theorem State.setDigests_holding (s : State) (k : SetId) (slice : Nat) (crc : DWord) :
    (s.setDigests k slice crc).holding = s.holding := by
  refine foldl_holding _ (fun s q => ?_) _ _
  extract_lets d t
  have digest : t.holding = s.holding := State.setDigest_holding s _ d
  split
  · exact (State.setKinds_holding t _ 1).trans digest
  · exact digest

@[simp] theorem State.afterCrate_holding (s : State) (k : SetId) : (s.afterCrate k).holding = s.holding := by
  have verified (l : List Nat) (crc : Nat → DWord) :
      (l.foldl (fun s x => s.setDigests k x (crc x)) s).holding = s.holding :=
    foldl_holding _ (fun s x => State.setDigests_holding s k x _) l s
  unfold State.afterCrate
  dsimp only
  repeat' split
  all_goals simp [verified]

@[simp] theorem State.acceptCrate_holding (s : State) (k : SetId) (number : Nat) (m : Manifest) (slices : List Nat) :
    (s.acceptCrate k number m slices).holding = s.holding := by
  rw [State.acceptCrate, State.afterCrate_holding]
  exact (foldl_holding _ (fun s x => State.setDigests_holding s k x _) _ _).trans (State.setCrateSet_holding s k _)

@[simp] theorem State.writeSlices_holding (s : State) (ws : List (Nat × Nat × List Byte)) (blocks : List (Nat × Nat × Nat)) :
    (s.writeSlices ws blocks).holding = s.holding := by
  refine foldl_holding _ (fun s q => ?_) _ _
  split <;> rfl

/-- What a crate does once it is answered bears on no load. -/
def CrateRes.KeepsHolding (r : CrateRes) : Prop := ∀ s, (r.act s).holding = s.holding

theorem CrateRes.keepsHolding_of_id {r : CrateRes} (inert : r.act = id) : r.KeepsHolding := fun s => by rw [inert]; rfl

section
variable {s : State} {k : SetId} {l : List Byte} {minor clen : Nat} {busy : Bool} {r : CrateRes}

theorem State.unpackManifest_keepsHolding (v : CrateSet) (h : CrateHdr) : (s.unpackManifest k v h l).KeepsHolding := by
  intro t
  unfold State.unpackManifest
  dsimp only
  split
  · exact State.failSet_holding t k 0 3
  · cases k <;> simp

theorem State.unpackData_keepsHolding (v : CrateSet) (m : Manifest) (h : CrateHdr) :
    (s.unpackData k v m h l).KeepsHolding := by
  intro t
  unfold State.unpackData
  dsimp only
  repeat' split
  all_goals simp

theorem State.crateEarly_keepsHolding (settled : s.crateEarly minor clen busy l = some r) : r.KeepsHolding := by
  unfold State.crateEarly at settled
  dsimp only at settled
  repeat' split at settled
  all_goals cases settled
  all_goals exact CrateRes.keepsHolding_of_id rfl

theorem State.crateStream_keepsHolding (settled : s.crateStream k l = some r) : r.KeepsHolding := by
  unfold State.crateStream at settled
  dsimp only at settled
  repeat' split at settled
  all_goals cases settled
  all_goals exact fun t => by simp

theorem State.unpackCrate_keepsHolding (settled : s.unpackCrate minor clen busy l = some r) : r.KeepsHolding := by
  unfold State.unpackCrate at settled
  dsimp only at settled
  split at settled
  · next early =>
    cases settled
    exact State.crateEarly_keepsHolding early
  · cases settled
    exact CrateRes.keepsHolding_of_id rfl
  · split at settled
    · next streamed =>
      cases settled
      exact State.crateStream_keepsHolding streamed
    · split at settled
      · cases settled
      · split at settled
        · cases settled
          exact State.unpackManifest_keepsHolding _ _
        · obtain ⟨m, -, rfl⟩ := Option.map_eq_some_iff.mp settled
          exact State.unpackData_keepsHolding _ _ _

end

/-- A command that is no load can be taken away: the loads stay. -/
theorem filterMap_loading_erase {c : Cmd} (other : c.loading = none) (l : List Cmd) :
    (l.erase c).filterMap Cmd.loading = l.filterMap Cmd.loading := by
  induction l with
  | nil => rfl
  | cons q l ih =>
    by_cases same : q = c
    · subst same
      rw [List.erase_cons_head, List.filterMap_cons_none other]
    · rw [List.erase_cons_tail (by simpa using same), List.filterMap_cons, List.filterMap_cons, ih]

/-- A command that is no load may go on as a crate: the loads stay. -/
theorem filterMap_loading_crate {c : Cmd} (other : c.loading = none) (clen : Nat) (got : List Byte)
    (key : Option (Bool × Nat)) (l : List Cmd) :
    (l.map (fun (q : Cmd) => if q = c then { q with work := .crate clen got key } else q)).filterMap Cmd.loading =
      l.filterMap Cmd.loading := by
  rw [List.filterMap_map]
  refine congrArg (l.filterMap ·) (funext fun q => ?_)
  dsimp only [Function.comp]
  split
  · next taken => rw [taken, other]; rfl
  · rfl

/-- A step of an unpacker changes or takes a command that is a crate. -/
theorem State.unpackStep_holding (s : State) (d : Nat) : (s.unpackStep d).1.holding = s.holding := by
  unfold State.unpackStep
  dsimp only
  split
  · rfl
  · next c rest crates =>
    split
    · next clen got k work =>
      have other : c.loading = none := by simp only [Cmd.loading, work]
      split
      · rfl
      · split
        · exact congrArg (fun loads => { s.holding with loads := loads }) (filterMap_loading_crate other clen got _ s.cmds)
        · next settled =>
          have erased := congrArg (fun loads => { s.holding with loads := loads }) (filterMap_loading_erase other s.cmds)
          exact (State.unpackCrate_keepsHolding settled _).trans ((State.finish_ports _ c _ _).holding.trans erased)
    · rfl

theorem State.unpack_holding (n : Nat) (s : State) (d : Nat) : (s.unpack n d).holding = s.holding := by
  induction n generalizing s with
  | zero => rfl
  | succ n ih =>
    unfold State.unpack
    dsimp only
    split
    · exact (ih _).trans (State.unpackStep_holding s d)
    · exact State.unpackStep_holding s d

theorem State.unpackAll_holding (s : State) : s.unpackAll.holding = s.holding :=
  foldl_holding _ (fun s d => State.unpack_holding _ s d) _ _

/-! ### What a floor reset's steps leave (R582–R585, R635) -/

theorem State.clearFloor_holding (s : State) (f : Nat) : (s.clearFloor f).holding = s.holding := by
  unfold State.clearFloor
  extract_lets a b c v d
  have same : c.holding = s.holding :=
    (foldl_holding _ (fun s _ => State.setUnit_holding s _ _) _ _).trans
      ((foldl_holding _ (fun s _ => State.setTile_holding s _ _) _ _).trans
        (foldl_holding _ (fun s _ => State.setRoom_holding s _ _) _ _))
  exact same

@[simp] theorem State.blockFailed_holding (s : State) (t b : Nat) : (s.blockFailed t b).holding = s.holding := by
  unfold State.blockFailed
  dsimp only
  repeat' split
  all_goals simp

theorem State.reverifyFloor_holding (s : State) (f : Nat) : (s.reverifyFloor f).holding = s.holding := by
  refine foldl_holding _ (fun s k => ?_) _ _
  unfold State.reverify
  dsimp only
  repeat' split
  all_goals simp

theorem State.restoreKinds_holding (s : State) (f : Nat) : (s.restoreKinds f).holding = s.holding :=
  foldl_holding _ (fun s _ => State.setKinds_holding s _ _) _ _

theorem State.benchFloor_holding (s : State) (f : Nat) : (s.benchFloor f).holding = s.holding := by
  refine (State.finishAll_holding_of_no_load _ fun c im ps work => by simp only [work]).trans ?_
  rw [State.notice_holding, State.event_holding]
  rfl

theorem State.holding_with_journal (s : State) (aon queue : List JEnt) :
    { s with jAon := aon, jQueue := queue }.holding = s.holding := rfl

theorem State.journal_holding (s : State) (step : Nat) (u : BootUnit) (alt : Bool) (result : Nat) (fail : BitVec 16) (fr : Bool)
    (attempt : Nat) : (s.journal step u alt result fail fr attempt).holding = s.holding :=
  State.holding_with_journal s _ _

theorem State.attempt_holding (s : State) (l : List AttemptRow) (step : Nat) (u : BootUnit) (fr alt : Bool) (n : Nat)
    (check : Option (BitVec 16)) : (s.attempt l step u fr alt n check).1.holding = s.holding := by
  unfold State.attempt
  split <;> simp only [State.journal_holding]

theorem State.runUnit_holding (s : State) (l : List AttemptRow) (step : Nat) (u : BootUnit) (fr : Bool)
    (check : Bool → Option (BitVec 16)) : (s.runUnit l step u fr check).1.holding = s.holding := by
  have first := State.attempt_holding s l step u fr (s.firstMethod step u) 1 (check (s.firstMethod step u))
  unfold State.runUnit
  dsimp only
  split
  · next attempted =>
    rw [attempted] at first
    exact (State.attempt_holding _ _ _ _ _ _ _ _).trans first
  · next attempted =>
    rw [attempted] at first
    exact first

theorem State.floorStepWork_holding (s : State) (f step : Nat) (alt : Bool) :
    (s.floorStepWork f step alt).holding = s.holding := by
  unfold State.floorStepWork
  split
  · rfl
  · exact State.reverifyFloor_holding s f
  · rfl

theorem State.floorSteps_holding (s : State) (l : Option (List AttemptRow)) (f : Nat) (steps : List Nat) :
    (s.floorSteps l f steps).holding = s.holding := by
  induction steps generalizing s with
  | nil => exact State.restoreKinds_holding s f
  | cons step rest ih =>
    unfold State.floorSteps
    extract_lets u l' r
    have attempted : r.1.holding = s.holding := State.runUnit_holding _ _ _ _ _ _
    split
    · exact (State.benchFloor_holding _ f).trans attempted
    · exact (ih _).trans ((State.floorStepWork_holding _ f step _).trans attempted)

theorem State.resetDue_holding (s : State) (f : Nat) : (s.resetDue f).holding = s.holding := by
  unfold State.resetDue
  split
  · split
    · rfl
    · exact (State.floorSteps_holding _ _ f _).trans (State.clearFloor_holding _ f)
  · rfl

/-! ### What the answers to packets that are no commands leave (R508) -/

theorem State.refuseDue_holding (s : State) : s.refuseDue.holding = s.holding :=
  foldl_holding _ (fun s d => foldl_holding _ (fun s i => (State.skipBad_ports _ s d i).holding) _ s) _ s

end Sys2Proof.Machine
end

section
/-!
What the verdict on an image comes to at IMAGE LOAD, and the load's end at an always-on tick (R412, R415, R509, R512, R514, R610;
log entry 90), and the obligation of image loads (O14).
-/

namespace Sys2Proof.Machine

/-! ### The verdict on an image (R412, R415, R438, R509) -/

/-- R514, R610: a parameter of 14 bits, which is zero under command minor 0. -/
def inReach (minor : Nat) (p : Word) : Prop := p.toNat ≤ 16383 ∧ (minor = 0 → p = 0)

theorem badAt_of_inReach {minor : Nat} {p : Word} (off : Nat) (reach : inReach minor p) :
    badAt ((decide (minor = 0) && p != 0) || decide (16383 < p.toNat)) off = none := by
  obtain ⟨small, zero⟩ := reach
  have notFar : ¬ 16383 < p.toNat := Nat.not_lt.mpr small
  by_cases old : minor = 0
  · simp [badAt, zero old]
  · simp [badAt, notFar, old]

/-- An IMAGE LOAD that its ring gives up, with parameters in their ranges, loads its image unless a module command is in
progress. -/
theorem exec_imageLoad_of_accepts {s a : State} {h : CmdHdr} {iaddr ilen : DWord} {p1 p2 p3 p4 p5 : Word} {raddr : DWord}
    (data : HostRead) (acc : s.accepts h (.onM 0x10 none (parImageLoad iaddr ilen p1 p2 p3 p4 p5 raddr)) a)
    (imageAligned : iaddr.toNat % 64 = 0) (fits : ilen.toNat ≤ 2 ^ 30) (reportAligned : raddr.toNat % 64 = 0)
    (reach : ∀ p ∈ [p2, p3, p4, p5], inReach (s.minorOf h.port.val) p) :
    exec (.imageLoad h iaddr ilen p1 p2 p3 p4 p5 raddr data) s =
      .next ((a.moduleCmd h 0x10 (fun s => s.loadImage h ilen [p1, p2, p3, p4, p5] raddr data)).moveOn h) := by
  simp only [List.forall_mem_cons] at reach
  obtain ⟨reach2, reach3, reach4, reach5, -⟩ := reach
  have aligned (x : DWord) (off : Nat) (zero : x.toNat % 64 = 0) : badAt (decide (x.toNat % 64 ≠ 0)) off = none := by
    simp [badAt, zero]
  have length : badAt (decide (2 ^ 30 < ilen.toNat)) 24 = none := by simp only [badAt, Nat.not_lt.mpr fits, decide_false]; rfl
  change execImageLoad h iaddr ilen p1 p2 p3 p4 p5 raddr data s = _
  unfold execImageLoad
  extract_lets old far bad
  have noBad : bad = none := by
    simp only [bad, far, old, aligned _ _ imageAligned, length, badAt_of_inReach _ reach2, badAt_of_inReach _ reach3,
      badAt_of_inReach _ reach4, badAt_of_inReach _ reach5, aligned _ _ reportAligned]
    rfl
  rw [noBad]
  exact congrArg Host.Outcome.next (State.decode_of_accepts _ acc)

theorem State.writeHost_of_written {s : State} {h : CmdHdr} (opc : Byte) (a : DWord) (b : List Byte) (status : Nat)
    (detail : List Byte) (written : h.hostErr = none) :
    s.writeHost h opc a b status detail = (s.emitWrite h.port.val a b).reply h opc status detail := by
  rw [State.writeHost, written]

/-- R412, R415: the verdict on an image that comes through a port, by the minors that the port has negotiated. -/
def State.verdict (s : State) (d : Nat) (l : List Byte) (ps : List Word) : Except Report Img :=
  s.verify l (((s.die d).neg.map (fun (n : Nat × Nat × Nat) => n.2.1)).getD 0) (s.minorOf d) ps

/-- With no image started, what the loader makes of an image whose length is the one given is its verdict: a load that begins, a
refusal for want of space, or the verifier's report. -/
theorem State.loadImage_of_verdict {s : State} {h : CmdHdr} {ilen : DWord} {l : List Byte} (ps : List Word) (raddr : DWord)
    (idle : s.started = none) (length : fieldAt l 32 8 = ilen.toNat) (written : h.hostErr = none) :
    s.loadImage h ilen ps raddr (.bytes l) = match s.verdict h.port.val l ps with
      | .ok m => if s.spaceOk (s.imageOf m) then { s with image := none }.begin_ h 0x10 (.load (s.imageOf m) ps)
          else s.reply h 0x10 0x0201 (leBytes 1 s.candidate)
      | .error r => (s.emitWrite h.port.val raddr r.bytes).reply h 0x10 0x0200 (leBytes 2 r.code ++ leBytes 2 r.sub) := by
  have notStarted : ¬ s.started.isSome = true := by rw [idle]; exact Bool.false_ne_true
  have sameLength : ¬ fieldAt l 32 8 ≠ ilen.toNat := not_not_intro length
  rw [State.loadImage, if_neg notStarted, if_neg sameLength, ← State.verdict]
  cases s.verdict h.port.val l ps with
  | error r => exact State.writeHost_of_written _ _ _ _ _ written
  | ok m => cases space : s.spaceOk (s.imageOf m) <;> simp [space]

/-! ### The end of a load (R412, R516) -/

theorem State.writeTiles_holding (s : State) (im : Image) (kinds : Bool) : (s.writeTiles im kinds).holding = s.holding :=
  (foldl_holding _ (fun s _ => State.setRoom_holding s _ _) _ _).trans
    ((foldl_holding _ (fun s _ => State.setTile_holding s _ _) _ _).trans
      (foldl_holding _ (fun s _ => State.setTile_holding s _ _) _ _))

theorem State.holding_with_banks (s : State) (banks : Tbl Bank) : { s with banks := banks }.holding = s.holding := rfl

theorem State.freeBanks_holding (s : State) (im : Image) : (s.freeBanks im).holding = s.holding :=
  (State.holding_with_banks _ _).trans (foldl_holding _ (fun s i => State.abandonCrates_holding s true i) _ _)

theorem State.holdImage_holding (s : State) (im : Image) (ps : List Word) :
    (s.holdImage im ps).holding = { s.holding with image := some im, params := ps } := rfl

theorem State.putImage_holding (s : State) (im : Image) (ps : List Word) :
    (s.putImage im ps).holding = { s.holding with image := some im, params := ps } := by
  rw [State.putImage, State.holdImage_holding, State.freeBanks_holding, State.writeTiles_holding]

theorem State.holdImage_run (s : State) (im : Image) (ps : List Word) : (s.holdImage im ps).run =
    (some im, s.run.2.1, false, ps, (ps.getD 1 0).toNat, ((ps.getD 2 0).toNat, (ps.getD 3 0).toNat, (ps.getD 4 0).toNat), []) :=
  rfl

theorem State.holdImage_tiles (s : State) (im : Image) (ps : List Word) : (s.holdImage im ps).tiles = s.tiles := rfl

theorem State.finishAll_tiles (s : State) (p : Cmd → Bool) (status : Cmd → Nat × List Byte) :
    (s.finishAll p status).tiles = s.tiles :=
  foldl_leaves State.tiles _ (fun s c => (State.finish_ports s c _ _).tiles) _ _

section
variable {s : State} {im : Image} {ps : List Word} (loading : s.cmds.findSome? Cmd.loading = some (im, ps))
include loading

theorem State.loadDone_of_loading :
    s.loadDone = (s.putImage im ps).finishAll (fun c => c.loading.isSome) (fun _ => (0, [])) := by
  rw [State.loadDone, loading]

theorem State.loadDone_holding : s.loadDone.holding = s.holding.loaded im ps := by
  have noneLeft (l : List Cmd) : (l.filter (fun c => !c.loading.isSome)).filterMap Cmd.loading = [] :=
    List.filterMap_eq_nil_iff.mpr fun c left => by simpa using (List.mem_filter.mp left).2
  rw [State.loadDone_of_loading loading, State.finishAll_holding, noneLeft, State.putImage_holding]
  rfl

/-- The image with its parameters is in place, and no run of it has started. -/
theorem State.loadDone_run : s.loadDone.run = (some im, s.started, false, ps, (ps.getD 1 0).toNat,
    ((ps.getD 2 0).toNat, (ps.getD 3 0).toNat, (ps.getD 4 0).toNat), []) := by
  rw [State.loadDone_of_loading loading, State.finishAll_run, State.putImage, State.holdImage_run, State.freeBanks_run,
    State.writeTiles_run]
  rfl

theorem State.loadDone_tiles : s.loadDone.tiles = ((s.writeTiles im true).freeBanks im).tiles := by
  rw [State.loadDone_of_loading loading, State.finishAll_tiles, State.putImage, State.holdImage_tiles]

end

/-! ### The tick (R381, R512, R625) -/

/-- What is left of a tick once its load and its start have come: the unpackers, the floor resets that stand due, the limits and
the goals that are in force from now on, and the packets that are no commands. -/
def State.tickRest (s : State) : State :=
  let s := (List.range 16).foldl (fun (s : State) (f : Nat) => s.resetDue f) s.unpackAll
  { s with limsIn := (s.holdLim, s.wdog), goalsIn := s.classes }.refuseDue

theorem exec_allowanceTick_of_powered {s : State} (powered : s.powered = true) :
    exec .allowanceTick s = .next s.tickRooms.gearTick.loadDone.startDue.tickRest :=
  if_neg (by simp [powered])

theorem State.holding_with_limits (s : State) (lims : Nat × Nat) (goals : Tbl Class) :
    { s with limsIn := lims, goalsIn := goals }.holding = s.holding := rfl

theorem State.tickRest_holding (s : State) : s.tickRest.holding = s.holding := by
  rw [State.tickRest, State.refuseDue_holding, State.holding_with_limits, foldl_holding _ State.resetDue_holding,
    State.unpackAll_holding]

theorem State.gearTick_of_no_change {s : State} (settled : s.change = none) : s.gearTick = s := by
  rw [State.gearTick, settled]

theorem State.startDue_of_no_wait {s : State} (noWait : s.startWait = none) : s.startDue = s := by
  rw [State.startDue, noWait]

/-- With no gear change and no start that waits, the tick puts the image of the load in place, and leaves no load. -/
theorem exec_allowanceTick_of_loading {s : State} {im : Image} {ps : List Word}
    (loading : s.cmds.findSome? Cmd.loading = some (im, ps)) (powered : s.powered = true) (noChange : s.change = none)
    (noWait : s.startWait = none) : ∃ t, exec .allowanceTick s = .next t ∧ t.holding = s.holding.loaded im ps := by
  have rooms := State.tickRooms_holding s
  have still : s.tickRooms.gearTick = s.tickRooms :=
    State.gearTick_of_no_change ((congrArg Holding.change rooms).trans noChange)
  have loadingStill : s.tickRooms.cmds.findSome? Cmd.loading = some (im, ps) := by
    rw [State.findSome?_loading, rooms, ← State.findSome?_loading, loading]
  have loaded : s.tickRooms.loadDone.holding = s.holding.loaded im ps := by
    rw [State.loadDone_holding loadingStill, rooms]
  have noStart : s.tickRooms.loadDone.startDue = s.tickRooms.loadDone :=
    State.startDue_of_no_wait ((congrArg Holding.startWait loaded).trans noWait)
  refine ⟨_, exec_allowanceTick_of_powered powered, ?_⟩
  rw [State.tickRest_holding, still, noStart, loaded]

/-! ### The obligation -/

/-- Settles O14: an accepted command has its image judged, in each case by the loader's verdict; the end of a load is that of the
lemmas above, and what an always-on tick does before and after it bears on no load. -/
theorem imageLoads : Obligations.ImageLoads := by
  unfold Obligations.ImageLoads
  intro h iaddr ilen p1 p2 p3 p4 p5 raddr l s a
  refine ⟨fun acc imageAligned fits reportAligned reach free idle length written => ?_, fun im ps loading => ⟨?_, ?_⟩⟩
  · rw [exec_imageLoad_of_accepts _ acc imageAligned fits reportAligned reach, State.moduleCmd_of_free _ _ free,
      State.loadImage_of_verdict _ _ idle length written]
    rfl
  · obtain ⟨image, started, runEnded, params, moduleNo, coords, -⟩ : _ ∧ _ ∧ _ ∧ _ ∧ _ ∧ _ ∧ _ := by
      simpa only [State.run, Prod.mk.injEq] using State.loadDone_run loading
    exact ⟨image, params, moduleNo, coords, started, runEnded, State.loadDone_tiles loading⟩
  · intro powered noChange noWait
    obtain ⟨t, ticks, after⟩ := exec_allowanceTick_of_loading loading powered noChange noWait
    refine ⟨t, ticks, congrArg Holding.image after, congrArg Holding.params after, congrArg Holding.started after, ?_⟩
    rw [State.findSome?_loading, after]
    rfl

end Sys2Proof.Machine
end

section
/-!
What ADAPTER LOAD and BANK ZEROING DONE come to in each case (R445, R446; log entry 30), and the obligation of the banks of
adapter slots (O17).
-/

namespace Sys2Proof.Machine

/-! ### ADAPTER LOAD (R445, R446) -/

/-- The command of an adapter slot that its ring gives up and that passes the checks of R508 clears the slot where IDENT is 0, and
loads one of its banks otherwise. -/
theorem exec_adapterLoad_of_accepts {s a : State} {h : CmdHdr} {slot : Byte} {ver : BitVec 16} {ident : DWord}
    (inRange : slot.toNat < 64) (acc : s.accepts h
      { opc := 0x28, since := 1, sets := false, level := onModule, bad := none, par := parAdapter slot ver ident } a) :
    exec (.adapterLoad h slot ver ident) s = .next ((if ident = 0 then a.clearAdapter h slot.toNat
      else a.loadAdapter h slot.toNat ver ident).moveOn h) := by
  have noBad : badAt (decide (64 ≤ slot.toNat)) 16 = none := by simp [badAt, inRange]
  rw [← noBad] at acc
  exact congrArg Host.Outcome.next (State.decode_of_accepts _ acc)

section
variable {s : State} {slot b d : Nat} (h : CmdHdr) (ver : BitVec 16) (ident : DWord)

/-- A slot one of whose banks loads or is zeroed takes no other load. -/
theorem State.loadAdapter_of_busy (inSlot : b < 2)
    (busy : (s.bank (2 * slot + b)).state = 1 ∨ (s.bank (2 * slot + b)).state = 4) :
    s.loadAdapter h slot ver ident = s.reply h 0x28 0x0109 [0x28] := by
  have member : b ∈ [0, 1] := by simp; omega
  exact if_pos (List.any_eq_true.mpr ⟨b, member, by simpa using busy⟩)

/-- No bank of the slot loads or is zeroed. -/
theorem State.any_busy_eq_false
    (idle : ∀ j < 2, (s.bank (2 * slot + j)).state ≠ 1 ∧ (s.bank (2 * slot + j)).state ≠ 4) :
    [0, 1].any (fun b => (s.bank (2 * slot + b)).state == 1 || (s.bank (2 * slot + b)).state == 4) = false := by
  refine List.any_eq_false.mpr fun j member => ?_
  have inSlot : j < 2 := by simp at member; omega
  simpa using idle j inSlot

/-- The first free bank of an idle slot, its blocks on floors that are up, loads. -/
theorem State.loadAdapter_of_free
    (idle : ∀ j < 2, (s.bank (2 * slot + j)).state ≠ 1 ∧ (s.bank (2 * slot + j)).state ≠ 4)
    (free : [0, 1].find? (fun j => (s.bank (2 * slot + j)).state == 0) = some b)
    (up : s.downBlock (s.bank (2 * slot + b)).place = none) :
    s.loadAdapter h slot ver ident = (s.setBank (2 * slot + b) { s.bank (2 * slot + b) with
      state := 1, ident := ident, version := ver, refs := 0,
      set := { CrateSet.reset with since := s.pkt } }).begin_ h 0x28 (.adapter slot b) := by
  simp only [State.loadAdapter, State.any_busy_eq_false idle, free, up, Bool.false_eq_true, if_false]

/-- A slot whose other bank is current waits for the references of the bank that drains. -/
theorem State.loadAdapter_of_full (inSlot : b < 2) (otherInSlot : d < 2) (distinct : b ≠ d)
    (draining : (s.bank (2 * slot + b)).state = 3) (current : (s.bank (2 * slot + d)).state = 2) :
    s.loadAdapter h slot ver ident = s.reply h 0x28 0x0001 (leBytes 2 (s.bank (2 * slot + b)).refs) := by
  obtain ⟨rfl, rfl⟩ | ⟨rfl, rfl⟩ : (b = 0 ∧ d = 1) ∨ (b = 1 ∧ d = 0) := by omega
  all_goals
    simp only [State.loadAdapter, List.any_cons, List.any_nil, List.find?_cons, List.find?_nil, draining, current]
    rfl

theorem State.clearAdapter_of_no_current (noCurrent : s.currentBank slot = none) :
    s.clearAdapter h slot = s.reply h 0x28 0 [0] := by
  rw [State.clearAdapter, noCurrent]

/-- The current bank leaves its place, and the answer names it. -/
theorem State.clearAdapter_of_current (current : s.currentBank slot = some b) :
    s.clearAdapter h slot = ((s.markEdge slot).retireBank (2 * slot + b)).reply h 0x28 0 (leBytes 1 b) := by
  rw [State.clearAdapter, current]

end

/-! ### BANK ZEROING DONE (R445) -/

/-- With the module ready and the bank's blocks on floors that are up, the zeroing ends. -/
theorem exec_bankZeroingDone_of_reachable {s : State} {i : Fin 64} {k : Fin 2} (ready : s.ready = true)
    (up : s.downBlock (s.bank (2 * i.val + k.val)).place = none) :
    exec (.bankZeroingDone i k) s = .next (s.endZeroing (2 * i.val + k.val)) := by
  change execBankZeroingDone i k s = _
  simp [execBankZeroingDone, ready, up]

/-- Bank k of slot i is told to the hosts by its slot and its bank. -/
theorem State.endZeroing_of_zeroing {s : State} {i k : Nat} (inSlot : k < 2) (zeroing : (s.bank (2 * i + k)).state = 4) :
    s.endZeroing (2 * i + k) = ((s.zeroBlocks (s.bank (2 * i + k)).place).setBank (2 * i + k)
      { Bank.reset with place := ((s.zeroBlocks (s.bank (2 * i + k)).place).bank (2 * i + k)).place }).notice 0x8001
        (leBytes 1 i ++ leBytes 1 k) := by
  have slot : (2 * i + k) / 2 = i := by omega
  have bank : (2 * i + k) % 2 = k := by omega
  rw [State.endZeroing, if_neg (not_not_intro zeroing), slot, bank]

/-! ### The obligation -/

/-- Settles O17: an accepted command is the load or the clearing of its slot on the state that its ring leaves, and each case of
them is one of the lemmas above; the end of a zeroing is that of its bank. -/
theorem adapterCommands : Obligations.AdapterCommands := by
  unfold Obligations.AdapterCommands
  refine ⟨fun h slot ver ident b d s a acc inRange => ?_, fun i k s ready up zeroing => ?_⟩
  · rw [exec_adapterLoad_of_accepts inRange acc]
    refine ⟨fun load idle free up => ?_, fun load inSlot busy => ?_,
      fun load inSlot otherInSlot distinct draining current => ?_, fun clear noCurrent => ?_, fun clear current => ?_⟩
    · rw [if_neg load, State.loadAdapter_of_free h ver ident idle free up]
    · rw [if_neg load, State.loadAdapter_of_busy h ver ident inSlot busy]
    · rw [if_neg load, State.loadAdapter_of_full h ver ident inSlot otherInSlot distinct draining current]
    · rw [if_pos clear, State.clearAdapter_of_no_current h noCurrent]
    · rw [if_pos clear, State.clearAdapter_of_current h current]
      rfl
  · rw [exec_bankZeroingDone_of_reachable ready up, State.endZeroing_of_zeroing k.isLt zeroing]

end Sys2Proof.Machine
end

section
/-!
What FEED and MARK come to in each state of their session (R447, R454, R457, R459, R520; log entry 33), and their obligation
(O20).
-/

namespace Sys2Proof.Machine

/-! ### The session of the command (R451, R452) -/

section
variable {s a : State} {h : CmdHdr} {handle : Word} {i : Nat}

/-- A handle of the command's own port that is current names its session. -/
theorem State.onSession_of_session (opc : Byte) (run : State → Nat → State) (home : handleDie handle = h.port.val)
    (session : s.sessionOf handle = some i) : s.onSession h opc handle run = run s i := by
  rw [State.onSession, if_neg (not_not_intro home), session]

/-- A FEED that its ring gives up, with its payload at an aligned address, is that of its session. -/
theorem exec_feed_of_accepts {rows bytes : BitVec 16} {daddr : DWord} (data : HostRead)
    (acc : s.accepts h (.onM 0x31 none (parFeed handle rows bytes daddr)) a) (aligned : daddr.toNat % 64 = 0)
    (home : handleDie handle = h.port.val) (session : a.sessionOf handle = some i) :
    exec (.feed h handle rows bytes daddr data) s = .next ((a.feed h handle rows bytes data i).moveOn h) := by
  have noBad : badAt (decide (daddr.toNat % 64 ≠ 0)) 24 = none := by simp [badAt, aligned]
  rw [← noBad] at acc
  rw [← State.onSession_of_session 0x31 (fun s i => s.feed h handle rows bytes data i) home session]
  exact congrArg Host.Outcome.next (State.decode_of_accepts _ acc)

/-- A MARK that its ring gives up is that of its session. -/
theorem exec_mark_of_accepts {rows : BitVec 16}
    (acc : s.accepts h (.onM 0x32 none (parHandle handle ++ [byteField 20 2 rows.toNat])) a)
    (home : handleDie handle = h.port.val) (session : a.sessionOf handle = some i) :
    exec (.mark h handle rows) s = .next ((a.mark h handle rows i).moveOn h) := by
  rw [← State.onSession_of_session 0x32 (fun s i => s.mark h handle rows i) home session]
  exact congrArg Host.Outcome.next (State.decode_of_accepts _ acc)

end

/-! ### What a command does to the state of its session (R454, R459) -/

/-- R454, R459: the session's turn is in progress, and a FEED or MARK that comes is noted for the next one. -/
def Sess.inTurn (e : Sess) : Prop := e.state = .thinking ∨ e.state = .speaking ∨ e.state = .ending

/-- R459: the request of the next turn is admitted, where no FEED or MARK has admitted it yet. -/
def State.admitNext (s : State) (i : Nat) : State := if (s.sess i).nextTaken then s else s.admitTurn i

section
variable {s : State} {i : Nat}

theorem State.feedState_of_opened (opened : (s.sess i).state = .opened) :
    s.feedState i = (s.setSess i { s.sess i with state := .listening }).pinModels i := by
  simp only [State.feedState, opened]

theorem State.feedState_of_listening (listening : (s.sess i).state = .listening) : s.feedState i = s := by
  simp only [State.feedState, listening]

theorem State.feedState_of_inTurn (turn : (s.sess i).inTurn) :
    s.feedState i = (s.admitNext i).setSess i { (s.admitNext i).sess i with fedNext := true } := by
  obtain state | state | state := turn
  all_goals simp only [State.feedState, State.admitNext, state]

theorem State.markState_of_opened (opened : (s.sess i).state = .opened) :
    s.markState i = (s.setSess i { s.sess i with state := .thinking, tMark := s.pkt }).pinModels i := by
  simp only [State.markState, opened]

theorem State.markState_of_listening (listening : (s.sess i).state = .listening) :
    s.markState i = s.setSess i { s.sess i with state := .thinking, tMark := s.pkt } := by
  simp only [State.markState, listening]

theorem State.markState_of_inTurn (turn : (s.sess i).inTurn) : s.markState i =
    (s.admitNext i).setSess i { (s.admitNext i).sess i with markq := true, markNext := (s.admitNext i).pkt } := by
  obtain state | state | state := turn
  all_goals simp only [State.markState, State.admitNext, state]

/-! ### Which request needs an adapter (R447, R520) -/

theorem State.notAdmitted_of_opened (opened : (s.sess i).state = .opened) :
    s.notAdmitted i = s.adapterMissing (s.sess i) := by
  simp [State.notAdmitted, opened]

/-- The request that a listening session takes in has been admitted. -/
theorem State.notAdmitted_of_listening (listening : (s.sess i).state = .listening) : s.notAdmitted i = false := by
  simp [State.notAdmitted, listening]

/-- In a turn it is the next turn's first FEED or MARK that needs an adapter. -/
theorem State.notAdmitted_of_inTurn (turn : (s.sess i).inTurn) :
    s.notAdmitted i = (!(s.sess i).nextTaken && s.adapterMissing (s.sess i)) := by
  obtain state | state | state := turn
  all_goals
    simp only [State.notAdmitted, state]
    rfl

theorem State.notAdmitted_of_turn_admitted (turn : (s.sess i).inTurn)
    (admitted : (s.sess i).nextTaken = true ∨ s.adapterMissing (s.sess i) = false) : s.notAdmitted i = false := by
  obtain taken | held := admitted
  · simp [State.notAdmitted_of_inTurn turn, taken]
  · simp [State.notAdmitted_of_inTurn turn, held]

/-- A session whose next FEED or MARK opens a request is not admitted without its adapter. -/
theorem State.notAdmitted_of_missing
    (opens : (s.sess i).state = .opened ∨ ((s.sess i).inTurn ∧ (s.sess i).nextTaken = false))
    (missing : s.adapterMissing (s.sess i) = true) : s.notAdmitted i = true := by
  obtain opened | ⟨turn, untaken⟩ := opens
  · rw [State.notAdmitted_of_opened opened, missing]
  · simp [State.notAdmitted_of_inTurn turn, untaken, missing]

theorem Sess.not_closing_of_inTurn {e : Sess} (turn : e.inTurn) : e.state ≠ .closing := by
  obtain state | state | state := turn
  all_goals simp [state]

theorem Sess.not_closing_of_listening {e : Sess} (listening : e.state = .listening) : e.state ≠ .closing := by
  simp [listening]

/-- A session that would open a request is not closing. -/
theorem Sess.not_closing_of_opens {e : Sess} (opens : e.state = .opened ∨ (e.inTurn ∧ e.nextTaken = false)) :
    e.state ≠ .closing := by
  obtain opened | ⟨turn, -⟩ := opens
  · simp [opened]
  · exact Sess.not_closing_of_inTurn turn

end

/-! ### FEED and MARK of a session (R447, R457, R520) -/

section
variable {s : State} {i : Nat} {r : PipeRec} (h : CmdHdr) (handle : Word) (rows : BitVec 16)
  (served : s.inputPipe i = some r)
include served

theorem State.feed_of_closing (bytes : BitVec 16) (data : HostRead) (closing : (s.sess i).state = .closing) :
    s.feed h handle rows bytes data i = s.reply h 0x31 0x0406 [] := by
  simp only [State.feed, served, closing, if_true]

theorem State.feed_of_no_adapter {bytes : BitVec 16} (data : HostRead) (alive : (s.sess i).state ≠ .closing)
    (fits : bytes.toNat + 8 ≤ 32 * r.ilen) (missing : s.notAdmitted i = true) :
    s.feed h handle rows bytes data i = s.reply h 0x31 0x0407 (leBytes 1 (s.sess i).aslot) := by
  simp only [State.feed, served, alive, Nat.not_lt.mpr fits, missing, if_true, if_false]

/-- A payload that fits the ring goes into an input record, once the state of the session has gone on. -/
theorem State.feed_of_admitted {bytes : BitVec 16} (l : List Byte) (alive : (s.sess i).state ≠ .closing)
    (fits : bytes.toNat + 8 ≤ 32 * r.ilen) (admitted : s.notAdmitted i = false) :
    s.feed h handle rows bytes (.bytes l) i =
      (s.feedState i).inputRecord h 0x31 handle i 0 rows.toNat (padTo bytes.toNat l) := by
  simp only [State.feed, served, alive, Nat.not_lt.mpr fits, admitted, Bool.false_eq_true, if_false]

theorem State.mark_of_closing (closing : (s.sess i).state = .closing) :
    s.mark h handle rows i = s.reply h 0x32 0x0406 [] := by
  simp only [State.mark, served, closing, if_true]

theorem State.mark_of_no_adapter (alive : (s.sess i).state ≠ .closing) (unmarked : (s.sess i).markq = false)
    (missing : s.notAdmitted i = true) :
    s.mark h handle rows i = s.reply h 0x32 0x0407 (leBytes 1 (s.sess i).aslot) := by
  simp only [State.mark, served, alive, unmarked, missing, Bool.false_eq_true, if_true, if_false]

theorem State.mark_of_admitted (alive : (s.sess i).state ≠ .closing) (unmarked : (s.sess i).markq = false)
    (admitted : s.notAdmitted i = false) :
    s.mark h handle rows i = (s.markState i).inputRecord h 0x32 handle i 1 rows.toNat [] := by
  simp only [State.mark, served, alive, unmarked, admitted, Bool.false_eq_true, if_false]

end

/-! ### The obligation -/

/-- Settles O20: an accepted command is that of its session; in each state the lemmas above say whether its request is admitted,
and what it does to the session before its record is put. -/
theorem feedAndMark : Obligations.FeedAndMark := by
  unfold Obligations.FeedAndMark
  intro h handle rows bytes daddr l i r s a aligned home session served e next put
  have feeds (acc : s.accepts h (.onM 0x31 none (parFeed handle rows bytes daddr)) a) :=
    exec_feed_of_accepts (.bytes l) acc aligned home session
  have marks (acc : s.accepts h (.onM 0x32 none (parHandle handle ++ [byteField 20 2 rows.toNat])) a) :=
    exec_mark_of_accepts acc home session
  refine ⟨fun acc opened held fits => ?_, fun acc listening fits => ?_, fun acc opened held unmarked => ?_,
    fun acc listening unmarked => ?_, fun acc turn admitted fits => ?_, fun acc turn unmarked admitted => ?_,
    fun opens missing => ⟨fun acc fits => ?_, fun acc unmarked => ?_⟩, fun acc closing => ?_, fun acc closing => ?_⟩
  · have admitted := (State.notAdmitted_of_opened opened).trans held
    rw [feeds acc, State.feed_of_admitted h handle rows served l (Sess.not_closing_of_opens (.inl opened)) fits admitted,
      State.feedState_of_opened opened]
    rfl
  · rw [feeds acc, State.feed_of_admitted h handle rows served l (Sess.not_closing_of_listening listening) fits
      (State.notAdmitted_of_listening listening), State.feedState_of_listening listening]
    rfl
  · have admitted := (State.notAdmitted_of_opened opened).trans held
    rw [marks acc, State.mark_of_admitted h handle rows served (Sess.not_closing_of_opens (.inl opened)) unmarked admitted,
      State.markState_of_opened opened]
    rfl
  · rw [marks acc, State.mark_of_admitted h handle rows served (Sess.not_closing_of_listening listening) unmarked
      (State.notAdmitted_of_listening listening), State.markState_of_listening listening]
    rfl
  · rw [feeds acc, State.feed_of_admitted h handle rows served l (Sess.not_closing_of_inTurn turn) fits
      (State.notAdmitted_of_turn_admitted turn admitted), State.feedState_of_inTurn turn]
    rfl
  · rw [marks acc, State.mark_of_admitted h handle rows served (Sess.not_closing_of_inTurn turn) unmarked
      (State.notAdmitted_of_turn_admitted turn admitted), State.markState_of_inTurn turn]
    rfl
  · rw [feeds acc, State.feed_of_no_adapter h handle rows served _ (Sess.not_closing_of_opens opens) fits
      (State.notAdmitted_of_missing opens missing)]
  · rw [marks acc, State.mark_of_no_adapter h handle rows served (Sess.not_closing_of_opens opens) unmarked
      (State.notAdmitted_of_missing opens missing)]
  · rw [feeds acc, State.feed_of_closing h handle rows served bytes _ closing]
  · rw [marks acc, State.mark_of_closing h handle rows served closing]

end Sys2Proof.Machine
end

section
/-!
What the checks make of a crate, what becomes of the bytes that a CRATE LOAD brings, and which crates an arrival timeout asks for
again (R428–R432, R519; log entries 27 and 89), and the obligation of crates (O18).
-/

namespace Sys2Proof.Machine

/-! ### The checks of a crate (R429, R430) -/

theorem CrateHdr.kind_le_of_legal {h : CrateHdr} {minor clen : Nat} (legal : h.legal minor clen = true) : h.kind ≤ 1 := by
  simp only [CrateHdr.legal, Bool.and_eq_true, decide_eq_true_eq] at legal
  omega

section
variable {s : State} {minor clen : Nat} {busy : Bool} {l : List Byte} {k : SetId} {m : Manifest} {r : CrateRes}

/-- An outcome that the header settles is the crate's. -/
theorem State.unpackCrate_of_early (early : s.crateEarly minor clen busy l = some r) :
    s.unpackCrate minor clen busy l = some r := by
  unfold State.unpackCrate
  simp only [early]

theorem State.crateEarly_of_illegal (illegal : (crateHdr l).legal minor clen = false) :
    s.crateEarly minor clen busy l = some (CrateRes.fail id (crateHdr l).number 1) := by
  simp [State.crateEarly, illegal]

section
variable (legal : (crateHdr l).legal minor clen = true)
include legal

theorem State.crateEarly_of_no_set (noSet : s.findSet ((crateHdr l).flags / 4 % 2 == 1) (crateHdr l).ident = none) :
    s.crateEarly minor clen busy l = some (CrateRes.fail id (crateHdr l).number 2) := by
  simp only [State.crateEarly, legal, noSet, Bool.not_true, Bool.false_eq_true, if_false]

variable (named : s.findSet ((crateHdr l).flags / 4 % 2 == 1) (crateHdr l).ident = some k)
include named

/-- A data crate needs its set's manifest. -/
theorem State.crateEarly_of_no_manifest (data : (crateHdr l).kind = 1) (noManifest : (s.crateSet k).manifest = none) :
    s.crateEarly minor clen busy l = some (CrateRes.fail id (crateHdr l).number 2) := by
  simp [State.crateEarly, legal, named, data, noManifest]

/-- A data crate that its set has, or that another unpacker processes, is a duplicate. -/
theorem State.crateEarly_of_duplicate (data : (crateHdr l).kind = 1) (manifested : (s.crateSet k).manifest ≠ none)
    (duplicate : busy = true ∨ (s.crateSet k).accepted.contains (crateHdr l).number = true) :
    s.crateEarly minor clen busy l = some ⟨id, 0x0302, leBytes 4 (crateHdr l).number⟩ := by
  obtain taken | held := duplicate
  · simp [State.crateEarly, legal, named, data, manifested, taken]
  · simp only [State.crateEarly, legal, named, data, held, Option.isNone_iff_eq_none, manifested]
    simp

/-- The header settles nothing of a data crate that its set awaits. -/
theorem State.crateEarly_of_awaited (data : (crateHdr l).kind = 1) (manifested : (s.crateSet k).manifest = some m)
    (free : busy = false) (unheld : (s.crateSet k).accepted.contains (crateHdr l).number = false) :
    s.crateEarly minor clen busy l = none := by
  simp only [State.crateEarly, legal, named, data, manifested, free, unheld]
  simp

/-- The header settles nothing of a manifest crate whose set has no manifest. -/
theorem State.crateEarly_of_manifest (manifest : (crateHdr l).kind = 0) (noManifest : (s.crateSet k).manifest = none)
    (free : busy = false) : s.crateEarly minor clen busy l = none := by
  simp [State.crateEarly, legal, named, manifest, noManifest, free]

end

/-- A data crate of another number or length than the manifest's is asked for again (R429 check 4). -/
theorem State.crateStream_of_other_length (data : (crateHdr l).kind = 1) (manifested : (s.crateSet k).manifest = some m)
    (other : (m.crates[(crateHdr l).number - 1]?).map (·.1) ≠ some (crateHdr l).blen) : s.crateStream k l =
      some (CrateRes.fail (fun t => t.retryCrate k (crateHdr l).number 4) (crateHdr l).number 4) := by
  simp [State.crateStream, data, manifested, other]

/-- A CRC that does not match shows once the body is there (R429 check 5). -/
theorem State.crateStream_of_spoilt (data : (crateHdr l).kind = 1) (manifested : (s.crateSet k).manifest = some m)
    (same : (m.crates[(crateHdr l).number - 1]?).map (·.1) = some (crateHdr l).blen)
    (bodyHere : 64 + (crateHdr l).blen ≤ l.length)
    (spoilt : crcsOk ((l.drop 64).take (crateHdr l).blen) (l.drop (64 + (crateHdr l).blen)) = false) : s.crateStream k l =
      some (CrateRes.fail (fun t => t.retryCrate k (crateHdr l).number 5) (crateHdr l).number 5) := by
  simp [State.crateStream, data, manifested, same, bodyHere, spoilt]

/-- The bytes settle nothing of a data crate of the manifest's length whose CRCs match. -/
theorem State.crateStream_of_data (data : (crateHdr l).kind = 1) (manifested : (s.crateSet k).manifest = some m)
    (same : (m.crates[(crateHdr l).number - 1]?).map (·.1) = some (crateHdr l).blen)
    (whole : crcsOk ((l.drop 64).take (crateHdr l).blen) (l.drop (64 + (crateHdr l).blen)) = true) :
    s.crateStream k l = none := by
  simp [State.crateStream, data, manifested, same, whole]

/-- The bytes settle nothing of a manifest crate whose manifest reads and whose CRCs match. -/
theorem State.crateStream_of_manifest (manifest : (crateHdr l).kind = 0)
    (reads : readManifest (crateHdr l) (l.take 64) ((l.drop 64).take (crateHdr l).blen)
      (fun i => Tbl.get none s.ownerKeys i) (s.expectSlices k) = some m)
    (whole : crcsOk ((l.drop 64).take (crateHdr l).blen) (l.drop (64 + (crateHdr l).blen)) = true) :
    s.crateStream k l = none := by
  simp [State.crateStream, manifest, reads, whole]

section
variable (early : s.crateEarly minor clen busy l = none)
  (named : s.findSet ((crateHdr l).flags / 4 % 2 == 1) (crateHdr l).ident = some k)
include early named

/-- What the header leaves open, an outcome that the bytes settle decides. -/
theorem State.unpackCrate_of_stream (streamed : s.crateStream k l = some r) : s.unpackCrate minor clen busy l = some r := by
  unfold State.unpackCrate
  simp only [early, named, streamed]

/-- A whole crate that has passed so far goes on to the checks of its kind. -/
theorem State.unpackCrate_of_whole (undecided : s.crateStream k l = none) (whole : clen ≤ l.length) :
    s.unpackCrate minor clen busy l = if (crateHdr l).kind = 0
      then some (s.unpackManifest k (s.crateSet k) (crateHdr l) l)
      else (s.crateSet k).manifest.map (fun m => s.unpackData k (s.crateSet k) m (crateHdr l) l) := by
  unfold State.unpackCrate
  simp only [early, named, undecided, Nat.not_lt.mpr whole, if_false]

/-- A crate that its header leaves open is a manifest, or its set has one. -/
theorem State.manifest_of_crateEarly_none (data : (crateHdr l).kind ≠ 0) : (s.crateSet k).manifest ≠ none := by
  intro noManifest
  cases legal : (crateHdr l).legal minor clen with
  | false => simp [State.crateEarly_of_illegal legal] at early
  | true =>
    have kind := CrateHdr.kind_le_of_legal legal
    simp [State.crateEarly_of_no_manifest legal named (by omega) noManifest] at early

end

/-- No set in progress is named. -/
theorem State.unpackCrate_of_nameless (early : s.crateEarly minor clen busy l = none)
    (noSet : s.findSet ((crateHdr l).flags / 4 % 2 == 1) (crateHdr l).ident = none) :
    s.unpackCrate minor clen busy l = some (CrateRes.fail id (crateHdr l).number 2) := by
  unfold State.unpackCrate
  simp only [early, noSet]

/-- A crate is decided when it is whole, at the latest. -/
theorem State.unpackCrate_isSome_of_whole (s : State) (minor : Nat) (busy : Bool) (whole : clen ≤ l.length) :
    ∃ r, s.unpackCrate minor clen busy l = some r := by
  cases early : s.crateEarly minor clen busy l with
  | some r => exact ⟨r, State.unpackCrate_of_early early⟩
  | none =>
    cases named : s.findSet ((crateHdr l).flags / 4 % 2 == 1) (crateHdr l).ident with
    | none => exact ⟨_, State.unpackCrate_of_nameless early named⟩
    | some k =>
      cases streamed : s.crateStream k l with
      | some r => exact ⟨r, State.unpackCrate_of_stream early named streamed⟩
      | none =>
        rw [State.unpackCrate_of_whole early named streamed whole]
        split
        · exact ⟨_, rfl⟩
        · next data =>
          obtain ⟨m, manifested⟩ := Option.ne_none_iff_exists'.mp (State.manifest_of_crateEarly_none early named data)
          exact ⟨_, by rw [manifested]; rfl⟩

/-! ### What a crate that passes does (R428, R430) -/

/-- R430: the manifest of a set is there, and its crates are awaited from now on. -/
def State.takeManifest (s : State) (k : SetId) (v : CrateSet) (m : Manifest) : State :=
  let u := s.setCrateSet k { v with manifest := some m, since := s.pkt }
  (match k with
    | .model e => u.setInv e { u.invOf e with slices := m.slices.length }
    | .bank _ => u).putBad k

theorem State.unpackManifest_of_read (v : CrateSet) {h : CrateHdr}
    (reads : readManifest h (l.take 64) ((l.drop 64).take h.blen) (fun i => Tbl.get none s.ownerKeys i)
      (s.expectSlices k) = some m) :
    s.unpackManifest k v h l = ⟨fun t => t.takeManifest k v m, 0, leBytes 8 h.ident ++ leBytes 4 0⟩ := by
  simp only [State.unpackManifest, reads]
  rfl

/-- The slices of a data crate whose blocks lie on floors that are up are written and read back. -/
theorem State.unpackData_of_up {v : CrateSet} {h : CrateHdr} {ws : List (Nat × Nat × List Byte)}
    (passes : dataCrate h l m v.wrote (fun i => Tbl.get none s.crateKeys i) = .ok ws)
    (up : ∀ q ∈ (s.setPlace k).filter (fun q => (ws.map (·.1)).eraseDups.contains q.2.2),
      s.floorUp (tileFloor q.1) = true) :
    s.unpackData k v m h l =
      let slices := (ws.map (·.1)).eraseDups
      let blocks := (s.setPlace k).filter (fun q => slices.contains q.2.2)
      if slices.all (fun x => (s.writeSlices ws blocks).sliceBack ws blocks x == (m.slices.getD x 0).toNat) then
        ⟨fun t => (t.writeSlices ws blocks).acceptCrate k h.number m slices, 0, leBytes 8 h.ident ++ leBytes 4 h.number⟩
      else CrateRes.fail (fun t => (t.writeSlices ws blocks).retryCrate k h.number 10) h.number 10 := by
  have noneDown : ((s.setPlace k).filter (fun q => (ws.map (·.1)).eraseDups.contains q.2.2)).find?
      (fun q => !(s.floorUp (tileFloor q.1))) = none :=
    List.find?_eq_none.mpr fun q mem => by simp [up q mem]
  simp only [State.unpackData, passes, noneDown]

end

/-! ### The commands that are crates (R428) -/

/-- The command of a CRATE LOAD whose crate has come as far as its bytes `got`. -/
def State.crateCmd (s : State) (h : CmdHdr) (clen : Nat) (got : List Byte) : Cmd :=
  { h := h, opc := 0x20, tick := s.pkt, work := .crate clen got none, mute := false }

/-- A CRATE LOAD with the bytes that have come is in progress. -/
def State.withCrate (s : State) (h : CmdHdr) (clen : Nat) (got : List Byte) : State :=
  s.begin_ h 0x20 (.crate clen got none)

theorem State.withCrate_cmds (s : State) (h : CmdHdr) (clen : Nat) (got : List Byte) :
    (s.withCrate h clen got).cmds = s.cmds ++ [s.crateCmd h clen got] := rfl

/-- A command as it is once bytes have come for header h: a crate of that header has them. -/
def Cmd.given (h : CmdHdr) (l : List Byte) (c : Cmd) : Cmd :=
  if c.h = h then
    match c.work with
    | .crate clen got key => { c with work := .crate clen (got ++ l) key }
    | _ => c
  else c

theorem State.crateBytes_eq (s : State) (h : CmdHdr) (l : List Byte) : s.crateBytes h l =
    { s with cmds := s.cmds.map (Cmd.given h l) }.unpack ((s.cmds.map (Cmd.given h l)).length + 1) h.port.val := rfl

theorem Cmd.given_of_other {h : CmdHdr} {c : Cmd} (l : List Byte) (other : c.h ≠ h) : c.given h l = c := if_neg other

theorem State.given_crateCmd (s : State) (h : CmdHdr) (clen : Nat) (l : List Byte) :
    (s.crateCmd h clen []).given h l = s.crateCmd h clen l := if_pos rfl

theorem State.portsOnly.cmds {s t : State} (h : s.portsOnly t) : t.cmds = s.cmds :=
  (congrArg State.cmds h).trans rfl

theorem State.crateCmds_of_cmds {s t : State} (same : t.cmds = s.cmds) (d : Nat) : t.crateCmds d = s.crateCmds d := by
  rw [State.crateCmds, same]; rfl

theorem State.unpack_of_no_crate {s : State} {d : Nat} (n : Nat) (noCrate : s.crateCmds d = []) : s.unpack n d = s := by
  cases n with
  | zero => rfl
  | succ n => simp [State.unpack, State.unpackStep, noCrate]

section
variable {s : State} {d clen : Nat} {c : Cmd} {rest : List Cmd} {got : List Byte} (oldest : s.crateCmds d = c :: rest)
  (crate : c.work = .crate clen got none)
include oldest crate

/-- An unpacker waits for the header of its oldest crate. -/
theorem State.unpack_of_headless (n : Nat) (short : got.length < min 64 clen) : s.unpack n d = s := by
  cases n with
  | zero => rfl
  | succ n => simp only [State.unpack, State.unpackStep, oldest, crate, short, if_true, Bool.false_eq_true, if_false]

/-- An unpacker answers its oldest crate once it has an outcome, does what the outcome says, and goes on to the next crate. -/
theorem State.unpack_of_decided (n : Nat) {r : CrateRes} (headed : min 64 clen ≤ got.length)
    (alone : ∀ key number, s.crateBusy c.h.port key number = false)
    (outcome : s.unpackCrate (((s.die d).neg.map (fun n => n.2.2)).getD 0) clen false (got.take clen) = some r) :
    s.unpack (n + 1) d = (r.act (State.finish { s with cmds := s.cmds.erase c } c r.status r.detail)).unpack n d := by
  simp only [State.unpack, State.unpackStep, oldest, crate, Nat.not_lt.mpr headed, alone, Bool.and_false, outcome,
    if_true, if_false]

end

section
variable {a : State} {h : CmdHdr} (clen : Nat) (l : List Byte)

section
variable (fresh : ∀ c ∈ a.cmds, c.h ≠ h)
include fresh

/-- The bytes that come to a new crate are its first. -/
theorem State.crateBytes_of_fresh : (a.withCrate h clen []).crateBytes h l =
    (a.withCrate h clen l).unpack (a.cmds.length + 2) h.port.val := by
  have others : a.cmds.map (Cmd.given h l) = a.cmds :=
    (List.map_congr_left fun c mem => Cmd.given_of_other l (fresh c mem)).trans (List.map_id _)
  have cmds : (a.withCrate h clen []).cmds.map (Cmd.given h l) = (a.withCrate h clen l).cmds := by
    rw [State.withCrate_cmds, List.map_append, others]
    exact congrArg (a.cmds ++ [·]) (State.given_crateCmd a h clen l)
  have length : (a.withCrate h clen l).cmds.length + 1 = a.cmds.length + 2 := by
    rw [State.withCrate_cmds, List.length_append, List.length_singleton]
  rw [State.crateBytes_eq, cmds, length]
  rfl

/-- A command that its header tells from those in progress is the only one that ends. -/
theorem State.finishAll_of_fresh (status : Cmd → Nat × List Byte) :
    (a.withCrate h clen l).finishAll (fun c => c.h == h) status =
      a.reply h 0x20 (status (a.crateCmd h clen l)).1 (status (a.crateCmd h clen l)).2 := by
  have noneDone : a.cmds.filter (fun c => c.h == h) = [] :=
    List.filter_eq_nil_iff.mpr fun c mem => by simpa using fresh c mem
  have allLeft : a.cmds.filter (fun c => !(c.h == h)) = a.cmds :=
    List.filter_eq_self.mpr fun c mem => by simpa using fresh c mem
  have done : (a.withCrate h clen l).cmds.filter (fun c => c.h == h) = [a.crateCmd h clen l] := by
    rw [State.withCrate_cmds, List.filter_append, noneDone]
    simp [State.crateCmd]
  have left : (a.withCrate h clen l).cmds.filter (fun c => !(c.h == h)) = a.cmds := by
    rw [State.withCrate_cmds, List.filter_append, allLeft]
    simp [State.crateCmd]
  unfold State.finishAll
  simp only [done, left]
  rfl

/-- Without it the commands are those that were in progress. -/
theorem State.cmds_erase_crateCmd : (a.cmds ++ [a.crateCmd h clen l]).erase (a.crateCmd h clen l) = a.cmds := by
  have absent : a.crateCmd h clen l ∉ a.cmds := fun mem => fresh _ mem rfl
  rw [List.erase_append_right _ absent]
  simp

end

section
variable (noCrate : ∀ d, a.crateCmds d = [])
include noCrate

theorem State.crateCmds_withCrate : (a.withCrate h clen l).crateCmds h.port.val = [a.crateCmd h clen l] := by
  have before : (a.withCrate h clen l).crateCmds h.port.val = a.crateCmds h.port.val ++ [a.crateCmd h clen l] := by
    simp [State.crateCmds, State.withCrate_cmds, List.filter_append, State.crateCmd]
  rw [before, noCrate, List.nil_append]

/-- None of the commands that were in progress is a crate. -/
theorem State.work_of_no_crate : ∀ q ∈ a.cmds, ∀ m g j, q.work ≠ .crate m g j := by
  intro q mem m g j work
  have crate : q ∈ a.crateCmds q.h.port.val := List.mem_filter.mpr ⟨mem, by simp [work]⟩
  rw [noCrate] at crate
  exact absurd crate List.not_mem_nil

/-- No other unpacker has a crate in process. -/
theorem State.crateBusy_withCrate (key : Option (Bool × Nat)) (number : Nat) :
    (a.withCrate h clen l).crateBusy h.port key number = false := by
  refine Bool.and_eq_false_imp.mpr fun _ => List.any_eq_false.mpr fun q mem => ?_
  rw [State.withCrate_cmds, List.mem_append, List.mem_singleton] at mem
  obtain before | rfl := mem
  · have other := State.work_of_no_crate noCrate q before
    cases work : q.work with
    | crate m g j => exact absurd work (other m g j)
    | _ => simp
  · simp [State.crateCmd]

end

end

/-! ### CRATE LOAD (R428, R509, R519) -/

/-- The command of a crate that no unpacker receives yet, with its bytes at an aligned address, begins with what its read
brings. -/
theorem exec_crateLoad_of_accepts {s a : State} {h : CmdHdr} {caddr : DWord} {clen : Word} (data : HostRead)
    (new : s.receiving h = false)
    (acc : s.accepts h (.onM 0x20 none [byteField 16 8 caddr.toNat, byteField 24 4 clen.toNat]) a)
    (aligned : caddr.toNat % 64 = 0) :
    exec (.crateLoad h caddr clen data) s = .next (((a.withCrate h clen.toNat []).crateRead h data).moveOn h) := by
  have noBad : badAt (decide (caddr.toNat % 64 ≠ 0)) 16 = none := by simp [badAt, aligned]
  rw [← noBad] at acc
  refine (if_neg (by simp [new])).trans (congrArg Host.Outcome.next ?_)
  exact State.decode_of_accepts _ acc

section
variable {a : State} {h : CmdHdr} (clen : Nat) (noCrate : ∀ d, a.crateCmds d = []) (fresh : ∀ c ∈ a.cmds, c.h ≠ h)
include noCrate fresh

/-- The first bytes of a crate, too few for its header, wait for more. -/
theorem State.crateRead_of_headless {l : List Byte} (short : l.length < min 64 clen) :
    (a.withCrate h clen []).crateRead h (.bytes l) = a.withCrate h clen l :=
  (State.crateBytes_of_fresh clen l fresh).trans
    (State.unpack_of_headless (State.crateCmds_withCrate clen l noCrate) rfl _ short)

/-- A read that fails ends the command with its address. -/
theorem State.crateRead_of_error (x : DWord) :
    (a.withCrate h clen []).crateRead h (.error x) = a.reply h 0x20 0x0108 (leBytes 8 x.toNat) := by
  have left := (State.crateCmds_of_cmds (State.reply_ports a h 0x20 0x0108 (leBytes 8 x.toNat)).cmds h.port.val).trans
    (noCrate h.port.val)
  rw [State.crateRead, State.finishAll_of_fresh clen [] fresh, State.unpack_of_no_crate _ left]

/-- A crate whose checks have come to an outcome is answered with its status, and does what the outcome says. -/
theorem State.crateRead_of_decided {l : List Byte} {r : CrateRes} (headed : min 64 clen ≤ l.length)
    (outcome : (a.withCrate h clen l).unpackCrate (((a.die h.port.val).neg.map (fun n => n.2.2)).getD 0) clen false
      (l.take clen) = some r) :
    (a.withCrate h clen []).crateRead h (.bytes l) =
      (r.act (a.reply h 0x20 r.status r.detail)).unpack a.cmds.length.succ h.port.val := by
  have erased := State.cmds_erase_crateCmd clen l fresh
  have answered : State.finish { a.withCrate h clen l with
      cmds := (a.withCrate h clen l).cmds.erase (a.crateCmd h clen l) } (a.crateCmd h clen l) r.status r.detail =
      a.reply h 0x20 r.status r.detail := by
    rw [State.withCrate_cmds, erased]; rfl
  rw [State.crateRead, State.crateBytes_of_fresh clen l fresh,
    State.unpack_of_decided (State.crateCmds_withCrate clen l noCrate) rfl _ headed
      (State.crateBusy_withCrate clen l noCrate) outcome, answered]

end

/-! ### CRATE ARRIVAL TIMEOUT (R431, R432) -/

/-- The set that a timeout names. -/
def setIdOf : SetRef → SetId
  | .model e => .model e.val
  | .bank i j => .bank (2 * i.val + j.val)

theorem exec_crateArrivalTimeout_of_ready {s : State} (c : SetRef) (ready : s.ready = true) :
    exec (.crateArrivalTimeout c) s = .next (s.arrivalTimeout (setIdOf c)) := by
  change execCrateArrivalTimeout c s = _
  cases c with
  | model e => simp [execCrateArrivalTimeout, ready, setIdOf]
  | bank i j => simp [execCrateArrivalTimeout, ready, setIdOf]

/-- R431: the crates of a loading set that have stayed away for their 2 s, and stand whole at no unpacker. -/
def State.overdue (s : State) (k : SetId) (m : Manifest) : List Nat :=
  ((List.range m.crates.length).map (· + 1)).filter (fun n =>
    !((s.crateSet k).accepted.contains n) && ((s.crateSet k).late n s.pkt && !(s.arrived k n)))

section
variable {s : State} {k : SetId} {m : Manifest} (sound : s.repairing k = false) (loading : s.setState k = 1)
  (manifested : (s.crateSet k).manifest = some m)
include sound loading manifested

/-- The overdue crates are asked for again, where none of them has had its four requests; otherwise the set fails. -/
theorem State.arrivalTimeout_of_loading : s.arrivalTimeout k =
    match (s.overdue k m).find? (fun n => decide (4 ≤ Tbl.get 0 (s.crateSet k).tries n)) with
    | some n => s.failSet k n (Tbl.get 0 (s.crateSet k).last n)
    | none => (s.overdue k m).foldl (fun b n => b.retryCrate k n (Tbl.get 0 (b.crateSet k).last n)) s := by
  have same : (((List.range m.crates.length).map (· + 1)).filter (fun n => !((s.crateSet k).accepted.contains n))).filter
      (fun n => (s.crateSet k).late n s.pkt && !(s.arrived k n)) = s.overdue k m := by
    rw [List.filter_filter]
    exact congrArg (List.filter · _) (funext fun n => Bool.and_comm _ _)
  simp only [State.arrivalTimeout, manifested, sound, loading, Bool.false_eq_true, if_false, if_true, same] <;> rfl

theorem State.arrivalTimeout_of_requests_left
    (left : ∀ n ∈ s.overdue k m, Tbl.get 0 (s.crateSet k).tries n < 4) :
    s.arrivalTimeout k = (s.overdue k m).foldl (fun b n => b.retryCrate k n (Tbl.get 0 (b.crateSet k).last n)) s := by
  have noneSpent : (s.overdue k m).find? (fun n => decide (4 ≤ Tbl.get 0 (s.crateSet k).tries n)) = none :=
    List.find?_eq_none.mpr fun n mem => by simpa using left n mem
  rw [State.arrivalTimeout_of_loading sound loading manifested, noneSpent]

theorem State.arrivalTimeout_of_requests_spent {n : Nat}
    (spent : (s.overdue k m).find? (fun n => decide (4 ≤ Tbl.get 0 (s.crateSet k).tries n)) = some n) :
    s.arrivalTimeout k = s.failSet k n (Tbl.get 0 (s.crateSet k).last n) := by
  rw [State.arrivalTimeout_of_loading sound loading manifested, spent]

end

/-! ### The obligation -/

/-- Settles O18: an accepted command begins with what its read brings, and its unpacker does what the checks say; what they say in
each case is one of the lemmas above, and so are the crates that a timeout finds overdue. -/
theorem crateCommands : Obligations.CrateCommands := by
  unfold Obligations.CrateCommands
  refine ⟨fun h caddr x clen l r s a new acc aligned noCrate fresh => ?_, fun minor clen l k m ws busy s => ?_,
    fun c m x s ready => ?_⟩
  · intro b minor
    refine ⟨fun short part => ?_, ?_, fun headed outcome => ?_, fun whole => ?_⟩
    · rw [exec_crateLoad_of_accepts _ new acc aligned,
        State.crateRead_of_headless clen.toNat noCrate fresh (Nat.lt_min.mpr ⟨short, part⟩)]
      rfl
    · rw [exec_crateLoad_of_accepts _ new acc aligned, State.crateRead_of_error clen.toNat noCrate fresh]
    · rw [exec_crateLoad_of_accepts _ new acc aligned,
        State.crateRead_of_decided clen.toNat noCrate fresh headed outcome]
    · exact State.unpackCrate_isSome_of_whole b minor false (Nat.le_of_eq whole.symm)
  · intro h body v r
    refine ⟨fun illegal => ?_, fun legal noSet => ?_, fun legal named data manifested duplicate => ?_,
      fun legal named data manifested free unheld => ⟨fun other => ?_, fun same bodyHere spoilt => ?_⟩,
      fun legal named manifest noManifest free whole reads intact => ?_,
      fun legal named data manifested free unheld whole same intact passes => ?_⟩
    · exact State.unpackCrate_of_early (State.crateEarly_of_illegal illegal)
    · exact State.unpackCrate_of_early (State.crateEarly_of_no_set legal noSet)
    · exact State.unpackCrate_of_early (State.crateEarly_of_duplicate legal named data manifested duplicate)
    · exact State.unpackCrate_of_stream (State.crateEarly_of_awaited legal named data manifested free unheld) named
        (State.crateStream_of_other_length data manifested other)
    · exact State.unpackCrate_of_stream (State.crateEarly_of_awaited legal named data manifested free unheld) named
        (State.crateStream_of_spoilt data manifested same bodyHere spoilt)
    · refine (State.unpackCrate_of_whole (State.crateEarly_of_manifest legal named manifest noManifest free) named
        (State.crateStream_of_manifest manifest reads intact) (Nat.le_of_eq whole.symm)).trans ?_
      rw [if_pos manifest, State.unpackManifest_of_read _ reads]
      rfl
    · intro slices blocks up good
      have notManifest : (crateHdr l).kind ≠ 0 := fun manifest => absurd (manifest.symm.trans data) Nat.zero_ne_one
      refine (State.unpackCrate_of_whole (State.crateEarly_of_awaited legal named data manifested free unheld) named
        (State.crateStream_of_data data manifested same intact) (Nat.le_of_eq whole.symm)).trans ?_
      rw [if_neg notManifest, manifested, Option.map_some, State.unpackData_of_up passes up]
      rfl
  · intro k v due sound loading manifested
    have set : k = setIdOf c := by cases c <;> rfl
    clear_value k
    subst set
    rw [exec_crateArrivalTimeout_of_ready c ready]
    refine ⟨fun left => ?_, fun spent => ?_⟩
    · rw [State.arrivalTimeout_of_requests_left sound loading manifested left]
      rfl
    · rw [State.arrivalTimeout_of_requests_spent sound loading manifested spent]

end Sys2Proof.Machine
end

section
/-!
What SESSION CLOSE and the two cancellations come to in each state of their session (R460, R480, R481, R484, R485; log entry 34),
and their obligation (O21).
-/

namespace Sys2Proof.Machine

/-! ### The session of the command (R451, R452) -/

section
variable {s a : State} {h : CmdHdr} {handle : Word} {i : Nat} (home : handleDie handle = h.port.val)
  (session : a.sessionOf handle = some i)
include home session

/-- An accepted command of a session runs on that session. -/
theorem State.decode_onSession_of_accepts {k : CmdSpec} (opc : Byte) (run : State → Nat → State) (acc : s.accepts h k a) :
    s.decode h k (fun s => s.onSession h opc handle run) = (run a i).moveOn h := by
  rw [State.decode_of_accepts _ acc, State.onSession_of_session opc run home session]

/-- The command of a first close waits for the closing that it begins. -/
theorem exec_sessionClose_of_open (acc : s.accepts h (.onM 0x33 none (parHandle handle)) a)
    (stillOpen : (a.sess i).state ≠ .closing) : exec (.sessionClose h handle) s =
      .next (((a.begin_ h 0x33 (.close handle)).closeSession i).moveOn h) := by
  change execSessionClose h handle s = _
  rw [execSessionClose, State.decode_onSession_of_accepts home session _ _ acc]
  exact congrArg (fun s : State => Host.Outcome.next (s.moveOn h)) (if_neg fun same => stillOpen (beq_iff_eq.mp same))

/-- The command of a later close waits for the closing under way. -/
theorem exec_sessionClose_of_closing (acc : s.accepts h (.onM 0x33 none (parHandle handle)) a)
    (closing : (a.sess i).state = .closing) : exec (.sessionClose h handle) s =
      .next ((a.begin_ h 0x33 (.close handle)).moveOn h) := by
  change execSessionClose h handle s = _
  rw [execSessionClose, State.decode_onSession_of_accepts home session _ _ acc]
  exact congrArg (fun s : State => Host.Outcome.next (s.moveOn h)) (if_pos (beq_iff_eq.mpr closing))

section
variable (acc : s.accepts h (.onM 0x38 none (parHandle handle)) a)
include acc

/-- A CANCEL of a normal ring is the ordinary one of its session. -/
theorem exec_ordinaryCancellation_of_accepts (normal : h.ring ≠ 0) : exec (.ordinaryCancellation h handle) s =
    .next ((a.cancel h false handle i).moveOn h) := by
  change execOrdinaryCancellation h handle s = _
  rw [execOrdinaryCancellation, if_neg normal, State.decode_onSession_of_accepts home session _ _ acc]

/-- A CANCEL of ring 0 is the urgent one of its session. -/
theorem exec_urgentCancellation_of_accepts (urgent : h.ring = 0) : exec (.urgentCancellation h handle) s =
    .next ((a.cancel h true handle i).moveOn h) := by
  change execUrgentCancellation h handle s = _
  rw [execUrgentCancellation, if_neg (not_not_intro urgent), State.decode_onSession_of_accepts home session _ _ acc]

end

end

/-! ### A cancellation by the state of its session (R480) -/

section
variable {s : State} {i : Nat} (h : CmdHdr) (urgent : Bool) (handle : Word)

theorem State.cancel_of_closing (closing : (s.sess i).state = .closing) :
    s.cancel h urgent handle i = s.reply h 0x38 0x0406 [] := by
  simp only [State.cancel, closing]

/-- A session with no request in progress has nothing to cancel. -/
theorem State.cancel_of_no_request (idle : (s.sess i).state = .opened ∨ (s.sess i).state = .listening) :
    s.cancel h urgent handle i = s.reply h 0x38 0x0404 [] := by
  obtain state | state := idle
  all_goals simp only [State.cancel, state]

/-- A cancellation of a request in progress begins unless an urgent one is under way. -/
theorem State.cancel_of_request (request : (s.sess i).state = .thinking ∨ (s.sess i).state = .speaking)
    (first : s.cancelling i true = false) : s.cancel h urgent handle i =
      if urgent then s.cancelUrgent h handle i else s.cancelOrdinary h handle i := by
  obtain state | state := request
  all_goals simp only [State.cancel, state, first, Bool.false_eq_true, if_false]

/-- An ordinary cancellation of a session that ends finds one under way; an urgent one takes over. -/
theorem State.cancel_of_ending (ending : (s.sess i).state = .ending) : s.cancel h urgent handle i =
    if urgent then s.cancelUrgent h handle i else s.reply h 0x38 0x0405 [] := by
  simp only [State.cancel, ending]

/-- An urgent cancellation of a request that still runs first drops what its route wants (R481). -/
theorem State.cancelUrgent_of_request (request : (s.sess i).state = .thinking ∨ (s.sess i).state = .speaking) :
    s.cancelUrgent h handle i =
      (((s.beginCancel i).formVoids i).begin_ h 0x38 (.cancel handle true)).tryCancel i := by
  have notEnding : (s.sess i).state ≠ .ending := by
    obtain state | state := request
    all_goals
      rw [state]
      decide
  rw [State.cancelUrgent, if_neg notEnding]

/-- What the route wants has been dropped where the session ends already (R485). -/
theorem State.cancelUrgent_of_ending (ending : (s.sess i).state = .ending) : s.cancelUrgent h handle i =
    ((s.formVoids i).begin_ h 0x38 (.cancel handle true)).tryCancel i := by
  simp only [State.cancelUrgent, ending, if_true]

end

/-! ### The obligation -/

/-- Settles O21: an accepted close or cancellation is that of its session, and the lemmas above say what it does in each state. -/
theorem closeAndCancel : Obligations.CloseAndCancel := by
  unfold Obligations.CloseAndCancel
  intro h handle i s a home session e dropped
  have ordinary (acc : s.accepts h (.onM 0x38 none (parHandle handle)) a) (normal : h.ring ≠ 0) :=
    exec_ordinaryCancellation_of_accepts home session acc normal
  have urgent (acc : s.accepts h (.onM 0x38 none (parHandle handle)) a) (ring0 : h.ring = 0) :=
    exec_urgentCancellation_of_accepts home session acc ring0
  refine ⟨exec_sessionClose_of_open home session, exec_sessionClose_of_closing home session,
    fun acc request first => ⟨fun normal => ?_, fun ring0 => ?_⟩, fun acc idle => ⟨fun normal => ?_, fun ring0 => ?_⟩,
    fun acc ending => ⟨fun normal => ?_, fun ring0 => ?_⟩, fun acc closing => ⟨fun normal => ?_, fun ring0 => ?_⟩⟩
  · rw [ordinary acc normal, State.cancel_of_request h false handle request first]
    rfl
  · rw [urgent acc ring0, State.cancel_of_request h true handle request first, if_pos rfl,
      State.cancelUrgent_of_request h handle request]
    rfl
  · rw [ordinary acc normal, State.cancel_of_no_request h false handle idle]
  · rw [urgent acc ring0, State.cancel_of_no_request h true handle idle]
  · rw [ordinary acc normal, State.cancel_of_ending h false handle ending, if_neg Bool.false_ne_true]
  · rw [urgent acc ring0, State.cancel_of_ending h true handle ending, if_pos rfl,
      State.cancelUrgent_of_ending h handle ending]
  · rw [ordinary acc normal, State.cancel_of_closing h false handle closing]
  · rw [urgent acc ring0, State.cancel_of_closing h true handle closing]

end Sys2Proof.Machine
end

section
/-!
What a SESSION OPEN that passes its checks makes of the ledger and of the models of its route (R455; R436 and log entry 29 for
their counts), and its obligation (O19).
-/

namespace Sys2Proof.Machine

/-! ### The fields of the command (R508, R545) -/

/-- A field in its range has no offset to report. -/
theorem badAt_of_in_range {b : Bool} {off : Nat} (inRange : b = false) : badAt b off = none := by
  rw [badAt, inRange, if_neg Bool.false_ne_true]

section
variable {s a : State} {h : CmdHdr} {cls urg aslot oring : Byte} {route : Word} {seed : DWord}

/-- A SESSION OPEN that its ring gives up, with its fields in their ranges, an output ring that exists and a route, opens its
session unless a check of the run or of the ledger refuses it. -/
theorem exec_sessionOpen_of_accepts (acc : s.accepts h (.onM 0x30 none (parOpen cls urg aslot oring route seed)) a)
    (clsInRange : cls.toNat < 8) (urgInRange : urg.toNat < 2) (aslotInRange : aslot.toNat < 64 ∨ aslot = 0x7F)
    (oringInRange : oring.toNat < 16) (ring : ((s.die h.port.val).outRing oring.toNat).size ≠ 0)
    (routed : routePipes route ≠ []) : exec (.sessionOpen h cls urg aslot oring route seed) s =
      .next ((a.openSession h cls urg aslot oring route seed).moveOn h) := by
  have noCls : badAt (decide (8 ≤ cls.toNat)) 16 = none := badAt_of_in_range (decide_eq_false (Nat.not_le.mpr clsInRange))
  have noUrg : badAt (decide (2 ≤ urg.toNat)) 17 = none := badAt_of_in_range (decide_eq_false (Nat.not_le.mpr urgInRange))
  have noAslot : badAt (decide (64 ≤ aslot.toNat) && aslot != 0x7F) 18 = none := by
    refine badAt_of_in_range ?_
    obtain slot | noSlot := aslotInRange
    · rw [decide_eq_false (Nat.not_le.mpr slot), Bool.false_and]
    · rw [noSlot, bne_self_eq_false, Bool.and_false]
  have noOring : badAt (decide (16 ≤ oring.toNat) || ((s.die h.port.val).outRing oring.toNat).size == 0) 19 = none :=
    badAt_of_in_range (Bool.or_eq_false_iff.mpr ⟨decide_eq_false (Nat.not_le.mpr oringInRange), beq_eq_false_iff_ne.mpr ring⟩)
  have noRoute : badAt (routePipes route).isEmpty 20 = none :=
    badAt_of_in_range (Bool.eq_false_iff.mpr fun empty => routed (List.isEmpty_iff.mp empty))
  change execSessionOpen h cls urg aslot oring route seed s = _
  simp only [execSessionOpen, noCls, noUrg, noAslot, noOring, noRoute]
  exact congrArg Host.Outcome.next (State.decode_of_accepts _ acc)

end

/-! ### The pipelines of the route and the entry (R455) -/

section
variable {s : State} {ps : List Nat} {d : Nat} (homed : ∀ p ∈ ps, ∃ r, s.pipeRec p = some r ∧ r.home = d)
include homed

/-- No pipeline of a route whose pipelines are homed on a port is missing from the started image. -/
theorem State.findIdx?_missing_of_homed : ps.findIdx? (fun p => (s.pipeRec p).isNone) = none := by
  refine List.findIdx?_eq_none_iff.mpr fun p member => ?_
  obtain ⟨r, served, -⟩ := homed p member
  rw [served, Option.isNone_some]

/-- Every pipeline of such a route is at home on that port. -/
theorem State.find?_away_of_homed : (ps.filterMap s.pipeRec).find? (fun r => r.home != d) = none := by
  refine List.find?_eq_none.mpr fun r member => ?_
  obtain ⟨p, inRoute, found⟩ := List.mem_filterMap.mp member
  obtain ⟨q, served, home⟩ := homed p inRoute
  obtain rfl : q = r := Option.some.inj (served.symm.trans found)
  rw [home, bne_self_eq_false]
  exact Bool.false_ne_true

end

/-- The models that a session just opened refers to: once each (log entry 29). -/
def State.openModels (s : State) (v : Sess) : List Nat := ((s.routeModels v.route).filterMap s.modelEntry).eraseDups

/-- R436, R455: a session's entry takes place i of the ledger, and its models are referred to once more. -/
def State.enterSession (s : State) (i : Nat) (v : Sess) : State :=
  (s.setSess i { v with entries := s.openModels v }).addRefs true (s.openModels v)

/-- With every pipeline of the route at home on the port, a free entry and a free seat in each, the session is entered and its
handle, GEN and seats are answered. -/
theorem State.openSession_of_room {s : State} {h : CmdHdr} {n e : Nat} {route : Word} {seats : List (Nat × Nat)}
    (cls urg aslot oring : Byte) (seed : DWord) (started : s.started = some n)
    (homed : ∀ p ∈ routePipes route, ∃ r, s.pipeRec p = some r ∧ r.home = h.port.val)
    (free : (List.range 2048).find? (fun e => (s.sess (2048 * h.port.val + e)).state == .free) = some e)
    (seated : s.takeSeats ((routePipes route).filterMap s.pipeRec) [] = .ok seats) :
    let i := 2048 * h.port.val + e
    let v := s.openEntry i cls urg aslot oring seats seed
    let b := s.enterSession i v
    s.openSession h cls urg aslot oring route seed = b.reply h 0x30 0
      (leBytes 4 (b.handleOf i).toNat ++ [v.gen] ++ leBytes 3 0 ++ seats.flatMap (fun q => leBytes 2 q.2)) := by
  simp only [State.openSession, started, State.findIdx?_missing_of_homed homed, State.find?_away_of_homed homed, free, seated,
    Option.isNone_some, Bool.false_eq_true, if_false]
  rfl

/-! ### The obligation -/

/-- Settles O19: the fields pass their checks, and nothing of the run or the ledger refuses the session. -/
theorem sessionOpens : Obligations.SessionOpens := by
  unfold Obligations.SessionOpens
  intro h cls urg aslot oring route seed n e seats s a acc clsInRange urgInRange aslotInRange oringInRange ring routed started
    homed free seated i v models b
  rw [exec_sessionOpen_of_accepts acc clsInRange urgInRange aslotInRange oringInRange ring routed,
    State.openSession_of_room cls urg aslot oring seed started homed free seated]
  rfl

end Sys2Proof.Machine
end

section
/-!
What an entry of a completion ring takes (R503, R507), and the obligation of the replies (O35).
-/

namespace Sys2Proof.Machine

theorem ringEntries_of_disabled {size : Nat} (off : size = 0) : ringEntries size = 0 := if_pos off
theorem ringEntries_of_enabled {size : Nat} (on : size ≠ 0) : ringEntries size = 2 ^ size := if_neg on

section
variable {s : State} {d i : Nat} (tag status ring : Nat) (opc : Byte) (time : Nat) (detail : List Byte)

theorem State.writeEntry_of_disabled (off : ((s.die d).compRing i).size = 0) :
    s.writeEntry d i tag status ring opc time detail = s :=
  if_pos (ringEntries_of_disabled off)

/-- R501, R503: a completion ring whose entry at the tail has been taken. -/
def CompRing.taken (r : CompRing) : CompRing :=
  { r with tail := if r.tail + 1 = 2 ^ r.size then 0 else r.tail + 1
           phase := if r.tail + 1 = 2 ^ r.size then !r.phase else r.phase, used := r.used + 1 }

/-- The phase stands in byte 4, which is written when the bytes before and after it are. -/
theorem State.writeEntry_of_enabled (on : ((s.die d).compRing i).size ≠ 0) :
    let r := (s.die d).compRing i
    let b := entryBytes tag status ring r.phase opc time detail
    let a := r.base + BitVec.ofNat 64 (32 * r.tail)
    s.writeEntry d i tag status ring opc time detail =
      ((((s.setDie d ((s.die d).setComp i r.taken)).emit d (.write a (b.take 4))).emit d (.write (a + 5) (b.drop 5))).emit d
        (.write (a + 4) ((b.drop 4).take 1))).signal d i := by
  have entries : ringEntries ((s.die d).compRing i).size ≠ 0 := by
    rw [ringEntries_of_enabled on]
    exact (Nat.two_pow_pos _).ne'
  dsimp only
  rw [State.writeEntry, if_neg entries, ringEntries_of_enabled on]
  rfl

end

/-! ### The obligation -/

/-- Settles O35: an entry of an enabled ring and of a disabled one. -/
theorem replyEntries : Obligations.ReplyEntries := by
  unfold Obligations.ReplyEntries
  intro d i tag status ring opc time detail s e r n b a next
  exact ⟨State.writeEntry_of_enabled tag status ring opc time detail,
    State.writeEntry_of_disabled tag status ring opc time detail⟩

end Sys2Proof.Machine
end

section
/-!
What COMMAND_FETCH comes to (R500–R502), and the obligation of the fetches (O34).
-/

namespace Sys2Proof.Machine

section
variable {s : State} {d : DieId} {i : Fin 8}

theorem State.fetches_iff : s.fetches d.val i.val = true ↔ s.ready = true ∧ s.resetting = false ∧
    (s.die d.val).failed = false ∧ (s.die d.val).portUp = true ∧ (s.die d.val).d3 = false ∧ (s.die d.val).nextRing = some i.val := by
  simp only [State.fetches, Bool.and_eq_true, Bool.not_eq_true', beq_iff_eq, and_assoc]

/-- The packet taken stands behind those fetched before it. -/
theorem exec_commandFetch_of_turn (p : BitVec 512) (turn : s.fetches d.val i.val = true) :
    exec (.commandFetch d i p) s = .next ((s.setDie d.val ((s.die d.val).fetched i.val
      (((s.die d.val).subRing i.val).fetched ++ [p]))).skipBad 4097 d i) :=
  congrArg Host.Outcome.next (if_pos turn)

theorem exec_commandFetch_of_no_turn (p : BitVec 512) (turn : s.fetches d.val i.val = false) :
    exec (.commandFetch d i p) s = .next s :=
  congrArg Host.Outcome.next (if_neg (ne_true_of_eq_false turn))

end

theorem exec_commandFetch_ports (d : DieId) (i : Fin 8) (p : BitVec 512) (s : State) :
    ∃ t, exec (.commandFetch d i p) s = .next t ∧ s.portsOnly t := by
  cases turn : s.fetches d.val i.val with
  | true => exact ⟨_, exec_commandFetch_of_turn p turn,
      State.portsOnly_trans (State.setDie_ports s _ _) (State.skipBad_ports _ _ _ _)⟩
  | false => exact ⟨s, exec_commandFetch_of_no_turn p turn, State.portsOnly_refl s⟩

/-! ### The obligation -/

/-- Settles O34: the ring whose turn it is, every other one, and what each part of a command's way leaves. -/
theorem commandFetches : Obligations.CommandFetches := by
  unfold Obligations.CommandFetches
  refine ⟨fun d i p s => ⟨fun ready working alive up awake turn => ?_, fun idle => ?_⟩, fun h k opc status detail d i p s =>
    ⟨State.reply_ports s h opc status detail, State.moveOn_ports s h, fun a => State.takeCmd_ports s a h k,
      exec_commandFetch_ports d i p s⟩⟩
  · exact exec_commandFetch_of_turn p (State.fetches_iff.mpr ⟨ready, working, alive, up, awake, turn⟩)
  · refine exec_commandFetch_of_no_turn p (Bool.eq_false_iff.mpr fun turn => ?_)
    obtain ⟨ready, working, alive, up, awake, next⟩ := State.fetches_iff.mp turn
    simp [ready, working, alive, up, awake, next] at idle

end Sys2Proof.Machine
end
section
/-!
What the writes of doorbells, heads and sizes of the rings come to (R500, R501, R544, R545), and their obligation (O42).
-/

namespace Sys2Proof.Machine

/-- No index lies within a disabled ring. -/
theorem ringEntries_le_iff {size v : Nat} : ringEntries size ≤ v ↔ size = 0 ∨ 2 ^ size ≤ v := by
  by_cases on : size = 0
  · simp [ringEntries_of_disabled, on]
  · simp [ringEntries_of_enabled on, on]

/-! ### Indexes (R500, R501, R545) -/

section
variable {s : State} {d i v : Nat}

/-- R500: the entries that a new tail index offers. -/
def SubRing.added (q : SubRing) (v : Nat) : Nat := (v + 2 ^ q.size - q.tail) % 2 ^ q.size

/-- R500, R501: a new tail index that a submission ring can take. -/
def Die.takesTail (e : Die) (i v : Nat) : Prop :=
  let q := e.subRing i
  q.size ≠ 0 ∧ v < 2 ^ q.size ∧ q.size ≤ (e.compRing i).size ∧ q.avail + q.open_ + q.added v ≤ 2 ^ q.size

theorem State.doorbell_of_takesTail (takes : (s.die d).takesTail i v) :
    let q := (s.die d).subRing i
    s.doorbell d i v = s.setDie d ((s.die d).setSub i { q with tail := v, avail := q.avail + q.added v }) := by
  obtain ⟨on, within, reserved, room⟩ := takes
  dsimp only [SubRing.added] at room ⊢
  rw [State.doorbell]
  rw [ringEntries_of_enabled on, if_neg]
  omega

theorem State.doorbell_of_not_takesTail (refuses : ¬(s.die d).takesTail i v) : s.doorbell d i v = s.ringError d i := by
  rw [State.doorbell]
  refine if_pos ?_
  by_cases on : ((s.die d).subRing i).size = 0
  · exact .inl on
  · rw [ringEntries_of_enabled on]
    simp only [Die.takesTail, SubRing.added] at refuses
    omega

theorem State.compHead_of_within (notNotice : i ≠ 8) (on : ((s.die d).compRing i).size ≠ 0)
    (within : v < 2 ^ ((s.die d).compRing i).size) :
    let r := (s.die d).compRing i
    s.compHead d i v = s.setDie d ((s.die d).setComp i
      { r with head := v, used := r.used - (v + 2 ^ r.size - r.head) % 2 ^ r.size }) := by
  rw [State.compHead]
  dsimp only
  rw [ringEntries_of_enabled on, if_neg (Nat.not_le.mpr within), if_neg notNotice]

theorem State.compHead_of_outside
    (outside : ((s.die d).compRing i).size = 0 ∨ 2 ^ ((s.die d).compRing i).size ≤ v) : s.compHead d i v = s.bumpDie d 1 :=
  if_pos (ringEntries_le_iff.mpr outside)

theorem State.outHead_of_within (on : ((s.die d).outRing i).size ≠ 0) (within : v < 2 ^ ((s.die d).outRing i).size) :
    let r := (s.die d).outRing i
    s.outHead d i v = s.setDie d ((s.die d).setOut i
      { r with head := v, used := r.used - (v + 2 ^ r.size - r.head) % 2 ^ r.size }) := by
  rw [State.outHead]
  dsimp only
  rw [ringEntries_of_enabled on, if_neg (Nat.not_le.mpr within)]

theorem State.outHead_of_outside
    (outside : ((s.die d).outRing i).size = 0 ∨ 2 ^ ((s.die d).outRing i).size ≤ v) : s.outHead d i v = s.bumpDie d 1 :=
  if_pos (ringEntries_le_iff.mpr outside)

end

/-! ### Sizes (R544, R545) -/

section
variable {s : State} {d n : Nat}

theorem State.ringSize_enables_submission {i : Fin 8} (off : ((s.die d).subRing i.val).size = 0) (least : 4 ≤ n)
    (most : n ≤ 12) :
    let q := (s.die d).subRing i.val
    s.ringSize d (.submission i) n = s.setDie d ((s.die d).setSub i.val { SubRing.reset with
      base := q.base, size := n, fetched := q.fetched, mute := q.mute }) := by
  have positive : n ≠ 0 := by omega
  simp only [State.ringSize, positive, off, least, most, and_self, if_true, if_false]

theorem State.ringSize_disables_submission {i : Fin 8} (on : ((s.die d).subRing i.val).size ≠ 0)
    (fetched : ((s.die d).subRing i.val).avail = 0) (answered : ((s.die d).subRing i.val).open_ = 0) :
    s.ringSize d (.submission i) 0 =
      s.setDie d ((s.die d).setSub i.val { (s.die d).subRing i.val with size := 0 }) := by
  simp only [State.ringSize, on, fetched, answered, and_self, if_true, if_false]

theorem State.ringSize_resizes_submission {i : Fin 8} (on : ((s.die d).subRing i.val).size ≠ 0) (positive : n ≠ 0) :
    s.ringSize d (.submission i) n = s.bumpDie d 1 := by
  simp only [State.ringSize, positive, on, false_and, if_false]

theorem State.ringSize_enables_completion {i : Fin 8} (off : ((s.die d).compRing i.val).size = 0) (positive : n ≠ 0)
    (least : ((s.die d).subRing i.val).size ≤ n) (most : n ≤ 12) :
    s.ringSize d (.completion i) n = s.setDie d ((s.die d).setComp i.val
      { CompRing.reset with base := ((s.die d).compRing i.val).base, size := n }) := by
  simp only [State.ringSize, positive, off, least, most, and_self, if_true, if_false]

theorem State.ringSize_keeps_completion {i : Fin 8} (on : ((s.die d).compRing i.val).size ≠ 0)
    (used : ((s.die d).subRing i.val).size ≠ 0) : s.ringSize d (.completion i) 0 = s.bumpDie d 1 := by
  simp only [State.ringSize, on, used, if_true, if_false]

theorem State.ringSize_disables_completion {i : Fin 8} (on : ((s.die d).compRing i.val).size ≠ 0)
    (unused : ((s.die d).subRing i.val).size = 0) : s.ringSize d (.completion i) 0 =
      s.setDie d ((s.die d).setComp i.val { (s.die d).compRing i.val with size := 0 }) := by
  simp only [State.ringSize, on, unused, if_true, if_false]

theorem State.ringSize_enables_output {j : Fin 16} (off : ((s.die d).outRing j.val).size = 0) (least : 12 ≤ n)
    (most : n ≤ 24) :
    let o := (s.die d).outRing j.val
    s.ringSize d (.output j) n =
      s.setDie d ((s.die d).setOut j.val { OutRing.reset with base := o.base, shadow := o.shadow, size := n }) := by
  have positive : n ≠ 0 := by omega
  simp only [State.ringSize, positive, off, least, most, and_self, if_true, if_false]

theorem State.ringSize_disables_output {j : Fin 16} (on : ((s.die d).outRing j.val).size ≠ 0)
    (unused : ∀ x ∈ s.ledger, sessDie x.1 = d → x.2.state ≠ .free → x.2.oring ≠ j.val) :
    s.ringSize d (.output j) 0 = s.setDie d ((s.die d).setOut j.val { (s.die d).outRing j.val with size := 0 }) := by
  have noUser : s.ledger.any (fun q => sessDie q.1 == d && q.2.state != .free && q.2.oring == j.val) = false := by
    refine List.any_eq_false.mpr fun x member => ?_
    simp only [Bool.and_eq_true, beq_iff_eq, bne_iff_ne, not_and, and_imp]
    exact unused x member
  simp only [State.ringSize, on, noUser, Bool.false_eq_true, if_true, if_false]

end

/-! ### The rows -/

section
variable {p : DieId} {s : State} (up : s.regsUp (.port p) = true) (v : Word)
include up

theorem exec_doorbellWrite_of_up (i : Fin 8) :
    exec (.doorbellWrite p i v) s = .next (s.doorbell p.val i.val (v.toNat % 4096)) := if_pos up

theorem exec_completionHeadWrite_of_up (i : Fin 9) :
    exec (.completionHeadWrite p i v) s = .next (s.compHead p.val i.val (v.toNat % 4096)) := if_pos up

theorem exec_outputHeadWrite_of_up (j : Fin 16) :
    exec (.outputHeadWrite p j v) s = .next (s.outHead p.val j.val (v.toNat % 2 ^ 24)) := if_pos up

theorem exec_submissionSizeWrite_of_up (i : Fin 8) :
    exec (.ringSizeWrite p (.submission i) v) s = .next (s.ringSize p.val (.submission i) (v.toNat % 16)) := if_pos up

theorem exec_completionSizeWrite_of_up (i : Fin 8) :
    exec (.ringSizeWrite p (.completion i) v) s = .next (s.ringSize p.val (.completion i) (v.toNat % 16)) := if_pos up

theorem exec_outputSizeWrite_of_up (j : Fin 16) :
    exec (.ringSizeWrite p (.output j) v) s = .next (s.ringSize p.val (.output j) (v.toNat % 32)) := if_pos up

end

/-! ### The obligation -/

/-- Settles O42: each write is that of its ring's index or size, and the lemmas above give its cases. -/
theorem ringRegisterWrites : Obligations.RingRegisterWrites := by
  unfold Obligations.RingRegisterWrites
  refine ⟨fun p i j v s up => ?_, fun p i j v s up => ?_⟩
  · intro e q c o x add
    have notNotice : i.val ≠ 8 := Nat.ne_of_lt i.isLt
    rw [exec_doorbellWrite_of_up up, exec_completionHeadWrite_of_up up, exec_outputHeadWrite_of_up up]
    refine ⟨fun on within reserved room => ?_, fun refused => ?_, fun on within => ?_, fun outside => ?_, fun on within => ?_,
      fun outside => ?_⟩
    · rw [State.doorbell_of_takesTail ⟨on, within, reserved, room⟩]
      rfl
    · have refuses : ¬e.takesTail i.val x := by
        intro takes
        obtain ⟨on, within, reserved, room⟩ :
          q.size ≠ 0 ∧ x < 2 ^ q.size ∧ q.size ≤ c.size ∧ q.avail + q.open_ + add ≤ 2 ^ q.size := takes
        omega
      rw [State.doorbell_of_not_takesTail refuses]
    · rw [State.compHead_of_within notNotice on within]
    · rw [State.compHead_of_outside outside]
    · rw [State.outHead_of_within on within]
    · rw [State.outHead_of_outside outside]
  · intro e q c o n
    rw [exec_submissionSizeWrite_of_up up, exec_completionSizeWrite_of_up up, exec_outputSizeWrite_of_up up]
    refine ⟨fun off least most => ?_, fun on zero fetched answered => ?_, fun on positive => ?_,
      fun off positive least most => ?_, fun on used zero => ?_, fun on unused zero => ?_, fun off least most => ?_,
      fun on zero unused => ?_⟩
    · rw [State.ringSize_enables_submission off least most]
    · rw [show v.toNat % 16 = 0 from zero, State.ringSize_disables_submission on fetched answered]
    · rw [State.ringSize_resizes_submission on positive]
    · rw [State.ringSize_enables_completion off positive least most]
    · rw [show v.toNat % 16 = 0 from zero, State.ringSize_keeps_completion on used]
    · rw [show v.toNat % 16 = 0 from zero, State.ringSize_disables_completion on unused]
    · rw [State.ringSize_enables_output off least most]
    · rw [zero, State.ringSize_disables_output on unused]

end Sys2Proof.Machine
end

section
/-!
What NEGOTIATE, JOURNAL and QUERY come to (R509, R514, R521, R639), and their obligation (O13).
-/

namespace Sys2Proof.Machine

/-! ### Records in host memory (R509) -/

section
variable {s : State} {h : CmdHdr} (opc : Byte) (q : DWord) (b : List Byte) (status : Nat) (detail : List Byte)

theorem State.writeHost_of_error {f : DWord} (error : h.hostErr = some f) :
    s.writeHost h opc q b status detail = s.reply h opc 0x0108 (leBytes 8 f.toNat) := by
  rw [State.writeHost, error]

end

/-! ### NEGOTIATE (R514) -/

section
variable {s a : State} {h : CmdHdr} {r0 r1 r2 : VerRange} {x y z : Nat}

theorem exec_negotiate_of_accepts (acc : s.accepts h (.onM 0x01 none (parNegotiate r0 r1 r2)) a) :
    exec (.negotiate h r0 r1 r2) s = .next ((a.negotiate h r0 r1 r2).moveOn h) :=
  congrArg Host.Outcome.next (State.decode_of_accepts _ acc)

/-- The answer goes out before the choice is in force. -/
theorem State.negotiate_of_common (command : chooseMinor 0 r0 = some x) (image : chooseMinor 1 r1 = some y)
    (weights : chooseMinor 2 r2 = some z) :
    let b := s.reply h 0x01 0 [BitVec.ofNat 8 x, BitVec.ofNat 8 y, BitVec.ofNat 8 z, 0, 1, 0, 1]
    s.negotiate h r0 r1 r2 = b.setDie h.port.val { b.die h.port.val with neg := some (x, y, z) } := by
  rw [State.negotiate, command, image, weights]
  rfl

theorem State.negotiate_of_no_first (command : chooseMinor 0 r0 = none) :
    s.negotiate h r0 r1 r2 = s.reply h 0x01 0x0101 [0] := by
  rw [State.negotiate, command]

theorem State.negotiate_of_no_second (command : chooseMinor 0 r0 = some x) (image : chooseMinor 1 r1 = none) :
    s.negotiate h r0 r1 r2 = s.reply h 0x01 0x0101 [1] := by
  rw [State.negotiate, command, image]

theorem State.negotiate_of_no_third (command : chooseMinor 0 r0 = some x) (image : chooseMinor 1 r1 = some y)
    (weights : chooseMinor 2 r2 = none) : s.negotiate h r0 r1 r2 = s.reply h 0x01 0x0101 [2] := by
  rw [State.negotiate, command, image, weights]

end

/-! ### JOURNAL (R509, R639) -/

section
variable {s a : State} {h : CmdHdr} {jaddr : DWord} {jlen : Word}

theorem exec_journalCopy_of_accepts (acc : s.accepts h (.onM 0x58 none (parJournal 0 jaddr.toNat jlen.toNat)) a)
    (aligned : jaddr.toNat % 64 = 0) :
    let b := (a.jFlash.take (jlen.toNat / 16)).flatMap JEnt.bytes
    exec (.journalCopy h jaddr jlen) s = .next ((a.writeHost h 0x58 jaddr b 0 (leBytes 4 b.length)).moveOn h) := by
  have noBad : badAt (decide (jaddr.toNat % 64 ≠ 0)) 24 = none := badAt_of_in_range (by simp [aligned])
  rw [← noBad] at acc
  exact congrArg Host.Outcome.next (State.decode_of_accepts _ acc)

theorem exec_journalClear_of_accepts
    (acc : s.accepts h (.onM 0x58 none (parJournal 1 (s.journalFields h).1 (s.journalFields h).2)) a)
    (aligned : (s.journalFields h).1 % 64 = 0) : exec (.journalClear h) s =
      .next (({ a with jAon := [], jFlash := [], jQueue := [] }.reply h 0x58 0 (leBytes 4 0)).moveOn h) := by
  have noBad : badAt (decide ((s.journalFields h).1 % 64 ≠ 0)) 24 = none := badAt_of_in_range (by simp [aligned])
  rw [← noBad] at acc
  exact congrArg Host.Outcome.next (State.decode_of_accepts _ acc)

end

/-! ### QUERY (R509, R521) -/

/-- R521: what QUERY is checked against. -/
def State.querySpec (s : State) (h : CmdHdr) (item : Byte) (index : Word) (qaddr : DWord) (qlen : Word) : CmdSpec :=
  { opc := 0x02, since := 0, sets := item == 0
    level := fun p => if item = 0 then decide (pathLevel p ≤ 4) && !(s.isPeer p) else if item = 4 then s.isPeer p
      else p == modulePath, bad := queryBad (s.minorOf h.port.val) item.toNat index.toNat qaddr
    par := parQuery item index qaddr qlen }

section
variable {s a : State} {h : CmdHdr} {item : Byte} {index qlen : Word} {qaddr : DWord}
  (acc : s.accepts h (s.querySpec h item index qaddr qlen) a)
include acc

theorem exec_query_of_stale (sessions : item = 2) (stale : a.sessionOf index = none) :
    exec (.query h item index qaddr qlen) s = .next ((a.reply h 0x02 0x0400 []).moveOn h) :=
  congrArg Host.Outcome.next ((State.decode_of_accepts _ acc).trans
    (congrArg (State.moveOn · h) (if_pos ⟨sessions, Option.isNone_iff_eq_none.mpr stale⟩)))

theorem exec_query_of_open (current : item = 2 → a.sessionOf index ≠ none) :
    let b := ((a.queryWords h item.toNat index.toNat).flatMap (leBytes 4 ·)).take qlen.toNat
    exec (.query h item index qaddr qlen) s = .next ((a.writeHost h 0x02 qaddr b 0 (leBytes 4 b.length)).moveOn h) :=
  congrArg Host.Outcome.next ((State.decode_of_accepts _ acc).trans
    (congrArg (State.moveOn · h) (if_neg fun ⟨sessions, stale⟩ => current sessions (Option.isNone_iff_eq_none.mp stale))))

end

/-! ### The obligation -/

/-- Settles O13: the minors that NEGOTIATE finds, and for JOURNAL and QUERY the record with and without its write. -/
theorem portQueries : Obligations.PortQueries := by
  unfold Obligations.PortQueries
  refine ⟨fun h r0 r1 r2 x y z s a acc => ?_, fun h jaddr jlen s a => ⟨fun acc aligned => ?_, fun acc aligned => ?_⟩,
    fun h item index qaddr qlen s a acc => ⟨fun sessions stale => ?_, fun current => ?_⟩⟩
  · rw [exec_negotiate_of_accepts acc]
    refine ⟨fun command image weights => ?_, fun command => ?_, fun command image => ?_, fun command image weights => ?_⟩
    · rw [State.negotiate_of_common command image weights]
    · rw [State.negotiate_of_no_first command]
    · rw [State.negotiate_of_no_second command image]
    · rw [State.negotiate_of_no_third command image weights]
  · rw [exec_journalCopy_of_accepts acc aligned]
    exact ⟨fun written => by rw [State.writeHost_of_written _ _ _ _ _ written],
      fun f error => by rw [State.writeHost_of_error _ _ _ _ _ error]⟩
  · exact exec_journalClear_of_accepts acc aligned
  · exact exec_query_of_stale acc sessions stale
  · rw [exec_query_of_open acc current]
    exact ⟨fun written => by rw [State.writeHost_of_written _ _ _ _ _ written],
      fun f error => by rw [State.writeHost_of_error _ _ _ _ _ error]⟩

end Sys2Proof.Machine
end

section
/-!
What IMAGE START and IMAGE STOP come to (R438, R449, R518), and their obligation (O15).
-/

namespace Sys2Proof.Machine

/-! ### IMAGE START (R518) -/

section
variable {s a : State} {h : CmdHdr}

theorem exec_imageStart_of_accepts {taddr : DWord} {npipe : BitVec 16} (data : HostRead)
    (acc : s.accepts h (.onM 0x11 none [byteField 16 8 taddr.toNat, byteField 24 2 npipe.toNat]) a)
    (aligned : taddr.toNat % 64 = 0) (named : npipe ≠ 0) (most : npipe.toNat ≤ 255) (free : a.moduleBusy = none) :
    exec (.imageStart h taddr npipe data) s = .next ((a.tryStart h npipe.toNat data).moveOn h) := by
  have noTaddr : badAt (decide (taddr.toNat % 64 ≠ 0)) 16 = none := badAt_of_in_range (by simp [aligned])
  have noNpipe : badAt (npipe == 0 || decide (255 < npipe.toNat)) 24 = none :=
    badAt_of_in_range (Bool.or_eq_false_iff.mpr ⟨beq_eq_false_iff_ne.mpr named, decide_eq_false (Nat.not_lt.mpr most)⟩)
  change execImageStart h taddr npipe data s = _
  simp only [execImageStart, noTaddr, noNpipe]
  rw [← State.moduleCmd_of_free 0x11 (fun s => s.tryStart h npipe.toNat data) free]
  exact congrArg Host.Outcome.next (State.decode_of_accepts _ acc)

/-- Where no floor, model, bank or pipeline record stands against it, the image starts. -/
theorem State.tryStart_of_ready {im : Image} {npipe : Nat} {l : List Byte} (loaded : a.image = some im)
    (idle : a.started = none) (noTest : a.testMode = false) (fresh : a.runEnded = false)
    (up : ∀ t ∈ im.tiles, (a.floor (tileFloor t)).mode = .up) (resident : a.notResident im = none)
    (whole : ∀ q ∈ a.banks, q.2.state ≠ 5) (legal : ∀ k < npipe, a.recordBad im l k = none) :
    a.tryStart h npipe (.bytes l) = a.startImage h im l npipe := by
  have onUp {f : Nat} (member : f ∈ (im.tiles.map tileFloor).eraseDups) : (a.floor f).mode = .up := by
    obtain ⟨t, inImage, rfl⟩ := List.mem_map.mp (List.mem_eraseDups.mp member)
    exact up t inImage
  have noBenched : (im.tiles.map tileFloor).eraseDups.any (fun f => (a.floor f).mode == .benched) = false :=
    List.any_eq_false.mpr fun f member => by simp [onUp member]
  have noDown : (List.range 16).find? (fun f => (im.tiles.map tileFloor).eraseDups.contains f && !(a.floorUp f)) = none := by
    refine List.find?_eq_none.mpr fun f _ => ?_
    simp only [Bool.and_eq_true, List.contains_iff_mem, Bool.not_eq_true', not_and, Bool.not_eq_false]
    exact fun member => State.floorUp_iff.mpr (onUp member)
  have noRepair : a.banks.any (fun q => q.2.state == 5) = false :=
    List.any_eq_false.mpr fun q member => by simpa using whole q member
  have noBad : (List.range npipe).findSome? (fun k => (a.recordBad im l k).map (fun o => (k, o))) = none :=
    List.findSome?_eq_none_iff.mpr fun k member => by rw [legal k (List.mem_range.mp member)]; rfl
  simp only [State.tryStart, loaded, idle, noTest, fresh, noBenched, noDown, resident, noRepair, noBad, Option.isSome_none,
    Bool.false_eq_true, or_self, if_false]

/-- The run that starts: its tread, and its pipelines as the records give them. -/
theorem State.startImage_run {im : Image} {npipe : Nat} (l : List Byte) (fresh : a.runEnded = false) :
    (a.startImage h im l npipe).run = (a.image, some (startCount a.moduleTread), false, a.params, a.moduleNo, a.coords,
      (List.range npipe).map (fun k =>
        { pipeRecAt l k with cover := coverOf (a.pipeTiles im (pipeRecAt l k).pipe) (pipeRecAt l k).tline })) := by
  have armed : ((a.armTiles im (startCount a.moduleTread)).imageRefs true).run = a.run :=
    (State.imageRefs_run _ _).trans (State.armTiles_run _ _ _)
  simp only [State.run, Prod.mk.injEq] at armed
  obtain ⟨image, -, -, params, number, coords, -⟩ := armed
  simp only [State.startImage, fresh, Bool.false_eq_true, if_false]
  rw [foldl_run _ fun s r => State.boundary_run s r]
  simp only [State.reply_run, State.sendHellos_run, State.run_mk, image, params, number, coords]

end

/-! ### IMAGE STOP (R518) -/

/-- What IMAGE STOP clears beside the run itself: the pipelines' records, the voids, the barriers and the gang barriers. -/
def State.rounds (s : State) := (s.pstate, s.voids, s.barriers, s.gangs)

theorem State.portsOnly.rounds {s t : State} (h : s.portsOnly t) : t.rounds = s.rounds := (congrArg State.rounds h).trans rfl

theorem foldl_rounds {α : Type} (g : State → α → State) (h : ∀ s a, (g s a).rounds = s.rounds) (l : List α) (s : State) :
    (l.foldl g s).rounds = s.rounds := foldl_leaves State.rounds g h l s

theorem State.setPort_rounds (s : State) (i : Nat) (v : Port) : (s.setPort i v).rounds = s.rounds := rfl
theorem State.setDie_rounds (s : State) (d : Nat) (v : Die) : (s.setDie d v).rounds = s.rounds := rfl
theorem State.setInv_rounds (s : State) (e : Nat) (v : Inv) : (s.setInv e v).rounds = s.rounds := rfl
theorem State.abortTile_rounds (s : State) (t : Nat) : (s.abortTile t).rounds = s.rounds := rfl

theorem State.holdPorts_rounds (s : State) : s.holdPorts.rounds = s.rounds := by
  refine (foldl_rounds _ (fun s q => ?_) _ _).trans ((foldl_rounds _ (fun s d => State.setDie_rounds s _ _) _ _).trans
    (foldl_rounds _ (fun s q => State.setPort_rounds s _ _) _ _))
  split <;> rfl

theorem State.imageRefs_rounds (s : State) (up : Bool) : (s.imageRefs up).rounds = s.rounds := by
  unfold State.imageRefs
  split
  · rfl
  · exact foldl_rounds _ (fun s e => State.setInv_rounds s _ _) _ _

/-- R518: a room that the run leaves. -/
def State.stopRoom (s : State) (r : Nat) : State := (s.setRoom r { s.room r with start := none, rests := [] }).rampDown r

theorem State.stopRoom_rounds (s : State) (r : Nat) : (s.stopRoom r).rounds = s.rounds := rfl

theorem State.stopRoom_run (s : State) (r : Nat) : (s.stopRoom r).run = s.run :=
  (State.rampDown_run _ r).trans (State.setRoom_run s r _)

/-- R518: the tiles of the run stop and its rooms ramp down, and the image's models are no longer referred to. -/
def State.stopTiles (s : State) : State :=
  let t := (s.tiles.filter (fun q => q.2.phase == .running || q.2.phase == .complete)).foldl
    (fun (s : State) (q : Nat × Tile) => s.abortTile q.1) s
  (s.imageRooms.foldl State.stopRoom t).imageRefs false

theorem State.stopTiles_run (s : State) : s.stopTiles.run = s.run :=
  (State.imageRefs_run _ _).trans ((foldl_run _ State.stopRoom_run _ _).trans
    (foldl_run _ (fun s (q : Nat × Tile) => State.abortTile_run s q.1) _ _))

theorem State.stopTiles_rounds (s : State) : s.stopTiles.rounds = s.rounds :=
  (State.imageRefs_rounds _ _).trans ((foldl_rounds _ State.stopRoom_rounds _ _).trans
    (foldl_rounds _ (fun s (q : Nat × Tile) => State.abortTile_rounds s q.1) _ _))

/-- The stopped module has no run, and its pipelines keep their counters alone. -/
def State.runOver (s : State) : State :=
  { s with started := none, runEnded := true, pipes := [], pstate := s.keptCounters, voids := [], barriers := [], gangs := [] }

section
variable {s a : State} {h : CmdHdr} {n : Nat}

theorem exec_imageStop_of_accepts (acc : s.accepts h (.onM 0x12 none) a) (free : a.moduleBusy = none) :
    exec (.imageStop h) s = .next ((a.stopImage h).moveOn h) := by
  rw [← State.moduleCmd_of_free 0x12 (fun s => s.stopImage h) free]
  exact congrArg Host.Outcome.next (State.decode_of_accepts _ acc)

section
variable (started : a.started = some n)
include started

theorem State.stopImage_of_sessions (used : 0 < (a.ledger.filter (fun q => q.2.state != .free)).length) :
    a.stopImage h = a.reply h 0x12 0x0301 (leBytes 2 (a.ledger.filter (fun q => q.2.state != .free)).length) := by
  rw [State.stopImage, started]
  exact if_pos used

theorem State.stopImage_of_no_session (unused : (a.ledger.filter (fun q => q.2.state != .free)).length = 0) :
    a.stopImage h = a.stopTiles.runOver.dropHeld.holdPorts.reply h 0x12 0 [] := by
  rw [State.stopImage, started]
  exact if_neg (Nat.not_lt.mpr unused.le)

end

theorem State.stopped_run (a : State) (h : CmdHdr) : ((a.stopTiles.runOver.dropHeld.holdPorts.reply h 0x12 0 []).moveOn h).run =
    (a.image, none, true, a.params, a.moduleNo, a.coords, []) := by
  have same := State.stopTiles_run a
  simp only [State.run, Prod.mk.injEq] at same
  obtain ⟨image, -, -, params, number, coords, -⟩ := same
  simp only [State.moveOn, State.skipBad_run, State.reply_run, State.holdPorts_run, State.dropHeld_run, State.runOver,
    State.run_mk, image, params, number, coords]

theorem State.stopped_rounds (a : State) (h : CmdHdr) :
    ((a.stopTiles.runOver.dropHeld.holdPorts.reply h 0x12 0 []).moveOn h).rounds = (a.keptCounters, [], [], []) := by
  rw [(State.moveOn_ports _ h).rounds, (State.reply_ports _ h _ _ _).rounds, State.holdPorts_rounds]
  have same : a.stopTiles.pstate = a.pstate := congrArg Prod.fst (State.stopTiles_rounds a)
  have kept : a.stopTiles.keptCounters = a.keptCounters := by rw [State.keptCounters, same]; rfl
  exact congrArg (·, [], [], []) kept

end

/-! ### The obligation -/

/-- Settles O15: nothing stands against the image and it starts; with no session open it stops, and with one it does not. -/
theorem imageRuns : Obligations.ImageRuns := by
  unfold Obligations.ImageRuns
  refine ⟨fun h taddr npipe l im s a acc aligned named most free loaded idle noTest fresh up resident whole legal => ?_,
    fun h n s a acc free started => ⟨fun unused => ?_, fun used => ?_⟩⟩
  · refine ⟨_, exec_imageStart_of_accepts (.bytes l) acc aligned named most free, ?_⟩
    rw [State.tryStart_of_ready loaded idle noTest fresh up resident whole legal]
    have run := (State.skipBad_run 4097 (a.startImage h im l npipe.toNat) h.port h.ring).trans (State.startImage_run l fresh)
    simp only [State.run, Prod.mk.injEq] at run
    obtain ⟨image, started, -, -, -, -, pipes⟩ := run
    exact ⟨started, pipes, image⟩
  · refine ⟨_, exec_imageStop_of_accepts acc free, ?_⟩
    rw [State.stopImage_of_no_session started unused]
    have run := State.stopped_run a h
    have rounds := State.stopped_rounds a h
    simp only [State.run, State.rounds, Prod.mk.injEq] at run rounds
    obtain ⟨image, noRun, ended, -, -, -, noPipes⟩ := run
    obtain ⟨counters, noVoids, noBarriers, noGangs⟩ := rounds
    exact ⟨noRun, ended, noPipes, counters, noVoids, noBarriers, noGangs, image⟩
  · rw [exec_imageStop_of_accepts acc free, State.stopImage_of_sessions started used]

end Sys2Proof.Machine
end

section
/-!
What every step of a start and of a module reset leaves of the module's gear and of its lead (R627–R630), and what stands once the
steps have run (R589, R590, R624, R625).
-/

namespace Sys2Proof.Machine

/-! ### Which operations leave the helm -/

/-- Whether the module is ready, at which gear, under which lead, and how many edge dies have failed. -/
structure Helm where
  ready : Bool
  gear : BitVec 2
  cgear : BitVec 2
  lead : DieId
  dieFailures : Nat

def State.helm (s : State) : Helm := ⟨s.ready, s.gear, s.cgear, s.lead, s.dieFailures⟩

theorem foldl_helm {α : Type} (g : State → α → State) (h : ∀ s a, (g s a).helm = s.helm) (l : List α) (s : State) :
    (l.foldl g s).helm = s.helm := foldl_leaves State.helm g h l s

theorem State.portsOnly.helm {s t : State} (h : s.portsOnly t) : t.helm = s.helm := (congrArg State.helm h).trans rfl

theorem State.setTile_helm (s : State) (t : Nat) (v : Tile) : (s.setTile t v).helm = s.helm := rfl
theorem State.setUnit_helm (s : State) (p : Word) (v : UnitRegs) : (s.setUnit p v).helm = s.helm := rfl
theorem State.setInv_helm (s : State) (e : Nat) (v : Inv) : (s.setInv e v).helm = s.helm := rfl
theorem State.setDigest_helm (s : State) (i : Nat) (v : Digest) : (s.setDigest i v).helm = s.helm := rfl

theorem State.notice_helm (s : State) (code : Nat) (detail : List Byte) : (s.notice code detail).helm = s.helm := by
  refine foldl_helm _ (fun s d => ?_) _ _
  unfold State.noticeOn
  dsimp only
  split
  · rfl
  · split
    · exact (State.drainNotices_ports _ _ d).helm
    · exact State.limitAt_leaves State.setUnit_helm _ _ _

theorem State.countFault_helm (s : State) (p : Word) : (s.countFault p).helm = s.helm := by
  unfold State.countFault
  dsimp only
  split
  · exact State.event_leaves State.setUnit_helm _ _ _
  · rfl

theorem State.record_helm (s : State) (r : FaultRec) : (s.record r).helm = s.helm := by
  simp only [State.record, State.notice_helm, State.countFault_helm, State.event_leaves State.setUnit_helm,
    State.limitAt_leaves State.setUnit_helm]
  rfl

theorem State.finishAll_helm (s : State) (p : Cmd → Bool) (status : Cmd → Nat × List Byte) :
    (s.finishAll p status).helm = s.helm := foldl_helm _ (fun s c => (State.finish_ports s c _ _).helm) _ _

theorem State.benchFloor_helm (s : State) (f : Nat) : (s.benchFloor f).helm = s.helm := by
  rw [State.benchFloor, State.finishAll_helm, State.notice_helm, State.event_leaves State.setUnit_helm]
  rfl

theorem State.benchUnit_helm (s : State) (u : BootUnit) (alt : Bool) : (s.benchUnit u alt).helm = s.helm := by
  unfold State.benchUnit
  dsimp only
  split
  · rfl
  · exact State.benchFloor_helm s _
  · rfl
  · rfl
  · rfl

theorem State.keepModel_helm (s : State) (e : Nat) : (s.keepModel e).helm = s.helm := by
  have digests (l : List (Nat × Nat)) := foldl_helm (fun (s : State) (q : Nat × Nat) => s.setDigest (64 * q.1 + q.2) .reset)
    (fun s _ => State.setDigest_helm s _ _) l s
  unfold State.keepModel
  dsimp only
  split
  · rfl
  · split
    · exact (State.setInv_helm _ _ _).trans (digests _)
    · exact (State.setInv_helm _ _ _).trans (digests _)

theorem State.setKinds_helm (s : State) (bs : List (Nat × Nat)) (k : Nat) : (s.setKinds bs k).helm = s.helm :=
  foldl_helm _ (fun s _ => State.setTile_helm s _ _) _ _

theorem State.keepWeights_helm (s : State) : s.keepWeights.helm = s.helm := by
  unfold State.keepWeights
  dsimp only
  rw [State.setKinds_helm, State.setKinds_helm, foldl_helm _ fun s t => State.setTile_helm s _ _,
    foldl_helm _ State.keepModel_helm]

theorem State.commitSvn_helm (s : State) (b : Boot) : (s.commitSvn b).helm = s.helm := by
  unfold State.commitSvn
  extract_lets alt c
  split <;> rfl

theorem State.writeVcore_helm (s : State) (g : Nat) : (s.writeVcore g).helm = s.helm := by
  unfold State.writeVcore
  split <;> rfl

theorem State.recheckFloor_helm (s : State) (f : Nat) : (s.recheckFloor f).helm = s.helm := by
  refine foldl_helm _ (fun s q => ?_) _ _
  dsimp only
  split <;> rfl

theorem State.helm_with_journal (s : State) (aon queue : List JEnt) :
    { s with jAon := aon, jQueue := queue }.helm = s.helm := rfl

theorem State.journal_helm (s : State) (step : Nat) (u : BootUnit) (alt : Bool) (result : Nat) (fail : BitVec 16) (fr : Bool)
    (attempt : Nat) : (s.journal step u alt result fail fr attempt).helm = s.helm := State.helm_with_journal s _ _

theorem State.attempt_helm (s : State) (l : List AttemptRow) (step : Nat) (u : BootUnit) (fr alt : Bool) (n : Nat)
    (check : Option (BitVec 16)) : (s.attempt l step u fr alt n check).1.helm = s.helm := by
  unfold State.attempt
  split <;> simp only [State.journal_helm]

theorem State.runUnit_helm (s : State) (l : List AttemptRow) (step : Nat) (u : BootUnit) (fr : Bool)
    (check : Bool → Option (BitVec 16)) : (s.runUnit l step u fr check).1.helm = s.helm := by
  have first := State.attempt_helm s l step u fr (s.firstMethod step u) 1 (check (s.firstMethod step u))
  unfold State.runUnit
  dsimp only
  split
  · next t c tried =>
    rw [tried] at first
    exact (State.attempt_helm t _ _ _ _ _ _ _).trans first
  · next tried =>
    rw [tried] at first
    exact first

theorem State.takeJournal_helm (s : State) (b : Boot) (step : Nat) : (s.takeJournal b step).helm = s.helm := by
  unfold State.takeJournal
  split
  · exact State.helm_with_journal s _ s.jQueue
  · rfl

/-! ### What a step does to the helm (R627) -/

/-- A step leaves readiness and gear or ends with a module that is ready at G2, and only step 3 elects a lead. -/
def State.Steered (step : Nat) (s t : State) : Prop :=
  ((t.ready, t.gear, t.cgear) = (s.ready, s.gear, s.cgear) ∨ (t.ready, t.gear, t.cgear) = (true, 2, 2)) ∧
    (step ≠ 3 → t.lead = s.lead)

section
variable {s t u : State} {step : Nat}

theorem State.Steered.of_helm (same : t.helm = s.helm) : s.Steered step t :=
  ⟨.inl (congrArg (fun x : Helm => (x.ready, x.gear, x.cgear)) same), fun _ => congrArg Helm.lead same⟩

theorem State.Steered.after_helm (same : t.helm = s.helm) (on : t.Steered step u) : s.Steered step u := by
  obtain ⟨stand, lead⟩ := on
  refine ⟨?_, fun later => (lead later).trans (congrArg Helm.lead same)⟩
  rwa [show (t.ready, t.gear, t.cgear) = (s.ready, s.gear, s.cgear) from
    congrArg (fun x : Helm => (x.ready, x.gear, x.cgear)) same] at stand

end

theorem State.bootReady_steered (s : State) (b : Boot) (step : Nat) : s.Steered step (s.bootReady b) := by
  have kept : (((if b.kind = 0 then s else s.keepWeights).commitSvn b).writeVcore 2).helm = s.helm := by
    rw [State.writeVcore_helm, State.commitSvn_helm]
    split
    · rfl
    · exact State.keepWeights_helm s
  exact ⟨.inr rfl, fun _ => congrArg Helm.lead kept⟩

theorem State.bootWork_steered (s : State) (b : Boot) (step : Nat) (u : BootUnit) (alt : Bool) :
    s.Steered step (s.bootWork b step u alt) := by
  unfold State.bootWork
  dsimp only
  split
  · exact ⟨.inl rfl, fun elects => absurd rfl elects⟩
  · refine State.Steered.of_helm ?_
    repeat' split
    all_goals rfl
  · exact State.Steered.of_helm (State.writeVcore_helm { s with vsram := 700 } 2)
  · refine State.Steered.of_helm ?_
    split <;> rfl
  · refine State.Steered.of_helm ?_
    split <;> rfl
  · exact State.Steered.of_helm rfl
  · exact State.Steered.of_helm rfl
  · exact State.bootReady_steered s b _
  · exact State.Steered.of_helm (State.recheckFloor_helm s _)
  · exact State.Steered.of_helm rfl

theorem State.bootSettle_steered (s : State) (b : Boot) (step : Nat) (u : BootUnit) (res : StepRes) (alt : Bool) :
    s.Steered step (s.bootSettle b step u res alt).1 := by
  cases res with
  | passed => exact State.bootWork_steered s b step u alt
  | absent =>
    refine State.Steered.of_helm ?_
    unfold State.bootSettle
    dsimp only
    split <;> rfl
  | failed c => exact State.Steered.of_helm (State.benchUnit_helm s u alt)
  | hung n => exact State.Steered.of_helm rfl

theorem State.bootUnit_steered (s : State) (b : Boot) (step : Nat) (u : BootUnit) :
    s.Steered step (s.bootUnit b step u).1 := by
  unfold State.bootUnit
  split
  · exact State.Steered.of_helm (State.journal_helm s _ _ _ _ _ _ _)
  · split
    · exact State.Steered.of_helm rfl
    · exact State.Steered.after_helm (State.runUnit_helm s _ _ _ _ _) (State.bootSettle_steered _ _ _ _ _ _)

/-! ### The steps in order (R628–R630) -/

/-- What every unit of a list of steps keeps, and also a failure, a wait and the release of the tread counters, their run keeps. -/
theorem State.bootRun_induct {P : State → Prop} {b : Boot} {l : List (Nat × BootUnit)}
    (unit : ∀ f ∈ l, ∀ s, P s → P ((s.takeJournal b f.1).bootUnit b f.1 f.2).1)
    (fail : ∀ s step c, P s → P (State.bootFail s step c)) (wait : ∀ s w, P s → P { s with boot := w })
    (release : ∀ s, P s → P (State.releaseCounters s)) {s : State} (start : P s) : P (s.bootRun b l) := by
  induction l generalizing s with
  | nil => exact start
  | cons f l ih =>
    obtain ⟨step, u⟩ := f
    have done := unit (step, u) List.mem_cons_self s start
    have later {t : State} : P t → P (t.bootRun b l) := ih fun f member => unit f (List.mem_cons_of_mem _ member)
    unfold State.bootRun
    dsimp only
    split
    · exact fail _ _ _ done
    · exact wait _ _ done
    · split
      · exact fail _ _ _ done
      · refine later ?_
        split
        · exact release _ done
        · exact done

/-- R627: the module is ready at G2 only. -/
def State.atG2 (s : State) : Prop := s.ready = true → s.gear = 2 ∧ s.cgear = 2

theorem State.Steered.atG2 {s t : State} {step : Nat} (on : s.Steered step t) (before : s.atG2) : t.atG2 := by
  obtain ⟨same | ready, -⟩ := on
  · obtain ⟨ready, gear, cgear⟩ := by simpa only [Prod.mk.injEq] using same
    rwa [State.atG2, ready, gear, cgear]
  · obtain ⟨-, gear, cgear⟩ := by simpa only [Prod.mk.injEq] using ready
    exact fun _ => ⟨gear, cgear⟩

theorem State.bootRun_atG2 {s : State} (b : Boot) (l : List (Nat × BootUnit)) (before : s.atG2) : (s.bootRun b l).atG2 :=
  State.bootRun_induct
    (unit := fun f _ s stands =>
      ((State.bootUnit_steered _ b f.1 f.2).after_helm (State.takeJournal_helm s b f.1)).atG2 stands)
    (fail := fun _ _ _ _ ready => absurd ready Bool.false_ne_true) (wait := fun _ _ stands => stands)
    (release := fun _ stands ready => ⟨rfl, (stands ready).2⟩) before

/-- Steps other than the election keep the lead. -/
theorem State.bootRun_lead {s : State} {b : Boot} {l : List (Nat × BootUnit)} (noElection : ∀ f ∈ l, f.1 ≠ 3) :
    (s.bootRun b l).lead = s.lead :=
  State.bootRun_induct (P := fun t => t.lead = s.lead)
    (unit := fun f member t same =>
      (((State.bootUnit_steered _ b f.1 f.2).after_helm (State.takeJournal_helm t b f.1)).2 (noElection f member)).trans same)
    (fail := fun _ _ _ same => same) (wait := fun _ _ same => same) (release := fun _ same => same) rfl

/-! ### The start and the module reset (R536, R555, R589, R590, R625) -/

/-- What a restart makes of the fields that its steps keep. -/
theorem State.restarted_kept (s : State) : s.restarted.kept =
    (none, none, [], false, true, true, false, s.testMode, s.startNo + 1, s.flog, false, false) := rfl

theorem State.startedFrom_of_kept {s t : State} (kept : t.kept = s.restarted.kept) (fuses : s.Keeps t) (atG2 : t.atG2) :
    s.startedFrom t ∧ t.ledger = [] := by
  rw [State.restarted_kept] at kept
  obtain ⟨-, fuses, -⟩ := fuses
  simp only [State.kept, State.fixed, Prod.mk.injEq] at kept fuses
  obtain ⟨image, started, ledger, mreset, pwrgd, powered, tripped, testMode, startNo, flog, refLost, -⟩ := kept
  obtain ⟨grade, disabled, -⟩ := fuses
  exact ⟨⟨startNo, flog, testMode, grade, disabled, powered, mreset, pwrgd, tripped, refLost, image, started, atG2⟩, ledger⟩

theorem State.beginStart_startedFrom (s : State) (env : StartEnv) :
    s.startedFrom (s.beginStart env) ∧ (s.beginStart env).ledger = [] := by
  refine State.startedFrom_of_kept ?_ (State.beginStart_keeps s env)
    (State.bootRun_atG2 _ _ fun ready => absurd ready Bool.false_ne_true)
  rw [State.beginStart, State.bootRun_kept]
  dsimp only
  split <;> rfl

theorem State.moduleReset_startedFrom (s : State) (p : Option Nat) (env : Option StartEnv) :
    s.startedFrom (s.moduleReset p env) ∧ (s.moduleReset p env).ledger = [] := by
  refine State.startedFrom_of_kept ?_ (State.moduleReset_keeps s p env)
    (State.bootRun_atG2 _ _ fun ready => absurd ready Bool.false_ne_true)
  have ended := State.interruptAll_kept s p
  simp only [State.kept, Prod.mk.injEq] at ended
  obtain ⟨-, -, -, -, -, -, -, testMode, startNo, flog, -⟩ := ended
  have restarts : (s.interruptAll p).resetKept.kept = (s.interruptAll p).restarted.kept := rfl
  rw [State.moduleReset, State.bootRun_kept, restarts, State.restarted_kept, testMode, startNo, flog]
  rfl

/-- A start is told by its number, the fault log, the test mode and the fuses of the module before it. -/
theorem State.startedFrom.of_same {r s t : State} (started : r.startedFrom t)
    (same : (r.startNo, r.flog, r.testMode, r.fuses) = (s.startNo, s.flog, s.testMode, s.fuses)) : s.startedFrom t := by
  obtain ⟨startNo, flog, testMode, fuses⟩ := by simpa only [Prod.mk.injEq] using same
  rwa [State.startedFrom, ← startNo, ← flog, ← testMode, ← fuses]

theorem State.portsOnly.ledger {s t : State} (h : s.portsOnly t) : t.ledger = s.ledger :=
  (congrArg State.ledger h).trans rfl

/-- Answers to hosts take nothing from a start. -/
theorem State.startedFrom.of_portsOnly {s t u : State} (started : s.startedFrom t) (ports : t.portsOnly u) :
    s.startedFrom u := by
  rw [ports]
  exact started

end Sys2Proof.Machine
end

section
/-!
What START, PWRGD_IN RISE, REFERENCE RETURN, MODULE RESET and START STEP TIMEOUT come to (R511, R526, R561, R589, R624, R625,
R629, R630), and the obligation of the starts (O24).
-/

namespace Sys2Proof.Machine

/-! ### The deassertion of MRESET_N and the rise of PWRGD_IN (R624, R625) -/

section
variable {s : State} {env : StartEnv} (cool : s.tripped = false)
include cool

/-- Outside a ramp-down the module is released. -/
theorem exec_start_of_idle (held : s.mreset = true) (idle : s.ramping = false) :
    exec (.start env) s = .next (s.released env) := by
  change execStart env s = _
  simp only [execStart, cool, held, idle, Bool.not_true, Bool.or_self, Bool.false_eq_true, if_false]

theorem exec_start_of_ramping (held : s.mreset = true) (ramping : s.ramping = true) :
    exec (.start env) s = .next { s with startWait := some env } := by
  change execStart env s = _
  simp only [execStart, cool, held, ramping, Bool.not_true, Bool.or_self, Bool.false_eq_true, if_false, if_true]

theorem exec_pwrgdInRise_of_waiting (free : s.mreset = false) (low : s.pwrgd = false) :
    exec (.pwrgdInRise env) s = .next (s.beginStart env) := by
  change execPwrgdInRise env s = _
  simp only [execPwrgdInRise, cool, free, low, Bool.false_eq_true, if_false]

theorem exec_pwrgdInRise_of_held (held : s.mreset = true) : exec (.pwrgdInRise env) s = .next { s with
    pwrgd := true, startWait := s.startWait.map (fun e => { e with pwrgd := true }) } := by
  change execPwrgdInRise env s = _
  simp only [execPwrgdInRise, cool, held, Bool.false_eq_true, if_false, if_true]

/-- The reference that returns to a module with its supplies brings a module reset (R561). -/
theorem exec_referenceReturn_of_lost (lost : s.refLost = true) (powered : s.powered = true) (free : s.mreset = false)
    (good : s.pwrgd = true) : exec (.referenceReturn env) s =
      .next ({ s with refLost := false, fallback := false }.moduleReset none (some env)) := by
  change execReferenceReturn env s = _
  simp only [execReferenceReturn, cool, lost, powered, free, good, Bool.not_true, Bool.or_self, Bool.false_eq_true, if_false]

end

theorem State.released_of_pwrgd {s : State} {env : StartEnv} (good : env.pwrgd = true) : s.released env = s.beginStart env :=
  if_pos good

theorem State.released_of_no_pwrgd {s : State} {env : StartEnv} (low : env.pwrgd = false) :
    s.released env = { s with powered := true, mreset := false, pwrgd := false } :=
  if_neg (ne_true_of_eq_false low)

/-! ### MODULE RESET (R511, R526, R589) -/

theorem exec_moduleReset_of_accepts {s a : State} {h : CmdHdr} (env : StartEnv) (acc : s.accepts h (.onM 0x4A none) a)
    (free : a.moduleBusy = none) : exec (.moduleReset h env) s =
      .next (((a.reply h 0x4A 0 []).moduleReset (some h.port.val) (some env)).moveOn h) := by
  rw [← State.moduleCmd_of_free 0x4A
    (fun s => (s.reply h 0x4A 0 []).moduleReset (some h.port.val) (some env)) free]
  exact congrArg Host.Outcome.next (State.decode_of_accepts _ acc)

/-! ### START STEP TIMEOUT (R629, R630, R638) -/

/-- The method of the last entry of the always-on journal that tells a step on a unit of a kind. -/
def State.lastMethod (s : State) (step kind unit : Nat) : Bool :=
  ((s.jAon.filter (fun e => e.step == step && e.kind == kind && e.unit == unit)).getLast?.map (·.alt)).getD false

/-- A step of the module itself has no unit to bench, and its second attempt ends the start. -/
theorem exec_startStepTimeout_of_second {s : State} {b : Boot} {step : Nat} {u : BootUnit} (boot : s.boot = some b)
    (hung : b.hung = some (step, u, 2)) (own : u.kind = 0) : exec .startStepTimeout s =
      .next ((s.journal step u (s.lastMethod step 0 u.num.toNat) 1 1 false 2).bootFail step 1) := by
  obtain ⟨kind, num⟩ := u
  obtain rfl : kind = 0 := own
  change execStartStepTimeout s = _
  simp only [execStartStepTimeout, boot, hung]
  rfl

/-! ### The obligation -/

/-- Settles O24: each event begins a start, waits for it or notes it; the second timeout of a step of the module ends one. -/
theorem starts : Obligations.Starts := by
  unfold Obligations.Starts
  refine ⟨fun env s cool => ⟨fun held idle good => ?_, fun held ramping => exec_start_of_ramping cool held ramping,
    fun held idle low => ?_, fun free low => ?_, fun held => exec_pwrgdInRise_of_held cool held,
    fun lost powered free good => ?_⟩, fun h env s a acc free => ?_, fun b step u s boot hung own => ?_⟩
  · exact ⟨_, (exec_start_of_idle cool held idle).trans (congrArg _ (State.released_of_pwrgd good)),
      State.beginStart_startedFrom s env⟩
  · rw [exec_start_of_idle cool held idle, State.released_of_no_pwrgd low]
  · exact ⟨_, exec_pwrgdInRise_of_waiting cool free low, State.beginStart_startedFrom s env⟩
  · obtain ⟨started, -⟩ := State.moduleReset_startedFrom { s with refLost := false, fallback := false } none (some env)
    exact ⟨_, exec_referenceReturn_of_lost cool lost powered free good, started.of_same rfl⟩
  · obtain ⟨started, noSession⟩ :=
      State.moduleReset_startedFrom (a.reply h 0x4A 0 []) (some h.port.val) (some env)
    have answered := State.moveOn_ports ((a.reply h 0x4A 0 []).moduleReset (some h.port.val) (some env)) h
    exact ⟨_, exec_moduleReset_of_accepts env acc free, started.of_portsOnly answered, answered.ledger.trans noSession⟩
  · refine ⟨_, exec_startStepTimeout_of_second boot hung own, rfl, rfl, rfl, rfl, rfl, rfl, ?_⟩
    obtain ⟨kind, num⟩ := u
    obtain rfl : kind = 0 := own
    rfl

end Sys2Proof.Machine
end

section
/-!
What EDGE_DIE_FAILURE, FIRMWARE_WATCHDOG and LEAD_TAKEOVER come to (R510, R560, R591, R631), and their obligation (O32).
-/

namespace Sys2Proof.Machine

/-! ### The failure of an edge die (R560, R591) -/

section
variable {s : State} {d : DieId}

theorem State.dieWorks_iff {n : Nat} :
    s.dieWorks n = true ↔ s.powered = true ∧ s.mreset = false ∧ (s.die n).failed = false := by
  simp only [State.dieWorks, Bool.and_eq_true, Bool.not_eq_true', and_assoc]

theorem exec_edgeDieFailure_of_works (sub : Fin 5) (w : Word) (works : s.dieWorks d.val = true) :
    exec (.edgeDieFailure d sub w) s = .next ((s.record (s.unitRec modulePath 0x7A (sub.val + 1) 4 5 d.val
      (leBytes 4 w.toNat))).dieFails d.val) := if_pos works

theorem exec_edgeDieFailure_of_not_works (sub : Fin 5) (w : Word) (dead : ¬s.dieWorks d.val = true) :
    exec (.edgeDieFailure d sub w) s = .next s := if_neg dead

theorem exec_firmwareWatchdog_of_works (w : Word) (works : s.dieWorks d.val = true) :
    exec (.firmwareWatchdog d w) s = .next ((s.record (s.unitRec modulePath 0x7B 0 4 5 d.val
      (leBytes 1 d.val ++ leBytes 4 w.toNat))).dieFails d.val) := if_pos works

theorem exec_firmwareWatchdog_of_not_works (w : Word) (dead : ¬s.dieWorks d.val = true) :
    exec (.firmwareWatchdog d w) s = .next s := if_neg dead

/-- The failed die is counted. -/
theorem State.dieDown_dieFailures (n : Nat) : (s.dieDown n).dieFailures = s.dieFailures + 1 := rfl

theorem State.dieFails_of_first {n : Nat} (first : s.dieFailures = 0) :
    s.dieFails n = ((s.dieDown n).dieLost n).dieRest n := by
  refine if_neg ?_
  rw [State.dieDown_dieFailures, first]
  decide

theorem State.dieFails_of_later {n : Nat} (later : 0 < s.dieFailures) :
    s.dieFails n = (s.dieDown n).moduleReset none none := by
  refine if_pos ?_
  rw [State.dieDown_dieFailures]
  omega

/-- A second failure ends in a module reset. -/
theorem State.dieFails_startedFrom {n : Nat} (later : 0 < s.dieFailures) : s.startedFrom (s.dieFails n) := by
  obtain ⟨started, -⟩ := State.moduleReset_startedFrom (s.dieDown n) none none
  rw [State.dieFails_of_later later]
  exact started.of_same rfl

theorem State.dieFailures_of_helm {t : State} (same : t.helm = s.helm) : t.dieFailures = s.dieFailures :=
  congrArg Helm.dieFailures same

/-- A fault record counts no failure. -/
theorem State.record_dieFailures (r : FaultRec) : (s.record r).dieFailures = s.dieFailures :=
  State.dieFailures_of_helm (State.record_helm s r)

end

/-! ### LEAD_TAKEOVER (R510, R591, R631) -/

/-- R591: the next live die takes the lead, the commands of the failed lead end, and a gear change that is not announced is gone. -/
def State.takeOver (s : State) (d : DieId) : State :=
  let t := ({ s.setDie d.val { s.die d.val with took := true } with lead := d } : State).finishAll Cmd.ofLead
    (fun _ => (0x010B, [4]))
  { t with change := t.change.filter (fun (c : GearChange) => c.target.isSome) }

/-- R591: a start past step 3 resumes from the beginning of its step. -/
def State.resumed (t : State) : State :=
  match t.boot with
  | some b => if 3 < b.step then
      State.bootRun { t with boot := none } { b with hung := none } (bootRest b.kind b.step (bootUnits b.step))
    else t
  | none => t

theorem State.resumed_of_early {t : State} (early : ∀ b, t.boot = some b → b.step ≤ 3) : t.resumed = t := by
  unfold State.resumed
  split
  · next b boot => exact if_neg (Nat.not_lt.mpr (early b boot))
  · rfl

theorem State.resumed_of_late {t : State} {b : Boot} (boot : t.boot = some b) (late : 3 < b.step) : t.resumed =
    State.bootRun { t with boot := none } { b with hung := none } (bootRest b.kind b.step (bootUnits b.step)) := by
  rw [State.resumed, boot]
  exact if_pos late

theorem State.finishAll_ports (s : State) (p : Cmd → Bool) (status : Cmd → Nat × List Byte) :
    ({ s with cmds := s.cmds.filter (fun c => !p c) } : State).portsOnly (s.finishAll p status) :=
  List.foldlRecOn (s.cmds.filter p) _ (motive := fun t => ({ s with cmds := s.cmds.filter (fun c => !p c) } : State).portsOnly t)
    (State.portsOnly_refl _) fun t same c _ => State.portsOnly_trans same (State.finish_ports t c _ _)

section
variable {s : State}

theorem State.takeOver_fields (d : DieId) : (s.takeOver d).lead = d ∧
    (s.takeOver d).cmds = s.cmds.filter (fun c => !c.ofLead) ∧
    (s.takeOver d).change = s.change.filter (fun c => c.target.isSome) ∧ (s.takeOver d).boot = s.boot := by
  have ended := State.finishAll_ports ({ s.setDie d.val { s.die d.val with took := true } with lead := d } : State)
    Cmd.ofLead (fun _ => (0x010B, [4]))
  unfold State.takeOver
  dsimp only
  rw [ended]
  exact ⟨rfl, rfl, rfl, rfl⟩

section
variable (powered : s.powered = true) (free : s.mreset = false) (failed : (s.die s.lead.val).failed = true)
include powered free failed

theorem exec_leadTakeover_of_none (dead : (s.die (s.nextLead s.lead.val).val).failed = true) :
    exec .leadTakeover s = .next s := by
  change execLeadTakeover s = _
  simp only [execLeadTakeover, powered, free, failed, dead, Bool.not_true, Bool.or_self, Bool.false_eq_true, if_false, if_true]

theorem exec_leadTakeover_of_live (live : (s.die (s.nextLead s.lead.val).val).failed = false) :
    exec .leadTakeover s = .next (s.takeOver (s.nextLead s.lead.val)).resumed := by
  have failedLead : ¬(!s.powered || s.mreset || !(s.die s.lead.val).failed) = true := by simp [powered, free, failed]
  refine (if_neg failedLead).trans ((if_neg (ne_true_of_eq_false live)).trans ?_)
  change (match (s.takeOver (s.nextLead s.lead.val)).boot with
    | some b => _
    | none => _) = _
  unfold State.resumed
  split
  · exact (apply_ite Host.Outcome.next _ _ _).symm
  · rfl

end

end

/-- R589, R627: a start and a module reset begin with the same three steps, of which the third is the election. -/
theorem bootSteps_eq (kind : Nat) : ∃ l, bootSteps kind = [1, 2, 3] ++ l ∧ 3 ∉ l := by
  unfold bootSteps
  split
  · exact ⟨_, rfl, by decide⟩
  · exact ⟨_, rfl, by decide⟩

/-- From a step past the third on, no step is the election. -/
theorem bootRest_no_election {kind step : Nat} (late : 3 < step) (units : List BootUnit) :
    ∀ f ∈ bootRest kind step units, f.1 ≠ 3 := by
  obtain ⟨l, steps, notAfter⟩ := bootSteps_eq kind
  have passed : (bootSteps kind).dropWhile (· != step) = l.dropWhile (· != step) := by
    rw [steps, List.dropWhile_append_of_pos]
    simp only [List.mem_cons, List.not_mem_nil, or_false, bne_iff_ne]
    omega
  intro f member
  obtain own | later := List.mem_append.mp member
  · obtain ⟨u, -, rfl⟩ := List.mem_map.mp own
    exact (Nat.ne_of_gt late)
  · obtain ⟨k, inRest, inStep⟩ := List.mem_flatMap.mp later
    obtain ⟨u, -, rfl⟩ := List.mem_map.mp inStep
    rintro rfl
    rw [passed] at inRest
    exact notAfter ((List.dropWhile_sublist _).mem (List.mem_of_mem_drop inRest))

/-! ### The obligation -/

/-- Settles O32: a first failure and a later one; the takeover without a live die, in an early start or none, and in a late one. -/
theorem edgeDieFailures : Obligations.EdgeDieFailures := by
  unfold Obligations.EdgeDieFailures
  refine ⟨fun d sub w s => ?_, fun s powered free failed => ?_⟩
  · intro on a b
    refine ⟨fun works first => ?_, fun works later => ?_, fun dead => ?_⟩
    · rw [exec_edgeDieFailure_of_works sub w (State.dieWorks_iff.mpr works),
        exec_firmwareWatchdog_of_works w (State.dieWorks_iff.mpr works),
        State.dieFails_of_first ((State.record_dieFailures _).trans first),
        State.dieFails_of_first ((State.record_dieFailures _).trans first)]
      exact ⟨rfl, rfl⟩
    · have counted (r : FaultRec) : 0 < (s.record r).dieFailures := (State.record_dieFailures r).symm ▸ later
      exact ⟨⟨_, exec_edgeDieFailure_of_works sub w (State.dieWorks_iff.mpr works), State.dieFails_startedFrom (counted _)⟩,
        ⟨_, exec_firmwareWatchdog_of_works w (State.dieWorks_iff.mpr works), State.dieFails_startedFrom (counted _)⟩⟩
    · have noWork := mt State.dieWorks_iff.mp dead
      exact ⟨exec_edgeDieFailure_of_not_works sub w noWork, exec_firmwareWatchdog_of_not_works w noWork⟩
  · intro d
    obtain ⟨lead, cmds, change, sameBoot⟩ := State.takeOver_fields (s := s) d
    refine ⟨fun live early => ?_, fun b live boot late => ?_, exec_leadTakeover_of_none powered free failed⟩
    · refine ⟨_, exec_leadTakeover_of_live powered free failed live, ?_⟩
      rw [State.resumed_of_early (sameBoot ▸ early)]
      exact ⟨lead, cmds, change, sameBoot⟩
    · refine ⟨_, exec_leadTakeover_of_live powered free failed live, ?_⟩
      rw [State.resumed_of_late (sameBoot.trans boot) late, State.bootRun_lead (bootRest_no_election late _)]
      exact lead

end Sys2Proof.Machine
end

section
/-!
What every command answers (R640, R537): a next state with the same queue, the same unwritten fuses and limits in their ranges; one
lemma for each command with a case of its own. With it the obligations of the step (O55), of the frame of the commands (O56), and
of the limits and the values at reset (O57, O58, O59).
-/

namespace Sys2Proof.Machine

/-! ### Answers -/

/-- A command answers a next state in which the queue, the fuses that no command writes and the ranges of the two limits are
kept. -/
def State.Answers (s : State) (o : Host.Outcome State Fault Refusal) : Prop := ∃ t, o = .next t ∧ s.Keeps t

section
variable {s t : State} {o o' : Host.Outcome State Fault Refusal} {p : Prop} [Decidable p]

theorem State.fixed_ite {u : State} (yes : t.fixed = s.fixed) (no : u.fixed = s.fixed) : (if p then t else u).fixed = s.fixed := by
  split
  · exact yes
  · exact no

theorem State.Answers.keeps (k : s.Keeps t) : s.Answers (.next t) := ⟨t, rfl, k⟩

theorem State.Answers.fixed (same : t.fixed = s.fixed) : s.Answers (.next t) := .keeps (.of_fixed same)

theorem State.Answers.same : s.Answers (.next s) := .keeps (.refl s)

theorem State.Answers.ite (yes : s.Answers o) (no : s.Answers o') : s.Answers (if p then o else o') := by
  split
  · exact yes
  · exact no

/-- A command that acts where a condition holds. -/
theorem State.Answers.onlyIf (k : s.Keeps t) : s.Answers (if p then .next t else .next s) := .ite (.keeps k) .same

/-- A command that acts unless a condition holds. -/
theorem State.Answers.unless (k : s.Keeps t) : s.Answers (if p then .next s else .next t) := .ite .same (.keeps k)

/-- A command of a submission ring answers as what it runs does. -/
theorem State.Answers.decode {h : CmdHdr} {k : CmdSpec} {run : State → State} (runs : ∀ s : State, s.Keeps (run s)) :
    s.Answers (.next (s.decode h k run)) := .keeps (s.decode_keeps h k run runs)

end

theorem State.reset_limitsOk : State.reset.limitsOk := by
  change (250 ≤ 12500 ∧ 12500 ≤ 2500000) ∧ 25 ≤ 50000 ∧ 50000 ≤ 250000
  decide

/-! ### Commands of submission rings -/

theorem execQuery_answers (h : CmdHdr) (item : Byte) (index : Word) (qaddr : DWord) (qlen : Word) (s : State) :
    s.Answers (execQuery h item index qaddr qlen s) :=
  .decode fun s => .of_fixed (State.fixed_ite (by simp) (by simp))

theorem execCrateLoad_answers (h : CmdHdr) (caddr : DWord) (clen : Word) (data : HostRead) (s : State) :
    s.Answers (execCrateLoad h caddr clen data s) :=
  .ite (.fixed (by simp)) (.decode fun _ => .of_fixed (by simp))

theorem execAdapterLoad_answers (h : CmdHdr) (slot : Byte) (version : BitVec 16) (ident : DWord) (s : State) :
    s.Answers (execAdapterLoad h slot version ident s) :=
  .decode fun s => .of_fixed (State.fixed_ite (by simp) (by simp))

theorem execSessionClose_answers (h : CmdHdr) (handle : Word) (s : State) : s.Answers (execSessionClose h handle s) :=
  .decode fun s => .of_fixed (State.onSession_fixed _ _ _ _ _ fun s i => State.fixed_ite (by simp) (by simp))

theorem execModuleReset_answers (h : CmdHdr) (env : StartEnv) (s : State) : s.Answers (execModuleReset h env s) :=
  .decode fun s => s.moduleCmd_keeps h 0x4A _ fun s =>
    (State.Keeps.of_fixed (State.reply_fixed s h 0x4A 0 [])).trans (State.moduleReset_keeps _ _ _)

theorem execPeerFenced_answers (h : CmdHdr) (s : State) : s.Answers (execPeerFenced h s) :=
  .decode fun s => .of_fixed ((State.reply_fixed _ _ _ _ _).trans (State.fixed_ite (by simp) (by simp)))

theorem execPeerRestored_answers (h : CmdHdr) (s : State) : s.Answers (execPeerRestored h s) :=
  .decode fun s => .of_fixed ((State.reply_fixed _ _ _ _ _).trans (State.fixed_ite (by simp) (by simp)))

/-! ### The clock, the tiles, the governor, the limits and the start -/

theorem execClockPeriod_answers (r : RoomId) (margin : Margin) (cal : List CalResult) (us : List Upset) (s : State) :
    s.Answers (execClockPeriod r margin cal us s) := by
  have upsets (l : List Upset) : s.Keeps (l.foldl (fun (s : State) (u : Upset) => s.roomUpset r.val u) s) :=
    .of_fixed (foldl_fixed _ (fun _ _ => by simp) _ _)
  exact .ite (.keeps ((upsets _).trans (State.moduleReset_keeps _ _ _))) (.fixed (by simp))

theorem execEngineInstructionStart_answers (t : TileId) (q : Fin 4) (s : State) :
    s.Answers (execEngineInstructionStart t q s) := by
  refine .fixed ?_
  repeat' split
  all_goals simp

theorem execEngineInstructionComplete_answers (t : TileId) (q : Fin 4) (s : State) :
    s.Answers (execEngineInstructionComplete t q s) := by
  refine .fixed ?_
  dsimp only
  repeat' split
  all_goals simp

theorem execCorrectionPulse_answers (s : State) : s.Answers (execCorrectionPulse s) := by
  refine .unless (.of_fixed ?_)
  dsimp only
  rw [foldl_fixed _ (fun _ _ => by simp)]
  split <;> simp

theorem State.tickRoom_fixed (s : State) (r : Nat) : (s.tickRoom r).fixed = s.fixed := by
  have held : (if s.clockRuns r then s.setRoom r (s.room r).heldTick else s).fixed = s.fixed :=
    State.fixed_ite (State.setRoom_fixed s r _) rfl
  have allowed := (State.allowTick_fixed _ r).trans held
  exact State.fixed_ite ((State.setRoom_fixed _ r _).trans allowed) allowed

theorem State.tickRooms_fixed (s : State) : s.tickRooms.fixed = s.fixed :=
  foldl_fixed _ State.tickRoom_fixed _ _

theorem State.refuseDue_fixed (s : State) : s.refuseDue.fixed = s.fixed :=
  foldl_fixed _ (fun _ _ => foldl_fixed _ (fun _ _ => by simp) _ _) _ _

theorem State.tickRest_fixed (s : State) : s.tickRest.fixed = s.fixed := by
  simp only [State.tickRest, State.refuseDue_fixed, State.fixed_mk, State.fixed_eta]
  rw [foldl_fixed _ (fun _ _ => by simp)]
  simp

theorem execAllowanceTick_answers (s : State) : s.Answers (execAllowanceTick s) := by
  have before : s.tickRooms.gearTick.loadDone.fixed = s.fixed := by simp [State.tickRooms_fixed]
  exact .unless (((State.Keeps.of_fixed before).trans (State.startDue_keeps _)).trans (.of_fixed (State.tickRest_fixed _)))

theorem execHoldLimit_answers (r : RoomId) (s : State) : s.Answers (execHoldLimit r s) := by
  unfold execHoldLimit
  dsimp only
  split
  · exact .same
  · exact .onlyIf (.of_fixed (by simp))

theorem execHangWatchdog_answers (r : RoomId) (s : State) : s.Answers (execHangWatchdog r s) :=
  .ite (.ite (.fixed (by simp)) (.fixed (foldl_fixed _ (fun _ _ => by simp) _ _))) .same

theorem execQuietLimit_answers (c : CmdId) (s : State) : s.Answers (execQuietLimit c s) := by
  unfold execQuietLimit
  split
  · split
    · exact .unless (.of_fixed (by simp))
    · exact .same
  · exact .same

theorem execQuietReport_answers (c : CmdId) (r : RoomId) (s : State) : s.Answers (execQuietReport c r s) := by
  unfold execQuietReport
  split
  · split
    · exact .onlyIf (.of_fixed (by simp))
    · exact .same
  · exact .same

theorem execEdgeDieFailure_answers (d : DieId) (sub : Fin 5) (addr : Word) (s : State) :
    s.Answers (execEdgeDieFailure d sub addr s) :=
  .onlyIf (.trans (.of_fixed (State.record_fixed s _)) (State.dieFails_keeps _ _))

theorem execFirmwareWatchdog_answers (d : DieId) (pc : Word) (s : State) : s.Answers (execFirmwareWatchdog d pc s) :=
  .onlyIf (.trans (.of_fixed (State.record_fixed s _)) (State.dieFails_keeps _ _))

theorem execCrateArrivalTimeout_answers (c : SetRef) (s : State) : s.Answers (execCrateArrivalTimeout c s) := by
  refine .ite .same ?_
  cases c
  · exact .fixed (by simp)
  · exact .fixed (by simp)

theorem execGearConfirmation_answers (s : State) : s.Answers (execGearConfirmation s) := by
  unfold execGearConfirmation
  split
  · split
    · refine .ite .same ?_
      extract_lets down new geared unset stepped timed
      have unset_fixed : unset.fixed = s.fixed := foldl_fixed _ (fun _ _ => by simp) _ _
      have stepped_fixed : stepped.fixed = s.fixed := State.fixed_ite (by simp [unset_fixed]) unset_fixed
      have timed_fixed : timed.fixed = s.fixed := State.fixed_ite (by simp [stepped_fixed]) stepped_fixed
      split
      · exact .fixed (by simp [timed_fixed])
      · exact .fixed (by simp [timed_fixed])
    · exact .same
  · exact .same

theorem execRegulatorAcknowledgement_answers (s : State) : s.Answers (execRegulatorAcknowledgement s) := by
  unfold execRegulatorAcknowledgement
  split
  · exact .ite .same (.ite (.fixed (by simp)) (.fixed (by simp)))
  · exact .same

theorem execRegulatorTimeout_answers (s : State) : s.Answers (execRegulatorTimeout s) := by
  unfold execRegulatorTimeout
  split
  · exact .unless (.of_fixed (by simp))
  · exact .same

theorem execThermalPoll_answers (readings : List Reading) (s : State) : s.Answers (execThermalPoll readings s) := by
  refine .unless (.of_fixed ?_)
  simp only [State.thermal_fixed, State.fixed_mk, State.fixed_eta]
  exact foldl_fixed _ (fun _ _ => by simp) _ _

theorem execThermalTrip_answers (x : Reading) (s : State) : s.Answers (execThermalTrip x s) := by
  refine .unless (.of_fixed ?_)
  simp only [State.fixed_mk, State.fixed_eta]
  rw [foldl_fixed _ (fun _ _ => by simp)]
  simp

theorem execStart_answers (env : StartEnv) (s : State) : s.Answers (execStart env s) :=
  .ite .same (.ite (.fixed (by simp)) (.keeps (s.released_keeps env)))

theorem execStartStepTimeout_answers (s : State) : s.Answers (execStartStepTimeout s) := by
  unfold execStartStepTimeout
  split
  · exact .same
  · split
    · exact .same
    · refine .ite .same (.fixed ?_)
      dsimp only
      rw [State.bootAfter_fixed]
      split <;> simp

theorem execPwrgdInRise_answers (env : StartEnv) (s : State) : s.Answers (execPwrgdInRise env s) :=
  .ite .same (.ite (.fixed (by simp)) (.unless (s.beginStart_keeps env)))

theorem execMresetNAssert_answers (s : State) : s.Answers (execMresetNAssert s) := by
  refine .ite (.fixed (by simp)) (.fixed ?_)
  simp only [State.fixed_mk, State.fixed_eta]
  rw [foldl_fixed _ (fun _ _ => by simp)]
  simp

theorem execPowerRemoval_answers (s : State) : s.Answers (execPowerRemoval s) :=
  .keeps ⟨rfl, rfl, fun _ => State.reset_limitsOk⟩

theorem execD0Return_answers (p : DieId) (s : State) : s.Answers (execD0Return p s) := by
  refine .unless (.of_fixed ?_)
  rw [foldl_fixed _ (fun _ _ => by simp)]
  simp

theorem execReferenceLoss_answers (s : State) : s.Answers (execReferenceLoss s) := by
  refine .unless (.of_fixed ?_)
  simp only [State.fixed_mk, State.fixed_eta]
  rw [foldl_fixed _ (fun _ _ => by simp), foldl_fixed _ (fun _ _ => by simp)]
  simp

theorem execReferenceReturn_answers (env : StartEnv) (s : State) : s.Answers (execReferenceReturn env s) := by
  have returned : s.Keeps { s with refLost := false, fallback := false } := .of_fixed (by simp)
  exact .ite .same (.ite (.keeps returned) (.keeps (returned.trans (State.moduleReset_keeps _ _ _))))

theorem execLeadTakeover_answers (s : State) : s.Answers (execLeadTakeover s) := by
  have taken : (s.takeOver (s.nextLead s.lead.val)).fixed = s.fixed := by simp [State.takeOver]
  refine .ite .same (.ite .same ?_)
  dsimp only
  split
  · exact .ite (.fixed ((State.bootRun_fixed _ _ _).trans taken)) (.fixed taken)
  · exact .fixed taken

theorem execRoomRestart_answers (r : RoomId) (s : State) : s.Answers (execRoomRestart r s) := by
  unfold execRoomRestart
  split
  · exact .ite .same (.ite (.fixed (by simp)) (.fixed (State.fixed_ite (by simp) (by simp))))
  · exact .same

theorem execScrubRead_answers (t : TileId) (cellar : Bool) (line : BitVec 13) (s : State) :
    s.Answers (execScrubRead t cellar line s) := by
  refine .ite .same ?_
  split
  · exact .fixed (by simp)
  · exact .same

theorem execVsramBelowRange_answers (s : State) : s.Answers (execVsramBelowRange s) := by
  refine .unless (.of_fixed (foldl_fixed _ (fun s f => State.fixed_ite ?_ ?_) _ _))
  · simp
  · simp

/-! ### Replies, announcements and links -/

theorem execAck_answers (p : Packet) (s : State) : s.Answers (execAck p s) :=
  .fixed (State.atSource_fixed _ _ _ _ _ (fun _ _ => by simp) fun s r => by split <;> simp)

theorem execBounce_answers (p : Packet) (s : State) : s.Answers (execBounce p s) :=
  .fixed (State.atSource_fixed _ _ _ _ _ (fun _ _ => by simp) fun s r => by split <;> simp)

theorem execFencedReply_answers (p : Packet) (s : State) : s.Answers (execFencedReply p s) := by
  refine .fixed (State.atSource_fixed _ _ _ _ _ (fun _ _ => by simp) fun s r => ?_)
  split
  · exact State.fixed_ite (by simp) (by simp)
  · rfl

theorem execZeroDone_answers (p : Packet) (s : State) : s.Answers (execZeroDone p s) := by
  refine .fixed (State.atSource_fixed _ _ _ _ _ (fun _ _ => rfl) fun s r => ?_)
  split
  · exact State.fixed_ite (by simp) (by simp)
  · simp

theorem execStopAnnouncement_answers (r : RoomId) (unit : Word) (set : Bool) (s : State) :
    s.Answers (execStopAnnouncement r unit set s) :=
  .ite .same (.ite (.fixed (by simp)) (.fixed (by simp)))

theorem execAbortAnnouncement_answers (r : RoomId) (unit : Word) (s : State) :
    s.Answers (execAbortAnnouncement r unit s) :=
  .ite .same (.ite (.fixed (by simp)) (.fixed (by simp)))

theorem execGearAnnouncement_answers (r : RoomId) (low : BitVec 16) (gear : BitVec 2) (s : State) :
    s.Answers (execGearAnnouncement r low gear s) := by
  unfold execGearAnnouncement
  split
  · dsimp only
    split
    · exact .unless (.of_fixed (by simp))
    · exact .same
  · exact .same

theorem execVoidAnnouncement_answers (r : RoomId) (pipe mask : Byte) (s : State) :
    s.Answers (execVoidAnnouncement r pipe mask s) := by
  unfold execVoidAnnouncement
  split
  · exact .same
  · exact .ite (.fixed (by simp)) (.fixed (by simp))

theorem execVoidAcknowledgement_answers (d : DieId) (pipe : Byte) (s : State) :
    s.Answers (execVoidAcknowledgement d pipe s) := by
  unfold execVoidAcknowledgement
  split
  · exact .same
  · exact .fixed (by simp)

theorem execStepReportRead_answers (pipe : Byte) (s : State) : s.Answers (execStepReportRead pipe s) :=
  .fixed (State.atHome_fixed _ _ _ fun s r => by dsimp only; split <;> simp)

theorem execSendRingRead_answers (d : DieId) (ring : BitVec 12) (s : State) : s.Answers (execSendRingRead d ring s) := by
  refine .ite .same ?_
  split
  · exact .fixed (by simp)
  · exact .same

theorem execLinkTraining_answers (d : DieId) (l : LinkId) (peer : TrainInfo) (s : State) :
    s.Answers (execLinkTraining d l peer s) := by
  refine .ite .same ?_
  split
  · exact .fixed (by simp)
  · exact .fixed (by simp)
  · exact .same

theorem execLinkTrainingTimeout_answers (d : DieId) (l : LinkId) (s : State) :
    s.Answers (execLinkTrainingTimeout d l s) := by
  unfold execLinkTrainingTimeout
  dsimp only
  split
  · exact .fixed (by simp)
  · exact .same

theorem execTrainFlit_answers (d : DieId) (l : LinkId) (rx : FlitRx) (info : TrainInfo) (s : State) :
    s.Answers (execTrainFlit d l rx info s) := by
  unfold execTrainFlit
  dsimp only
  split
  · exact .fixed (by split <;> simp)
  · exact .fixed (by simp)
  · exact .same

theorem execDataFlit_answers (d : DieId) (l : LinkId) (rx : FlitRx) (h : FlitHdr) (payload : List Byte) (s : State) :
    s.Answers (execDataFlit d l rx h payload s) :=
  .ite .same (.ite (.fixed (by simp)) (.fixed (by simp)))

theorem execIdleFlit_answers (d : DieId) (l : LinkId) (rx : FlitRx) (h : FlitHdr) (s : State) :
    s.Answers (execIdleFlit d l rx h s) :=
  .ite .same (.ite (.fixed (by simp)) (.fixed (by simp)))

theorem State.takeSeq_countFlit_fixed {s : State} {i : Nat} {h : FlitHdr} {f : State → State}
    (accepted : ∀ s, (f s).fixed = s.fixed) : ((s.countFlit i).takeSeq i h f).fixed = s.fixed :=
  (State.takeSeq_fixed _ _ _ _ accepted).trans (State.countFlit_fixed s i)

theorem execHello_answers (d : DieId) (l : LinkId) (h : FlitHdr) (f : SyncFrame) (s : State) :
    s.Answers (execHello d l h f s) := by
  refine .unless (.of_fixed (State.takeSeq_countFlit_fixed fun s => ?_))
  split
  · simp
  · rfl

theorem execArrive_answers (d : DieId) (l : LinkId) (h : FlitHdr) (f : SyncFrame) (s : State) :
    s.Answers (execArrive d l h f s) := by
  refine .unless (.of_fixed (State.takeSeq_countFlit_fixed fun s => ?_))
  dsimp only
  split
  · exact State.fixed_ite rfl (by simp)
  · rfl

theorem execComplete_answers (d : DieId) (l : LinkId) (h : FlitHdr) (f : SyncFrame) (s : State) :
    s.Answers (execComplete d l h f s) :=
  .unless (.of_fixed (State.takeSeq_countFlit_fixed fun _ => State.fixed_ite rfl (by simp)))

theorem execLinkRetryTimeout_answers (d : DieId) (l : LinkId) (s : State) : s.Answers (execLinkRetryTimeout d l s) :=
  .ite .same (.ite (.fixed (by simp)) (.fixed (by simp)))

theorem execLaneSignalLoss_answers (d : DieId) (l : LinkId) (lane : Fin 4) (s : State) :
    s.Answers (execLaneSignalLoss d l lane s) := by
  unfold execLaneSignalLoss
  dsimp only
  split
  all_goals exact .fixed (by simp)

theorem execLinkSilenceEnd_answers (d : DieId) (l : LinkId) (s : State) : s.Answers (execLinkSilenceEnd d l s) := by
  unfold execLinkSilenceEnd
  dsimp only
  split
  · exact .fixed (by split <;> simp)
  · exact .same

theorem execPerstNDeassert_answers (p : DieId) (env : StartEnv) (s : State) : s.Answers (execPerstNDeassert p env s) := by
  unfold execPerstNDeassert
  dsimp only
  split
  · exact .ite (.fixed (by simp)) (.fixed (by simp))
  · exact .ite (.fixed (by simp)) (.fixed (by simp))

/-! ### Every command -/

/-- Every command answers a next state that keeps the queue, the unwritten fuses and the ranges of the two limits. -/
theorem exec_answers (c : Instr) (s : State) : s.Answers (exec c s) := by
  cases c with
  | nop | halt | trap | add | sub | and | or | xor | shl | shr | sra | min | max | minu | maxu | mul | addi | andi |
  ori | xori | shli | shri | srai | li | cmp | cmpi | plog | ld | st | dsw | dsr | setf | clrf | waitf | bara | reds |
  br | call | ret | loop | loopi | pmul | pdrn | dload | dmul | ddrn | dkv | vmap | vred | vtopk | vqnt | hmov | hfill
  | hzero | hrel =>
    exact .fixed (State.issueRow_fixed _ _ _ _)
  | commandFetch | stopSet | stopClear | floorRejoin | smbusIdentityRead | smbusStatusRead | smbusTemperatureRead |
  messageReplyRead | deviceKeyRead | ownerClaim | ownerSet | ownerClear | crateKeySet | crateKeyClear | writeRequest |
  readRequest | remoteCellarRead | zeroRequest | deliver | refused | branchDropped | outputRingRead |
  inputRecordResend =>
    exact .fixed (by simp)
  | negotiate | reside | evict | sessionOpen | feed | mark | abort | gear | journalCopy | journalClear | imageLoad |
  imageStart | imageStop | fence | floorReset =>
    exact .decode fun _ => .of_fixed (by simp)
  | evictionComplete | bankZeroingDone | replyLimit | requestResend | pllUnlock | roomClockAbsent | messageFragment |
  statusWordWrite | doorbellWrite | completionHeadWrite | outputHeadWrite | ringSizeWrite | flogrWrite |
  unitSetEntryWrite | ctrlStopWrite | classGoalWrite | lowWordRead | servicePacketRoute | cellarZeroingComplete |
  dataReply | floorCombinerReply | barrierCompletion | reductionResult | slotTableResend | journalFlashWrite |
  testModeEntry | peerselWrite =>
    exact .onlyIf (.of_fixed (by simp))
  | ordinaryCancellation | urgentCancellation | portReset | linkRecordWrite | d3hotEntry =>
    exact .unless (.of_fixed (by simp))
  | setAliasWrite | clearAliasWrite | invertAliasWrite =>
    exact .onlyIf (State.aliasWrite_keeps _ _ _ _ _ _)
  | eventCounterWrite | highWordWrite | registerWrite =>
    exact .onlyIf (State.writeReg_keeps _ _ _ _ _ _)
  | holdlimWrite =>
    exact .onlyIf (State.writeHoldLim_keeps _ _)
  | wdogWrite =>
    exact .onlyIf (State.writeWdog_keeps _ _)
  | query h item index qaddr qlen => exact execQuery_answers h item index qaddr qlen s
  | crateLoad h caddr clen data => exact execCrateLoad_answers h caddr clen data s
  | adapterLoad h slot version ident => exact execAdapterLoad_answers h slot version ident s
  | sessionClose h handle => exact execSessionClose_answers h handle s
  | moduleReset h env => exact execModuleReset_answers h env s
  | peerFenced h => exact execPeerFenced_answers h s
  | peerRestored h => exact execPeerRestored_answers h s
  | clockPeriod r margin cal us => exact execClockPeriod_answers r margin cal us s
  | engineInstructionStart t q => exact execEngineInstructionStart_answers t q s
  | engineInstructionComplete t q => exact execEngineInstructionComplete_answers t q s
  | correctionPulse => exact execCorrectionPulse_answers s
  | allowanceTick => exact execAllowanceTick_answers s
  | holdLimit r => exact execHoldLimit_answers r s
  | hangWatchdog r => exact execHangWatchdog_answers r s
  | quietLimit c => exact execQuietLimit_answers c s
  | quietReport c r => exact execQuietReport_answers c r s
  | edgeDieFailure d sub addr => exact execEdgeDieFailure_answers d sub addr s
  | firmwareWatchdog d pc => exact execFirmwareWatchdog_answers d pc s
  | crateArrivalTimeout c => exact execCrateArrivalTimeout_answers c s
  | gearConfirmation => exact execGearConfirmation_answers s
  | regulatorAcknowledgement => exact execRegulatorAcknowledgement_answers s
  | regulatorTimeout => exact execRegulatorTimeout_answers s
  | thermalPoll readings => exact execThermalPoll_answers readings s
  | thermalTrip x => exact execThermalTrip_answers x s
  | start env => exact execStart_answers env s
  | startStepTimeout => exact execStartStepTimeout_answers s
  | pwrgdInRise env => exact execPwrgdInRise_answers env s
  | mresetNAssert => exact execMresetNAssert_answers s
  | powerRemoval => exact execPowerRemoval_answers s
  | d0Return p => exact execD0Return_answers p s
  | referenceLoss => exact execReferenceLoss_answers s
  | referenceReturn env => exact execReferenceReturn_answers env s
  | leadTakeover => exact execLeadTakeover_answers s
  | roomRestart r => exact execRoomRestart_answers r s
  | scrubRead t cellar line => exact execScrubRead_answers t cellar line s
  | vsramBelowRange => exact execVsramBelowRange_answers s
  | ack p => exact execAck_answers p s
  | bounce p => exact execBounce_answers p s
  | fencedReply p => exact execFencedReply_answers p s
  | zeroDone p => exact execZeroDone_answers p s
  | stopAnnouncement r unit set => exact execStopAnnouncement_answers r unit set s
  | abortAnnouncement r unit => exact execAbortAnnouncement_answers r unit s
  | gearAnnouncement r low gear => exact execGearAnnouncement_answers r low gear s
  | voidAnnouncement r pipe mask => exact execVoidAnnouncement_answers r pipe mask s
  | voidAcknowledgement d pipe => exact execVoidAcknowledgement_answers d pipe s
  | stepReportRead pipe => exact execStepReportRead_answers pipe s
  | sendRingRead d ring => exact execSendRingRead_answers d ring s
  | linkTraining d l peer => exact execLinkTraining_answers d l peer s
  | linkTrainingTimeout d l => exact execLinkTrainingTimeout_answers d l s
  | trainFlit d l rx info => exact execTrainFlit_answers d l rx info s
  | dataFlit d l rx h payload => exact execDataFlit_answers d l rx h payload s
  | idleFlit d l rx h => exact execIdleFlit_answers d l rx h s
  | hello d l h f => exact execHello_answers d l h f s
  | arrive d l h f => exact execArrive_answers d l h f s
  | complete d l h f => exact execComplete_answers d l h f s
  | linkRetryTimeout d l => exact execLinkRetryTimeout_answers d l s
  | laneSignalLoss d l lane => exact execLaneSignalLoss_answers d l lane s
  | linkSilenceEnd d l => exact execLinkSilenceEnd_answers d l s
  | perstNDeassert p env => exact execPerstNDeassert_answers p env s

/-! ### The obligations -/

/-- Settles O58: 12,500 and 50,000 lie in the two ranges. -/
theorem resetHasLimits : Obligations.ResetHasLimits := State.reset_limitsOk

theorem step_of_pending {c : Instr} {rest : List Instr} {s : State} (front : s.pending = c :: rest) :
    step s = exec c { s with pending := rest } := by
  rw [step, front]

theorem step_of_idle {s : State} (idle : s.pending = []) : step s = .next s := by
  rw [step, idle]

/-- Settles O55: the two cases of the queue. -/
theorem stepRunsFrontCommand : Obligations.StepRunsFrontCommand :=
  ⟨fun _ _ _ => step_of_pending, fun _ => step_of_idle⟩

/-- Settles O56: what every command keeps, with its fuses taken one by one. -/
theorem everyCommandAnswers : Obligations.EveryCommandAnswers := by
  intro c s
  obtain ⟨t, next, queue, fuses, -⟩ := exec_answers c s
  obtain ⟨grade, rows, serial, key, stepping⟩ := by simpa only [State.fixed, Prod.mk.injEq] using fuses
  exact ⟨t, next, queue, grade, rows, serial, key, stepping⟩

/-- Settles O59: an idle step changes nothing, and a command keeps the ranges from the state with the rest of the queue, whose
limits are those of the state before. -/
theorem stepKeepsLimits : Obligations.StepKeepsLimits := by
  intro s t inRange stepped
  cases queue : s.pending with
  | nil =>
    rw [step_of_idle queue] at stepped
    exact Host.Outcome.next.inj stepped ▸ inRange
  | cons c rest =>
    obtain ⟨u, next, -, -, limits⟩ := exec_answers c { s with pending := rest }
    rw [step_of_pending queue, next] at stepped
    exact Host.Outcome.next.inj stepped ▸ limits inRange

/-- Settles O57: each value stands in the state after reset, whose tables hold no record of their own. -/
theorem resetValues : Obligations.ResetValues := by
  unfold Obligations.ResetValues
  refine ⟨rfl, rfl, rfl, rfl, rfl, rfl, rfl, rfl, rfl, rfl, rfl, fun d i => ?_, fun r => ?_, fun u => ?_⟩
  · exact ⟨rfl, rfl, rfl, rfl⟩
  · exact ⟨rfl, rfl⟩
  · exact ⟨rfl, rfl⟩

end Sys2Proof.Machine
end

section
/-!
PEER FENCED and PEER RESTORED (R621): the package time stands while ports are held and links train again, and the obligation of the
peers' notices (O37).
-/

namespace Sys2Proof.Machine

theorem State.retrain_pkt (s : State) (k : Nat) : (s.retrain k).pkt = s.pkt :=
  foldl_leaves State.pkt _ (fun s _ => State.pkt_setLink s _ _) _ _

theorem State.fencePeer_eq (s : State) (n : Nat) :
    s.fencePeer n = ((s.portsTo n).foldl (fun (b : State) (k : Nat) => b.setPort k { b.port k with live := false }) s).setPeer n
      { state := 3, port := (s.peer n).port, chg := s.pkt } := by
  have time := foldl_leaves State.pkt (fun (b : State) (k : Nat) => b.setPort k { b.port k with live := false })
    (fun b k => State.pkt_setPort b k _) (s.portsTo n) s
  rw [State.fencePeer, State.peerState, time]

theorem State.restorePeer_eq (s : State) (n : Nat) :
    s.restorePeer n = ((s.portsTo n).foldl State.retrain s).setPeer n { state := 0, port := none, chg := s.pkt } := by
  rw [State.restorePeer, State.peerState, foldl_leaves State.pkt _ State.retrain_pkt]

section
variable {h : CmdHdr} {s a : State}

/-- An accepted notice fences its peer, and ends the run of a gang to which the peer belongs. -/
theorem exec_peerFenced_of_accepts (acc : s.accepts h ⟨0x60, 0, false, s.isPeer, none, []⟩ a) :
    exec (.peerFenced h) s = .next (((if a.inGang (pathModule h.unit) then (a.fencePeer (pathModule h.unit)).endRun
      else a.fencePeer (pathModule h.unit)).reply h 0x60 0 []).moveOn h) :=
  congrArg Host.Outcome.next (State.decode_of_accepts _ acc)

/-- An accepted notice restores its peer where the peer is fenced. -/
theorem exec_peerRestored_of_accepts (acc : s.accepts h ⟨0x61, 0, false, s.isPeer, none, []⟩ a) :
    exec (.peerRestored h) s = .next (((if (a.peer (pathModule h.unit)).state = 3 then a.restorePeer (pathModule h.unit)
      else a).reply h 0x61 0 []).moveOn h) :=
  congrArg Host.Outcome.next (State.decode_of_accepts _ acc)

end

/-! ### The obligation -/

/-- Settles O37: an accepted notice is the fence or the restoration of its peer on the state that its ring leaves. -/
theorem peerNotices : Obligations.PeerNotices := by
  intro h s a n held
  have fenced : a.fencePeer n = held := State.fencePeer_eq a n
  refine ⟨fun acc outside => ?_, fun acc inside => ?_, fun acc up => ?_, fun acc down => ?_⟩
  · rw [exec_peerFenced_of_accepts acc, outside, fenced]
    rfl
  · rw [exec_peerFenced_of_accepts acc, inside, fenced]
    rfl
  · rw [exec_peerRestored_of_accepts acc, if_neg up]
  · rw [exec_peerRestored_of_accepts acc, if_pos down, State.restorePeer_eq]

end Sys2Proof.Machine
end

section
/-!
PORT_RESET, D3HOT_ENTRY, D0_RETURN and PERST_N_DEASSERT (R652, R653), and the obligation of the ports' events (O36).
-/

namespace Sys2Proof.Machine

section
variable {s : State} (p : DieId)

theorem exec_portReset_of_powered (cause : PortResetCause) (powered : s.powered = true) :
    exec (.portReset p cause) s = .next (s.portReset p.val (cause == .perst)) :=
  if_neg (by simp [powered])

theorem exec_portReset_of_unpowered (cause : PortResetCause) (unpowered : s.powered = false) :
    exec (.portReset p cause) s = .next s :=
  if_pos (by simp [unpowered])

theorem exec_d3hotEntry_of_up (live : (s.die p.val).failed = false) (up : (s.die p.val).portUp = true) :
    exec (.d3hotEntry p) s = .next (s.setDie p.val { s.die p.val with d3 := true }) :=
  if_neg (by simp [live, up])

theorem exec_d3hotEntry_of_down (down : (s.die p.val).failed = true ∨ (s.die p.val).portUp = false) :
    exec (.d3hotEntry p) s = .next s :=
  if_pos (by simpa using down)

theorem exec_d0Return_of_d3 (held : (s.die p.val).d3 = true) :
    exec (.d0Return p) s = .next ((s.die p.val).deferred.foldl (fun (s : State) (op : HostOp) => s.emit p.val op)
      (s.setDie p.val { s.die p.val with d3 := false, deferred := [] })) :=
  if_neg (by simp [held])

theorem exec_d0Return_of_d0 (awake : (s.die p.val).d3 = false) : exec (.d0Return p) s = .next s :=
  if_pos (by simp [awake])

/-- R652: the port of die p with PERST_N deasserted. -/
def State.perstOff (s : State) (p : DieId) : State := s.setDie p.val { s.die p.val with perst := false }

theorem State.perstOff_failed : ((s.perstOff p).die p.val).failed = (s.die p.val).failed := by
  rw [State.perstOff, State.die_setDie_self]

/-- A start that waits for the port's PERST_N tries its unit again with the attempts of the event. -/
theorem exec_perstNDeassert_of_waiting {b : Boot} (env : StartEnv) (boot : s.boot = some b)
    (waits : b.hung = some (10, ⟨4, BitVec.ofNat 8 p.val⟩, 0)) :
    let c : Boot := { b with env := { b.env with attempts := env.attempts } }
    exec (.perstNDeassert p env) s = .next (State.bootAfter
      ((s.perstOff p).bootUnit c 10 ⟨4, BitVec.ofNat 8 p.val⟩) c 10 ⟨4, BitVec.ofNat 8 p.val⟩) := by
  intro c
  change execPerstNDeassert p env s = _
  unfold execPerstNDeassert
  dsimp only
  split
  · next b' boot' =>
    obtain rfl : b' = b := Option.some.inj (boot'.symm.trans boot)
    exact if_pos waits
  · next noBoot => exact nomatch noBoot.symm.trans boot

/-- With no start under way the port comes up where the module is ready, and its die lives and has a port (R652). -/
theorem exec_perstNDeassert_of_no_boot (env : StartEnv) (noBoot : s.boot = none) :
    exec (.perstNDeassert p env) s =
      if s.ready && !((s.perstOff p).die p.val).failed && !(s.portsDown.getLsbD p.val) then
        .next ((s.perstOff p).setDie p.val { (s.perstOff p).die p.val with portUp := true })
      else .next (s.perstOff p) := by
  change execPerstNDeassert p env s = _
  unfold execPerstNDeassert
  dsimp only
  split
  · next b boot => exact nomatch boot.symm.trans noBoot
  · rfl

theorem exec_perstNDeassert_of_ready (env : StartEnv) (noBoot : s.boot = none) (ready : s.ready = true)
    (live : (s.die p.val).failed = false) (hasPort : s.portsDown.getLsbD p.val = false) : exec (.perstNDeassert p env) s =
      .next ((s.perstOff p).setDie p.val { (s.perstOff p).die p.val with portUp := true }) := by
  rw [exec_perstNDeassert_of_no_boot p env noBoot, State.perstOff_failed, ready, live, hasPort]
  rfl

theorem exec_perstNDeassert_of_not_ready (env : StartEnv) (noBoot : s.boot = none)
    (down : s.ready = false ∨ (s.die p.val).failed = true ∨ s.portsDown.getLsbD p.val = true) :
    exec (.perstNDeassert p env) s = .next (s.perstOff p) := by
  rw [exec_perstNDeassert_of_no_boot p env noBoot, State.perstOff_failed]
  obtain notReady | dead | noPort := down
  · rw [notReady, Bool.false_and, Bool.false_and, if_neg Bool.false_ne_true]
  · rw [dead, Bool.not_true, Bool.and_false, Bool.false_and, if_neg Bool.false_ne_true]
  · rw [noPort, Bool.not_true, Bool.and_false, if_neg Bool.false_ne_true]

end

/-! ### The obligation -/

/-- Settles O36: each event with its condition and without it. -/
theorem portEvents : Obligations.PortEvents := by
  intro p cause env s e perst muted quiet b u
  exact ⟨exec_portReset_of_powered p cause, exec_portReset_of_unpowered p cause, exec_d3hotEntry_of_up p,
    exec_d3hotEntry_of_down p, exec_d0Return_of_d3 p, exec_d0Return_of_d0 p, exec_perstNDeassert_of_ready p env,
    exec_perstNDeassert_of_not_ready p env, fun _ => exec_perstNDeassert_of_waiting p env⟩

end Sys2Proof.Machine
end

section
/-!
The SMBus block reads, the fragments of messages (R654, R655, R656, R657) and the provisioning messages (R645), and the obligations
of the sideband (O38) and of the keys (O39).
-/

namespace Sys2Proof.Machine

/-! ### Block reads (R654, R655, R656) -/

section
variable {s : State}

theorem State.smbus_of_up (b : List Byte) (up : s.powered = true ∧ s.mreset = false) :
    s.smbus b = { s with smbOut := s.smbOut ++ [b] } :=
  if_pos (by simp [up])

theorem State.smbus_of_down (b : List Byte) (down : ¬(s.powered = true ∧ s.mreset = false)) : s.smbus b = s :=
  if_neg (by simpa using down)

theorem State.statusRead_of_up (up : s.powered = true ∧ s.mreset = false) :
    s.statusRead = { s with alertDegraded := false, throttleSeen := false,
                            alertThrottle := s.alertThrottle && decide (1520 < (highest s.readings).2.2) } :=
  if_pos (by simp [up])

theorem State.statusRead_of_down (down : ¬(s.powered = true ∧ s.mreset = false)) : s.statusRead = s :=
  if_neg (by simpa using down)

end

section
variable {s : State}

theorem exec_smbusStatusRead_of_up (up : s.powered = true ∧ s.mreset = false) :
    exec .smbusStatusRead s = .next { s with
      smbOut := s.smbOut ++ [s.statusBlock], alertDegraded := false, throttleSeen := false
      alertThrottle := s.alertThrottle && decide (1520 < (highest s.readings).2.2) } := by
  change Host.Outcome.next (s.smbus s.statusBlock).statusRead = _
  rw [State.smbus_of_up _ up]
  exact congrArg Host.Outcome.next (State.statusRead_of_up (s := { s with smbOut := s.smbOut ++ [s.statusBlock] }) up)

theorem exec_smbusStatusRead_of_down (down : ¬(s.powered = true ∧ s.mreset = false)) :
    exec .smbusStatusRead s = .next s := by
  change Host.Outcome.next (s.smbus s.statusBlock).statusRead = _
  rw [State.smbus_of_down _ down, State.statusRead_of_down down]

end

/-! ### Fragments (R656) -/

section
variable {s : State} {fb : Byte} {body : List Byte}

theorem exec_messageFragment_of_bad_pec : exec (.messageFragment fb body false) s = .next s :=
  if_neg (by simp)

theorem exec_messageFragment_of_up (powered : s.powered = true) (released : s.mreset = false) (long : 1 ≤ body.length)
    (short : body.length ≤ 254) : exec (.messageFragment fb body true) s = .next (s.fragment fb body) :=
  if_pos (by simp [powered, released, long, short])

/-- A fragment that is none of those expected discards what there is. -/
theorem State.fragment_of_unexpected (later : fb.toNat % 128 ≠ 0) (other : fb.toNat % 128 ≠ s.msg.next) :
    s.fragment fb body = { s with msg := { s.msg with parts := [], next := 0 } } :=
  if_neg (by simp [later, other])

section
variable (expected : fb.toNat % 128 = 0 ∨ fb.toNat % 128 = s.msg.next)
include expected

theorem State.fragment_of_more (more : fb.getLsbD 7 = false) :
    s.fragment fb body = { s with msg := { s.msg with
      parts := (if fb.toNat % 128 = 0 then [] else s.msg.parts) ++ body, next := fb.toNat % 128 + 1 } } :=
  (if_pos expected).trans (if_neg (ne_true_of_eq_false more))

theorem State.fragment_of_last (last : fb.getLsbD 7 = true) :
    s.fragment fb body = ({ s with msg := { s.msg with parts := [], next := 0 } } : State).message
      ((if fb.toNat % 128 = 0 then [] else s.msg.parts) ++ body) :=
  (if_pos expected).trans (if_pos last)

end

end

theorem State.message_deviceKeyRead (s : State) : s.message [1] = s.deviceKeyRead := rfl

/-- Settles O38: the block reads in and out of reset, and the fragments by their place in the message. -/
theorem sidebandMessages : Obligations.SidebandMessages := by
  constructor
  · intro s up say flags down
    have reply : (if s.msg.reply.isEmpty then [0xFF] else s.msg.reply) = if s.msg.reply = [] then [0xFF] else s.msg.reply := by
      simp only [List.isEmpty_iff]
    refine ⟨fun on => congrArg Host.Outcome.next (State.smbus_of_up _ on), exec_smbusStatusRead_of_up,
      fun on => congrArg Host.Outcome.next (State.smbus_of_up _ on),
      fun on => congrArg Host.Outcome.next ((State.smbus_of_up _ on).trans (congrArg say reply)),
      fun off => ⟨congrArg Host.Outcome.next (State.smbus_of_down _ off), exec_smbusStatusRead_of_down off,
        congrArg Host.Outcome.next (State.smbus_of_down _ off), congrArg Host.Outcome.next (State.smbus_of_down _ off)⟩⟩
  · intro fb body s powered released long short q parts
    rw [exec_messageFragment_of_up powered released long short]
    refine ⟨exec_messageFragment_of_bad_pec, fun expected more => ?_, fun later other => ?_,
      fun expected last => ⟨?_, fun one => ?_⟩⟩
    · rw [State.fragment_of_more expected more]
    · rw [State.fragment_of_unexpected later other]
    · rw [State.fragment_of_last expected last]
    · rw [State.fragment_of_last expected last, show _ ++ body = [1] from one, State.message_deviceKeyRead]
      rfl

/-! ### Provisioning messages (R645) -/

section
variable {s : State} {status : Nat} {nonce : Word} {run : State → State}

theorem State.signed_of_accepted (accepted : status = 0) :
    s.signed status nonce run = ({ run s with nonce := nonce } : State).msgReply [0] :=
  if_pos accepted

theorem State.signed_of_refused (refused : status ≠ 0) : s.signed status nonce run = s.msgReply (leBytes 1 status) :=
  if_neg refused

end

section
variable {s : State}

theorem State.deviceKeyRead_of_ready (ready : s.ready = true) :
    s.deviceKeyRead = s.msgReply (0 :: leBytes 8 s.fuses.serial.toNat ++ keyBytes Config.devicePublic) :=
  if_neg (by simp [ready])

theorem State.deviceKeyRead_of_not_ready (notReady : s.ready = false) : s.deviceKeyRead = s.msgReply [4] :=
  if_pos (by simp [notReady])

variable (key : BitVec 768)

theorem State.ownerClaim_of_not_ready (notReady : s.ready = false) : s.ownerClaim key = s.msgReply [4] :=
  if_pos (by simp [notReady])

theorem State.ownerClaim_of_claimed (ready : s.ready = true) (claimed : s.fuses.okey0 ≠ 0) : s.ownerClaim key = s.msgReply [1] :=
  (if_neg (by simp [ready])).trans (if_pos claimed)

theorem State.ownerClaim_of_unclaimed (ready : s.ready = true) (unclaimed : s.fuses.okey0 = 0) :
    s.ownerClaim key = (({ s with fuses := { s.fuses with okey0 := BitVec.ofNat 384 (beNat (sha384 (keyBytes key))) } } :
      State).setOwner 0 (some key)).msgReply [0] :=
  (if_neg (by simp [ready])).trans (if_neg (not_not_intro unclaimed))

end

/-- R645: the status of the checks of a CRATE KEY SET. -/
def State.crateCheck (s : State) (slot signer : Byte) (nonce : Word) (e : BitVec 768) (iv : BitVec 96) (wrapped : BitVec 256)
    (gtag : BitVec 128) (sig : BitVec 768) : Nat :=
  s.msgCheck (decide (slot.toNat < 4)) signer.toNat nonce ([5, slot, signer] ++ leBytes 4 nonce.toNat ++ keyBytes e ++
    beBytes 12 iv.toNat ++ beBytes 32 wrapped.toNat ++ beBytes 16 gtag.toNat) sig

section
variable {s : State} {slot signer : Byte} {nonce : Word} {e : BitVec 768} {iv : BitVec 96} {wrapped : BitVec 256}
  {gtag : BitVec 128} {sig : BitVec 768}

/-- R646: an accepted key is stored as it unwraps; the counter stands where it does not unwrap. -/
theorem State.crateKeySet_of_accepted (accepted : s.crateCheck slot signer nonce e iv wrapped gtag sig = 0) :
    s.crateKeySet slot signer nonce e iv wrapped gtag sig = match s.unwrap slot e iv wrapped gtag with
      | some k => ({ s.setCrateKey slot.toNat (some k) with nonce := nonce } : State).msgReply [0]
      | none => s.msgReply [3] := by
  unfold State.crateCheck at accepted
  simp only [State.crateKeySet, accepted, if_true]
  cases s.unwrap slot e iv wrapped gtag with
  | some k => exact State.signed_of_accepted rfl
  | none => exact State.signed_of_refused (by decide)

theorem State.crateKeySet_of_refused (refused : s.crateCheck slot signer nonce e iv wrapped gtag sig ≠ 0) :
    s.crateKeySet slot signer nonce e iv wrapped gtag sig =
      s.msgReply (leBytes 1 (s.crateCheck slot signer nonce e iv wrapped gtag sig)) := by
  unfold State.crateCheck at *
  simp only [State.crateKeySet, refused, if_false]
  exact State.signed_of_refused refused

end

/-- Settles O39: each message by its checks. -/
theorem keyMessages : Obligations.KeyMessages := by
  intro slot signer nonce key e sig iv wrapped gtag s say n one four set clear crate drop
  have answered {t u : State} (same : t = u) : Host.Outcome.next (φ := Fault) (ρ := Refusal) t = .next u :=
    congrArg Host.Outcome.next same
  have accept {status : Nat} (run : State → State) (accepted : status = 0) :=
    answered (State.signed_of_accepted (s := s) (nonce := nonce) (run := run) accepted)
  have refuse {status : Nat} (run : State → State) (refused : status ≠ 0) :=
    answered (State.signed_of_refused (s := s) (nonce := nonce) (run := run) refused)
  refine ⟨fun ready => answered (State.deviceKeyRead_of_ready ready), fun ready claimed =>
    answered (State.ownerClaim_of_claimed key ready claimed), fun ready unclaimed =>
    answered (State.ownerClaim_of_unclaimed key ready unclaimed), fun notReady =>
    ⟨answered (State.deviceKeyRead_of_not_ready notReady), answered (State.ownerClaim_of_not_ready key notReady)⟩,
    accept (·.setOwner slot.toNat (some key)), refuse (·.setOwner slot.toNat (some key)),
    accept (·.setOwner slot.toNat none), refuse (·.setOwner slot.toNat none), fun accepted => ?_, fun refused =>
    answered (State.crateKeySet_of_refused refused), accept (·.setCrateKey slot.toNat none),
    refuse (·.setCrateKey slot.toNat none)⟩
  refine (answered (State.crateKeySet_of_accepted accepted)).trans ?_
  cases s.unwrap slot e iv wrapped gtag with
  | some k => rfl
  | none => rfl

end Sys2Proof.Machine
end

section
/-!
STATUS_WORD_WRITE and the events that it clears (R32, R532), and the obligation of the status words (O40).
-/

namespace Sys2Proof.Machine

/-! ### Levels of paths (R29) -/

theorem pathLevel_roomPath {r : Nat} (inRange : r < 256) : pathLevel (roomPath r) = 1 := by
  simp only [pathLevel, roomPath, BitVec.toNat_ofNat]
  omega

theorem pathLevel_floorPath {f : Nat} (inRange : f < 16) : pathLevel (floorPath f) = 2 := by
  simp only [pathLevel, floorPath, BitVec.toNat_ofNat]
  omega

theorem pathRoom_lt (p : Word) : pathRoom p < 256 := Nat.mod_lt _ (by decide)
theorem pathFloor_lt (p : Word) : pathFloor p < 16 := Nat.mod_lt _ (by decide)

/-- R30: the one valid path of level 3 is the module's. -/
theorem eq_modulePath_of_level {p : Word} (valid : pathValid p = true) (level : pathLevel p = 3) : p = modulePath := by
  simp only [pathValid, level, beq_iff_eq] at valid
  unfold pathLevel at level
  refine BitVec.eq_of_toNat_eq (show p.toNat = 0x30000000 from ?_)
  omega

/-- R32: a unit of the module stands first among the units that contain it, and the others are of higher levels. -/
theorem containers_eq_cons {p : Word} (valid : pathValid p = true) (level : pathLevel p ≤ 3) :
    ∃ rest, containers p = p :: rest ∧ p ∉ rest := by
  have notRoom : pathLevel p ≠ 1 → p ≠ roomPath (pathRoom p) := fun other same =>
    other (same ▸ pathLevel_roomPath (pathRoom_lt p))
  have notFloor : pathLevel p ≠ 2 → p ≠ floorPath (pathFloor p) := fun other same =>
    other (same ▸ pathLevel_floorPath (pathFloor_lt p))
  have notModule : pathLevel p ≠ 3 → p ≠ modulePath := fun other same => other (same ▸ rfl)
  unfold containers
  match at_ : pathLevel p with
  | 0 => exact ⟨_, rfl, by simp [notRoom, notFloor, notModule, at_]⟩
  | 1 => exact ⟨_, rfl, by simp [notFloor, notModule, at_]⟩
  | 2 => exact ⟨_, rfl, by simp [notModule, at_]⟩
  | 3 => exact ⟨[], congrArg (fun q => [q]) (eq_modulePath_of_level valid at_).symm, List.not_mem_nil⟩
  | n + 4 => omega

/-! ### An event in a unit (R32) -/

theorem State.unit_foldl_event_of_not_mem {p : Word} {l : List Word} (s : State) (b : Nat) (outside : p ∉ l) :
    (l.foldl (fun (s : State) (q : Word) => s.setUnit q ((s.unit q).event b)) s).unit p = s.unit p := by
  induction l generalizing s with
  | nil => rfl
  | cons q l ih =>
    obtain ⟨other, later⟩ := not_or.mp (mt List.mem_cons.mpr outside)
    rw [List.foldl_cons, ih _ later, State.unit_setUnit, if_neg other]

theorem State.unit_event {p : Word} (s : State) (b : Nat) (valid : pathValid p = true) (level : pathLevel p ≤ 3) :
    (s.event p b).unit p = (s.unit p).event b := by
  obtain ⟨rest, first, others⟩ := containers_eq_cons valid level
  rw [State.event, first, List.foldl_cons, State.unit_foldl_event_of_not_mem _ b others, State.unit_setUnit_self]

theorem State.regsUp_event (s : State) (p : Word) (b : Nat) (w : Requester) : (s.event p b).regsUp w = s.regsUp w :=
  State.event_leaves (f := fun s => s.regsUp w) (fun _ _ _ => rfl) s p b

theorem State.tileLive_event (s : State) (p : Word) (b t : Nat) : (s.event p b).tileLive t = s.tileLive t :=
  State.event_leaves (f := fun s => s.tileLive t) (fun _ _ _ => rfl) s p b

/-! ### The write (R532) -/

theorem exec_statusWordWrite_of_up {s : State} {w : Requester} {unit : Word} (value : Word) (up : s.regsUp w = true)
    (valid : pathValid unit = true) (level : pathLevel unit ≤ 3) (live : pathLevel unit = 0 → s.tileLive (pathTile unit) = true) :
    exec (.statusWordWrite w unit value) s = .next (s.writeStatus unit value) := by
  have liveTile : (pathLevel unit != 0 || s.tileLive (pathTile unit)) = true := by simpa [imp_iff_not_or] using live
  exact if_pos (by simp only [up, valid, level, liveTile, decide_true, Bool.and_self])

theorem State.writeStatus_of_seq {s : State} {unit value : Word} (current : value.toNat / 65536 = (s.unit unit).seq.toNat) :
    s.writeStatus unit value =
      s.setUnit unit { s.unit unit with events := (s.unit unit).events &&& ~~~(BitVec.ofNat 10 value.toNat) } :=
  if_pos current

theorem State.writeStatus_of_other_seq {s : State} {unit value : Word}
    (other : value.toNat / 65536 ≠ (s.unit unit).seq.toNat) : s.writeStatus unit value = s :=
  if_neg other

/-- Settles O40: the write with the word's own SEQ and with another; after an event the SEQ from before it is another. -/
theorem statusWordWrites : Obligations.StatusWordWrites := by
  intro w unit value s up valid level live u
  have write (value : Word) := exec_statusWordWrite_of_up value up valid level live
  refine ⟨fun current => ?_, fun other => ?_, fun b _ => ?_⟩
  · rw [write, State.writeStatus_of_seq current]
  · rw [write, State.writeStatus_of_other_seq other]
  · intro t
    have after : t.unit unit = u.event b := State.unit_event s b valid level
    refine ⟨congrArg UnitRegs.seq after, congrArg UnitRegs.events after, fun before => ?_⟩
    have advanced : (t.unit unit).seq ≠ u.seq := by
      rw [after]
      exact fun same => absurd (show u.seq + 1 = u.seq from same) (by bv_omega)
    rw [exec_statusWordWrite_of_up value ((State.regsUp_event s unit b w).trans up) valid level
      fun tile => (State.tileLive_event s unit b _).trans (live tile), State.writeStatus_of_other_seq]
    exact fun same => advanced (BitVec.eq_of_toNat_eq (same.symm.trans before))

end Sys2Proof.Machine
end

section
/-!
Register accesses by their views, sizes and halves (R529, R530, R533, R626), and the obligation of the register accesses (O43).
-/

namespace Sys2Proof.Machine

/-! ### Words that are written (R529, R530, R533) -/

/-- The register of an access is one of 32 bits, neither half of a 64-bit register. -/
def isWord (b : Blk) (o : Nat) : Prop := rw64 b o = false ∧ (4 ≤ o → rw64 b (o - 4) = false)

theorem isWord.not_high {b : Blk} {o : Nat} (single : isWord b o) : ¬ (decide (4 ≤ o) && rw64 b (o - 4)) = true := by
  obtain ⟨-, noLow⟩ := single
  by_cases up : 4 ≤ o
  · simp [up, noLow up]
  · simp [up]

theorem word_of_dword (v : Word) : BitVec.ofNat 32 (BitVec.ofNat 64 v.toNat).toNat = v := by
  refine BitVec.eq_of_toNat_eq ?_
  simp only [BitVec.toNat_ofNat]
  omega

section
variable {s : State} {w : Requester} {bar : Bar} {off : Nat} {v : Word}

theorem State.aliasWrite_of_word (kind : Nat) (aligned : off % 4 = 0)
    (single : isWord (blkAt bar (off / 4096)) (off % 1024)) (writable : rwMask (blkAt bar (off / 4096)) (off % 1024) ≠ 0) :
    s.aliasWrite kind w bar off v =
      let now : Word := BitVec.ofNat 32 (s.reg32 (blkAt bar (off / 4096)) (off % 1024))
      let x := v &&& rwMask (blkAt bar (off / 4096)) (off % 1024)
      s.store32 (s.dieOf w) (blkAt bar (off / 4096)) (off % 1024) (match kind with
        | 1 => now ||| x
        | 2 => now &&& ~~~x
        | _ => now ^^^ x) := by
  rw [State.aliasWrite, if_pos aligned]
  exact (if_neg writable).trans ((if_neg (ne_true_of_eq_false single.1)).trans (if_neg single.not_high))

theorem State.writeReg_of_odd {size : Nat} {x : DWord} (odd : (size ≠ 4 ∨ off % 4 ≠ 0) ∧ (size ≠ 8 ∨ off % 8 ≠ 0)) :
    s.writeReg w bar off size x = s.bumpDie (s.dieOf w) 1 := by
  obtain ⟨notWord, notDouble⟩ := odd
  rw [State.writeReg, if_neg (by tauto), if_neg (by tauto)]

section
variable (aligned : off % 4 = 0) (normal : off % 4096 < 1024)
include aligned normal

/-- R529: a word written at an aligned offset of the normal view. -/
theorem State.writeReg_of_normal : s.writeReg w bar off 4 (BitVec.ofNat 64 v.toNat) = s.normalWord w bar off v := by
  have view : off % 4096 / 1024 = 0 := Nat.div_eq_of_lt normal
  rw [State.writeReg, if_pos ⟨rfl, aligned⟩, word_of_dword, State.writeWord, view]
  rfl

theorem State.writeReg_of_word (single : isWord (blkAt bar (off / 4096)) (off % 1024)) :
    s.writeReg w bar off 4 (BitVec.ofNat 64 v.toNat) = s.store32 (s.dieOf w) (blkAt bar (off / 4096)) (off % 1024) v := by
  rw [State.writeReg_of_normal aligned normal]
  exact (if_neg (ne_true_of_eq_false single.1)).trans (if_neg single.not_high)

/-- R533: the low word of a 64-bit register is held for its requester. -/
theorem State.writeReg_of_low (low : rw64 (blkAt bar (off / 4096)) (off % 1024) = true) :
    s.writeReg w bar off 4 (BitVec.ofNat 64 v.toNat) =
      { s with low := Tbl.set none s.low (lowKey bar off w) (some v) } := by
  rw [State.writeReg_of_normal aligned normal]
  exact if_pos low

/-- R533: the high word stores both halves of a 64-bit register, with the low half as it stands where none is held. -/
theorem State.writeReg_of_high (up : 4 ≤ off % 1024) (notLow : rw64 (blkAt bar (off / 4096)) (off % 1024) = false)
    (low : rw64 (blkAt bar (off / 4096)) (off % 1024 - 4) = true) :
    s.writeReg w bar off 4 (BitVec.ofNat 64 v.toNat) =
      let k := lowKey bar (off - 4) w
      ({ s with low := Tbl.set none s.low k none } : State).store64 (blkAt bar (off / 4096)) (off % 1024 - 4)
        (BitVec.ofNat 64 (v.toNat * 2 ^ 32 + match Tbl.get none s.low k with
          | some y => y.toNat
          | none => s.reg32 (blkAt bar (off / 4096)) (off % 1024 - 4) % 2 ^ 32)) := by
  rw [State.writeReg_of_normal aligned normal]
  exact (if_neg (ne_true_of_eq_false notLow)).trans (if_pos (by simp [up, low, viewOff]))

end

/-! ### Words that are read (R529, R530, R533, R626) -/

theorem State.readWord_of_no_value (noValue : s.reg64 (blkAt bar (off / 4096)) (off % 1024) = none) :
    s.readWord w bar off = (s, if 4 ≤ off % 1024 ∧ (s.reg64 (blkAt bar (off / 4096)) (off % 1024 - 4)).isSome then
        Tbl.get 0 s.shadow (shadowKey bar (off / 4096) w)
      else BitVec.ofNat 32 (s.reg32 (blkAt bar (off / 4096)) (off % 1024))) := by
  simp only [State.readWord, viewOff, noValue]
  by_cases shadowed : 4 ≤ off % 1024 ∧ (s.reg64 (blkAt bar (off / 4096)) (off % 1024 - 4)).isSome = true
  · rw [if_pos shadowed]
    exact if_pos (Bool.and_eq_true_iff.mpr (shadowed.imp_left decide_eq_true))
  · rw [if_neg shadowed]
    exact if_neg (mt Bool.and_eq_true_iff.mp (mt (And.imp_left of_decide_eq_true) shadowed))

section
variable (aligned : off % 4 = 0)
include aligned

theorem State.readReg_of_early (notReady : s.ready = false) :
    s.readReg w bar off 4 = { s with readOut := s.readOut ++ [(w, s.earlyWord w bar off)] } := by
  rw [State.readReg, if_pos ⟨rfl, aligned⟩, State.readOne, if_neg (ne_true_of_eq_false notReady)]

section
variable (ready : s.ready = true)
include ready

/-- R533: the low word of a 64-bit value leaves the high word in the block's shadow. -/
theorem State.readReg_of_low {y : Nat} (value : s.reg64 (blkAt bar (off / 4096)) (off % 1024) = some y) :
    s.readReg w bar off 4 = { s with
      shadow := Tbl.set 0 s.shadow (shadowKey bar (off / 4096) w) (BitVec.ofNat 32 (y / 2 ^ 32))
      readOut := s.readOut ++ [(w, BitVec.ofNat 32 y)] } := by
  rw [State.readReg, if_pos ⟨rfl, aligned⟩, State.readOne, if_pos ready]
  simp only [State.readWord, viewOff, value]

/-- R533: the high word of a 64-bit value comes from the block's shadow, every other word from its register. -/
theorem State.readReg_of_word (noValue : s.reg64 (blkAt bar (off / 4096)) (off % 1024) = none) :
    s.readReg w bar off 4 = { s with readOut := s.readOut ++ [(w,
      if 4 ≤ off % 1024 ∧ (s.reg64 (blkAt bar (off / 4096)) (off % 1024 - 4)).isSome then
        Tbl.get 0 s.shadow (shadowKey bar (off / 4096) w)
      else BitVec.ofNat 32 (s.reg32 (blkAt bar (off / 4096)) (off % 1024)))] } := by
  rw [State.readReg, if_pos ⟨rfl, aligned⟩, State.readOne, if_pos ready, State.readWord_of_no_value noValue]

end

end

theorem State.readReg_of_odd {size : Nat} (odd : (size ≠ 4 ∨ off % 4 ≠ 0) ∧ (size ≠ 8 ∨ off % 8 ≠ 0)) :
    s.readReg w bar off size = { s.bumpDie (s.dieOf w) 1 with
      readOut := s.readOut ++ List.replicate (max 1 ((size + 3) / 4)) (w, 0xFFFFFFFF) } := by
  obtain ⟨notWord, notDouble⟩ := odd
  rw [State.readReg, if_neg (by tauto), if_neg (by tauto)]

end

/-! ### The commands -/

section
variable {s : State} {w : Requester} (bar : Bar) (off : BitVec 31) (v : Word)

section
variable (up : s.regsUp w = true)
include up

theorem exec_setAliasWrite_of_up : exec (.setAliasWrite w bar off v) s = .next (s.aliasWrite 1 w bar off.toNat v) := if_pos up
theorem exec_clearAliasWrite_of_up : exec (.clearAliasWrite w bar off v) s = .next (s.aliasWrite 2 w bar off.toNat v) := if_pos up
theorem exec_invertAliasWrite_of_up : exec (.invertAliasWrite w bar off v) s = .next (s.aliasWrite 3 w bar off.toNat v) := if_pos up

theorem exec_registerWrite_of_up (size : Nat) (x : DWord) :
    exec (.registerWrite w bar off size x) s = .next (s.writeReg w bar off.toNat size x) := if_pos up

theorem exec_highWordWrite_of_up :
    exec (.highWordWrite w bar off v) s = .next (s.writeReg w bar off.toNat 4 (BitVec.ofNat 64 v.toNat)) := if_pos up

theorem exec_eventCounterWrite_of_up :
    exec (.eventCounterWrite w bar off v) s = .next (s.writeReg w bar off.toNat 4 (BitVec.ofNat 64 v.toNat)) := if_pos up

end

theorem exec_lowWordRead_of_reached (size : Nat) (reached : s.reached w = true) :
    exec (.lowWordRead w bar ⟨off, size⟩) s = .next (s.readReg w bar off.toNat size) := if_pos reached

end

/-! ### Counters and bases (R535, R544) -/

/-- R535: the counters of a tile are no word of its unit's control face. -/
theorem State.writeFace_of_counter {s : State} {p : Word} {o : Nat} {v : Word} (counter : 0x10 ≤ o) :
    s.writeFace p 0x00 0x08 0x0C o v = s := by
  rw [State.writeFace, if_neg (by omega), if_neg (by omega), if_neg (by omega)]

/-- A counter of a live tile stores the word that is written. -/
theorem State.store32_of_tile {s : State} {t o : Nat} {v : Word} (d : Nat) (live : s.tileLive t = true) (counter : 0x10 ≤ o) :
    s.store32 d (.tile t) o v = s.setTile t ((s.tile t).writeCounter o v.toNat) :=
  (if_pos live).trans (State.writeFace_of_counter counter)

/-- R544: the base of a disabled submission ring, if it is aligned. -/
theorem State.store64_of_submission {s : State} {d i : Nat} {x : DWord} (ring : i < 8) (disabled : ((s.die d).subRing i).size = 0)
    (aligned : x.toNat % 64 = 0) :
    s.store64 (.rings d) (0x20 * i) x = s.setDie d ((s.die d).setSub i { (s.die d).subRing i with base := x }) := by
  have at_ : 0x20 * i / 0x20 = i := Nat.mul_div_cancel_left i (by decide)
  refine (if_pos (by omega)).trans ?_
  rw [at_]
  exact if_neg (by simp [disabled, aligned])

theorem rw64_submission (d : Nat) {i : Nat} (ring : i < 8) : rw64 (.rings d) (0x20 * i + 4 - 4) = true := by
  have inRange : 0x20 * i < 0x220 := by omega
  simp [rw64, inRange]

theorem rw64_submission_high (d i : Nat) : rw64 (.rings d) (0x20 * i + 4) = false := by
  have upper : (0x20 * i + 4) % 0x20 = 4 := by omega
  simp [rw64, upper]

/-- Settles O43: each access is one of the cases above, and each counter is a word of its block. -/
theorem registerAccesses : Obligations.RegisterAccesses := by
  constructor
  · intro w bar off size v x s b o now m put word high odd shadow
    refine ⟨fun up single writable => ?_, fun up single normal => ?_, fun up size => ?_, fun up aligned normal low => ?_,
      fun up ⟨aligned, normal, upper, notLow, low⟩ => ?_, fun reached ready aligned y value => ?_,
      fun reached notReady aligned => ?_, fun reached ready aligned noValue => ?_, fun reached size => ?_⟩
    · obtain ⟨aligned, single⟩ := single
      rw [exec_setAliasWrite_of_up bar off v up, exec_clearAliasWrite_of_up bar off v up, exec_invertAliasWrite_of_up bar off v up,
        State.aliasWrite_of_word 1 aligned single writable, State.aliasWrite_of_word 2 aligned single writable,
        State.aliasWrite_of_word 3 aligned single writable]
      exact ⟨rfl, rfl, rfl⟩
    · obtain ⟨aligned, single⟩ := single
      rw [exec_registerWrite_of_up bar off up, State.writeReg_of_word aligned normal single]
    · rw [exec_registerWrite_of_up bar off up, State.writeReg_of_odd size]
    · rw [exec_registerWrite_of_up bar off up, State.writeReg_of_low aligned normal low]
    · exact (exec_highWordWrite_of_up bar off v up).trans
        (congrArg Host.Outcome.next (State.writeReg_of_high aligned normal upper notLow low))
    · rw [exec_lowWordRead_of_reached bar off 4 reached, State.readReg_of_low aligned ready value]
    · rw [exec_lowWordRead_of_reached bar off 4 reached, State.readReg_of_early aligned notReady]
    · rw [exec_lowWordRead_of_reached bar off 4 reached, State.readReg_of_word aligned ready noValue]
    · rw [exec_lowWordRead_of_reached bar off _ reached, State.readReg_of_odd size]
  · intro w bar off v lo d t i s up aligned normal b o e x put
    have stores (blk : Blk) (k : Nat) (block : b = blk) (at_ : o = k) (single : isWord blk k) :
        put (s.store32 (s.dieOf w) blk k v) := by
      subst block at_
      exact (exec_eventCounterWrite_of_up bar off v up).trans
        (congrArg Host.Outcome.next (State.writeReg_of_word aligned normal single))
    have counts (block : b = .tile t) (live : s.tileLive t = true) (k : Nat) (counter : 0x10 ≤ k) (at_ : o = k) :
        put (s.setTile t (x.writeCounter k v.toNat)) :=
      State.store32_of_tile (s.dieOf w) live counter ▸ stores (.tile t) k block at_ ⟨rfl, fun _ => rfl⟩
    refine ⟨fun block => ?_, fun block live => ?_, fun block at_ => ?_, fun block ring at_ disabled aligned64 held => ?_⟩
    · have word (k : Nat) (at_ : o = k) := stores (.die d) k block at_ ⟨rfl, fun _ => rfl⟩
      exact ⟨word 0x08, word 0x0C, word 0x10, word 0x14, word 0x18⟩
    · have word := counts block live
      exact ⟨word 0x50 (by decide), word 0x54 (by decide), word 0x58 (by decide), word 0x5C (by decide), word 0x60 (by decide),
        word 0x64 (by decide)⟩
    · exact stores .module 0x70 block at_ ⟨rfl, fun _ => rfl⟩
    · have notLow : rw64 b o = false := by rw [block, at_]; exact rw64_submission_high d i
      have low : rw64 b (o - 4) = true := by rw [block, at_]; exact rw64_submission d ring
      rw [exec_highWordWrite_of_up bar off v up, State.writeReg_of_high aligned normal (show 4 ≤ o by omega) notLow low]
      dsimp only
      rw [held]
      change Host.Outcome.next (State.store64 _ b (o - 4) _) = _
      rw [block, at_]
      exact congrArg Host.Outcome.next (State.store64_of_submission ring disabled (by simp only [BitVec.toNat_ofNat]; omega))

end Sys2Proof.Machine
end

section
/-!
What a flit does on a link that takes flits (R599, R601, R602, R605, R606, R611, R619), and the obligation of the flits (O50).
-/

namespace Sys2Proof.Machine

/-! ### Acknowledgements and NAKs (R601, R602) -/

theorem Link.acked_of_freed {v : Link} {lack : Byte} (freed : ∃ x ∈ v.retry, serialLater x.lseq lack = false) :
    v.acked lack = { v with retry := v.retry.filter (fun x => serialLater x.lseq lack), tries := 0, retrying := false } := by
  obtain ⟨x, entry, done⟩ := freed
  have fewer : (v.retry.filter (fun x => serialLater x.lseq lack)).length < v.retry.length :=
    List.length_filter_lt_length_iff_exists.mpr ⟨x, entry, ne_true_of_eq_false done⟩
  exact if_pos fewer

theorem Link.acked_of_none {v : Link} {lack : Byte} (unacked : ∀ x ∈ v.retry, serialLater x.lseq lack = true) :
    v.acked lack = v := by
  have all : v.retry.filter (fun x => serialLater x.lseq lack) = v.retry := List.filter_eq_self.mpr unacked
  exact if_neg (by rw [all]; exact Nat.lt_irrefl _)

theorem Link.replay_of_waiting {v : Link} (now : Nat) (waits : v.retry ≠ []) (few : v.tries < 16) :
    v.replay now = { v with retry := v.retry.map (fun x => { x with at_ := now }), tries := v.tries + 1, retrying := true } :=
  if_neg (by simp [waits, few])

section
variable {s : State} {i : Nat} {h : FlitHdr}

theorem State.link_takeAck_of_acked (ack : h.ackv = true) (noNak : h.nak = false) :
    (s.takeAck i h).link i = (s.link i).acked h.lack := by
  simp [State.takeAck, ack, noNak]

theorem State.link_takeAck_of_nak (nak : h.nak = true) :
    (s.takeAck i h).link i = ((s.link i).acked h.lack).replay s.pkt := by
  simp [State.takeAck, nak]

theorem State.takeCredits_of_port {k : Nat} (port : s.portOf i = some k) :
    s.takeCredits i h =
      (s.setPort k { s.port k with credits := min 512 ((s.port k).credits + h.crd.toNat) }).flushPort flushFuel k := by
  rw [State.takeCredits, port]

theorem State.takeCredits_of_no_port (noPort : s.portOf i = none) : s.takeCredits i h = s := by
  rw [State.takeCredits, noPort]

/-- R602: a receiver begins a NAK unless one has begun. -/
theorem State.nakLink_of_quiet (quiet : (s.link i).nakking = false) :
    s.nakLink i = s.setLink i { s.link i with nakking := true, nakTries := 1, lastNak := s.pkt } :=
  if_neg (ne_true_of_eq_false quiet)

theorem State.nakLink_of_nakking (begun : (s.link i).nakking = true) : s.nakLink i = s := if_pos begun

/-! ### Flits by their LSEQ (R601) -/

/-- Link i with its expected flit of header h accepted. -/
def State.accepted (s : State) (i : Nat) (h : FlitHdr) : State :=
  (s.setLink i { s.link i with expect := h.lseq + 1, nakking := false, nakTries := 0 }).takeCredits i h

variable {f : State → State}

theorem State.takeSeq_of_expected (expected : ((s.takeAck i h).link i).expect = h.lseq) :
    s.takeSeq i h f = f ((s.takeAck i h).accepted i h) := by
  rw [State.accepted, ← expected]
  exact if_pos expected

theorem State.takeSeq_of_other (other : ((s.takeAck i h).link i).expect ≠ h.lseq) :
    s.takeSeq i h f = (s.takeAck i h).nakLink i :=
  if_neg other

end

/-! ### The flits -/

section
variable {d : DieId} {l : LinkId} {rx : FlitRx} {h : FlitHdr} {s : State}

theorem Link.up_of_mode {v : Link} (mode : v.mode = .live ∨ v.mode = .held) : v.up = true := by
  obtain live | held := mode
  · simp [Link.up, live]
  · simp [Link.up, held]

section
variable (up : (s.link (8 * d.val + l.val)).up = true)
include up

theorem exec_dataFlit_of_bad (payload : List Byte) (bad : (s.link (8 * d.val + l.val)).good rx = false) :
    exec (.dataFlit d l rx h payload) s =
      .next ((s.countFlit (8 * d.val + l.val)).nakLink (8 * d.val + l.val)) :=
  (if_neg (by simp [up])).trans (if_pos (by simp [bad]))

theorem exec_idleFlit_of_bad (bad : (s.link (8 * d.val + l.val)).good rx = false) :
    exec (.idleFlit d l rx h) s = .next ((s.countFlit (8 * d.val + l.val)).nakLink (8 * d.val + l.val)) :=
  (if_neg (by simp [up])).trans (if_pos (by simp [bad]))

theorem exec_dataFlit_of_good (payload : List Byte) (good : (s.link (8 * d.val + l.val)).good rx = true) :
    exec (.dataFlit d l rx h payload) s = .next ((s.countFlit (8 * d.val + l.val)).takeSeq (8 * d.val + l.val) h
      (fun s => s.dataIn (8 * d.val + l.val) h.pseq payload)) :=
  (if_neg (by simp [up])).trans (if_neg (by simp [good]))

theorem exec_idleFlit_of_good (good : (s.link (8 * d.val + l.val)).good rx = true) :
    exec (.idleFlit d l rx h) s = .next
      (((s.countFlit (8 * d.val + l.val)).takeAck (8 * d.val + l.val) h).takeCredits (8 * d.val + l.val) h) :=
  (if_neg (by simp [up])).trans (if_neg (by simp [good]))

end

end

/-! ### Sync frames (R611, R619) -/

/-- R611: an accepted HELLO is kept for the port of link i. -/
def State.helloIn (s : State) (i : Nat) (f : SyncFrame) : State :=
  match s.portOf i with
  | some k => ((s.setPort k { s.port k with helloGot := some f }).meetPeer k f.modn.toNat).tryLive k
  | none => s

/-- R619: an accepted ARRIVE is held for the round of its barrier. -/
def State.arriveIn (s : State) (i : Nat) (f : SyncFrame) : State :=
  match s.portOf i with
  | some k =>
    if !(s.port k).live || !(s.gangBars.contains f.bar.toNat) || f.round != (s.gang f.bar.toNat).round then s
    else (s.setGang f.bar.toNat { s.gang f.bar.toNat with
      from_ := if (s.gang f.bar.toNat).from_.contains k then (s.gang f.bar.toNat).from_ else (s.gang f.bar.toNat).from_ ++ [k]
      held := (s.gang f.bar.toNat).held ++ [f.cross (s.port k).minor] }).gangGo f.bar.toNat
  | none => s

/-- R619: an accepted COMPLETE ends the round of its barrier. -/
def State.completeIn (s : State) (i : Nat) (f : SyncFrame) : State :=
  if !(s.gangBars.contains f.bar.toNat) || f.round != (s.gang f.bar.toNat).round || !(s.gang f.bar.toNat).local_ || s.isRoot ||
      s.parentPort != s.portOf i then s
  else
    let x := f.cross (s.port ((s.portOf i).getD 0)).minor
    s.gangDone f.bar.toNat (if x.hasVal then some x.value else none) x.op.toNat x.poison

section
variable {d : DieId} {l : LinkId} (h : FlitHdr) (f : SyncFrame) {s : State} (up : (s.link (8 * d.val + l.val)).up = true)
include up

theorem exec_hello_of_up : exec (.hello d l h f) s =
    .next ((s.countFlit (8 * d.val + l.val)).takeSeq (8 * d.val + l.val) h (fun s => s.helloIn (8 * d.val + l.val) f)) :=
  if_neg (by simp [up])

theorem exec_arrive_of_up : exec (.arrive d l h f) s =
    .next ((s.countFlit (8 * d.val + l.val)).takeSeq (8 * d.val + l.val) h (fun s => s.arriveIn (8 * d.val + l.val) f)) :=
  if_neg (by simp [up])

theorem exec_complete_of_up : exec (.complete d l h f) s =
    .next ((s.countFlit (8 * d.val + l.val)).takeSeq (8 * d.val + l.val) h (fun s => s.completeIn (8 * d.val + l.val) f)) :=
  if_neg (by simp [up])

end

section
variable {s : State} {i k : Nat} {f : SyncFrame} (port : s.portOf i = some k)
include port

theorem State.helloIn_of_port :
    s.helloIn i f = ((s.setPort k { s.port k with helloGot := some f }).meetPeer k f.modn.toNat).tryLive k := by
  rw [State.helloIn, port]

theorem State.arriveIn_of_round (live : (s.port k).live = true) (gang : s.gangBars.contains f.bar.toNat = true)
    (round : f.round = (s.gang f.bar.toNat).round) :
    s.arriveIn i f = (s.setGang f.bar.toNat { s.gang f.bar.toNat with
      from_ := if (s.gang f.bar.toNat).from_.contains k then (s.gang f.bar.toNat).from_ else (s.gang f.bar.toNat).from_ ++ [k]
      held := (s.gang f.bar.toNat).held ++ [f.cross (s.port k).minor] }).gangGo f.bar.toNat := by
  rw [State.arriveIn, port]
  exact if_neg (by
    simp only [live, gang, round, bne_self_eq_false, Bool.not_true, Bool.or_self, Bool.false_eq_true, not_false_eq_true])

theorem State.completeIn_of_round (gang : s.gangBars.contains f.bar.toNat = true) (round : f.round = (s.gang f.bar.toNat).round)
    (waits : (s.gang f.bar.toNat).local_ = true) (child : s.isRoot = false) (parent : s.parentPort = some k) :
    s.completeIn i f = s.gangDone f.bar.toNat (if (f.cross (s.port k).minor).hasVal then some (f.cross (s.port k).minor).value
      else none) (f.cross (s.port k).minor).op.toNat (f.cross (s.port k).minor).poison := by
  rw [State.completeIn, port, if_neg (by
    simp only [gang, round, waits, child, parent, bne_self_eq_false, Bool.not_true, Bool.or_self, Bool.false_eq_true,
      not_false_eq_true])]
  rfl

end

/-! ### The obligation -/

/-- Settles O50: a bad flit, what the header of a good one acknowledges, and a flit by its LSEQ. -/
theorem flitReception : Obligations.FlitReception := by
  intro d l rx h payload f s i v c a nak b g mode
  have up : (s.link (8 * d.val + l.val)).up = true := Link.up_of_mode mode
  have counted : c.link i = v.counted := State.link_setLink_self _ _ _
  have quiet (t : State) (quietLink : (t.link i).nakking = false) : t.nakLink i = nak t := State.nakLink_of_quiet quietLink
  have expected (f : State → State) (same : (a.link i).expect = h.lseq) : c.takeSeq i h f = f b := State.takeSeq_of_expected same
  have other (f : State → State) (differs : (a.link i).expect ≠ h.lseq) : c.takeSeq i h f = a.nakLink i :=
    State.takeSeq_of_other differs
  refine ⟨fun bad quietLink => ?_, fun bad begun => ?_, fun noNak ack freed => ?_, fun isNak waits few unacked => ?_,
    fun good noPort => ?_, fun k good port => ?_, fun differs quietLink => ?_, fun differs begun => ?_, fun same => ⟨fun good => ?_,
    fun k port => ⟨?_, fun live gang round => ?_, fun gang round waits child parent => ?_⟩⟩⟩
  · have begins : (s.countFlit i).nakLink i = nak c := quiet c (counted ▸ quietLink)
    exact ⟨(exec_dataFlit_of_bad up payload bad).trans (congrArg _ begins),
      (exec_idleFlit_of_bad up bad).trans (congrArg _ begins)⟩
  · have stands : (s.countFlit i).nakLink i = c := State.nakLink_of_nakking (counted ▸ begun)
    exact ⟨(exec_dataFlit_of_bad up payload bad).trans (congrArg _ stands),
      (exec_idleFlit_of_bad up bad).trans (congrArg _ stands)⟩
  · rw [State.link_takeAck_of_acked ack noNak, counted]
    exact Link.acked_of_freed freed
  · rw [State.link_takeAck_of_nak isNak, counted, Link.acked_of_none (v := v.counted) unacked]
    exact Link.replay_of_waiting _ waits few
  · exact (exec_idleFlit_of_good up good).trans (congrArg _ (State.takeCredits_of_no_port noPort))
  · exact (exec_idleFlit_of_good up good).trans (congrArg _ (State.takeCredits_of_port port))
  · have begins := quiet a quietLink
    exact ⟨fun good => (exec_dataFlit_of_good up payload good).trans (congrArg _ ((other _ differs).trans begins)),
      (exec_hello_of_up h f up).trans (congrArg _ ((other _ differs).trans begins)),
      (exec_arrive_of_up h f up).trans (congrArg _ ((other _ differs).trans begins)),
      (exec_complete_of_up h f up).trans (congrArg _ ((other _ differs).trans begins))⟩
  · have stands := State.nakLink_of_nakking begun
    exact ⟨fun good => (exec_dataFlit_of_good up payload good).trans (congrArg _ ((other _ differs).trans stands)),
      (exec_hello_of_up h f up).trans (congrArg _ ((other _ differs).trans stands)),
      (exec_arrive_of_up h f up).trans (congrArg _ ((other _ differs).trans stands)),
      (exec_complete_of_up h f up).trans (congrArg _ ((other _ differs).trans stands))⟩
  · exact (exec_dataFlit_of_good up payload good).trans (congrArg _ (expected _ same))
  · exact (exec_hello_of_up h f up).trans (congrArg _ ((expected _ same).trans (State.helloIn_of_port port)))
  · exact (exec_arrive_of_up h f up).trans (congrArg _ ((expected _ same).trans (State.arriveIn_of_round port live gang round)))
  · exact (exec_complete_of_up h f up).trans
      (congrArg _ ((expected _ same).trans (State.completeIn_of_round port gang round waits child parent)))

end Sys2Proof.Machine
end

section
/-!
Links that train, lose their signal, fall silent and retry (R601, R602, R603, R608, R609), and the obligation of the links'
training (O51).
-/

namespace Sys2Proof.Machine

theorem linkOf_div (d : DieId) (l : LinkId) : (8 * d.val + l.val) / 8 = d.val := by omega
theorem linkOf_mod (d : DieId) (l : LinkId) : (8 * d.val + l.val) % 8 = l.val := by omega

/-! ### Training (R608, R609) -/

/-- R608: a link at the end of its training, in a mode. -/
def Link.fresh (v : Link) (peer : TrainInfo) (mode : LinkMode) : Link :=
  { Link.reset with mode := mode, alt := v.alt, peer := some peer, lanesDown := 0 }

section
variable {s : State} {d : DieId} {l : LinkId} {peer : TrainInfo}

/-- R608: a link that reached its own module is held. -/
theorem State.trained_of_own (own : peer.serial = s.fuses.serial) : s.trained (8 * d.val + l.val) peer =
    (s.setLink (8 * d.val + l.val) ((s.link (8 * d.val + l.val)).fresh peer .held)).linkFault d.val 6
      ((s.portOf (8 * d.val + l.val)).getD 255) l.val 0 0 0 := by
  simp only [State.trained, own, if_true, linkOf_div, linkOf_mod]
  rfl

/-- R609: a link without a minor in common is held. -/
theorem State.trained_of_no_minor (other : peer.serial ≠ s.fuses.serial) (noMinor : commonMinor peer = none) :
    s.trained (8 * d.val + l.val) peer =
      (s.setLink (8 * d.val + l.val) ((s.link (8 * d.val + l.val)).fresh peer .held)).linkFault d.val 5
        ((s.portOf (8 * d.val + l.val)).getD 255) l.val 0 0 0 := by
  simp only [State.trained, other, noMinor, if_false, linkOf_div, linkOf_mod]
  rfl

theorem State.trained_of_minor {i m : Nat} (other : peer.serial ≠ s.fuses.serial) (minor : commonMinor peer = some m) :
    s.trained i peer = (s.setLink i { (s.link i).fresh peer .live with minor := m }).joinPort i peer.serial := by
  simp only [State.trained, other, minor, if_false]
  rfl

/-- R608: a link that is dark or in training ends its training. -/
theorem exec_linkTraining_of_dark (ready : s.ready = true) (live : (s.die d.val).failed = false)
    (mode : (s.link (8 * d.val + l.val)).mode = .dark ∨ ∃ n, (s.link (8 * d.val + l.val)).mode = .training n) :
    exec (.linkTraining d l peer) s =
      .next (({ s with linksDown := s.linksDown &&& ~~~(BitVec.ofNat 32 (2 ^ (8 * d.val + l.val))) } : State).trained
        (8 * d.val + l.val) peer) := by
  refine (if_neg (by simp [ready, live])).trans ?_
  obtain dark | ⟨n, training⟩ := mode
  · simp only [dark]
  · simp only [training]

end

/-! ### A link in training (R603, R608) -/

section
variable {s : State} {d : DieId} {l : LinkId} {n : Nat} (training : (s.link (8 * d.val + l.val)).mode = .training n)
include training

theorem exec_linkTrainingTimeout_of_training : exec (.linkTrainingTimeout d l) s =
    .next (s.setLink (8 * d.val + l.val) { s.link (8 * d.val + l.val) with
      mode := .training 1, attempts := (s.link (8 * d.val + l.val)).attempts + 1, peer := none }) := by
  change execLinkTrainingTimeout d l s = _
  simp only [execLinkTrainingTimeout, training]

theorem exec_trainFlit_of_training (rx : FlitRx) (peer : TrainInfo) : exec (.trainFlit d l rx peer) s =
    .next (s.setLink (8 * d.val + l.val) (if (s.link (8 * d.val + l.val)).good rx then
      { (s.link (8 * d.val + l.val)).counted with mode := .training 4, peer := some peer }
      else (s.link (8 * d.val + l.val)).counted)) := by
  change execTrainFlit d l rx peer s = _
  simp only [execTrainFlit, training]

theorem exec_laneSignalLoss_of_training (lane : Fin 4) : exec (.laneSignalLoss d l lane) s =
    .next (s.setLink (8 * d.val + l.val) { s.link (8 * d.val + l.val) with
      mode := .dark, peer := none
      lanesDown := (s.link (8 * d.val + l.val)).lanesDown ||| BitVec.ofNat 4 (2 ^ lane.val) }) := by
  change execLaneSignalLoss d l lane s = _
  simp only [execLaneSignalLoss, training]

end

/-! ### A link that is live or held (R601, R602, R603) -/

section
variable {s : State} {d : DieId} {l : LinkId}

theorem exec_trainFlit_of_live {rx : FlitRx} (peer : TrainInfo) (live : (s.link (8 * d.val + l.val)).mode = .live)
    (good : (s.link (8 * d.val + l.val)).good rx = true) :
    exec (.trainFlit d l rx peer) s = .next (s.failLink (8 * d.val + l.val) 3) := by
  change execTrainFlit d l rx peer s = _
  simp only [execTrainFlit, live, good, if_true]

section
variable (mode : (s.link (8 * d.val + l.val)).mode = .live ∨ (s.link (8 * d.val + l.val)).mode = .held)
include mode

theorem exec_laneSignalLoss_of_up (lane : Fin 4) : exec (.laneSignalLoss d l lane) s =
    .next ((s.setLink (8 * d.val + l.val) { s.link (8 * d.val + l.val) with
      lanesDown := (s.link (8 * d.val + l.val)).lanesDown ||| BitVec.ofNat 4 (2 ^ lane.val) }).failLink (8 * d.val + l.val) 2) := by
  change execLaneSignalLoss d l lane s = _
  obtain live | held := mode
  · simp only [execLaneSignalLoss, live]
  · simp only [execLaneSignalLoss, held]

/-- R601: after 16 attempts an unacknowledged flit fails its link; until then all of them go again. -/
theorem exec_linkRetryTimeout_of_retry {x : SentFlit} {r : List SentFlit} (waits : (s.link (8 * d.val + l.val)).retry = x :: r)
    (late : x.at_ + 39 ≤ s.pkt) (quiet : (s.link (8 * d.val + l.val)).nakking = false) :
    exec (.linkRetryTimeout d l) s = if 16 ≤ (s.link (8 * d.val + l.val)).tries then .next (s.failLink (8 * d.val + l.val) 1)
      else .next (s.setLink (8 * d.val + l.val) ((s.link (8 * d.val + l.val)).replay s.pkt)) := by
  change execLinkRetryTimeout d l s = _
  simp [execLinkRetryTimeout, Link.up_of_mode mode, waits, late, quiet]

/-- R602: after 16 attempts a NAK that brings no replay fails its link; until then it goes again. -/
theorem exec_linkRetryTimeout_of_nak (empty : (s.link (8 * d.val + l.val)).retry = [])
    (begun : (s.link (8 * d.val + l.val)).nakking = true) (late : (s.link (8 * d.val + l.val)).lastNak + 39 ≤ s.pkt) :
    exec (.linkRetryTimeout d l) s = if 16 ≤ (s.link (8 * d.val + l.val)).nakTries then
        .next (s.failLink (8 * d.val + l.val) 1)
      else .next (s.setLink (8 * d.val + l.val) { s.link (8 * d.val + l.val) with
        nakTries := (s.link (8 * d.val + l.val)).nakTries + 1, lastNak := s.pkt }) := by
  change execLinkRetryTimeout d l s = _
  simp [execLinkRetryTimeout, Link.up_of_mode mode, empty, begun, late]

end

/-! ### A silent link (R603) -/

theorem exec_linkSilenceEnd_of_silent (silent : (s.link (8 * d.val + l.val)).mode = .silent) :
    exec (.linkSilenceEnd d l) s = .next (if s.pkt < (s.link (8 * d.val + l.val)).since + 50 then s
      else s.setLink (8 * d.val + l.val) { s.link (8 * d.val + l.val) with mode := .training 1, attempts := 0 }) := by
  change execLinkSilenceEnd d l s = _
  simp only [execLinkSilenceEnd, silent]

end

/-! ### The obligation -/

/-- Settles O51: each event by the mode of the link. -/
theorem linkTrainings : Obligations.LinkTrainings := by
  intro d l peer rx lane s i v lit fresh off seen
  refine ⟨fun ready live mode => ⟨fun own => ?_, fun other noMinor => ?_, fun m other minor => ?_⟩,
    fun n training => ⟨?_, fun good => ?_, fun bad => ?_, ?_⟩, fun live good => ?_,
    fun mode => ⟨?_, fun x r waits late quiet => ⟨fun many => ?_, fun few => ?_⟩,
      fun empty begun late => ⟨fun many => ?_, fun few => ?_⟩⟩, fun silent => ⟨fun elapsed => ?_, fun early => ?_⟩⟩
  · exact (exec_linkTraining_of_dark ready live mode).trans (congrArg _ (State.trained_of_own (s := lit) own))
  · exact (exec_linkTraining_of_dark ready live mode).trans (congrArg _ (State.trained_of_no_minor (s := lit) other noMinor))
  · exact (exec_linkTraining_of_dark ready live mode).trans (congrArg _ (State.trained_of_minor (s := lit) other minor))
  · exact exec_linkTrainingTimeout_of_training training
  · rw [exec_trainFlit_of_training training rx peer, if_pos good]
    rfl
  · rw [exec_trainFlit_of_training training rx peer, if_neg (ne_true_of_eq_false bad)]
    rfl
  · exact exec_laneSignalLoss_of_training training lane
  · exact exec_trainFlit_of_live peer live good
  · exact exec_laneSignalLoss_of_up mode lane
  · rw [exec_linkRetryTimeout_of_retry mode waits late quiet, if_pos many]
  · rw [exec_linkRetryTimeout_of_retry mode waits late quiet, if_neg (Nat.not_le.mpr few),
      Link.replay_of_waiting _ (waits ▸ List.cons_ne_nil x r) few]
  · rw [exec_linkRetryTimeout_of_nak mode empty begun late, if_pos many]
  · rw [exec_linkRetryTimeout_of_nak mode empty begun late, if_neg (Nat.not_le.mpr few)]
  · rw [exec_linkSilenceEnd_of_silent silent, if_neg (Nat.not_lt.mpr elapsed)]
  · rw [exec_linkSilenceEnd_of_silent silent, if_pos early]

end Sys2Proof.Machine
end

section
/-! Writing a key of a sparse table twice. -/

namespace Sys2Proof

/-- The later of two writes of one key stands. -/
theorem Tbl.splice_splice {α : Type} (m : Tbl α) (k : Nat) (a b : Option α) : (m.splice k a).splice k b = m.splice k b := by
  have below : (m.splice k a).filter (fun e => decide (e.1 < k)) = m.filter (fun e => decide (e.1 < k)) := by
    cases a <;> simpa [Tbl.splice, List.filter_append, List.filter_filter] using fun _ _ _ => Nat.le_of_lt
  have above : (m.splice k a).filter (fun e => decide (k < e.1)) = m.filter (fun e => decide (k < e.1)) := by
    cases a <;> simpa [Tbl.splice, List.filter_append, List.filter_filter] using fun _ _ _ => Nat.le_of_lt
  rw [Tbl.splice, below, above, ← Tbl.splice]

theorem Tbl.set_set {α : Type} [DecidableEq α] (d : α) (m : Tbl α) (k : Nat) (v w : α) :
    (m.set d k v).set d k w = m.set d k w :=
  Tbl.splice_splice m k _ _

end Sys2Proof
end

section
/-!
Records that send rings give to the links, and records that the links bring (R574, R613, R614, R615), and the obligation of the
records (O52).
-/

namespace Sys2Proof.Machine

theorem State.setPort_setPort (s : State) (k : Nat) (p q : Port) : (s.setPort k p).setPort k q = s.setPort k q :=
  congrArg (fun ports => { s with ports := ports }) (Tbl.set_set Port.reset s.ports k p q)

/-! ### Send rings (R614) -/

section
variable {s : State} {d num : Nat} (n : Nat) (q : Nat × Nat × Nat) (begun : (s.sendRing d num).part ≠ [])

/-- The module of the record that a send ring reads. -/
def SendRing.dmod (r : SendRing) : Nat := leNat (r.part.take 8) % 2 ^ 14

/-- R613: the path field of the record that a send ring reads. -/
def SendRing.dpath (r : SendRing) : Nat := leNat (r.part.take 8) / 2 ^ 32

include begun

/-- R614: a record in order for another module stays while no live port reaches it. -/
theorem State.readSend_of_no_port (legal : headerLegal ((s.sendRing d num).part.take 32) = true)
    (other : (s.sendRing d num).dmod ≠ s.moduleNo) (noPort : s.portTo d (s.sendRing d num).dmod = none) :
    s.readSend (n + 1) d num q = s := by
  unfold SendRing.dmod at other noPort
  exact if_pos (by simp [begun, legal, other, noPort, -Nat.reducePow])

section
variable (whole : wireLen (s.sendRing d num).part + 16 ≤ (s.sendRing d num).part.length)
include whole

/-- R613: a record whose header is out of order is dropped with a link fault. -/
theorem State.readSend_of_illegal (illegal : headerLegal ((s.sendRing d num).part.take 32) = false) :
    s.readSend (n + 1) d num q = (s.setSendRing { s.sendRing d num with part := [] }).linkFault d 1 255 255 num
      (s.sendRing d num).dmod (s.sendRing d num).dpath := by
  refine (if_neg (by simp [illegal, -Nat.reducePow])).trans ((if_pos (by simp [begun, whole, -Nat.reducePow])).trans
    ((if_pos (by simp [illegal, -Nat.reducePow])).trans ?_))
  rw [illegal]
  rfl

/-- R614: a record for this module is dropped with a link fault. -/
theorem State.readSend_of_own (legal : headerLegal ((s.sendRing d num).part.take 32) = true)
    (own : (s.sendRing d num).dmod = s.moduleNo) :
    s.readSend (n + 1) d num q = (s.setSendRing { s.sendRing d num with part := [] }).linkFault d 2 255 255 num
      (s.sendRing d num).dmod (s.sendRing d num).dpath := by
  unfold SendRing.dmod at own
  refine (if_neg (by simp [own, -Nat.reducePow])).trans ((if_pos (by simp [begun, whole, -Nat.reducePow])).trans
    ((if_pos (by simp [own, -Nat.reducePow])).trans ?_))
  rw [legal]
  rfl

/-- R614: a whole record goes to the live port toward its module, without the 16 bytes that pad its header line. -/
theorem State.readSend_of_port {k : Nat} (legal : headerLegal ((s.sendRing d num).part.take 32) = true)
    (other : (s.sendRing d num).dmod ≠ s.moduleNo) (port : s.portTo d (s.sendRing d num).dmod = some k) :
    s.readSend (n + 1) d num q = ((s.setSendRing { s.sendRing d num with part := [] }).setPort k
      { (s.setSendRing { s.sendRing d num with part := [] }).port k with
        txQ := ((s.setSendRing { s.sendRing d num with part := [] }).port k).txQ ++ (s.sendRing d num).part.take 16 ++
          (s.sendRing d num).part.drop 32 }).flushPort flushFuel k := by
  unfold SendRing.dmod at other port
  refine (if_neg (by simp [port, -Nat.reducePow])).trans ((if_pos (by simp [begun, whole, -Nat.reducePow])).trans
    ((if_neg (by simp [legal, other, -Nat.reducePow])).trans ?_))
  rw [port]

end

end

theorem exec_sendRingRead_of_started {s : State} {d : DieId} {ring : BitVec 12} {q : Nat × Nat × Nat}
    (live : (s.die d.val).failed = false) (started : s.started.isSome = true)
    (due : (s.sendRing d.val ring.toNat).after ≤ s.pkt) (listed : (s.sendRingsOf d.val)[ring.toNat]? = some q) :
    exec (.sendRingRead d ring) s = .next (s.readSend 12 d.val ring.toNat q) := by
  have runs : s.started.isNone = false := by simpa using started
  refine (if_neg (by simp [live, runs, due])).trans ?_
  rw [listed]

/-! ### Lines of lost records (R574, R616) -/

theorem State.writeLost_of_none {s : State} {d : Nat} (noLost : (s.die d).lost = []) : s.writeLost d = s := by
  rw [State.writeLost, noLost]
  rfl

/-- The one lost line of a die is written, and nothing is left of it. -/
theorem State.writeLost_of_done {s : State} {d : Nat} {z : LostLine} (one : (s.die d).lost = [z])
    (done : ((s.setDie d { s.die d with lost := [] }).dieWrite d (pathTile z.dpath) z.line z.bytes [0, 1, 2, 3]
      (some z.org)).2 = .done) :
    s.writeLost d =
      ((s.setDie d { s.die d with lost := [] }).dieWrite d (pathTile z.dpath) z.line z.bytes [0, 1, 2, 3] (some z.org)).1 := by
  rw [State.writeLost, one]
  simp only [List.isEmpty_cons, Bool.false_eq_true, if_false, List.foldl_cons, List.foldl_nil, done]

/-! ### Received records (R615) -/

section
variable {s : State} {k : Nat}

theorem State.writeRecord_of_idle (free : (s.port k).inFlight = none) (noneWaits : (s.port k).waiting = []) :
    s.writeRecord k = s := by
  simp only [State.writeRecord, free, noneWaits]

/-- R615: the request of an unordered record's WRITE. -/
def State.recordReq (s : State) (d k : Nat) (r : LinkRec) : EdgeReq :=
  { die := Fin.ofNat 4 d, etag := linkTag k r.ring, pkt := s.fromBuffer k r (recPacket d k r 0), purpose := .link k, floors := []
    partial_ := false, root := none, held := false }

/-- R615: an unordered record for a floor that is up is written. -/
theorem State.writeRecord_of_waiting {r : LinkRec} {rest : List LinkRec} (free : (s.port k).inFlight = none)
    (waits : (s.port k).waiting = r :: rest) (unordered : r.str = 0) (up : s.floorUp (tileFloor (pathTile r.dpath)) = true) :
    s.writeRecord k = ({ s.setPort k { s.port k with waiting := rest, inFlight := some r, bounced := none } with
      edgeReqs := s.edgeReqs ++ [s.recordReq (k / 4) k r] } : State).dieInject (k / 4) (s.recordReq (k / 4) k r).pkt := by
  have plain : (r.str != 0) = false := by simp [unordered]
  have stays (p : Port) : (s.setPort k p).floorUp (tileFloor (pathTile r.dpath)) = true := up
  have same (p : Port) (x : Packet) : (s.setPort k p).fromBuffer k r x = s.fromBuffer k r x := rfl
  simp only [State.writeRecord, free, waits, plain, stays, same, Bool.false_and, Bool.not_true, Bool.false_eq_true, if_false,
    State.port_setPort_self, State.setPort_setPort]
  rfl

theorem State.writeRecord_of_under_way {r : LinkRec} (underWay : (s.port k).inFlight = some r) :
    s.writeRecord k = s.rewriteRecord k := by
  simp only [State.writeRecord, underWay]

theorem State.rewriteRecord_of_not_bounced (notBounced : (s.port k).bounced = none) : s.rewriteRecord k = s := by
  simp only [State.rewriteRecord, notBounced]

/-- R615: a WRITE that has bounced goes again after 5 package ticks. -/
theorem State.rewriteRecord_of_bounced {at_ : Nat} {y : EdgeReq} (bounced : (s.port k).bounced = some at_)
    (req : s.edgeReqs.find? (fun z => z.purpose == .link k) = some y) :
    s.rewriteRecord k = if at_ + 5 ≤ s.pkt then (s.setPort k { s.port k with bounced := none }).dieInject (k / 4) y.pkt else s := by
  simp only [State.rewriteRecord, bounced, req]

end

theorem exec_linkRecordWrite_of_live {s : State} {d : DieId} {port : Fin 16} (live : (s.die d.val).failed = false)
    (own : port.val / 4 = d.val) : exec (.linkRecordWrite d port) s = .next ((s.writeLost d.val).writeRecord port.val) :=
  if_neg (by simp [live, own])

/-! ### The obligation -/

/-- Settles O52: the record of a send ring by its header and its port, the lost line, and the records of a port that receives. -/
theorem linkRecords : Obligations.LinkRecords := by
  intro d ring port q r rest y at_ z s live x w own c p pkt e lost
  refine ⟨fun started due listed begun => ?_, fun ofDie one done free noneWaits => ?_, fun ofDie noLost => ?_⟩
  · have read := exec_sendRingRead_of_started live started due listed
    refine ⟨fun legal other noPort => ?_, fun whole => ⟨fun illegal => ?_, fun legal isOwn => ?_, fun k legal other port => ?_⟩⟩
    · rw [read, State.readSend_of_no_port 11 q begun legal other noPort]
    · rw [read, State.readSend_of_illegal 11 q begun whole illegal]
      rfl
    · rw [read, State.readSend_of_own 11 q begun whole legal isOwn]
      rfl
    · rw [read, State.readSend_of_port 11 q begun whole legal other port]
  · rw [exec_linkRecordWrite_of_live live ofDie, State.writeLost_of_done one done, State.writeRecord_of_idle free noneWaits]
  · have writes : exec (.linkRecordWrite d port) s = .next (s.writeRecord port.val) := by
      rw [exec_linkRecordWrite_of_live live ofDie, State.writeLost_of_none noLost]
    refine ⟨fun free waits unordered up => ⟨_, rfl, ?_⟩, fun free noneWaits => ?_, fun underWay bounced req => ⟨fun due => ?_,
      fun early => ?_⟩, fun underWay notBounced => ?_⟩
    · rw [writes, State.writeRecord_of_waiting free waits unordered up, ofDie]
      rfl
    · rw [writes, State.writeRecord_of_idle free noneWaits]
    · rw [writes, State.writeRecord_of_under_way underWay, State.rewriteRecord_of_bounced bounced req, if_pos due, ofDie]
    · rw [writes, State.writeRecord_of_under_way underWay, State.rewriteRecord_of_bounced bounced req, if_neg (Nat.not_le.mpr early)]
    · rw [writes, State.writeRecord_of_under_way underWay, State.rewriteRecord_of_not_bounced notBounced]

end Sys2Proof.Machine
end

section
/-! PROOFS. The words of a tile's program: every field stands in its word where the decoder reads it, so that a
well-formed instruction decodes from its words to itself (R88 to R92). -/

namespace Sys2Proof

/-- A field is the value whose bits stand from its place on. -/
theorem extractLsb'_eq_of_getLsbD {n k : Nat} {w : BitVec n} {x : BitVec k} {place : Nat}
    (bits : ∀ i < k, w.getLsbD (place + i) = x.getLsbD i) : w.extractLsb' place k = x :=
  BitVec.eq_of_getLsbD_eq fun i inside => by simp [inside, bits i inside]

section ScalarWord
variable (o : BitVec 8) (g : Guard) (rd ra rb : BitVec 5) (sub : BitVec 4) (imm : Word)


@[simp] theorem opcOf_scalarWord : opcOf (scalarWord o g rd ra rb sub imm) = o :=
  extractLsb'_eq_of_getLsbD fun i inside => by
    simp only [scalarWord, BitVec.getLsbD_append]; grind

@[simp] theorem rdOf_scalarWord : rdOf (scalarWord o g rd ra rb sub imm) = rd :=
  extractLsb'_eq_of_getLsbD fun i inside => by
    simp only [scalarWord, BitVec.getLsbD_append]; grind

@[simp] theorem raOf_scalarWord : raOf (scalarWord o g rd ra rb sub imm) = ra :=
  extractLsb'_eq_of_getLsbD fun i inside => by
    simp only [scalarWord, BitVec.getLsbD_append]; grind

@[simp] theorem rbOf_scalarWord : rbOf (scalarWord o g rd ra rb sub imm) = rb :=
  extractLsb'_eq_of_getLsbD fun i inside => by
    simp only [scalarWord, BitVec.getLsbD_append]; grind

@[simp] theorem subOf_scalarWord : subOf (scalarWord o g rd ra rb sub imm) = sub :=
  extractLsb'_eq_of_getLsbD fun i inside => by
    simp only [scalarWord, BitVec.getLsbD_append]; grind

@[simp] theorem immOf_scalarWord : immOf (scalarWord o g rd ra rb sub imm) = imm :=
  extractLsb'_eq_of_getLsbD fun i inside => by
    simp only [scalarWord, BitVec.getLsbD_append]; grind

@[simp] theorem guardOf_scalarWord : guardOf (scalarWord o g rd ra rb sub imm) = g := by
  have predicate : (scalarWord o g rd ra rb sub imm).extractLsb' 51 3 = g.p :=
    extractLsb'_eq_of_getLsbD fun i inside => by simp only [scalarWord, BitVec.getLsbD_append]; grind
  rw [guardOf, predicate]
  simp only [scalarWord, BitVec.getLsbD_append, BitVec.getLsbD_ofBool]
  rfl

/-- R89: the opcode's highest bit tells an engine header from a scalar word. -/
@[simp] theorem isEngineWord_scalarWord : isEngineWord (scalarWord o g rd ra rb sub imm) = o.getLsbD 7 := by
  simp only [isEngineWord, scalarWord, BitVec.getLsbD_append]; rfl

end ScalarWord

section EngineWord
variable (o : BitVec 8) (h : EngHdr)

@[simp] theorem opcOf_engineWord : opcOf (engineWord o h) = o :=
  extractLsb'_eq_of_getLsbD fun i inside => by simp only [engineWord, BitVec.getLsbD_append]; grind

@[simp] theorem guardOf_engineWord : guardOf (engineWord o h) = h.g := by
  have predicate : (engineWord o h).extractLsb' 51 3 = h.g.p :=
    extractLsb'_eq_of_getLsbD fun i inside => by simp only [engineWord, BitVec.getLsbD_append]; grind
  rw [guardOf, predicate]
  simp only [engineWord, BitVec.getLsbD_append, BitVec.getLsbD_ofBool]
  rfl

/-- Every field of a header is read where `engineWord` has put it. -/
@[simp] theorem hdrOf_engineWord : hdrOf (engineWord o h) = h := by
  have wf : (engineWord o h).extractLsb' 45 4 = h.wf :=
    extractLsb'_eq_of_getLsbD fun i inside => by simp only [engineWord, BitVec.getLsbD_append]; grind
  have df : (engineWord o h).extractLsb' 40 4 = h.df :=
    extractLsb'_eq_of_getLsbD fun i inside => by simp only [engineWord, BitVec.getLsbD_append]; grind
  have hd : (engineWord o h).extractLsb' 34 6 = h.hd :=
    extractLsb'_eq_of_getLsbD fun i inside => by simp only [engineWord, BitVec.getLsbD_append]; grind
  have ha : (engineWord o h).extractLsb' 28 6 = h.ha :=
    extractLsb'_eq_of_getLsbD fun i inside => by simp only [engineWord, BitVec.getLsbD_append]; grind
  have hb : (engineWord o h).extractLsb' 22 6 = h.hb :=
    extractLsb'_eq_of_getLsbD fun i inside => by simp only [engineWord, BitVec.getLsbD_append]; grind
  have hc : (engineWord o h).extractLsb' 16 6 = h.hc :=
    extractLsb'_eq_of_getLsbD fun i inside => by simp only [engineWord, BitVec.getLsbD_append]; grind
  have ctrl : (engineWord o h).extractLsb' 0 16 = h.ctrl :=
    extractLsb'_eq_of_getLsbD fun i inside => by simp only [engineWord, BitVec.getLsbD_append]; grind
  rw [hdrOf, guardOf_engineWord, wf, df, hd, ha, hb, hc, ctrl]
  simp only [engineWord, BitVec.getLsbD_append, BitVec.getLsbD_ofBool]
  rfl

@[simp] theorem isEngineWord_engineWord : isEngineWord (engineWord o h) = o.getLsbD 7 := by
  simp only [isEngineWord, engineWord, BitVec.getLsbD_append]; rfl

end EngineWord

section Opcodes

@[simp] theorem aluOfOpc_opc (op : AluOp) : aluOfOpc op.opc = some op := by cases op <;> rfl

@[simp] theorem aluOfOpc_aluImmOpc (op : AluImmOp) : aluOfOpc op.opc = none := by cases op <;> rfl

@[simp] theorem aluImmOfOpc_opc (op : AluImmOp) : aluImmOfOpc op.opc = some op := by cases op <;> rfl

@[simp] theorem engOfOpc_opc (op : EngOp) : engOfOpc op.opc = some op := by cases op <;> rfl

theorem AluOp.opc_scalar (op : AluOp) : op.opc.getLsbD 7 = false := by cases op <;> rfl

theorem AluImmOp.opc_scalar (op : AluImmOp) : op.opc.getLsbD 7 = false := by cases op <;> rfl

theorem EngOp.opc_engine (op : EngOp) : op.opc.getLsbD 7 = true := by cases op <;> rfl

end Opcodes

section Immediates

/-- Two operands in one immediate: the upper one is read above the gap between them. -/
theorem extractLsb'_above_gap {a b c d : Nat} (x : BitVec a) (upper : BitVec b) (gap : BitVec c) (lower : BitVec d) :
    (x ++ upper ++ gap ++ lower).extractLsb' (c + d) b = upper :=
  extractLsb'_eq_of_getLsbD fun i inside => by
    have past : ¬ c + d + i < d := by omega
    have pastGap : ¬ c + d + i - d < c := by omega
    have there : c + d + i - d - c = i := by omega
    simp only [BitVec.getLsbD_append, past, pastGap, there, inside, if_true, if_false]

@[simp] theorem handle_word_of_imm (h : BitVec 6) (w : BitVec 3) :
    ((0 : BitVec 21) ++ w ++ (0 : BitVec 2) ++ h).extractLsb' 8 3 = w := extractLsb'_above_gap ..

@[simp] theorem barrier_flag_of_imm (b : BitVec 5) (f : BitVec 4) :
    ((0 : BitVec 20) ++ f ++ (0 : BitVec 3) ++ b).extractLsb' 8 4 = f := extractLsb'_above_gap ..

@[simp] theorem loop_count_of_imm (c : BitVec 16) (e : BitVec 10) :
    (c ++ (0 : BitVec 6) ++ e).extractLsb' 16 16 = c :=
  extractLsb'_eq_of_getLsbD fun i inside => by simp only [BitVec.getLsbD_append]; grind

@[simp] theorem keep_of_imm (keep : Bool) (f : BitVec 4) :
    ((0 : BitVec 27) ++ BitVec.ofBool keep ++ f).getLsbD 4 = keep := by
  simp only [BitVec.getLsbD_append, BitVec.getLsbD_ofBool]; rfl

end Immediates

/-- The guard stands in the word of every instruction but an engine one, whose header carries its own. -/
theorem guardOf_encodeScalar (g : Guard) {i : TileInstr} (scalar : i.words = 1) : guardOf (encodeScalar g i) = g := by
  cases i with
  | engine => exact absurd scalar (by simp [TileInstr.words])
  | _ => exact guardOf_scalarWord ..

/-- R89: the word of a scalar instruction is no engine header. -/
theorem isEngineWord_encodeScalar (g : Guard) {i : TileInstr} (scalar : i.words = 1) :
    isEngineWord (encodeScalar g i) = false := by
  cases i with
  | alu op => exact (isEngineWord_scalarWord ..).trans op.opc_scalar
  | alui op => exact (isEngineWord_scalarWord ..).trans op.opc_scalar
  | engine => exact absurd scalar (by simp [TileInstr.words])
  | _ => exact isEngineWord_scalarWord ..

/-- The operands of a scalar instruction stand in its word where `scalarOf` reads them. -/
theorem scalarOf_encodeScalar (g : Guard) {i : TileInstr} (scalar : i.words = 1) :
    scalarOf (encodeScalar g i) = some i := by
  cases i with
  | engine => exact absurd scalar (by simp [TileInstr.words])
  | alu op | alui op => simp [encodeScalar, scalarOf]
  | _ =>
    simp only [encodeScalar, scalarOf, opcOf_scalarWord, rdOf_scalarWord, raOf_scalarWord, rbOf_scalarWord, subOf_scalarWord,
      immOf_scalarWord, handle_word_of_imm, barrier_flag_of_imm, loop_count_of_imm, keep_of_imm,
      BitVec.extractLsb'_append_eq_right]
    rfl

/-- R85: an instruction of one word is spelt by it alone. -/
theorem encodeInstr_scalar (g : Guard) {i : TileInstr} (scalar : i.words = 1) : encodeInstr g i = [encodeScalar g i] := by
  cases i with
  | engine => exact absurd scalar (by simp [TileInstr.words])
  | _ => rfl

/-- R91: a scalar word that its own fields spell is decoded. -/
theorem decodeInstr_scalar (g : Guard) {i : TileInstr} (w : DWord) (scalar : i.words = 1) (wf : progWf g i = true) :
    decodeInstr (encodeScalar g i) w = some (g, i) := by
  simp [decodeInstr, isEngineWord_encodeScalar g scalar, scalarOf_encodeScalar g scalar, guardOf_encodeScalar g scalar, wf]

/-- R89, R91: a header of a legal engine instruction is decoded with the word above it as its parameters. -/
theorem decodeInstr_engine (op : EngOp) (h : EngHdr) (p : DWord) (wf : engineWf op h p = true) :
    decodeInstr (engineWord op.opc h) p = some (h.g, .engine op h p) := by
  simp [decodeInstr, op.opc_engine, wf]

/-- Settles O60: an engine instruction by its header and parameters, every other one by its one word. -/
theorem tileWordsDecode : Obligations.TileWordsDecode := by
  unfold Obligations.TileWordsDecode
  intro g i w wf
  by_cases scalar : i.words = 1
  · rw [encodeInstr_scalar g scalar]
    exact decodeInstr_scalar g w scalar wf
  · cases i with
    | engine op h p =>
      obtain ⟨same, legal⟩ : (g == h.g) = true ∧ engineWf op h p = true := Bool.and_eq_true_iff.mp wf
      rw [beq_iff_eq.mp same]
      exact decodeInstr_engine op h p legal
    | _ => exact absurd rfl scalar

end Sys2Proof
end

section
/-!
The issue of one instruction by a tile's leader (R82, R85, R90–R101): what each instruction comes to where its guard holds, what a
pending register and a guard that is off make of it, and the obligations of the scalar registers and of the scalar and control
instructions (O1–O8, O10).
-/

namespace Sys2Proof.Machine

/-! ### Scalar registers (R82, R96) -/

section
variable (q : Seq)

@[simp] theorem Seq.reg_zero : q.reg 0 = 0 := if_pos rfl

@[simp] theorem Seq.isPend_zero : q.isPend 0 = false := by simp [Seq.isPend]

@[simp] theorem Seq.setReg_zero (w : Word) : q.setReg 0 w = q := if_pos rfl

@[simp] theorem Seq.setPend_zero (b : Bool) : q.setPend 0 b = q := if_pos rfl

theorem toNat_ne_zero {r : BitVec 5} (named : r ≠ 0) : r.toNat ≠ 0 :=
  fun zero => named (BitVec.eq_of_toNat_eq zero)

theorem Seq.reg_setReg_same {r : BitVec 5} (named : r ≠ 0) (w : Word) : (q.setReg r.toNat w).reg r = w := by
  rw [Seq.setReg, if_neg (toNat_ne_zero named), Seq.reg, if_neg named]
  exact Tbl.get_set_self ..

theorem Seq.reg_setReg_other {r x : BitVec 5} (other : x ≠ r) (w : Word) : (q.setReg r.toNat w).reg x = q.reg x := by
  by_cases discards : r.toNat = 0
  · rw [Seq.setReg, if_pos discards]
  · simp only [Seq.setReg, if_neg discards, Seq.reg]
    rw [Tbl.get_set_ne 0 q.regs w fun same => other (BitVec.eq_of_toNat_eq same)]

theorem Seq.wf_setReg {r : Nat} (w : Word) (wf : Tbl.wf 0 q.regs = true) : Tbl.wf 0 (q.setReg r w).regs = true := by
  by_cases discards : r = 0
  · rwa [Seq.setReg, if_pos discards]
  · rw [Seq.setReg, if_neg discards]
    exact Tbl.wf_set 0 q.regs r w wf

end

/-- Settles O10: the reads and writes of s0, and those of a register that a write names or leaves. -/
theorem scalarRegisters : Obligations.ScalarRegisters := by
  intro q r x w b wf
  exact ⟨⟨q.setReg_zero w, q.reg_zero, q.isPend_zero, q.setPend_zero b⟩, fun named => q.reg_setReg_same named w,
    fun other => q.reg_setReg_other other w, q.wf_setReg w wf⟩

/-! ### The operations and conditions (R92, R93) -/

section
variable (a b : Word)

theorem shiftOf_eq : shiftOf b = b.toNat % 32 := by simp [shiftOf, fld]

theorem aluFn_shl : aluFn .shl a b = a <<< (b.toNat % 32) := by rw [aluFn, shiftOf_eq]

theorem aluFn_shr : aluFn .shr a b = a >>> (b.toNat % 32) := by rw [aluFn, shiftOf_eq]

theorem aluFn_sra : aluFn .sra a b = a.sshiftRight (b.toNat % 32) := by rw [aluFn, shiftOf_eq]

theorem aluFn_min : aluFn .min a b = if a.toInt ≤ b.toInt then a else b := by
  simp only [aluFn, keepOf, BitVec.slt, if_true, Bool.cond_decide, ← not_le, ite_not]

theorem aluFn_minu : aluFn .minu a b = if a.toNat ≤ b.toNat then a else b := by
  simp only [aluFn, keepOf, BitVec.ult, if_true, Bool.cond_decide, ← not_le, ite_not]

/-- Where the two are equal it does not matter which one a maximum keeps. -/
theorem aluFn_max : aluFn .max a b = if a.toInt ≤ b.toInt then b else a := by
  rcases lt_trichotomy a.toInt b.toInt with lt | same | gt
  · simp [aluFn, keepOf, BitVec.slt, lt, lt.le]
  · simp [BitVec.eq_of_toInt_eq same, aluFn, keepOf]
  · simp [aluFn, keepOf, BitVec.slt, not_lt.mpr gt.le, not_le.mpr gt]

theorem aluFn_maxu : aluFn .maxu a b = if a.toNat ≤ b.toNat then b else a := by
  rcases lt_trichotomy a.toNat b.toNat with lt | same | gt
  · simp [aluFn, keepOf, BitVec.ult, lt, lt.le]
  · simp [BitVec.eq_of_toNat_eq same, aluFn, keepOf]
  · simp [aluFn, keepOf, BitVec.ult, not_lt.mpr gt.le, not_le.mpr gt]

/-- An immediate shift's distance is its five bits. -/
theorem shiftOf_setWidth (sh : BitVec 5) : shiftOf (sh.setWidth 32) = sh.toNat := by
  rw [shiftOf_eq, BitVec.toNat_setWidth_of_le (by decide), Nat.mod_eq_of_lt sh.isLt]

/-- R93: the six conditions by their code. -/
theorem condHolds_eq (cc : BitVec 4) : condHolds cc a b =
    if cc = 0 then some (decide (a = b)) else if cc = 1 then some (decide (a ≠ b))
    else if cc = 2 then some (decide (a.toInt < b.toInt)) else if cc = 3 then some (decide (b.toInt ≤ a.toInt))
    else if cc = 4 then some (decide (a.toNat < b.toNat)) else if cc = 5 then some (decide (b.toNat ≤ a.toNat))
    else none := by
  have code (k : BitVec 4) : cc = k ↔ cc.toNat = k.toNat := BitVec.toNat_inj.symm
  have notLess : (!(a.slt b)) = decide (b.toInt ≤ a.toInt) := by simp only [BitVec.slt, ← decide_not, not_lt]
  have notBelow : (!(a.ult b)) = decide (b.toNat ≤ a.toNat) := by simp only [BitVec.ult, ← decide_not, not_lt]
  simp only [condHolds, code, notLess, notBelow]
  split
  case h_7 _ n0 n1 n2 n3 n4 n5 =>
    exact ((if_neg n0).trans <| (if_neg n1).trans <| (if_neg n2).trans <| (if_neg n3).trans <| (if_neg n4).trans <| if_neg n5).symm
  all_goals simp [*, BitVec.slt, BitVec.ult, bne, Bool.beq_eq_decide_eq]

/-- R92: the six functions of PLOG by their code. -/
theorem plogFn_eq (fn : BitVec 4) (a b : Bool) : plogFn fn a b =
    if fn = 0 then some (a && b) else if fn = 1 then some (a || b) else if fn = 2 then some (a != b)
    else if fn = 3 then some (a && !b) else if fn = 4 then some a else if fn = 5 then some (!a) else none := by
  have code (k : BitVec 4) : fn = k ↔ fn.toNat = k.toNat := BitVec.toNat_inj.symm
  simp only [plogFn, code]
  split
  case h_7 _ n0 n1 n2 n3 n4 n5 =>
    exact ((if_neg n0).trans <| (if_neg n1).trans <| (if_neg n2).trans <| (if_neg n3).trans <| (if_neg n4).trans <| if_neg n5).symm
  all_goals simp [*]

end

/-! ### Pending registers (R96, R109) -/

section
variable {v : Tile} {reads : List (BitVec 5)} {rd : BitVec 5}

/-- No register of an instruction is pending: its registers stand against nothing. -/
theorem Tile.regCheck_of_settled (settled : v.settled reads) (free : v.lead.isPend rd = false) : v.regCheck reads rd = none := by
  have noneRead : reads.find? v.lead.isPend = none := List.find?_eq_none.mpr fun r named => by simp [settled r named]
  rw [Tile.regCheck, noneRead]
  simp [free]

theorem Tile.regCheck_of_read (r : BitVec 5) (rest : List (BitVec 5)) (pending : v.lead.isPend r = true) :
    v.regCheck (r :: rest) rd = some (.mkI 0x21 0 v.lead.pc (leBytes 1 r.toNat)) := by
  rw [Tile.regCheck, List.find?_cons_of_pos pending]
  rfl

theorem Tile.regCheck_of_write (settled : v.settled reads) (pending : v.lead.isPend rd = true) :
    v.regCheck reads rd = some (.mkI 0x22 0 v.lead.pc (leBytes 2 rd.toNat)) := by
  have noneRead : reads.find? v.lead.isPend = none := List.find?_eq_none.mpr fun r named => by simp [settled r named]
  rw [Tile.regCheck, noneRead]
  simp [pending, pendReg]

theorem Tile.settled_two {a b : BitVec 5} (first : v.lead.isPend a = false) (second : v.lead.isPend b = false) :
    v.settled [a, b] := by simp [Tile.settled, first, second]

theorem Tile.settled_nil : v.settled [] := by simp [Tile.settled]

end

/-! ### The row of an instruction -/

section
variable {s : State} {t : TileId} {g : Guard} {i : TileInstr}

/-- R78, R85: an instruction that issues leaves its tile with the leader as it stood before. -/
theorem State.issueRow_of_ok {w : Tile} (due : s.issues t = true) (issue : (s.tile t.val).issueAt (s.issueTread t) g i = .ok w) :
    s.issueRow t g i = s.issued t.val w := by
  rw [State.issueTread] at issue
  rw [State.issueRow, if_pos due, issue]

theorem State.issueRow_of_fault {f : TFault} (due : s.issues t = true)
    (issue : (s.tile t.val).issueAt (s.issueTread t) g i = .fault f) :
    s.issueRow t g i = (s.tileFaults t.val 1 [f]).abortTile t.val := by
  rw [State.issueTread] at issue
  rw [State.issueRow, if_pos due, issue]

theorem State.issueRow_of_waits (due : s.issues t = true) (issue : (s.tile t.val).issueAt (s.issueTread t) g i = .waits) :
    s.issueRow t g i = s := by
  rw [State.issueTread] at issue
  rw [State.issueRow, if_pos due, issue]

end

/-- The ladder of `issueInstr`, past its first two steps: the program counter is within the store and the guard holds. -/
theorem issue_of_on {outside : Prop} [Decidable outside] {guard : Bool} {control pass meaning : Issue}
    (inside : ¬ outside) (holds : guard = true) :
    (if outside then control else if !guard then pass else meaning) = meaning := by
  rw [if_neg inside, holds]; rfl

/-! ### Instructions whose guard holds (R90, R92) -/

/-- The illegal-instruction fault of a scalar instruction at the program counter (R119). -/
def Tile.illegalHere (v : Tile) (g : Guard) (i : TileInstr) : TFault :=
  illegal v ((encodeInstr g i).getD 0 0) (Tbl.get 0 v.lead.prog (v.lead.pc + 1))

section
variable {v : Tile} {g : Guard} (n : Nat) (inside : v.lead.pc ≤ 0x3FF) (on : guardOn v.lead.preds g = true)
include inside on

theorem issueInstr_nop : issueInstr v n g .nop = .ok (v.advance n 1 1) :=
  issue_of_on (Nat.not_lt.mpr inside) on

theorem issueInstr_halt : issueInstr v n g .halt = .ok { v.advance n 1 1 with halted := true } :=
  issue_of_on (Nat.not_lt.mpr inside) on

theorem issueInstr_trap (c : BitVec 16) : issueInstr v n g (.trap c) = .fault (.mkI 0x2B 0 v.lead.pc (leBytes 2 c.toNat)) :=
  issue_of_on (Nat.not_lt.mpr inside) on

theorem issueInstr_alu (op : AluOp) (rd ra rb : BitVec 5) :
    issueInstr v n g (.alu op rd ra rb) = issueAlu v n op rd [ra, rb] (v.lead.reg ra) (v.lead.reg rb) :=
  issue_of_on (Nat.not_lt.mpr inside) on

theorem issueInstr_alui (op : AluImmOp) (rd ra : BitVec 5) (imm : Word) :
    issueInstr v n g (.alui op rd ra imm) = issueAlu v n (AluOfImm op) rd [ra] (v.lead.reg ra) imm :=
  issue_of_on (Nat.not_lt.mpr inside) on

theorem issueInstr_li (rd : BitVec 5) (imm : Word) : issueInstr v n g (.li rd imm) = issueAlu v n .or rd [] 0 imm :=
  issue_of_on (Nat.not_lt.mpr inside) on

theorem issueInstr_mul (rd ra rb : BitVec 5) : issueInstr v n g (.mul rd ra rb) = issueMul v n rd ra rb :=
  issue_of_on (Nat.not_lt.mpr inside) on

theorem issueInstr_cmp (pd : BitVec 3) (ra rb : BitVec 5) (cc : BitVec 4) :
    issueInstr v n g (.cmp pd ra rb cc) =
      issueCmp v n pd [ra, rb] (v.lead.reg ra) (v.lead.reg rb) cc (v.illegalHere g (.cmp pd ra rb cc)) :=
  issue_of_on (Nat.not_lt.mpr inside) on

theorem issueInstr_cmpi (pd : BitVec 3) (ra : BitVec 5) (imm : Word) (cc : BitVec 4) :
    issueInstr v n g (.cmpi pd ra imm cc) =
      issueCmp v n pd [ra] (v.lead.reg ra) imm cc (v.illegalHere g (.cmpi pd ra imm cc)) :=
  issue_of_on (Nat.not_lt.mpr inside) on

theorem issueInstr_plog (pd pa pb : BitVec 3) (fn : BitVec 4) :
    issueInstr v n g (.plog pd pa pb fn) = issuePlog v n pd pa pb fn (v.illegalHere g (.plog pd pa pb fn)) :=
  issue_of_on (Nat.not_lt.mpr inside) on

theorem issueInstr_ld (rd ra : BitVec 5) (imm : Word) : issueInstr v n g (.ld rd ra imm) = issueLd v n rd ra imm :=
  issue_of_on (Nat.not_lt.mpr inside) on

theorem issueInstr_st (ra rb : BitVec 5) (imm : Word) : issueInstr v n g (.st ra rb imm) = issueSt v n ra rb imm :=
  issue_of_on (Nat.not_lt.mpr inside) on

theorem issueInstr_dsw (rb : BitVec 5) (h : BitVec 6) (w : BitVec 3) :
    issueInstr v n g (.dsw rb h w) = issueDsw v n rb h w :=
  issue_of_on (Nat.not_lt.mpr inside) on

theorem issueInstr_dsr (rd : BitVec 5) (h : BitVec 6) (w : BitVec 3) :
    issueInstr v n g (.dsr rd h w) = issueDsr v n rd h w :=
  issue_of_on (Nat.not_lt.mpr inside) on

theorem issueInstr_setf (f : BitVec 4) : issueInstr v n g (.setf f) = issueSetf v n f (v.illegalHere g (.setf f)) :=
  issue_of_on (Nat.not_lt.mpr inside) on

theorem issueInstr_clrf (f : BitVec 4) : issueInstr v n g (.clrf f) = issueClrf v n f :=
  issue_of_on (Nat.not_lt.mpr inside) on

theorem issueInstr_waitf (f : BitVec 4) (keep : Bool) : issueInstr v n g (.waitf f keep) = issueWaitf v n f keep :=
  issue_of_on (Nat.not_lt.mpr inside) on

theorem issueInstr_bara (b : BitVec 5) (f : BitVec 4) :
    issueInstr v n g (.bara b f) = issueBara v n b f (v.illegalHere g (.bara b f)) :=
  issue_of_on (Nat.not_lt.mpr inside) on

theorem issueInstr_reds (rd ra : BitVec 5) (op : BitVec 4) (b : BitVec 5) (f : BitVec 4) :
    issueInstr v n g (.reds rd ra op b f) = issueReds v n rd ra op b f (v.illegalHere g (.reds rd ra op b f)) :=
  issue_of_on (Nat.not_lt.mpr inside) on

theorem issueInstr_br (target : BitVec 10) : issueInstr v n g (.br target) = issueBr v n target :=
  issue_of_on (Nat.not_lt.mpr inside) on

theorem issueInstr_call (target : BitVec 10) : issueInstr v n g (.call target) = issueCall v n target :=
  issue_of_on (Nat.not_lt.mpr inside) on

theorem issueInstr_ret : issueInstr v n g .ret = issueRet v n :=
  issue_of_on (Nat.not_lt.mpr inside) on

theorem issueInstr_loopi (count : BitVec 16) (e : BitVec 10) :
    issueInstr v n g (.loopi count e) = issueLoop v n count.toNat e :=
  issue_of_on (Nat.not_lt.mpr inside) on

theorem issueInstr_loop (ra : BitVec 5) (e : BitVec 10) (settled : v.settled [ra]) :
    issueInstr v n g (.loop ra e) = issueLoop v n (v.lead.reg ra).toNat e := by
  refine (issue_of_on (Nat.not_lt.mpr inside) on).trans ?_
  dsimp only
  rw [Tile.regCheck_of_settled settled v.lead.isPend_zero]

end

/-! ### What an instruction with no pending register does (R92–R97) -/

section
variable {v : Tile} (n : Nat) {rd ra rb : BitVec 5} {reads : List (BitVec 5)}

theorem issueAlu_of_settled (op : AluOp) (a b : Word) (settled : v.settled reads) (free : v.lead.isPend rd = false) :
    issueAlu v n op rd reads a b = .ok ({ v with lead := v.lead.setReg rd.toNat (aluFn op a b) }.advance n 1 1) := by
  rw [issueAlu, Tile.regCheck_of_settled settled free]

theorem issueMul_of_settled (settled : v.settled [ra, rb]) (free : v.lead.isPend rd = false) :
    issueMul v n rd ra rb = .ok ({ v with
      lead := v.lead.setPend rd.toNat true
      fx := v.fx ++ [(n + 2, Fx.reg rd.toNat (v.lead.reg ra * v.lead.reg rb))] }.advance n 1 1) := by
  rw [issueMul, Tile.regCheck_of_settled settled free]; rfl

theorem issueAlu_of_fault (op : AluOp) (a b : Word) {f : TFault} (stands : v.regCheck reads rd = some f) :
    issueAlu v n op rd reads a b = .fault f := by
  rw [issueAlu, stands]

theorem issueMul_of_fault {f : TFault} (stands : v.regCheck [ra, rb] rd = some f) : issueMul v n rd ra rb = .fault f := by
  rw [issueMul, stands]

theorem issueLd_of_settled (imm : Word) (settled : v.settled [ra]) (free : v.lead.isPend rd = false) :
    issueLd v n rd ra imm = .ok ({ v with
      lead := v.lead.setPend rd.toNat true
      fx := v.fx ++ [(n + 2, Fx.ldAcc rd.toNat (v.lead.reg ra + imm) v.lead.pc)] }.advance n 1 1) := by
  rw [issueLd, Tile.regCheck_of_settled settled free]; rfl

theorem issueSt_of_settled (imm : Word) (settled : v.settled [ra, rb]) :
    issueSt v n ra rb imm =
      .ok ((v.later (n + 2) (.stAcc (v.lead.reg ra + imm) (v.lead.reg rb) v.lead.pc)).advance n 1 1) := by
  rw [issueSt, Tile.regCheck_of_settled settled v.lead.isPend_zero]

theorem issueDsw_of_settled (h : BitVec 6) (w : BitVec 3) (settled : v.settled [rb]) :
    issueDsw v n rb h w = .ok ((v.later (n + 2) (.dsw h.toNat w.toNat (v.lead.reg rb))).advance n 1 1) := by
  rw [issueDsw, Tile.regCheck_of_settled settled v.lead.isPend_zero]

theorem issueDsr_of_settled (h : BitVec 6) (w : BitVec 3) (free : v.lead.isPend rd = false) :
    issueDsr v n rd h w = .ok ({ v with
      lead := v.lead.setReg rd.toNat (Tbl.get 0 v.lead.desc (8 * h.toNat + w.toNat)) }.advance n 1 1) := by
  rw [issueDsr, Tile.regCheck_of_settled Tile.settled_nil free, Nat.mul_comm]

theorem issueCmp_of_settled (pd : BitVec 3) (a b : Word) (cc : BitVec 4) (ill : TFault) (settled : v.settled reads) :
    issueCmp v n pd reads a b cc ill = match condHolds cc a b with
      | some x => .ok ({ v with lead := v.lead.setPred pd x }.advance n 1 1)
      | none => .fault ill := by
  rw [issueCmp, Tile.regCheck_of_settled settled v.lead.isPend_zero]
  cases condHolds cc a b <;> rfl

theorem issueReds_of_settled (op : BitVec 4) (b : BitVec 5) (f : BitVec 4) (ill : TFault) (arrival : v.isArrival f.toNat = true)
    (legal : op.toNat ≤ 4) (settled : v.settled [ra]) (free : v.lead.isPend rd = false) :
    issueReds v n rd ra op b f ill = .ok ({ v with
      lead := v.lead.setPend rd.toNat true
      fx := v.fx ++ [(n + 2, Fx.reds rd.toNat (v.lead.reg ra) op.toNat b.toNat f.toNat v.lead.pc)] }.advance n 1 1) := by
  have noFault : (!v.isArrival f.toNat || decide (5 ≤ op.toNat)) = false := by simp [arrival]; omega
  rw [issueReds, noFault, Tile.regCheck_of_settled settled free]; rfl

end

/-! ### The obligations of the scalar instructions -/

section
variable {s : State} {t : TileId} {g : Guard} {rd ra rb : BitVec 5} (may : s.mayIssue t g)
include may

/-- R92: a two-register operation as a row. -/
theorem State.issueRow_alu (op : AluOp) (settled : (s.tile t.val).settled [ra, rb, rd]) :
    s.issueRow t g (.alu op rd ra rb) = s.issued t.val ({ s.tile t.val with
      lead := (s.tile t.val).lead.setReg rd.toNat (aluFn op ((s.tile t.val).lead.reg ra) ((s.tile t.val).lead.reg rb)) }.advance
        (s.issueTread t) 1 1) := by
  obtain ⟨due, inside, on⟩ := may
  simp only [Tile.settled, List.forall_mem_cons] at settled
  obtain ⟨a, b, d, -⟩ := settled
  exact State.issueRow_of_ok due ((issueInstr_alu _ inside on op rd ra rb).trans
    (issueAlu_of_settled _ op _ _ (Tile.settled_two a b) d))

/-- R92: an immediate operation as a row. -/
theorem State.issueRow_alui (op : AluImmOp) (imm : Word) (settled : (s.tile t.val).settled [ra, rd]) :
    s.issueRow t g (.alui op rd ra imm) = s.issued t.val ({ s.tile t.val with
      lead := (s.tile t.val).lead.setReg rd.toNat (aluFn (AluOfImm op) ((s.tile t.val).lead.reg ra) imm) }.advance
        (s.issueTread t) 1 1) := by
  obtain ⟨due, inside, on⟩ := may
  simp only [Tile.settled, List.forall_mem_cons] at settled
  obtain ⟨a, d, -⟩ := settled
  exact State.issueRow_of_ok due ((issueInstr_alui _ inside on op rd ra imm).trans
    (issueAlu_of_settled _ _ _ _ (by simp [Tile.settled, a]) d))

end

/-- Settles O1: each operation is that of its row, with the result that `aluFn` gives. -/
theorem registerOperations : Obligations.RegisterOperations := by
  refine ⟨fun t g rd ra rb s may settled => ?_, fun t g rd ra sh imm s may settled => ?_, fun t g rd hn w s may settled => ?_⟩
  · intro v a b put
    have row (op : AluOp) : Host.Outcome.next (s.issueRow t g (.alu op rd ra rb)) = put (aluFn op a b) :=
      congrArg Host.Outcome.next (State.issueRow_alu may op settled)
    rw [← aluFn_shl, ← aluFn_shr, ← aluFn_sra, ← aluFn_min, ← aluFn_max, ← aluFn_minu, ← aluFn_maxu]
    exact ⟨row .add, row .sub, row .and, row .or, row .xor, row .shl, row .shr, row .sra, row .min, row .max, row .minu, row .maxu⟩
  · intro v a put
    have row (op : AluImmOp) (imm : Word) :
        Host.Outcome.next (s.issueRow t g (.alui op rd ra imm)) = put (aluFn (AluOfImm op) a imm) :=
      congrArg Host.Outcome.next (State.issueRow_alui may op imm settled)
    obtain ⟨due, inside, on⟩ := may
    have free : v.lead.isPend rd = false := settled rd (by simp)
    have loads : Host.Outcome.next (s.issueRow t g (.li rd imm)) = put (aluFn .or 0 imm) :=
      congrArg Host.Outcome.next (State.issueRow_of_ok due ((issueInstr_li _ inside on rd imm).trans
        (issueAlu_of_settled _ _ _ _ Tile.settled_nil free)))
    rw [show aluFn .or 0 imm = imm from BitVec.zero_or] at loads
    rw [← shiftOf_setWidth sh]
    exact ⟨row .addi imm, row .andi imm, row .ori imm, row .xori imm, row .shli _, row .shri _, row .srai _, loads⟩
  · obtain ⟨due, inside, on⟩ := may
    exact congrArg Host.Outcome.next (State.issueRow_of_ok due ((issueInstr_dsr _ inside on rd hn w).trans
      (issueDsr_of_settled _ hn w (settled rd (by simp)))))

/-- Settles O2: the rows of MUL and LD with no register pending, and of ADD and MUL with one. -/
theorem pendingResults : Obligations.PendingResults := by
  refine ⟨fun t g rd ra rb imm s ⟨due, inside, on⟩ settled => ?_, fun t g rd ra rb s ⟨due, inside, on⟩ => ?_⟩
  · intro v n put
    have a : v.lead.isPend ra = false := settled ra (by simp)
    have b : v.lead.isPend rb = false := settled rb (by simp)
    have d : v.lead.isPend rd = false := settled rd (by simp)
    exact ⟨congrArg Host.Outcome.next (State.issueRow_of_ok due ((issueInstr_mul n inside on rd ra rb).trans
        (issueMul_of_settled n (Tile.settled_two a b) d))),
      congrArg Host.Outcome.next (State.issueRow_of_ok due ((issueInstr_ld n inside on rd ra imm).trans
        (issueLd_of_settled n imm (by simp [Tile.settled, v, a]) d)))⟩
  · intro v stop
    have add (f : TFault) (stands : v.regCheck [ra, rb] rd = some f) : exec (.add t g rd ra rb) s = stop f :=
      congrArg Host.Outcome.next (State.issueRow_of_fault due ((issueInstr_alu _ inside on .add rd ra rb).trans
        (issueAlu_of_fault _ .add _ _ stands)))
    have mul (f : TFault) (stands : v.regCheck [ra, rb] rd = some f) : exec (.mul t g rd ra rb) s = stop f :=
      congrArg Host.Outcome.next (State.issueRow_of_fault due ((issueInstr_mul _ inside on rd ra rb).trans
        (issueMul_of_fault _ stands)))
    refine ⟨fun read => ?_, fun a b written => ?_⟩
    · exact ⟨add _ (Tile.regCheck_of_read ra [rb] read), mul _ (Tile.regCheck_of_read ra [rb] read)⟩
    · have stands := Tile.regCheck_of_write (Tile.settled_two a b) written
      exact ⟨add _ stands, mul _ stands⟩

/-- Settles O3: the row of each of the three by the value of its condition or function. -/
theorem predicateOperations : Obligations.PredicateOperations := by
  refine ⟨fun t g pd ra rb imm cc s ⟨due, inside, on⟩ settled => ?_, fun t g pd pa pb fn s ⟨due, inside, on⟩ => ?_⟩
  · intro v cond put
    have conditions (a b : Word) : cond a b = condHolds cc a b := (condHolds_eq a b cc).symm
    have a : v.lead.isPend ra = false := settled ra (by simp)
    have row (x : Option Bool) (i : TileInstr) (issue : v.issueAt (s.issueTread t) g i = match x with
        | some b => .ok ({ v with lead := v.lead.setPred pd b }.advance (s.issueTread t) 1 1)
        | none => .fault (v.illegalHere g i)) : Host.Outcome.next (s.issueRow t g i) = put x i := by
      cases x with
      | some b => exact congrArg Host.Outcome.next (State.issueRow_of_ok due issue)
      | none => exact congrArg Host.Outcome.next (State.issueRow_of_fault due issue)
    rw [conditions, conditions]
    exact ⟨row _ _ ((issueInstr_cmp _ inside on pd ra rb cc).trans (issueCmp_of_settled _ pd _ _ cc _ settled)),
      row _ _ ((issueInstr_cmpi _ inside on pd ra imm cc).trans
        (issueCmp_of_settled _ pd _ _ cc _ (by simp [Tile.settled, v, a])))⟩
  · intro v a b
    rw [← plogFn_eq]
    have issue := issueInstr_plog (s.issueTread t) inside on pd pa pb fn
    rw [issuePlog] at issue
    cases value : plogFn fn a b with
    | some x =>
      rw [show plogFn fn (v.lead.pred pa) (v.lead.pred pb) = some x from value] at issue
      exact congrArg Host.Outcome.next (State.issueRow_of_ok due issue)
    | none =>
      rw [show plogFn fn (v.lead.pred pa) (v.lead.pred pb) = none from value] at issue
      exact congrArg Host.Outcome.next (State.issueRow_of_fault due issue)

/-- Settles O4: the row of each of the six. -/
theorem delayedEffects : Obligations.DelayedEffects := by
  intro t g rd ra rb imm hn w f op b s ⟨due, inside, on⟩ settled v n put
  have a : v.lead.isPend ra = false := settled ra (by simp)
  have b' : v.lead.isPend rb = false := settled rb (by simp)
  have d : v.lead.isPend rd = false := settled rd (by simp)
  have row (i : TileInstr) {x : Fx} (issue : v.issueAt n g i = .ok ((v.later (n + 2) x).advance n 1 1)) :
      Host.Outcome.next (s.issueRow t g i) = put x := congrArg Host.Outcome.next (State.issueRow_of_ok due issue)
  refine ⟨?_, ?_, ?_, fun isLocal => ?_, fun arrival => ?_, fun arrival legal => ?_⟩
  · exact row _ ((issueInstr_st n inside on ra rb imm).trans (issueSt_of_settled n imm (Tile.settled_two a b')))
  · exact row _ ((issueInstr_dsw n inside on rb hn w).trans (issueDsw_of_settled n hn w (by simp [Tile.settled, v, b'])))
  · exact row _ (issueInstr_clrf n inside on f)
  · refine row _ ((issueInstr_setf n inside on f).trans ?_)
    rw [issueSetf, isLocal]; rfl
  · exact row _ ((issueInstr_bara n inside on b f).trans (if_pos arrival))
  · exact congrArg Host.Outcome.next (State.issueRow_of_ok due ((issueInstr_reds n inside on rd ra op b f).trans
      (issueReds_of_settled n op b f _ arrival legal (by simp [Tile.settled, v, a]) d)))

/-- Settles O5: the rows of the three. -/
theorem branches : Obligations.Branches := by
  intro t g target a s ⟨due, inside, on⟩ v n
  refine ⟨?_, fun free => ?_, fun linked within => ?_⟩
  · exact congrArg Host.Outcome.next (State.issueRow_of_ok due (issueInstr_br n inside on target))
  · refine congrArg Host.Outcome.next (State.issueRow_of_ok due ((issueInstr_call n inside on target).trans ?_))
    rw [issueCall, show (s.tile t.val).lead.link = none from free]; rfl
  · refine congrArg Host.Outcome.next (State.issueRow_of_ok due ((issueInstr_ret n inside on).trans ?_))
    rw [issueRet, show (s.tile t.val).lead.link = some a from linked]
    exact if_neg (Nat.not_lt.mpr within)

/-- R101: no instruction issues from above the store. -/
theorem issueInstr_of_outside {v : Tile} (n : Nat) (g : Guard) (i : TileInstr) (outside : 0x3FF < v.lead.pc) :
    issueInstr v n g i = .fault (.mkI 0x26 1 v.lead.pc []) := if_pos outside

theorem Tile.issueAt_of_outside {v : Tile} (n : Nat) (g : Guard) (i : TileInstr) (outside : 0x3FF < v.lead.pc) :
    v.issueAt n g i = .fault (.mkI 0x26 1 v.lead.pc []) := by
  cases i with
  | waitf f keep =>
    rw [Tile.issueAt, issueInstr_of_outside (v := v.withFlags (v.phase1 n).1.lead.flags) n g _ outside]; rfl
  | _ => unfold Tile.issueAt; exact issueInstr_of_outside n g _ outside

theorem Tile.fetch_of_outside {v : Tile} (outside : 0x3FF < v.lead.pc) : v.fetch = .error (.mkI 0x26 1 v.lead.pc []) :=
  if_pos outside

/-- Settles O6: the faults of CALL and RET by the link register, and the fault of any issue from above the store. -/
theorem controlFaults : Obligations.ControlFaults := by
  intro t g target a s v stop
  refine ⟨fun ⟨due, inside, on⟩ linked => ?_, fun ⟨due, inside, on⟩ free => ?_, fun ⟨due, inside, on⟩ linked entered => ?_,
    fun due outside => ?_⟩
  · refine congrArg Host.Outcome.next (State.issueRow_of_fault due ((issueInstr_call _ inside on target).trans ?_))
    exact if_pos (Option.isSome_iff_ne_none.mpr linked)
  · refine congrArg Host.Outcome.next (State.issueRow_of_fault due ((issueInstr_ret _ inside on).trans ?_))
    rw [issueRet, show (s.tile t.val).lead.link = none from free]
  · refine congrArg Host.Outcome.next (State.issueRow_of_fault due ((issueInstr_ret _ inside on).trans ?_))
    rw [issueRet, show (s.tile t.val).lead.link = some a from linked]
    exact if_pos entered
  · have row (g : Guard) (i : TileInstr) : Host.Outcome.next (s.issueRow t g i) = stop 1 :=
      congrArg Host.Outcome.next (State.issueRow_of_fault due (Tile.issueAt_of_outside _ g i outside))
    exact ⟨Tile.fetch_of_outside outside, fun i => (row g i).symm, row g .nop, row g (.br target), row g (.call target), row g .ret⟩

/-! ### Loops (R99, R100) -/

theorem guardOn_noGuard (preds : BitVec 8) : guardOn preds noGuard = true := rfl

/-- R99, R100: the next address and the loop stack once an instruction has issued. -/
theorem Tile.advance_eq (v : Tile) (n words treads : Nat) : v.advance n words treads =
    let next := loopNext 2 (v.lead.loops.take v.lead.since) v.lead.pc (v.lead.pc + words)
    { v with lead := { v.lead with pc := next.1, loops := next.2 ++ v.lead.loops.drop v.lead.since }, nextIssue := n + treads } := rfl

/-- Outside called code every loop on the stack is consulted. -/
theorem Tile.advance_of_no_link {v : Tile} (n : Nat) {pc : Nat} {loops : List LoopEnt} (free : v.lead.link = none)
    (next : loopNext 2 v.lead.loops v.lead.pc (v.lead.pc + 1) = (pc, loops)) :
    v.advance n 1 1 = { v with lead := { v.lead with pc := pc, loops := loops }, nextIssue := n + 1 } := by
  have all : v.lead.since = v.lead.loops.length := by rw [Seq.since, free]; rfl
  simp only [Tile.advance_eq, all, List.take_length, List.drop_length, List.append_nil, next]

/-- No loop that is consulted ends at the program counter. -/
theorem Tile.advance_of_no_end {v : Tile} (n : Nat) (noEnd : ∀ e ∈ (v.lead.loops.take v.lead.since).head?, e.last ≠ v.lead.pc) :
    v.advance n 1 1 = { v with lead := { v.lead with pc := v.lead.pc + 1 }, nextIssue := n + 1 } := by
  have stays : loopNext 2 (v.lead.loops.take v.lead.since) v.lead.pc (v.lead.pc + 1) =
      (v.lead.pc + 1, v.lead.loops.take v.lead.since) := by
    cases entered : v.lead.loops.take v.lead.since with
    | nil => rfl
    | cons e l => exact if_neg (noEnd e (by rw [entered]; rfl))
  simp only [Tile.advance_eq, stays, List.take_append_drop]

/-- Settles O7: the rows of LOOP and LOOPI by their count, and the passing on by the innermost loops. -/
theorem loops : Obligations.Loops := by
  refine ⟨fun t ra count e s due inside settled => ?_, fun v n x y l stack => ?_⟩
  · intro v n go
    have enter (i : TileInstr) (k : Nat) (issue : v.issueAt n noGuard i = issueLoop v n k e) :
        Host.Outcome.next (s.issueRow t noGuard i) = go k := by
      by_cases zero : k = 0
      · rw [issueLoop, if_pos zero] at issue
        exact (congrArg Host.Outcome.next (State.issueRow_of_ok due issue)).trans (if_pos zero).symm
      rw [issueLoop, if_neg zero] at issue
      by_cases room : v.lead.loops.length < 2
      · rw [if_neg (Nat.not_le.mpr room)] at issue
        exact (congrArg Host.Outcome.next (State.issueRow_of_ok due issue)).trans
          ((if_neg zero).trans (if_pos room)).symm
      · rw [if_pos (Nat.le_of_not_lt room)] at issue
        exact (congrArg Host.Outcome.next (State.issueRow_of_fault due issue)).trans
          ((if_neg zero).trans (if_neg room)).symm
    exact ⟨enter _ _ (issueInstr_loop n inside (guardOn_noGuard _) ra e settled),
      enter _ _ (issueInstr_loopi n inside (guardOn_noGuard _) count e)⟩
  · intro on
    refine ⟨fun free ends more => ?_, fun free ends last only => ?_, fun free ends last outer outerEnds more => ?_,
      fun elsewhere => ?_, fun called within => ?_⟩
    · refine Tile.advance_of_no_link n free ?_
      rw [stack, loopNext, if_pos ends, if_pos more]
    · refine Tile.advance_of_no_link n free ?_
      rw [stack, only, loopNext, if_pos ends, if_neg (Nat.not_lt.mpr last), loopNext]
    · refine Tile.advance_of_no_link n free ?_
      rw [stack, outer, loopNext, if_pos ends, if_neg (Nat.not_lt.mpr last), loopNext, if_pos outerEnds, if_pos more]
    · refine Tile.advance_of_no_end n fun first isFirst => ?_
      rw [stack] at isFirst
      cases entered : v.lead.since with
      | zero => simp [entered] at isFirst
      | succ k => simp [entered] at isFirst; exact isFirst ▸ elsewhere
    · refine Tile.advance_of_no_end n ?_
      have none_ : v.lead.since = 0 := by
        rw [Seq.since, if_pos (Option.isSome_iff_ne_none.mpr called)]; omega
      simp [none_]

/-! ### NOP, HALT, TRAP and guards that are off (R90, R98, R107) -/

/-- R90, R98: the treads in which an instruction passes whose guard is off. -/
def passTreads : TileInstr → Nat
  | .br _ | .call _ | .ret => 2
  | _ => 1

theorem issueInstr_of_off {v : Tile} {g : Guard} (n : Nat) (inside : v.lead.pc ≤ 0x3FF) (off : guardOn v.lead.preds g = false)
    (i : TileInstr) : issueInstr v n g i = .ok (v.advance n i.words (passTreads i)) := by
  refine (if_neg (Nat.not_lt.mpr inside)).trans ((if_pos (by rw [off]; rfl)).trans ?_)
  cases i <;> rfl

/-- The flags play no part in passing on. -/
theorem Tile.advance_withFlags (v : Tile) (n words treads : Nat) (flags : BitVec 16) :
    ((v.withFlags flags).advance n words treads).withFlags v.lead.flags = v.advance n words treads := rfl

/-- An instruction that its guard suppresses only passes, a WAITF too. -/
theorem Tile.issueAt_of_off {v : Tile} {g : Guard} (n : Nat) (inside : v.lead.pc ≤ 0x3FF) (off : guardOn v.lead.preds g = false)
    (i : TileInstr) : v.issueAt n g i = .ok (v.advance n i.words (passTreads i)) := by
  cases i with
  | waitf f keep =>
    rw [Tile.issueAt, issueInstr_of_off (v := v.withFlags (v.phase1 n).1.lead.flags) n inside off]
    exact congrArg Issue.ok (v.advance_withFlags ..)
  | _ => unfold Tile.issueAt; exact issueInstr_of_off n inside off _

/-- Settles O8: the rows of the three, and for a guard that is off those of each group of instructions. -/
theorem nopHaltTrap : Obligations.NopHaltTrap := by
  refine ⟨fun t g s ⟨due, inside, on⟩ => ⟨?_, ?_⟩, fun t g code s ⟨due, inside, on⟩ => ?_, ?_⟩
  · exact congrArg Host.Outcome.next (State.issueRow_of_ok due (issueInstr_nop _ inside on))
  · exact congrArg Host.Outcome.next (State.issueRow_of_ok due (issueInstr_halt _ inside on))
  · exact congrArg Host.Outcome.next (State.issueRow_of_fault due (issueInstr_trap _ inside on code))
  intro t g rd ra rb sh imm code pd pa pb w cc f hn keep target h p s due inside off guard pass
  have row (i : TileInstr) : Host.Outcome.next (s.issueRow t g i) = pass i.words (passTreads i) :=
    congrArg Host.Outcome.next (State.issueRow_of_ok due (Tile.issueAt_of_off _ inside off i))
  subst guard
  simp only [List.forall_mem_cons, List.not_mem_nil, false_implies, implies_true, and_true]
  and_intros
  all_goals exact row _

end Sys2Proof.Machine
end

section
/-!
Waits and dispatches (R89, R97, R104, R115, R116): what a WAITF and an engine instruction come to in each case, and their
obligations (O9, O11).
-/

namespace Sys2Proof.Machine

/-! ### WAITF (R97, R115, R295) -/

section
variable {v : Tile} {g : Guard} (n : Nat) (inside : v.lead.pc ≤ 0x3FF) (on : guardOn v.lead.preds g = true) (f : BitVec 4) (keep : Bool)
include inside on

/-- R86: a WAITF looks at the flags that phase 1 of its tread leaves. -/
theorem Tile.issueAt_waitf : v.issueAt n g (.waitf f keep) =
    match issueWaitf (v.withFlags (v.phase1 n).1.lead.flags) n f keep with
    | .ok u => .ok (u.withFlags v.lead.flags)
    | r => r := by
  rw [Tile.issueAt, issueInstr_waitf (v := v.withFlags (v.phase1 n).1.lead.flags) n inside on f keep] <;> rfl

theorem Tile.issueAt_waitf_of_set (set : (v.phase1 n).1.lead.flags.getLsbD f.toNat = true) :
    v.issueAt n g (.waitf f keep) = match v.heldPoison f.toNat v.lead.pc with
      | some x => .fault x
      | none => .ok ((v.proceed n f.toNat keep).advance n 1 1) := by
  have proceeds : (v.withFlags (v.phase1 n).1.lead.flags).waitOn f.toNat = .proceeds := if_pos set
  rw [Tile.issueAt_waitf n inside on, issueWaitf, proceeds]
  change (match (match v.heldPoison f.toNat v.lead.pc with | some x => Issue.fault x | none => _) with | .ok u => _ | r => r) = _
  cases v.heldPoison f.toNat v.lead.pc <;> rfl

theorem Tile.issueAt_waitf_of_arrival (unset : (v.phase1 n).1.lead.flags.getLsbD f.toNat = false)
    (arrival : v.isArrival f.toNat = true) : v.issueAt n g (.waitf f keep) = .waits := by
  have holds : (v.withFlags (v.phase1 n).1.lead.flags).waitOn f.toNat = .holds :=
    (if_neg (ne_true_of_eq_false unset)).trans (if_pos arrival)
  rw [Tile.issueAt_waitf n inside on, issueWaitf, holds]

theorem Tile.issueAt_waitf_of_local (unset : (v.phase1 n).1.lead.flags.getLsbD f.toNat = false)
    (isLocal : v.isArrival f.toNat = false) : v.issueAt n g (.waitf f keep) = .fault (earlyWait v f.toNat 4 v.lead.pc) := by
  have early : (v.withFlags (v.phase1 n).1.lead.flags).waitOn f.toNat = .early :=
    (if_neg (ne_true_of_eq_false unset)).trans (if_neg (ne_true_of_eq_false isLocal))
  rw [Tile.issueAt_waitf n inside on, issueWaitf, early]
  rfl

end

/-- No value that is held for the flag is poisoned. -/
theorem Tile.heldPoison_eq_none {v : Tile} {f : Nat} (pc : Nat) (clean : v.held.any (fun h => h.flag == f && h.poi) = false) :
    v.heldPoison f pc = none := if_neg (ne_true_of_eq_false clean)

/-- Settles O9: the row of a WAITF by the flag it names. -/
theorem flagWaits : Obligations.FlagWaits := by
  intro t g f keep s ⟨due, inside, on⟩ v n flags mine
  refine ⟨fun set clean => ?_, fun set x poisoned => ?_, fun unset arrival => ?_, fun unset isLocal => ?_⟩
  · refine congrArg Host.Outcome.next (State.issueRow_of_ok due ((Tile.issueAt_waitf_of_set n inside on f keep set).trans ?_))
    rw [Tile.heldPoison_eq_none _ clean]
    rfl
  · refine congrArg Host.Outcome.next (State.issueRow_of_fault due ((Tile.issueAt_waitf_of_set n inside on f keep set).trans ?_))
    rw [show (s.tile t.val).heldPoison f.toNat (s.tile t.val).lead.pc = some x from poisoned]
  · exact congrArg Host.Outcome.next (State.issueRow_of_waits due (Tile.issueAt_waitf_of_arrival n inside on f keep unset arrival))
  · exact congrArg Host.Outcome.next (State.issueRow_of_fault due (Tile.issueAt_waitf_of_local n inside on f keep unset isLocal))

/-! ### Engine instructions (R89, R104, R248) -/

section
variable {v : Tile} {op : EngOp} {h : EngHdr} {p : DWord} (n : Nat) (ill : TFault) (wf : engineWf op h p = true)
  (localDone : h.den = true → v.isArrival h.df.toNat = false)
include wf localDone

theorem engine_legal : (!engineWf op h p || (h.den && v.isArrival h.df.toNat)) = false := by
  cases den : h.den <;> simp [wf, localDone, den]

/-- An engine instruction that names no scalar register. -/
theorem issueEngine_of_plain (plain : engQueue op ≠ 2) :
    issueEngine v n op h p ill = .ok ((v.later (n + 2) (.enter
      { op := op, hdr := h, param := p, pc := v.lead.pc, tread := n, k := 0, ib := 0 })).advance n 2 1) := by
  have noVec : (engQueue op == 2) = false := beq_eq_false_iff_ne.mpr plain
  rw [issueEngine, engine_legal wf localDone, noVec]
  simp only [Bool.false_eq_true, if_false]
  rw [Tile.regCheck_of_settled Tile.settled_nil v.lead.isPend_zero]

/-- A vector instruction: KS, and for VRED and VTOPK IB too, is read at the issue. -/
theorem issueEngine_of_vector {ib : BitVec 5} (vector : engQueue op = 2)
    (base : (if op == .vred || op == .vtopk then BitVec.ofNat 5 (vIB p) else 0) = ib)
    (ks : v.lead.isPend (BitVec.ofNat 5 (vKS h)) = false) (noBase : v.lead.isPend ib = false) :
    issueEngine v n op h p ill = .ok ((v.later (n + 2) (.enter
      { op := op, hdr := h, param := p, pc := v.lead.pc, tread := n
        k := v.lead.reg (BitVec.ofNat 5 (vKS h)), ib := v.lead.reg ib })).advance n 2 1) := by
  have isVec : (engQueue op == 2) = true := beq_iff_eq.mpr vector
  rw [issueEngine, engine_legal wf localDone, isVec, base]
  simp only [Bool.false_eq_true, if_false, if_true]
  rw [Tile.regCheck_of_settled (Tile.settled_two ks noBase) v.lead.isPend_zero]

end

theorem issueInstr_engine {v : Tile} {g : Guard} (n : Nat) (inside : v.lead.pc ≤ 0x3FF) (on : guardOn v.lead.preds g = true)
    (op : EngOp) (h : EngHdr) (p : DWord) : issueInstr v n g (.engine op h p) = issueEngine v n op h p
      (illegal v ((encodeInstr g (.engine op h p)).getD 0 0)
        ((encodeInstr g (.engine op h p)).getD 1 (Tbl.get 0 v.lead.prog (v.lead.pc + 1)))) :=
  issue_of_on (Nat.not_lt.mpr inside) on

/-- Settles O11: ten instructions name no register, the four of the vector engine one or two. -/
theorem engineDispatch : Obligations.EngineDispatch := by
  intro t h p s ⟨due, inside, on⟩ localDone v n ks ib put
  have row {op : EngOp} {k i : Word} (issue : ∀ ill, issueEngine v n op h p ill = .ok ((v.later (n + 2) (.enter
      { op := op, hdr := h, param := p, pc := v.lead.pc, tread := n, k := k, ib := i })).advance n 2 1)) :
      Host.Outcome.next (s.issueRow t h.g (.engine op h p)) = put op k i :=
    congrArg Host.Outcome.next (State.issueRow_of_ok due ((issueInstr_engine n inside on op h p).trans (issue _)))
  have plain (op : EngOp) (other : engQueue op ≠ 2) (wf : engineWf op h p = true) :
      Host.Outcome.next (s.issueRow t h.g (.engine op h p)) = put op 0 0 :=
    row fun ill => issueEngine_of_plain n ill wf localDone other
  have vector (op : EngOp) (inVec : engQueue op = 2) (noBase : (op == .vred || op == .vtopk) = false)
      (k : v.lead.isPend ks = false) (wf : engineWf op h p = true) :
      Host.Outcome.next (s.issueRow t h.g (.engine op h p)) = put op (v.lead.reg ks) 0 :=
    row fun ill => issueEngine_of_vector n ill wf localDone inVec (if_neg (ne_true_of_eq_false noBase)) k v.lead.isPend_zero
  have based (op : EngOp) (inVec : engQueue op = 2) (base : (op == .vred || op == .vtopk) = true)
      (k : v.lead.isPend ks = false) (i : v.lead.isPend ib = false) (wf : engineWf op h p = true) :
      Host.Outcome.next (s.issueRow t h.g (.engine op h p)) = put op (v.lead.reg ks) (v.lead.reg ib) :=
    row fun ill => issueEngine_of_vector n ill wf localDone inVec (if_pos base) k i
  exact ⟨plain .pmul (by decide), plain .pdrn (by decide), plain .dload (by decide), plain .dmul (by decide),
    plain .ddrn (by decide), plain .dkv (by decide), plain .hmov (by decide), plain .hfill (by decide), plain .hzero (by decide),
    plain .hrel (by decide), fun k => ⟨vector .vmap rfl rfl k, vector .vqnt rfl rfl k, fun i =>
      ⟨based .vred rfl rfl k i, based .vtopk rfl rfl k i⟩⟩⟩

end Sys2Proof.Machine
end

section
/-!
Starts and completions of engine instructions (R97, R106, R108, R113–R115, R292): what the head of a queue comes to in each case,
and the obligation of the engines' runs (O12).
-/

namespace Sys2Proof.Machine

/-! ### Starts (R106, R115, R292) -/

/-- R106, R292: the head of queue q starts in tread n; a queue word of bad parity is delivered poisoned. -/
def Tile.startHead (v : Tile) (n q : Nat) (e : QEntry) (l : List QEntry) : Tile :=
  if e.bad then (v.setQueue q ({ e with start := some n, bad := false, poi := e.bad } :: l)).addOrigin ⟨0x14, q, n⟩
  else v.setQueue q ({ e with start := some n, bad := false, poi := e.bad } :: l)

/-- The flags play no part in what a start does to its queue. -/
theorem Tile.startHead_withFlags (v : Tile) (n q : Nat) (e : QEntry) (l : List QEntry) (flags : BitVec 16) :
    ((v.withFlags flags).startHead n q e l).withFlags v.lead.flags = v.startHead n q e l := by
  cases bad : e.bad <;> simp only [Tile.startHead, bad] <;> rfl

section
variable {v : Tile} {n q : Nat} {e : QEntry} {l : List QEntry} (head : v.queue q = e :: l) (due : e.dueStart n = true)
include head due

theorem Tile.startRow_of_no_wait (free : e.d.hdr.wen = false) : v.startRow n q = (v.startHead n q e l, none) := by
  have same : (v.withFlags (v.phase1 n).1.lead.flags).queue q = e :: l := head
  simp only [Tile.startRow, Tile.startQ, same, due, free, Bool.not_true, Bool.false_eq_true, if_false]
  exact congrArg (·, none) (v.startHead_withFlags n q e l _)

variable (waits : e.d.hdr.wen = true)
include waits

theorem Tile.startRow_of_set (set : (v.phase1 n).1.lead.flags.getLsbD e.d.hdr.wf.toNat = true)
    (clean : v.held.any (fun h => h.flag == e.d.hdr.wf.toNat && h.poi) = false) :
    v.startRow n q = ((v.proceed n e.d.hdr.wf.toNat e.d.hdr.wkeep).startHead n q e l, none) := by
  have same : (v.withFlags (v.phase1 n).1.lead.flags).queue q = e :: l := head
  have proceeds : (v.withFlags (v.phase1 n).1.lead.flags).waitOn e.d.hdr.wf.toNat = .proceeds := if_pos set
  have noPoison : (v.withFlags (v.phase1 n).1.lead.flags).heldPoison e.d.hdr.wf.toNat e.d.pc = none :=
    Tile.heldPoison_eq_none e.d.pc clean
  simp only [Tile.startRow, Tile.startQ, same, due, waits, proceeds, noPoison, Bool.not_true, Bool.false_eq_true, if_false, if_true]
  exact congrArg (·, none) ((v.proceed n _ _).startHead_withFlags n q e l _)

theorem Tile.startRow_of_poison {x : TFault} (set : (v.phase1 n).1.lead.flags.getLsbD e.d.hdr.wf.toNat = true)
    (poisoned : v.heldPoison e.d.hdr.wf.toNat e.d.pc = some x) : (v.startRow n q).2 = some x := by
  have same : (v.withFlags (v.phase1 n).1.lead.flags).queue q = e :: l := head
  have proceeds : (v.withFlags (v.phase1 n).1.lead.flags).waitOn e.d.hdr.wf.toNat = .proceeds := if_pos set
  have poison : (v.withFlags (v.phase1 n).1.lead.flags).heldPoison e.d.hdr.wf.toNat e.d.pc = some x := poisoned
  simp only [Tile.startRow, Tile.startQ, same, due, waits, proceeds, poison, Bool.not_true, Bool.false_eq_true, if_false, if_true]

theorem Tile.startRow_of_local (unset : (v.phase1 n).1.lead.flags.getLsbD e.d.hdr.wf.toNat = false)
    (isLocal : v.isArrival e.d.hdr.wf.toNat = false) :
    (v.startRow n q).2 = some (earlyWait v e.d.hdr.wf.toNat q e.d.pc) := by
  have same : (v.withFlags (v.phase1 n).1.lead.flags).queue q = e :: l := head
  have early : (v.withFlags (v.phase1 n).1.lead.flags).waitOn e.d.hdr.wf.toNat = .early :=
    (if_neg (ne_true_of_eq_false unset)).trans (if_neg (ne_true_of_eq_false isLocal))
  simp only [Tile.startRow, Tile.startQ, same, due, waits, early, Bool.not_true, Bool.false_eq_true, if_false, if_true]
  rfl

end

section
variable {s : State} {t : TileId} {q : Fin 4}

theorem exec_start_of_no_tread (stands : s.canTread (tileRoom t.val) = false) :
    exec (.engineInstructionStart t q) s = .next s :=
  congrArg Host.Outcome.next (if_neg (ne_true_of_eq_false stands))

theorem exec_start_of_run {w : Tile} (goes : s.canTread (tileRoom t.val) = true)
    (row : (s.tile t.val).startRow (s.issueTread t) q.val = (w, none)) :
    exec (.engineInstructionStart t q) s = .next (s.setTile t.val w) := by
  refine congrArg Host.Outcome.next ((if_pos goes).trans ?_)
  rw [show (s.room (tileRoom t.val)).tread = s.issueTread t from rfl, row]

theorem exec_start_of_fault {x : TFault} (goes : s.canTread (tileRoom t.val) = true)
    (row : ((s.tile t.val).startRow (s.issueTread t) q.val).2 = some x) :
    exec (.engineInstructionStart t q) s = .next ((s.tileFaults t.val 1 [x]).abortTile t.val) := by
  refine congrArg Host.Outcome.next ((if_pos goes).trans ?_)
  rw [show (s.room (tileRoom t.val)).tread = s.issueTread t from rfl, ← Prod.mk.eta (p := Tile.startRow _ _ _), row]

end

/-! ### Completions (R106, R108, R113, R114) -/

/-- R114: no flag is set in a tread without a set. -/
theorem Tile.applySets_nil (v : Tile) : v.applySets [] = (v, none) := by
  have noneSet : (List.range 16).find? (fun _ => false) = none := List.find?_eq_none.mpr (by simp)
  simp [Tile.applySets]

/-- R114: of one set only its own flag can overrun, where it stands already. -/
theorem Tile.overrun_one (v : Tile) (x : FlagSet) (f : Nat) :
    ((decide (1 ≤ ([x].filter (fun y => y.flag == f)).length) && v.flag f) || decide (2 ≤ ([x].filter (fun y => y.flag == f)).length)) =
      (decide (f = x.flag) && v.flag x.flag) := by
  by_cases own : f = x.flag
  · simp [own]
  · have other : (x.flag == f) = false := beq_eq_false_iff_ne.mpr (Ne.symm own)
    simp [own, other]

theorem Tile.applySets_of_free (v : Tile) (x : FlagSet) (free : v.flag x.flag = false) :
    v.applySets [x] = (v.setFlag x.flag true, none) := by
  have noPast : (List.range 16).find? (fun f => decide (f = x.flag) && v.flag x.flag) = none :=
    List.find?_eq_none.mpr (by simp [free])
  simp only [Tile.applySets, Tile.overrun_one, noPast]
  rfl

theorem Tile.applySets_of_overrun (v : Tile) {f who pc : Nat} (isFlag : f < 16) (set : v.flag f = true) :
    (v.applySets [⟨f, who, some pc⟩]).2 = some ⟨0x24, 0, leBytes 1 f ++ leBytes 1 (2 ^ who), some pc, none⟩ := by
  have past : (List.range 16).find? (fun k => decide (k = f) && v.flag f) = some f :=
    List.find?_range_eq_some.mpr ⟨by simp [set], by simpa using isFlag, fun j below => by simp [Nat.ne_of_lt below]⟩
  simp only [Tile.applySets, Tile.overrun_one, past]
  simp [List.eraseDups_cons]

section
variable {s : State} {t : TileId} {q : Fin 4} {e : QEntry} {l : List QEntry} {n : Nat}

/-- R106, R108: an instruction that started in `n` leaves its queue, with its marks, once its duration has passed. -/
theorem exec_complete_of_due (goes : s.canTread (tileRoom t.val) = true) (head : (s.tile t.val).queue q.val = e :: l)
    (started : e.start = some n) (passed : n + e.dur ≤ s.issueTread t) :
    exec (.engineInstructionComplete t q) s = .next
      (match ((((destRanges e.d.op e.ops).foldl (fun v r => v.unmarkRange r.1 r.2) (s.tile t.val)).setQueue q.val l).applySets
          (if e.d.hdr.den then [⟨e.d.hdr.df.toNat, q.val, some e.d.pc⟩] else [])) with
      | (w, none) => s.setTile t.val w.checkDone
      | (_, some f) => (s.tileFaults t.val 1 [f]).abortTile t.val) := by
  have done : e.dueDone (s.issueTread t) = true := by simp [QEntry.dueDone, started, passed]
  have completing : ((s.tile t.val).completing (s.issueTread t)).contains q.val = true := by
    rw [List.contains_iff_mem, Tile.completing, List.mem_filter]
    refine ⟨by have := q.isLt; simp; omega, ?_⟩
    rw [head]; exact done
  have flags : (s.tile t.val).doneFlags [q.val] = if e.d.hdr.den then [⟨e.d.hdr.df.toNat, q.val, some e.d.pc⟩] else [] := by
    cases den : e.d.hdr.den <;> simp [Tile.doneFlags, head, den]
  have retired : (s.tile t.val).retire q.val =
      ((destRanges e.d.op e.ops).foldl (fun v r => v.unmarkRange r.1 r.2) (s.tile t.val)).setQueue q.val l := by
    rw [Tile.retire, head]
  rw [← retired, ← flags]
  exact congrArg Host.Outcome.next (if_pos (by rw [goes]; exact completing))

end

/-- Settles O12: a start by its wait, and a completion by its done flag. -/
theorem engineRuns : Obligations.EngineRuns := by
  refine ⟨fun t q e l s => ?_, fun t q e l n s goes head started passed => ?_⟩
  · intro v n f flags mine run r a
    refine ⟨fun open_ held => exec_start_of_no_tread ?_, exec_start_of_no_tread, fun goes head fresh entered => ?_⟩
    · have holds : ((a.room r).gatedAt (a.room r).tread || (a.holdsOf r (a.room r).tread).isEmpty) = false := by
        rw [open_, Bool.false_or, List.isEmpty_eq_false_iff]; exact held
      simp only [State.canTread]
      rw [holds]; simp
    have due : e.dueStart n = true := by simp [QEntry.dueStart, fresh, entered]
    refine ⟨fun free => ?_, fun waits set clean => ?_, fun waits set x poisoned => ?_, fun waits unset isLocal => ?_⟩
    · exact exec_start_of_run goes (Tile.startRow_of_no_wait head due free)
    · exact exec_start_of_run goes (Tile.startRow_of_set head due waits set clean)
    · exact exec_start_of_fault goes (Tile.startRow_of_poison head due waits set poisoned)
    · exact exec_start_of_fault goes (Tile.startRow_of_local head due waits unset isLocal)
  · intro v w f
    rw [exec_complete_of_due goes head started passed]
    refine ⟨fun plain => ?_, fun den free => ?_, fun den set => ?_⟩
    · rw [plain, if_neg Bool.false_ne_true, Tile.applySets_nil]
    · rw [den, if_pos rfl, Tile.applySets_of_free _ _ free]
    · rw [den, if_pos rfl, ← Prod.mk.eta (p := Tile.applySets _ _), Tile.applySets_of_overrun _ e.d.hdr.df.isLt set]

end Sys2Proof.Machine
end

section
/-!
Clock periods (R44, R46, R48, R59, R63, R360, R379, R385, R389): what a period of a room comes to in each case, the tread counts that
it leaves, the wires that differ, and the obligations of the periods and of the tread rule (O53, O54).
-/

namespace Sys2Proof.Machine

/-! ### The cases of a period -/

section
variable {s : State} {r : RoomId} {margin : Margin} {cal : List CalResult}

/-- R44: a period in which no wires of the module hub or of a die's port differ. -/
theorem exec_clockPeriod_of_no_reset {us : List Upset} (keeps : us.any Upset.resetsModule = false) :
    exec (.clockPeriod r margin cal us) s = .next (s.period r.val margin cal us) :=
  if_neg (by rw [keeps]; simp)

theorem State.period_of_no_clock (stands : s.clockRuns r.val = false) : s.period r.val margin cal [] = s.fallPeriod r.val := by
  rw [State.period, stands]
  cases s.ready <;> rfl

theorem State.period_of_clock (runs : s.clockRuns r.val = true) :
    s.period r.val margin cal [] = s.periodOf r.val margin cal [] := by
  simp only [State.period, runs, List.foldl_nil, Bool.not_true, Bool.false_eq_true, if_false, if_true]
  rfl

end

section
variable {a : State} {r : Nat} {cal : List CalResult}

/-- The hold sources that stand against a period's tread (R59): none in a tread without a clock. -/
def State.heldBy (a : State) (r : Nat) : List HoldSrc :=
  if (a.room r).gatedAt (a.room r).tread then [] else a.holdsOf r (a.room r).tread

theorem State.periodWork_eq : a.periodWork r cal [] =
    if !a.rejoinStop.isEmpty || !(a.room r).stops.isEmpty || !(a.heldBy r).isEmpty then a.idlePeriod r false false (a.heldBy r)
    else if !(a.treadRule r) then a.idlePeriod r false false []
    else if (a.spineFor r (a.room r).tread).2 then (a.spineFor r (a.room r).tread).1.idlePeriod r true false []
    else (a.spineFor r (a.room r).tread).1.tryTread r (a.room r).tread cal [] := rfl

/-- R57–R59: a stop or a hold source keeps the room idle. -/
theorem State.periodWork_of_held (held : a.rejoinStop ≠ [] ∨ (a.room r).stops ≠ [] ∨ a.heldBy r ≠ []) :
    a.periodWork r cal [] = a.idlePeriod r false false (a.heldBy r) := by
  refine a.periodWork_eq.trans (if_pos ?_)
  simpa only [Bool.or_eq_true, Bool.not_eq_true', List.isEmpty_eq_false_iff, or_assoc] using held

section
variable (noRejoin : a.rejoinStop = []) (noStop : (a.room r).stops = []) (noHold : a.heldBy r = [])
include noRejoin noStop noHold

theorem State.periodWork_of_free : a.periodWork r cal [] =
    if !(a.treadRule r) then a.idlePeriod r false false []
    else if (a.spineFor r (a.room r).tread).2 then (a.spineFor r (a.room r).tread).1.idlePeriod r true false []
    else (a.spineFor r (a.room r).tread).1.tryTread r (a.room r).tread cal [] :=
  a.periodWork_eq.trans (if_neg (by simp [noRejoin, noStop, noHold]))

/-- R46: a neighbour lags. -/
theorem State.periodWork_of_lag (lags : a.treadRule r = false) : a.periodWork r cal [] = a.idlePeriod r false false [] :=
  (a.periodWork_of_free noRejoin noStop noHold).trans (if_pos (by rw [lags]; rfl))

/-- R387: the tread waits for its spine. -/
theorem State.periodWork_of_spine (rule : a.treadRule r = true) (waits : (a.spineFor r (a.room r).tread).2 = true) :
    a.periodWork r cal [] = (a.spineFor r (a.room r).tread).1.idlePeriod r true false [] :=
  (a.periodWork_of_free noRejoin noStop noHold).trans ((if_neg (by rw [rule]; simp)).trans (if_pos waits))

theorem State.periodWork_of_try (rule : a.treadRule r = true) (spine : (a.spineFor r (a.room r).tread).2 = false) :
    a.periodWork r cal [] = (a.spineFor r (a.room r).tread).1.tryTread r (a.room r).tread cal [] :=
  (a.periodWork_of_free noRejoin noStop noHold).trans ((if_neg (by rw [rule]; simp)).trans (if_neg (by rw [spine]; simp)))

end

/-- R379, R385: the credit, which G0 and G1 do not need, covers the work. -/
def State.hasCredit (w : State) (r work : Nat) : Prop :=
  Config.budget (w.roomGear r) = 0 ∨ (w.room r).debit + work ≤ fullCredit (w.roomGear r)

/-- R385: the allowance covers the work with that of the last periods. -/
def State.isAllowed (w : State) (r work : Nat) : Bool :=
  withinAllow (w.roomGear r) (work + winSum 63 (w.room r).win) (w.room r).allow

theorem State.governed_iff (w : State) (r work : Nat) :
    w.governed r work = true ↔ w.hasCredit r work ∧ w.isAllowed r work = true := by
  simp only [State.governed, State.hasCredit, State.isAllowed, Bool.and_eq_true, Bool.not_eq_true', Bool.and_eq_false_iff, bne_eq_false_iff_eq,
    decide_eq_false_iff_not, not_lt]

section
variable {w : State} {n : Nat} {xs : List (Nat × TileTread)} {work : Nat} (their : w.roomWork r n [] = xs) (its : w.treadWork r xs = work)
include their its

theorem State.tryTread_of_governed (credit : w.hasCredit r work) (allowed : w.isAllowed r work = true) :
    w.tryTread r n cal [] = w.takeTread r n cal [] xs work := by
  subst their its
  exact if_pos ((w.governed_iff r _).mpr ⟨credit, allowed⟩)

theorem State.tryTread_of_pause (stands : ¬ (w.hasCredit r work ∧ w.isAllowed r work = true)) :
    w.tryTread r n cal [] = w.idlePeriod r true (!(w.isAllowed r work)) [] := by
  subst their its
  exact if_neg (mt (w.governed_iff r _).mp stands)

end

end

/-! ### Wires that differ (R360) -/

section
variable {s : State} {r : RoomId} {margin : Margin} {cal : List CalResult} {u : Upset}

theorem State.period_of_stopped (runs : s.clockRuns r.val = true) (stopped : (s.roomUpset r.val u).clockRuns r.val = false) :
    s.period r.val margin cal [u] = s.roomUpset r.val u := by
  simp only [State.period, runs, stopped, List.foldl_cons, List.foldl_nil, Bool.not_true, Bool.false_eq_true, if_false]

theorem State.period_of_hub (ready : s.ready = true) (stands : s.clockRuns r.val = false) (hub : Upset.atHub u = true) :
    s.period r.val margin cal [u] = (s.roomUpset r.val u).fallPeriod r.val := by
  simp only [State.period, ready, stands, hub, List.foldl_cons, List.foldl_nil, Bool.not_false, if_true]

theorem exec_clockPeriod_of_reset (ready : s.ready = true) (resets : Upset.resetsModule u = true) :
    exec (.clockPeriod r margin cal [u]) s = .next ((s.roomUpset r.val u).moduleReset none none) := by
  have strikes : [u].filter Upset.resetsModule = [u] := List.filter_cons_of_pos resets
  refine (if_pos (by simp [ready, resets])).trans ?_
  rw [strikes]
  rfl

theorem State.roomUpset_wire (s : State) (r : Nat) {sig a b : Nat} (differ : a ≠ b) (node : SyncNode) :
    s.roomUpset r (.syncWire node sig a b) = match node with
      | .room => (s.syncRecord (roomPath r) 2 1 0 sig a b).fenceReset (roomFloor r)
      | .floorHub => (s.syncRecord (floorPath (roomFloor r)) 2 3 0 sig a b).fenceReset (roomFloor r)
      | .moduleHub => s.syncRecord modulePath 3 4 0 sig a b
      | .diePort d => s.syncRecord modulePath 3 5 d.val sig a b := if_neg differ

end

/-! ### The tread count of a period that is idle -/

theorem State.passPeriods_site (s : State) (r : Nat) (closed : Bool) (xs : List (Nat × TileTread)) :
    (s.passPeriods r closed xs).1.site = s.site := by
  refine List.foldlRecOn _ _ (motive := fun (a : State × Nat) => a.1.site = s.site) rfl fun a same q _ => ?_
  exact same

theorem State.room_of_site {s t : State} (same : t.site = s.site) (r : Nat) : t.room r = s.room r :=
  congrArg (fun x : Site => Tbl.get Room.reset x.rooms r) same

theorem State.floor_of_site {s t : State} (same : t.site = s.site) (f : Nat) : t.floor f = s.floor f :=
  congrArg (fun x : Site => Tbl.get Floor.reset x.floors f) same

theorem State.tread_idlePeriod (s : State) (r : Nat) (paused refused : Bool) (srcs : List HoldSrc) :
    ((s.idlePeriod r paused refused srcs).room r).tread = (s.room r).tread := by
  have rooms := congrArg Room.tread (State.room_of_site (s.passPeriods_site r (s.gated r (s.room r).tread) []) r)
  exact (congrArg Room.tread (State.room_setRoom_self _ _ _)).trans rooms

theorem State.tread_meterTread (s : State) (r work : Nat) (xs : List (Nat × TileTread)) (back presses : Nat) :
    ((s.meterTread r work xs back presses).room r).tread = (s.room r).tread + 1 :=
  congrArg Room.tread (State.room_setRoom_self _ _ _)

/-- Settles O53: a period by what stands against its tread, and the wires by their node. -/
theorem clockPeriods : Obligations.ClockPeriods := by
  refine ⟨fun r margin cal s => ?_, fun r d margin cal sig a b s differ => ?_⟩
  · intro m a n srcs t0
    have runs_ (t : State) (clock : s.clockRuns r.val = true) (work : a.periodWork r.val cal [] = t) :
        exec (.clockPeriod r margin cal []) s = .next (t.latchCounts r.val t0) := by
      rw [exec_clockPeriod_of_no_reset rfl, State.period_of_clock clock, ← work]
      rfl
    refine ⟨fun stands => ?_, fun clock => ⟨fun held => runs_ _ clock (State.periodWork_of_held held), fun noRejoin noStop noHold =>
      ⟨fun lags => runs_ _ clock (State.periodWork_of_lag noRejoin noStop noHold lags), fun rule => ?_⟩⟩,
      (s.tread_idlePeriod r.val true true []).symm, s.tread_meterTread r.val⟩
    · rw [exec_clockPeriod_of_no_reset rfl, State.period_of_no_clock stands]
    · intro w xs work credit allowed
      refine ⟨fun waits => ?_, fun spine has may => ?_, fun spine mayNot => ?_, fun spine hasNot may => ?_⟩
      · exact runs_ _ clock (State.periodWork_of_spine noRejoin noStop noHold rule waits)
      · exact runs_ _ clock ((State.periodWork_of_try noRejoin noStop noHold rule spine).trans
          (State.tryTread_of_governed rfl rfl has may))
      · refine runs_ _ clock ((State.periodWork_of_try noRejoin noStop noHold rule spine).trans
          ((State.tryTread_of_pause rfl rfl fun both => mayNot both.2).trans ?_))
        rw [show (a.spineFor r.val n).1.isAllowed r.val work = false from Bool.eq_false_iff.mpr mayNot]
        rfl
      · refine runs_ _ clock ((State.periodWork_of_try noRejoin noStop noHold rule spine).trans
          ((State.tryTread_of_pause rfl rfl fun both => hasNot both.1).trans ?_))
        rw [show (a.spineFor r.val n).1.isAllowed r.val work = true from may]
        rfl
  · intro f x y
    have room : s.roomUpset r.val (.syncWire .room sig a b) = x := s.roomUpset_wire r.val differ .room
    have hub : s.roomUpset r.val (.syncWire .floorHub sig a b) = y := s.roomUpset_wire r.val differ .floorHub
    have resets : (a != b) = true := bne_iff_ne.mpr differ
    refine ⟨fun clock stopped => ?_, fun clock stopped => ?_, fun ready stands => ?_, fun ready => ⟨?_, ?_⟩⟩
    · rw [exec_clockPeriod_of_no_reset rfl, State.period_of_stopped clock (room ▸ stopped), room]
    · rw [exec_clockPeriod_of_no_reset rfl, State.period_of_stopped clock (hub ▸ stopped), hub]
    · rw [exec_clockPeriod_of_no_reset rfl, State.period_of_hub ready stands rfl, hub]
    · rw [exec_clockPeriod_of_reset (u := .syncWire .moduleHub sig a b) ready resets, s.roomUpset_wire r.val differ .moduleHub]
    · rw [exec_clockPeriod_of_reset (u := .syncWire (.diePort d) sig a b) ready resets, s.roomUpset_wire r.val differ (.diePort d)]

/-! ### A room whose neighbour lags (R46) -/

theorem Room.writeCorr_count (m : Room) (gear : Nat) (fallback : Bool) :
    (m.writeCorr gear fallback).tread = m.tread ∧ (m.writeCorr gear fallback).recv = m.recv :=
  List.foldlRecOn _ _ (motive := fun (w : Room) => w.tread = m.tread ∧ w.recv = m.recv) ⟨rfl, rfl⟩ fun _ same _ _ => same

/-- What a period opens with leaves the room's count and those that it has received. -/
theorem Room.open_count (m : Room) (gear : Nat) (fallback : Bool) (margin : Margin) :
    (m.open_ gear fallback margin).tread = m.tread ∧ (m.open_ gear fallback margin).recv = m.recv :=
  m.writeCorr_count gear fallback

theorem State.startRoutes_site (s : State) (r : Nat) : (s.startRoutes r).site = s.site := by
  unfold State.startRoutes
  dsimp only
  split
  · rfl
  · refine foldl_site _ (fun s q => ?_) _ _
    split
    · rfl
    · exact (State.abortTile_site _ _).trans (State.record_site _ _)

/-- The neighbours of a room are those whose floors are up. -/
theorem State.nbrRooms_of_floors {s t : State} (same : ∀ f, t.floor f = s.floor f) (r : Nat) : t.nbrRooms r = s.nbrRooms r := by
  simp only [State.nbrRooms, State.floorUp, same] <;> rfl

theorem State.treadRule_of_lag {s : State} {r : Nat} {q : Nat × Nat} (near : q ∈ s.nbrRooms r)
    (lags : Tbl.get 0 (s.room r).recv q.1 + 1 < (s.room r).tread) : s.treadRule r = false := by
  rw [State.treadRule, List.all_eq_false]
  exact ⟨q, near, by simpa using lags⟩

theorem State.tread_latchCounts (s : State) (r n : Nat) : ((s.latchCounts r n).room r).tread = (s.room r).tread :=
  (congrArg Room.tread (State.room_setRoom_self _ _ _)).trans rfl

theorem State.tread_fallPeriod (s : State) (r : Nat) : ((s.fallPeriod r).room r).tread = (s.room r).tread := by
  unfold State.fallPeriod
  dsimp only
  split
  · rfl
  · exact (congrArg Room.tread (State.room_setRoom_self _ _ _)).trans rfl

/-- R46: a period that opens with a lagging neighbour is idle. -/
theorem State.tread_periodWork_of_lag {a : State} {r : Nat} (cal : List CalResult) (lags : a.treadRule r = false) :
    ((a.periodWork r cal []).room r).tread = (a.room r).tread := by
  rw [State.periodWork_eq]
  split
  · exact a.tread_idlePeriod r _ _ _
  · rw [lags]
    exact a.tread_idlePeriod r _ _ _

/-- Settles O54: the period opens with the counts as they stand, so that the tread rule keeps the room idle. -/
theorem treadRule : Obligations.TreadRule := by
  intro r q margin cal s near lags
  refine ⟨_, exec_clockPeriod_of_no_reset rfl, ?_⟩
  cases clock : s.clockRuns r.val with
  | false =>
    rw [State.period_of_no_clock clock]
    exact s.tread_fallPeriod r.val
  | true =>
    rw [State.period_of_clock clock]
    obtain ⟨a, opened⟩ : ∃ a, a =
        (s.setRoom r.val ((s.room r.val).open_ (s.roomGear r.val) s.fallback margin)).startRoutes r.val := ⟨_, rfl⟩
    have site := State.startRoutes_site (s.setRoom r.val ((s.room r.val).open_ (s.roomGear r.val) s.fallback margin)) r.val
    rw [← opened] at site
    have room : a.room r.val = (s.room r.val).open_ (s.roomGear r.val) s.fallback margin :=
      (State.room_of_site site r.val).trans (State.room_setRoom_self _ _ _)
    obtain ⟨tread, recv⟩ := (s.room r.val).open_count (s.roomGear r.val) s.fallback margin
    have nbrs : a.nbrRooms r.val = s.nbrRooms r.val := State.nbrRooms_of_floors (fun f => State.floor_of_site site f) r.val
    have rule : a.treadRule r.val = false := State.treadRule_of_lag (nbrs ▸ near) (by rw [room, tread, recv]; exact lags)
    calc ((s.periodOf r.val margin cal []).room r.val).tread
        = ((a.periodWork r.val cal []).room r.val).tread := by
          rw [State.periodOf, State.tread_latchCounts, opened]
      _ = (a.room r.val).tread := State.tread_periodWork_of_lag cal rule
      _ = (s.room r.val).tread := by rw [room, tread]

end Sys2Proof.Machine
end

section
/-!
Gear changes (R64–R67, R388, R391, R393, R395): the first step of a change, the GEAR command, what confirmations and the regulator
make of a change, and the obligations of the GEAR command and of gear changes (O26, O27, O28).
-/

namespace Sys2Proof.Machine

/-! ### The course of the module's gear -/

/-- The gear in force, the one commanded and the change under way, with the set point, the throttling and the rooms that restart. -/
structure Course where
  gear : BitVec 2
  cgear : BitVec 2
  change : Option GearChange
  vcore : Nat
  restart : Option (Nat × Nat)
  throttled : Option Nat
  overSince : Option Nat
  underSince : Option Nat
  alertThrottle : Bool

def State.course (s : State) : Course :=
  ⟨s.gear, s.cgear, s.change, s.vcore, s.restart, s.throttled, s.overSince, s.underSince, s.alertThrottle⟩

theorem State.portsOnly.course {s t : State} (h : s.portsOnly t) : t.course = s.course := (congrArg State.course h).trans rfl

theorem foldl_course {α : Type} (g : State → α → State) (h : ∀ s a, (g s a).course = s.course) (l : List α) (s : State) :
    (l.foldl g s).course = s.course := foldl_leaves State.course g h l s

theorem State.finishAll_course (s : State) (p : Cmd → Bool) (status : Cmd → Nat × List Byte) :
    (s.finishAll p status).course = s.course := (State.finishAll_ports s p status).course.trans rfl

section
variable {β : Type} {f : State → β} (unit : ∀ s p v, f (State.setUnit s p v) = f s) (ports : ∀ s t, State.portsOnly s t → f t = f s)
include unit

theorem State.countFault_leaves (s : State) (p : Word) : f (s.countFault p) = f s := by
  unfold State.countFault
  dsimp only
  split
  · exact (State.event_leaves unit _ _ _).trans (unit _ _ _)
  · exact unit _ _ _

include ports

/-- What neither a unit's registers nor the edge dies bear on, a notice leaves as it is. -/
theorem State.notice_leaves (s : State) (code : Nat) (detail : List Byte) : f (s.notice code detail) = f s := by
  refine foldl_leaves f _ (fun s d => ?_) _ _
  unfold State.noticeOn
  dsimp only
  split
  · rfl
  · split
    · exact (ports _ _ (State.drainNotices_ports _ _ d)).trans (ports _ _ (State.setDie_ports s d _))
    · exact (State.limitAt_leaves unit _ _ _).trans (ports _ _ (State.setDie_ports s d _))

/-- What the fault log does not bear on either, a record leaves as it is. -/
theorem State.record_leaves
    (log : ∀ (s : State) l w o m, f { s with flog := l, flogW := w, flogLost := o, modOvf := m } = f s) (s : State) (r : FaultRec) :
    f (s.record r) = f s := by
  simp only [State.record, State.notice_leaves unit ports, State.countFault_leaves unit, State.event_leaves unit,
    State.limitAt_leaves unit, log]

end

theorem State.finishAll_cmds (s : State) (p : Cmd → Bool) (status : Cmd → Nat × List Byte) :
    (s.finishAll p status).cmds = s.cmds.filter (fun c => !p c) := (State.finishAll_ports s p status).cmds

/-! ### The first step of a change (R64, R388, R389) -/

section
variable {s : State} {c : GearChange} {g : Nat} {l : List Nat}

/-- A change as its step begins, before the regulator or a target is awaited. -/
def GearChange.begun (c : GearChange) (s : State) (awaiting : Bool) (target : Option Nat) : GearChange :=
  { c with target := target, awaiting := awaiting, since := s.pkt, was := s.vcore, tail := s.lastTarget }

/-- R64: the tread at which firmware lays the next target. -/
def State.nextTarget (s : State) : Nat := s.moduleTread + 8352 + (Config.freeValue s.free).toNat % 23649

theorem State.nextTarget_range (s : State) : s.moduleTread + 8352 ≤ s.nextTarget ∧ s.nextTarget ≤ s.moduleTread + 32000 := by
  have least : (Config.freeValue s.free).toNat % 23649 < 23649 := Nat.mod_lt _ (by decide)
  unfold State.nextTarget
  omega

theorem State.beginGear_of_up (chain : c.chain = g :: l) (up : s.gear.toNat < g) :
    s.beginGear c = { s with vcore := s.setPoint g, change := some (c.begun s true none) } := by
  have written : s.writeVcore g = { s with vcore := s.setPoint g } := if_neg (by omega)
  obtain ⟨_, target, awaiting, since, thermal, was, tail⟩ := c
  subst chain
  exact (if_pos up).trans (by rw [written]; rfl)

theorem State.beginGear_of_down (chain : c.chain = g :: l) (down : g ≤ s.gear.toNat) (runs : g ≠ 0) :
    s.beginGear c = s.announceGear (c.begun s false none) := by
  obtain ⟨_, target, awaiting, since, thermal, was, tail⟩ := c
  subst chain
  exact (if_neg (Nat.not_lt.mpr down)).trans (if_neg runs)

/-- R389: every live room's allowance begins to fall. -/
def State.rampAll (s : State) : State := s.upRooms.foldl (fun (s : State) (r : Nat) => s.rampDown r) s

theorem State.beginGear_of_zero (chain : c.chain = 0 :: l) : s.beginGear c =
    let t := { s.rampAll with change := some (c.begun s false none) }
    if t.allZero then t.announceGear (c.begun s false none) else t := by
  obtain ⟨_, target, awaiting, since, thermal, was, tail⟩ := c
  subst chain
  rfl

end

/-! ### What a fall of the allowances leaves (R389) -/

theorem State.rampDown_course (s : State) (r : Nat) : (s.rampDown r).course = s.course := rfl

theorem State.rampAll_course (s : State) : s.rampAll.course = s.course := foldl_course _ State.rampDown_course _ _

theorem State.rampAll_floors (s : State) : s.rampAll.floors = s.floors :=
  foldl_leaves State.floors (fun (s : State) (r : Nat) => s.rampDown r) (fun _ _ => rfl) _ _

/-- Which rooms are live rests on the floors alone. -/
theorem State.upRooms_of_floors {s t : State} (same : t.floors = s.floors) : t.upRooms = s.upRooms := by
  simp only [State.upRooms, State.floorUp, State.floor, same]

theorem State.rampDown_room (s : State) (r q : Nat) :
    ((s.rampDown r).room q).allow = (s.room q).allow ∧
      (((s.rampDown r).room q).fall ≠ none ↔ q = r ∨ (s.room q).fall ≠ none) := by
  by_cases same : q = r
  · subst same
    rw [State.rampDown, State.room_setRoom_self]
    simp
  · have left : (s.rampDown r).room q = s.room q := State.room_setRoom_ne _ _ same
    rw [left]
    simp [same]

theorem State.foldl_rampDown_room (l : List Nat) (s : State) (q : Nat) :
    ((l.foldl (fun (s : State) (r : Nat) => s.rampDown r) s).room q).allow = (s.room q).allow ∧
      (((l.foldl (fun (s : State) (r : Nat) => s.rampDown r) s).room q).fall ≠ none ↔ q ∈ l ∨ (s.room q).fall ≠ none) := by
  induction l generalizing s with
  | nil => simp
  | cons r l ih =>
    obtain ⟨allow, fall⟩ := ih (s.rampDown r)
    obtain ⟨allow1, fall1⟩ := s.rampDown_room r q
    exact ⟨allow.trans allow1, fall.trans (by rw [fall1, List.mem_cons]; tauto)⟩

theorem State.rampAll_fall {s : State} {q : Nat} (live : q ∈ s.upRooms) : (s.rampAll.room q).fall ≠ none :=
  (State.foldl_rampDown_room _ s q).2.mpr (.inl live)

/-- The allowances themselves stand as the fall begins. -/
theorem State.rampAll_allZero (s : State) : s.rampAll.allZero = s.allZero := by
  have rooms : s.rampAll.upRooms = s.upRooms := State.upRooms_of_floors s.rampAll_floors
  have allow (q : Nat) : (s.rampAll.room q).allow = (s.room q).allow := (State.foldl_rampDown_room _ s q).1
  simp only [State.allZero, rooms, allow]

/-- R388: downward from G1 the change waits for the allowances, which begin to fall. -/
theorem State.beginGear_of_fall {s : State} {c : GearChange} {l : List Nat} (chain : c.chain = 0 :: l) (loaded : s.allZero = false) :
    s.beginGear c = { s.rampAll with change := some (c.begun s false none) } := by
  refine (State.beginGear_of_zero chain).trans (if_neg ?_)
  change ¬s.rampAll.allZero = true
  simp [State.rampAll_allZero, loaded]

theorem State.beginGear_of_fall_course {s : State} {c : GearChange} {l : List Nat} (chain : c.chain = 0 :: l)
    (loaded : s.allZero = false) : (s.beginGear c).course = { s.course with change := some (c.begun s false none) } := by
  rw [State.beginGear_of_fall chain loaded]
  exact congrArg (fun x : Course => { x with change := some (c.begun s false none) }) s.rampAll_course

/-! ### The GEAR command (R64, R66, R388, R395) -/

theorem gearChain_up {g target : Nat} (up : g < target) :
    ∃ l, gearChain g target = (if g = 0 then target else g + 1) :: l := by
  unfold gearChain
  rw [if_neg (Nat.ne_of_lt up)]
  by_cases zero : g = 0
  · rw [if_pos zero, if_pos zero]
    exact ⟨[], rfl⟩
  · rw [if_neg zero, if_neg zero, if_pos up]
    obtain ⟨n, left⟩ : ∃ n, target - g = n + 1 := ⟨target - g - 1, by omega⟩
    rw [left, List.range_succ_eq_map]
    exact ⟨_, rfl⟩

theorem gearChain_down {g target : Nat} (down : target < g) : ∃ l, gearChain g target = (g - 1) :: l := by
  obtain ⟨n, left⟩ : ∃ n, g - target = n + 1 := ⟨g - target - 1, by omega⟩
  unfold gearChain
  rw [if_neg (Nat.ne_of_gt down), if_neg (by omega), if_neg (by omega), left, List.range_succ_eq_map]
  exact ⟨_, rfl⟩

section
variable {s a : State} {h : CmdHdr} {g : Byte}

theorem exec_gear_of_accepts (acc : s.accepts h (.onM 0x50 none [byteField 16 1 g.toNat]) a) (gear : g.toNat ≤ 3) :
    exec (.gear h g) s = .next ((a.gearCmd h g.toNat).moveOn h) := by
  have legal : badAt (decide (3 < g.toNat)) 16 = none := if_neg (by simpa using gear)
  change execGear h g s = _
  rw [execGear, legal]
  exact congrArg Host.Outcome.next (State.decode_of_accepts _ acc)

theorem State.gearCmd_of_pending {c : GearChange} (pending : a.change = some c) (n : Nat) :
    a.gearCmd h n = a.reply h 0x50 0x0500 (leBytes 1 (c.chain.getLastD 0)) := by
  rw [State.gearCmd, pending]

/-- A GEAR as it is taken: the gear commanded is noted. -/
def State.commanded (a : State) (n : Nat) : State := { a with cgear := BitVec.ofNat 2 n }

section
variable {n : Nat} (none_ : a.change = none) (free : a.moduleBusy = none)
include none_ free

theorem State.gearCmd_of_throttled {k : Nat} (throttled : a.throttled = some k) (above : k < n) : a.gearCmd h n =
    (a.commanded n).reply h 0x50 3 (leBytes 1 a.gear.toNat ++ leBytes 1 n) := by
  rw [State.gearCmd, none_]
  refine (State.moduleCmd_of_free _ _ free).trans (if_pos ?_)
  rw [throttled]
  exact decide_eq_true above

theorem State.gearCmd_of_open (below : ∀ k, a.throttled = some k → n ≤ k) : a.gearCmd h n =
    if a.gear.toNat = n then (a.commanded n).reply h 0x50 0 (leBytes 1 n)
    else ((a.commanded n).begin_ h 0x50 (.gear n)).beginGear
      { chain := gearChain a.gear.toNat n, target := none, awaiting := false, since := a.pkt, thermal := false } := by
  rw [State.gearCmd, none_]
  refine (State.moduleCmd_of_free _ _ free).trans (if_neg ?_)
  cases throttled : a.throttled with
  | none => exact Bool.false_ne_true
  | some k => simpa using below k throttled

end

end

/-- Settles O27: the pending change answers for itself. -/
theorem gearWhilePending : Obligations.GearWhilePending := by
  intro h g c s a acc gear pending
  refine ⟨?_, ?_⟩
  · rw [exec_gear_of_accepts acc gear, State.gearCmd_of_pending pending]
  · have answered := State.portsOnly_trans (a.reply_ports h 0x50 0x0500 (leBytes 1 (c.chain.getLastD 0))) (State.moveOn_ports _ h)
    exact (congrArg Course.change answered.course).trans pending

/-- Settles O26: the command meets a throttled module, the gear in force, or begins the first step of its chain. -/
theorem gearCommand : Obligations.GearCommand := by
  intro h g s a acc legal none_ free chain
  have runs := exec_gear_of_accepts acc legal
  refine ⟨fun k throttled above => ?_, fun below => ?_⟩
  · rw [runs, State.gearCmd_of_throttled none_ free throttled above]
    rfl
  · rw [State.gearCmd_of_open none_ free below] at runs
    obtain ⟨b, begun⟩ : ∃ b, b = (a.commanded g.toNat).begin_ h 0x50 (.gear g.toNat) := ⟨_, rfl⟩
    obtain ⟨c, change⟩ : ∃ c : GearChange, c =
      { chain := chain, target := none, awaiting := false, since := a.pkt, thermal := false } := ⟨_, rfl⟩
    have begins (other : a.gear.toNat ≠ g.toNat) : exec (.gear h g) s = .next ((b.beginGear c).moveOn h) := by
      rw [runs, if_neg other, begun, change]
    have chained : c.chain = chain := by rw [change]
    refine ⟨fun same => ?_, fun up => ?_, fun down running => ?_, fun stop low loaded => ?_⟩
    · rw [runs, if_pos same]
      rfl
    · obtain ⟨l, first⟩ := gearChain_up up
      have step : b.beginGear c = _ := State.beginGear_of_up (chained.trans first) (by
        rw [begun]
        change a.gear.toNat < _
        split <;> omega)
      have next : (if a.gear.toNat = 0 then g.toNat else a.gear.toNat + 1) = if a.gear = 0 then g.toNat else a.gear.toNat + 1 := by
        simp only [← BitVec.toNat_inj]
        rfl
      have course := (State.moveOn_ports (b.beginGear c) h).course
      rw [step, begun, change, next] at course
      rw [step, begun, change, next] at begins
      exact ⟨_, _, begins (Nat.ne_of_lt up), congrArg Course.cgear course, congrArg Course.gear course, rfl,
        congrArg Course.vcore course, congrArg Course.change course⟩
    · obtain ⟨l, first⟩ := gearChain_down down
      have step : b.beginGear c = _ := State.beginGear_of_down (chained.trans first) (by
        rw [begun]
        exact Nat.sub_le _ _) (by omega)
      have course := (State.moveOn_ports (b.beginGear c) h).course
      rw [step, begun, change] at course
      rw [step, begun, change] at begins
      exact ⟨_, _, begins (Nat.ne_of_gt down), congrArg Course.cgear course, congrArg Course.gear course,
        congrArg Course.vcore course, a.nextTarget_range.1, a.nextTarget_range.2, congrArg Course.change course⟩
    · subst stop
      have first : chain = [0] := by
        change gearChain a.gear.toNat 0 = [0]
        rw [low]
        rfl
      have some_ : b.allZero = false := by
        obtain ⟨r, live, positive⟩ := loaded
        rw [begun]
        exact List.all_eq_false.mpr ⟨r, live, fun zero => positive (beq_iff_eq.mp zero)⟩
      have ports := State.moveOn_ports (b.beginGear c) h
      have course := ports.course.trans (State.beginGear_of_fall_course (chained.trans first) some_)
      refine ⟨_, begins (by rw [low]; decide), (congrArg Course.cgear course).trans ?_, (congrArg Course.gear course).trans ?_,
        fun r live => ?_, (congrArg Course.change course).trans ?_⟩
      · rw [begun]
        rfl
      · rw [begun]
        rfl
      · rw [State.room_of_site ports.site, State.beginGear_of_fall (chained.trans first) some_]
        exact State.rampAll_fall (begun ▸ live)
      · rw [begun, change, first]
        rfl

/-! ### Thermal changes (R395) -/

/-- What no first step of a change and no thermal change bears on: the floors, the gear in force and the one commanded, and whether
the highest reading stands above or below the thresholds. -/
def State.steady (s : State) : Tbl Floor × BitVec 2 × BitVec 2 × Bool × Bool :=
  (s.floors, s.gear, s.cgear, s.overSince.isSome, s.underSince.isSome)

theorem State.record_steady (s : State) (r : FaultRec) : (s.record r).steady = s.steady :=
  State.record_leaves (fun _ _ _ => rfl) (fun _ _ h => (congrArg State.steady h).trans rfl) (fun _ _ _ _ _ => rfl) s r

theorem State.rampAll_steady (s : State) : s.rampAll.steady = s.steady :=
  foldl_leaves State.steady (fun (s : State) (r : Nat) => s.rampDown r) (fun _ _ => rfl) _ _

/-- The first step of a change sets the change, and upward the set point. -/
theorem State.beginGear_course (s : State) (c : GearChange) (more : c.chain ≠ []) : ∃ x v,
    (s.beginGear c).course = { s.course with change := some x, vcore := v } ∧ x.chain = c.chain ∧ (s.beginGear c).steady = s.steady := by
  obtain ⟨g, l, chain⟩ := List.exists_cons_of_ne_nil more
  by_cases up : s.gear.toNat < g
  · rw [State.beginGear_of_up chain up]
    exact ⟨_, _, rfl, rfl, rfl⟩
  · by_cases zero : g = 0
    · subst zero
      rw [State.beginGear_of_zero chain]
      dsimp only
      have falls (x : GearChange) : ({ s.rampAll with change := some x } : State).course = { s.course with change := some x } :=
        congrArg (fun y : Course => { y with change := some x }) s.rampAll_course
      split
      · exact ⟨_, _, falls _, rfl, s.rampAll_steady⟩
      · exact ⟨_, _, falls _, rfl, s.rampAll_steady⟩
    · rw [State.beginGear_of_down chain (Nat.not_lt.mp up) zero]
      exact ⟨_, s.vcore, rfl, rfl, rfl⟩

theorem State.beginGear_steady (s : State) (c : GearChange) : (s.beginGear c).steady = s.steady := by
  by_cases done : c.chain = []
  · unfold State.beginGear
    rw [done]
    rfl
  · obtain ⟨x, v, course, chain, steady⟩ := s.beginGear_course c done
    exact steady

/-- R567: a throttling as it is recorded, with the highest reading. -/
def State.throttleFault (s : State) : State :=
  s.thermFault 1 7 (highest s.readings).1 (highest s.readings).2.1 (highest s.readings).2.2

theorem State.throttleFault_steady (s : State) : s.throttleFault.steady = s.steady := by
  unfold State.throttleFault State.thermFault
  exact State.record_steady _ _

/-- R395: a change of the module's own to a gear. -/
def State.thermalChange (s : State) (g : Nat) : State :=
  s.beginGear { chain := [g], target := none, awaiting := false, since := s.pkt, thermal := true }

theorem State.thermalChange_steady (s : State) (g : Nat) : (s.thermalChange g).steady = s.steady := State.beginGear_steady _ _

theorem State.thermalChange_course (s : State) (g : Nat) : ∃ x v,
    (s.thermalChange g).course = { s.course with change := some x, vcore := v } ∧ x.chain = [g] := by
  obtain ⟨x, v, course, chain, steady⟩ := s.beginGear_course
    { chain := [g], target := none, awaiting := false, since := s.pkt, thermal := true } (List.cons_ne_nil g [])
  exact ⟨x, v, course, chain⟩

section
variable {s : State} {u k : Nat}

/-- What is due while the highest reading stands above the limit, of which `t` has made the record. -/
def State.throttledAs (s : State) (u : Nat) (t : State) : State :=
  if s.gear = 3 then ({ t with
    throttled := some 2, alertThrottle := true, throttleSeen := true, overSince := some t.pkt }).thermalChange 2
  else if s.gear = 2 ∧ u + 250000 ≤ s.pkt then ({ t with
    throttled := some 1, alertThrottle := true, throttleSeen := true }).thermalChange 1
  else s

/-- R395: the module is throttled by the reading that has come, and the fault is recorded first. -/
def State.throttleDue (s : State) (u : Nat) : State := s.throttledAs u s.throttleFault

/-- What is due while it stands at the lower threshold or below. -/
def State.restoreDue (s : State) (u : Nat) : State :=
  if s.throttled.isSome ∧ u + 2500000 ≤ s.pkt then
    if s.cgear.toNat ≤ s.gear.toNat then { s with throttled := none }
    else ({ s with
      underSince := some s.pkt
      throttled := if s.gear.toNat + 1 < s.cgear.toNat then some (s.gear.toNat + 1) else none }).thermalChange (s.gear.toNat + 1)
  else s

theorem State.thermal_of_hot (none_ : s.change = none) (hot : s.overSince = some u) : s.thermal = s.throttleDue u := by
  refine (if_neg (by simp [none_])).trans ?_
  split
  · next v since =>
    obtain rfl : v = u := Option.some.inj (since.symm.trans hot)
    rfl
  · next cool _ => exact nomatch cool.symm.trans hot
  · next cool _ => exact nomatch cool.symm.trans hot

theorem State.thermal_of_cold (none_ : s.change = none) (cool : s.overSince = none) (cold : s.underSince = some u) :
    s.thermal = s.restoreDue u := by
  refine (if_neg (by simp [none_])).trans ?_
  split
  · next since => exact nomatch since.symm.trans cool
  · next v _ since =>
    obtain rfl : v = u := Option.some.inj (since.symm.trans cold)
    rfl
  · next _ since => exact nomatch since.symm.trans cold

theorem State.thermal_of_neither (cool : s.overSince = none) (notCold : s.underSince = none) : s.thermal = s := by
  unfold State.thermal
  rw [cool, notCold]
  split <;> rfl

theorem State.thermal_of_pending (pending : s.change ≠ none) : s.thermal = s :=
  if_pos (Option.isSome_iff_ne_none.mpr pending)

/-- No thermal change is due where no reading stands above the limit and the module is not throttled. -/
theorem State.thermal_of_cool (cool : s.overSince = none) (free : s.throttled = none) : s.thermal = s := by
  by_cases none_ : s.change = none
  · cases cold : s.underSince with
    | none => exact State.thermal_of_neither cool cold
    | some u => exact (State.thermal_of_cold none_ cool cold).trans (if_neg (by simp [free]))
  · exact State.thermal_of_pending none_

theorem State.steady_throttled (t : State) {since : Option Nat} (g : Nat) (same : since.isSome = t.overSince.isSome) :
    ({ t with throttled := some g, alertThrottle := true, throttleSeen := true, overSince := since } : State).steady = t.steady := by
  simp only [State.steady, same]

theorem State.throttledAs_steady {t : State} (hot : s.overSince = some u) (fault : t.steady = s.steady) :
    (s.throttledAs u t).steady = s.steady := by
  have above : t.overSince.isSome = s.overSince.isSome := congrArg (·.2.2.2.1) fault
  unfold State.throttledAs
  split
  · exact (State.thermalChange_steady _ _).trans ((t.steady_throttled 2 (by rw [above, hot]; rfl)).trans fault)
  · split
    · exact (State.thermalChange_steady _ _).trans ((t.steady_throttled 1 rfl).trans fault)
    · rfl

theorem State.throttleDue_steady (hot : s.overSince = some u) : (s.throttleDue u).steady = s.steady :=
  State.throttledAs_steady hot s.throttleFault_steady

theorem State.restoreDue_steady (cold : s.underSince = some u) : (s.restoreDue u).steady = s.steady := by
  unfold State.restoreDue
  split
  · split
    · rfl
    · rw [State.thermalChange_steady]
      simp only [State.steady, cold, Option.isSome_some]
  · rfl

/-- A thermal change keeps what is steady. -/
theorem State.thermal_steady (s : State) : s.thermal.steady = s.steady := by
  by_cases none_ : s.change = none
  · cases hot : s.overSince with
    | some u => rw [State.thermal_of_hot none_ hot, State.throttleDue_steady hot]
    | none =>
      cases cold : s.underSince with
      | none => rw [State.thermal_of_neither hot cold]
      | some u => rw [State.thermal_of_cold none_ hot cold, State.restoreDue_steady cold]
  · rw [State.thermal_of_pending none_]

end

/-! ### Acknowledgements, announcements and silence of the regulator (R64, R393) -/

section
variable {s : State} {c : GearChange} (pending : s.change = some c)
include pending

theorem exec_regulatorAcknowledgement_of_awaiting (awaits : c.awaiting = true) : exec .regulatorAcknowledgement s =
    if s.gear = 0 then
      .next { s with change := some { c with awaiting := false }, restart := s.upRooms.head?.map (fun r => (r, s.pkt)) }
    else .next (s.announceGear c) := by
  change execRegulatorAcknowledgement s = _
  unfold execRegulatorAcknowledgement
  split
  · next d change =>
    obtain rfl : d = c := Option.some.inj (change.symm.trans pending)
    exact if_neg (by simp [awaits])
  · next change => exact nomatch change.symm.trans pending

/-- The change is abandoned, and the GEAR commands are answered. -/
def State.abandonGear (s : State) (was : Nat) : State :=
  ({ s with vcore := was, change := none, gearPended := true } : State).finishAll (fun c => match c.work with
    | .gear _ => true
    | _ => false) (fun _ => (0x0501, [0]))

theorem exec_regulatorTimeout_of_late (awaits : c.awaiting = true) (late : c.since + 25000 ≤ s.pkt) :
    exec .regulatorTimeout s = .next (s.abandonGear c.was).thermal := by
  change execRegulatorTimeout s = _
  unfold execRegulatorTimeout
  split
  · next d change =>
    obtain rfl : d = c := Option.some.inj (change.symm.trans pending)
    exact if_neg (by simp [awaits, late])
  · next change => exact nomatch change.symm.trans pending

theorem exec_gearAnnouncement_of_target {r : RoomId} {n g : Nat} {l : List Nat} (target : c.target = some n) (chain : c.chain = g :: l)
    (gear : g ≤ 3) (up : (s.floor (roomFloor r.val)).mode = .up) (clocked : (s.room r.val).clockOff = false)
    (ahead : (s.room r.val).tread ≤ n) (near : n < (s.room r.val).tread + 65536) :
    exec (.gearAnnouncement r (BitVec.ofNat 16 n) (BitVec.ofNat 2 g)) s =
      .next (s.setRoom r.val { s.room r.val with pendGear := some (n, BitVec.ofNat 2 g) }) := by
  have low : (BitVec.ofNat 16 n).toNat = n % 65536 := BitVec.toNat_ofNat n 16
  have high : (BitVec.ofNat 2 g).toNat = g := by rw [BitVec.toNat_ofNat]; omega
  have there : (s.room r.val).tread + (n % 65536 + 65536 - (s.room r.val).tread % 65536) % 65536 = n := by omega
  change execGearAnnouncement r _ _ s = _
  unfold execGearAnnouncement
  split
  · next d change =>
    obtain rfl : d = c := Option.some.inj (change.symm.trans pending)
    rw [target]
    refine (if_neg ?_).trans ?_
    · simp [State.floorUp_iff.mpr up, clocked, low, high, chain]
    · rw [low, there]
  · next change => exact nomatch change.symm.trans pending

end

/-! ### The end of a change (R64, R388, R393, R516) -/

section
variable {s : State}

/-- A change that ends: no change is under way, and the GEAR commands are answered with the gear in force. -/
def State.gearDone (s : State) : State :=
  ({ s with change := none, gearPended := true } : State).finishAll (fun c => match c.work with
    | .gear _ => true
    | _ => false) (fun _ => (0, [BitVec.ofNat 8 s.gear.toNat]))

theorem State.endGear_eq (s : State) : s.endGear = s.gearDone.thermal := rfl

theorem State.gearDone_course (s : State) : s.gearDone.course = { s.course with change := none } :=
  (State.finishAll_course _ _ _).trans rfl

theorem State.abandonGear_course (s : State) (was : Nat) :
    (s.abandonGear was).course = { s.course with change := none, vcore := was } := (State.finishAll_course _ _ _).trans rfl

/-- No GEAR command is in progress once those have been answered. -/
theorem State.finishAll_no_gear {p : Cmd → Bool} (gears : ∀ k x, k.work = .gear x → p k = true) (s : State)
    (status : Cmd → Nat × List Byte) : ∀ k ∈ (s.finishAll p status).cmds, ∀ x, k.work ≠ .gear x := by
  intro k member x work
  rw [State.finishAll_cmds, List.mem_filter, gears k x work] at member
  exact Bool.false_ne_true member.2

theorem State.gearDone_cmds (s : State) : ∀ k ∈ s.gearDone.cmds, ∀ x, k.work ≠ .gear x :=
  State.finishAll_no_gear (fun k x work => by rw [work]) _ _

theorem State.abandonGear_cmds (s : State) (was : Nat) : ∀ k ∈ (s.abandonGear was).cmds, ∀ x, k.work ≠ .gear x :=
  State.finishAll_no_gear (fun k x work => by rw [work]) _ _

end

/-! ### Confirmations (R64, R388) -/

section
variable {s : State} {c : GearChange} {g n : Nat} {l : List Nat}

/-- R64 steps 6 and 7: the next gear is in force. -/
def State.inGear (s : State) (g : Nat) : State :=
  let t : State := { s with gear := BitVec.ofNat 2 g }
  let t := t.rooms.foldl (fun (s : State) (q : Nat × Room) => s.setRoom q.1 { s.room q.1 with gear := none }) t
  let t := if g < s.gear.toNat then t.writeVcore g else t
  if g == 2 then { t with overSince := t.overSince.map (fun _ => t.pkt) } else t

theorem State.writeVcore_course (s : State) (g : Nat) : ∃ v, (s.writeVcore g).course = { s.course with vcore := v } := by
  unfold State.writeVcore
  split
  · exact ⟨s.vcore, rfl⟩
  · exact ⟨_, rfl⟩

theorem State.inGear_course (s : State) (g : Nat) : ∃ v f,
    (s.inGear g).course = { s.course with gear := BitVec.ofNat 2 g, vcore := v, overSince := s.overSince.map f } := by
  unfold State.inGear
  extract_lets t u w
  have rooms : u.course = t.course := by
    refine foldl_course _ (fun s q => ?_) _ _
    rfl
  obtain ⟨v, volts⟩ : ∃ v, w.course = { t.course with vcore := v } := by
    unfold w
    split
    · obtain ⟨v, volts⟩ := u.writeVcore_course g
      exact ⟨v, by rw [volts, rooms]⟩
    · exact ⟨t.vcore, rooms⟩
  have since : w.overSince = s.overSince := congrArg Course.overSince volts
  split
  · refine ⟨v, fun _ => w.pkt, ?_⟩
    rw [since]
    exact congrArg (fun x : Course => { x with overSince := s.overSince.map (fun _ => w.pkt) }) volts
  · refine ⟨v, id, volts.trans ?_⟩
    rw [Option.map_id]
    rfl

section
variable (pending : s.change = some c) (chain : c.chain = g :: l)
include pending chain

theorem exec_gearConfirmation_of_there
    (there : (c.target = some n ∧ ∀ q ∈ s.upRooms, n ≤ (s.room q).tread ∧ (s.room q).pendGear = none) ∨
      (c.target = none ∧ s.gear = 0 ∧ c.awaiting = false ∧ s.restart = none ∧ ∀ q ∈ s.upRooms, (s.room q).clockOff = false)) :
    exec .gearConfirmation s = .next (if l = [] then (s.inGear g).endGear else (s.inGear g).beginGear { c with chain := l }) := by
  obtain ⟨_, target, awaiting, since, thermal, was, tail⟩ := c
  subst chain
  change execGearConfirmation s = _
  unfold execGearConfirmation
  split
  · next d change =>
    obtain rfl : d = _ := Option.some.inj (change.symm.trans pending)
    dsimp only at there ⊢
    refine (if_neg ?_).trans ?_
    · rcases there with ⟨rfl, reached⟩ | ⟨rfl, zero, awaits, restarted, clocked⟩
      · simpa using reached
      · simpa [zero, awaits, restarted] using clocked
    · cases l <;> rfl
  · next change => exact nomatch change.symm.trans pending

theorem exec_gearConfirmation_of_short {r : Nat} (target : c.target = some n) (live : r ∈ s.upRooms) (short : (s.room r).tread < n) :
    exec .gearConfirmation s = .next s := by
  obtain ⟨_, _, awaiting, since, thermal, was, tail⟩ := c
  subst chain
  subst target
  change execGearConfirmation s = _
  unfold execGearConfirmation
  split
  · next d change =>
    obtain rfl : d = _ := Option.some.inj (change.symm.trans pending)
    refine if_pos ?_
    rw [Bool.not_eq_true', List.all_eq_false]
    exact ⟨r, live, by simp [short]⟩
  · next change => exact nomatch change.symm.trans pending

end

end

/-! ### Restarts (R67, R371, R391) -/

/-- What a room keeper's events leave as it is: the floors, package time and the gear. -/
def State.ground (s : State) : Tbl Floor × Nat × BitVec 2 := (s.floors, s.pkt, s.gear)

theorem State.voidRoom_ground (s : State) (r : Nat) (pipe mask : Byte) : (s.voidRoom r pipe mask).ground = s.ground := by
  refine foldl_leaves State.ground _ (fun s t => ?_) _ _
  rfl

theorem State.abortRoom_ground (s : State) (r : Nat) (unit : Word) : (s.abortRoom r unit).ground = s.ground := by
  have tiles : ∀ (ts : List Nat) (s : State), (ts.foldl (fun (s : State) (t : Nat) =>
      s.setTile t { (s.tile t).abort with reqs := [], srcStreams := [] }) s).ground = s.ground := by
    intro ts s
    refine foldl_leaves State.ground _ (fun s t => ?_) _ _
    rfl
  unfold State.abortRoom
  dsimp only
  split
  · exact tiles _ _
  · exact Eq.trans rfl (tiles _ _)

theorem State.applyKeeper_ground (s : State) (r : Nat) : (s.applyKeeper r).ground = s.ground := by
  refine (foldl_leaves State.ground _ (fun s e => ?_) _ _).trans rfl
  cases e with
  | void p k => exact s.voidRoom_ground r p k
  | abort u => exact s.abortRoom_ground r u
  | stop u b => rfl

section
variable {s : State} {r : RoomId} {n : Nat} {c : GearChange} (turn : s.restart = some (r.val, n)) (pending : s.change = some c)
  (due : n ≤ s.pkt)
include turn pending due

/-- R391: a room of a floor that is not up is passed over. -/
theorem exec_roomRestart_of_down (down : (s.floor (roomFloor r.val)).mode ≠ .up) : exec (.roomRestart r) s =
    .next { s with restart := (s.nextRoom r.val).map (fun q => (q, n)) } := by
  change execRoomRestart r s = _
  unfold execRoomRestart
  split
  · next q t d next change =>
    obtain ⟨rfl, rfl⟩ : q = r.val ∧ t = n := by simpa using next.symm.trans turn
    refine (if_neg (by simpa using due)).trans (if_pos ?_)
    rw [Bool.not_eq_true', Bool.eq_false_iff, ne_eq, State.floorUp_iff]
    exact down
  · next none_ => exact absurd pending (none_ _ _ _ turn)

end

/-- A room as it runs again. -/
def Room.restarted (m : Room) (g : Nat) : Room :=
  { m with clockOff := false, gear := some (BitVec.ofNat 2 g), fall := none
           debit := if Config.budget g = 0 then 0 else min m.debit (fullCredit g) }

/-- R67: a room's keeper is heard, the room runs at its gear, and so does its spine where the clock does. -/
def State.restartRoom (s : State) (r g : Nat) : State :=
  let t := s.applyKeeper r
  let m := t.room r
  let t := t.setRoom r (m.restarted g)
  if m.gatedAt m.tread then t else t.spine r false

theorem State.restartRoom_ground (s : State) (r g : Nat) : (s.restartRoom r g).ground = s.ground := by
  unfold State.restartRoom
  dsimp only
  split
  · exact Eq.trans rfl (s.applyKeeper_ground r)
  · exact Eq.trans rfl (s.applyKeeper_ground r)

theorem State.restartRoom_room (s : State) (r g : Nat) :
    ((s.restartRoom r g).room r).clockOff = false ∧ ((s.restartRoom r g).room r).gear = some (BitVec.ofNat 2 g) := by
  unfold State.restartRoom
  extract_lets t m u
  have put : u.room r = m.restarted g := State.room_setRoom_self _ _ _
  split
  · rw [put]
    exact ⟨rfl, rfl⟩
  · have spine : (u.spine r false).room r = { u.room r with spineOff := false } := State.room_setRoom_self _ _ _
    rw [spine, put]
    exact ⟨rfl, rfl⟩

section
variable {s : State} {r : RoomId} {n : Nat} {c : GearChange} (turn : s.restart = some (r.val, n)) (pending : s.change = some c)
  (due : n ≤ s.pkt)
include turn pending due

theorem exec_roomRestart_of_up (up : (s.floor (roomFloor r.val)).mode = .up) : exec (.roomRestart r) s =
    .next { s.restartRoom r.val (c.chain.headD 0) with
      restart := ((s.restartRoom r.val (c.chain.headD 0)).nextRoom r.val).map (fun q =>
        (q, (s.restartRoom r.val (c.chain.headD 0)).pkt + Config.restartGap (c.chain.headD 0))) } := by
  change execRoomRestart r s = _
  unfold execRoomRestart
  split
  · next q t d next change =>
    obtain ⟨rfl, rfl⟩ : q = r.val ∧ t = n := by simpa using next.symm.trans turn
    obtain rfl : d = c := Option.some.inj (change.symm.trans pending)
    refine (if_neg (by simpa using due)).trans (if_neg ?_)
    rw [State.floorUp_iff.mpr up]
    exact Bool.false_ne_true
  · next none_ => exact absurd pending (none_ _ _ _ turn)

end

theorem State.nextRoom_of_floors {s t : State} (same : t.floors = s.floors) (r : Nat) : t.nextRoom r = s.nextRoom r := by
  simp only [State.nextRoom, State.upRooms_of_floors same]

/-- Settles O28: what acknowledges, announces, confirms or abandons the change whose next gear is `g`, and the rooms' restarts. -/
theorem gearChanges : Obligations.GearChanges := by
  refine ⟨fun c g n l r s pending chain => ?_, fun r n c s turn pending due => ⟨fun up => ?_, exec_roomRestart_of_down turn pending due⟩⟩
  · intro ended
    refine ⟨fun awaits running => ⟨s.nextTarget, s.nextTarget_range.1, s.nextTarget_range.2, ?_⟩, fun awaits stopped => ?_,
      fun awaits late cool free => ?_, fun target legal up clocked ahead near =>
        exec_gearAnnouncement_of_target pending target chain legal up clocked ahead near, fun there => ?_,
      fun target live short => exec_gearConfirmation_of_short pending chain target live short⟩
    · exact (exec_regulatorAcknowledgement_of_awaiting pending awaits).trans (if_neg running)
    · exact (exec_regulatorAcknowledgement_of_awaiting pending awaits).trans (if_pos stopped)
    · have course := s.abandonGear_course c.was
      refine ⟨s.abandonGear c.was, ?_, ⟨congrArg Course.change course, s.abandonGear_cmds c.was⟩, congrArg Course.gear course,
        congrArg Course.vcore course⟩
      rw [exec_regulatorTimeout_of_late pending awaits late, State.thermal_of_cool ((congrArg Course.overSince course).trans cool)
        ((congrArg Course.throttled course).trans free)]
    · have confirms := exec_gearConfirmation_of_there pending chain there
      obtain ⟨v, f, course⟩ := s.inGear_course g
      by_cases last : l = []
      · rw [if_pos last, State.endGear_eq] at confirms
        have done := (s.inGear g).gearDone_course
        have steady := State.thermal_steady (s.inGear g).gearDone
        simp only [State.steady, Prod.mk.injEq] at steady
        obtain ⟨floors, gear, cgear, above, below⟩ := steady
        refine ⟨_, confirms, gear.trans ((congrArg Course.gear done).trans (congrArg Course.gear course)),
          cgear.trans ((congrArg Course.cgear done).trans (congrArg Course.cgear course)), fun _ cool free => ?_, absurd last⟩
        have cool : (s.inGear g).gearDone.overSince = none :=
          (congrArg Course.overSince done).trans ((congrArg Course.overSince course).trans (by rw [cool]; rfl))
        have free : (s.inGear g).gearDone.throttled = none :=
          (congrArg Course.throttled done).trans ((congrArg Course.throttled course).trans free)
        rw [State.thermal_of_cool cool free]
        exact ⟨congrArg Course.change done, State.gearDone_cmds _⟩
      · rw [if_neg last] at confirms
        obtain ⟨x, w, begun, next, steady⟩ := (s.inGear g).beginGear_course { c with chain := l } last
        refine ⟨_, confirms, (congrArg Course.gear begun).trans (congrArg Course.gear course),
          (congrArg Course.cgear begun).trans (congrArg Course.cgear course), fun none_ => absurd none_ last, fun _ => ?_⟩
        rw [show ((s.inGear g).beginGear { c with chain := l }).change = some x from congrArg Course.change begun]
        exact congrArg some next
  · obtain ⟨clocked, gear⟩ := s.restartRoom_room r.val (c.chain.headD 0)
    have ground := s.restartRoom_ground r.val (c.chain.headD 0)
    simp only [State.ground, Prod.mk.injEq] at ground
    obtain ⟨floors, pkt, -⟩ := ground
    refine ⟨_, exec_roomRestart_of_up turn pending due up, clocked, gear, ?_⟩
    change ((s.restartRoom r.val (c.chain.headD 0)).nextRoom r.val).map _ = _
    rw [State.nextRoom_of_floors floors, pkt]

end Sys2Proof.Machine
end

section
/-!
What power removal, MRESET_N, test mode, the journal's flash writes and a fall of VSRAM leave and lose (R536, R555, R583, R625,
R636), and the obligation of these events (O25).
-/

namespace Sys2Proof.Machine

theorem exec_mresetNAssert_of_free {s : State} (free : s.mreset = false) : exec .mresetNAssert s = .next { s.dropCommands.rampAll with
    mreset := true, ready := false, resetting := true, boot := none, holdAll := true, change := none, restart := none
    alertFailed := false } := by
  change execMresetNAssert s = _
  unfold execMresetNAssert
  rw [free]
  rfl

theorem State.dropCommands_ports (s : State) : ({ s with cmds := [] } : State).portsOnly s.dropCommands :=
  List.foldlRecOn _ _ (motive := fun t => ({ s with cmds := [] } : State).portsOnly t) (State.portsOnly_refl _)
    fun _ same _ _ => State.portsOnly_trans same (State.setDie_ports _ _ _)

/-- The commands in progress, the fault log and the fuses. -/
def State.logged (s : State) : List Cmd × Tbl FaultRec × Fuses := (s.cmds, s.flog, s.fuses)

/-- What a reset's drop of commands and its ramp-down leave of them. -/
theorem State.dropCommands_rampAll (s : State) :
    s.dropCommands.rampAll.cmds = [] ∧ s.dropCommands.rampAll.flog = s.flog ∧ s.dropCommands.rampAll.fuses = s.fuses := by
  have ramp : s.dropCommands.rampAll.logged = s.dropCommands.logged := by
    refine foldl_leaves State.logged _ (fun t r => ?_) _ _
    rfl
  have drop : s.dropCommands.logged = ([], s.flog, s.fuses) := congrArg State.logged s.dropCommands_ports
  exact ⟨congrArg (·.1) (ramp.trans drop), congrArg (·.2.1) (ramp.trans drop), congrArg (·.2.2) (ramp.trans drop)⟩

/-! ### VSRAM below its range (R583, R663) -/

/-- One floor takes note; what stands at the rejoin stop is made again. -/
def State.noteVsram (s : State) (f : Nat) : State :=
  let s := s.setFloor f { s.floor f with vsramLow := true }
  if (s.floor f).atRejoin then (s.reverifyFloor f).restoreKinds f else s

theorem exec_vsramBelowRange_of_powered {s : State} (powered : s.powered = true) : exec .vsramBelowRange s =
    .next ((List.range 16).foldl (fun (s : State) (f : Nat) => s.noteVsram f) s) := by
  change execVsramBelowRange s = _
  unfold execVsramBelowRange
  rw [powered]
  rfl

theorem State.noteVsram_floor (s : State) (f q : Nat) : ((s.noteVsram f).floor q).mode = (s.floor q).mode ∧
    ((s.noteVsram f).floor q).vsramLow = (decide (q = f) || (s.floor q).vsramLow) := by
  have same : (s.noteVsram f).floor q = (s.setFloor f { s.floor f with vsramLow := true }).floor q := by
    unfold State.noteVsram
    dsimp only
    split
    · have floors := (State.restoreKinds_fl _ f).trans (State.reverifyFloor_fl (s.setFloor f { s.floor f with vsramLow := true }) f)
      exact congrArg (fun x : Tbl Floor × List Nat => Tbl.get Floor.reset x.1 q) floors
    · rfl
  rw [same]
  by_cases it : q = f
  · subst it
    rw [State.floor_setFloor_self]
    simp
  · rw [State.floor_setFloor_ne _ _ it]
    simp [it]

theorem State.foldl_noteVsram_floor (l : List Nat) (s : State) (q : Nat) :
    ((l.foldl (fun (s : State) (f : Nat) => s.noteVsram f) s).floor q).mode = (s.floor q).mode ∧
    ((l.foldl (fun (s : State) (f : Nat) => s.noteVsram f) s).floor q).vsramLow = (decide (q ∈ l) || (s.floor q).vsramLow) := by
  induction l generalizing s with
  | nil => simp
  | cons f l ih =>
    obtain ⟨mode, low⟩ := ih (s.noteVsram f)
    obtain ⟨mode1, low1⟩ := s.noteVsram_floor f q
    refine ⟨mode.trans mode1, low.trans ?_⟩
    rw [low1]
    simp only [List.mem_cons, Bool.decide_or]
    cases decide (q = f) <;> simp

/-- Settles O25: each event by its operation on the state. -/
theorem powerEvents : Obligations.PowerEvents := by
  refine ⟨fun s => ⟨⟨_, rfl, rfl, rfl, rfl, rfl, rfl, rfl, rfl, rfl, rfl, rfl, rfl⟩, fun free => ?_, fun powered held => ?_,
    fun e l powered queue => ?_⟩, fun s powered => ⟨_, exec_vsramBelowRange_of_powered powered, fun f => ?_⟩⟩
  · obtain ⟨cmds, flog, fuses⟩ := s.dropCommands_rampAll
    exact ⟨_, exec_mresetNAssert_of_free free, rfl, rfl, cmds, rfl, rfl, rfl, flog, fuses⟩
  · exact if_pos (by rw [powered, held]; rfl)
  · refine (if_pos powered).trans ?_
    rw [State.flashWrite, queue]
  · obtain ⟨mode, low⟩ := State.foldl_noteVsram_floor (List.range 16) s f.val
    exact ⟨low.trans (by simp), mode⟩

end Sys2Proof.Machine
end

section
/-!
Temperature and clocks (R68, R395, R396, R561): what the sensors' readings come to, what the loss of a reference or of a clock
leaves, and the obligation of sensor events (O31).
-/

namespace Sys2Proof.Machine

/-! ### Polls of the sensors (R395) -/

/-- The readings as firmware has taken them. -/
def State.readingsIn (s : State) (l : List Reading) : State :=
  l.foldl (fun (s : State) (x : Reading) => s.setFloor x.floor.val { s.floor x.floor.val with
    therm := Tbl.set 0 (s.floor x.floor.val).therm x.sensor.val x.value }) s

/-- The highest of the module's readings. -/
def State.top (s : State) : Int := (highest s.readings).2.2

/-- A tick that is kept, and otherwise begins now, while a condition holds. -/
def sinceWhile (holds : Bool) (since : Option Nat) (now : Nat) : Option Nat := if holds then some (since.getD now) else none

theorem sinceWhile_isSome (holds : Bool) (since : Option Nat) (now : Nat) : (sinceWhile holds since now).isSome = holds := by
  cases holds <;> rfl

/-- A poll's readings, and from when the highest of them stands above the limit, or at the lower threshold or below. -/
def State.polled (s : State) (l : List Reading) : State :=
  { s.readingsIn l with
    overSince := sinceWhile (decide (1600 < (s.readingsIn l).top)) (s.readingsIn l).overSince (s.readingsIn l).pkt
    underSince := sinceWhile (decide ((s.readingsIn l).top ≤ 1520)) (s.readingsIn l).underSince (s.readingsIn l).pkt }

theorem exec_thermalPoll_of_ready {s : State} (l : List Reading) (ready : s.ready = true) :
    exec (.thermalPoll l) s = .next (s.polled l).thermal := by
  have since (holds : Prop) [Decidable holds] (o : Option Nat) (n : Nat) : (if holds then (match o with
      | some t => some t
      | none => some n) else none) = sinceWhile (decide holds) o n := by
    by_cases h : holds
    · rw [if_pos h, decide_eq_true h]
      cases o <;> rfl
    · rw [if_neg h, decide_eq_false h]
      rfl
  change execThermalPoll l s = _
  unfold execThermalPoll
  refine (if_neg (by simp [ready])).trans ?_
  unfold State.polled
  rw [← since, ← since]
  rfl

/-- What the readings leave as it is: the course of the gear and package time. -/
def State.timed (s : State) : Course × Nat := (s.course, s.pkt)

theorem State.readingsIn_timed (s : State) (l : List Reading) : (s.readingsIn l).timed = s.timed := by
  refine foldl_leaves State.timed _ (fun s x => ?_) _ _
  rfl

section
variable {s : State} {l : List Reading} {u k : Nat}

theorem State.polled_course (s : State) (l : List Reading) : (s.polled l).course = { s.course with
    overSince := sinceWhile (decide (1600 < (s.readingsIn l).top)) s.overSince s.pkt
    underSince := sinceWhile (decide ((s.readingsIn l).top ≤ 1520)) s.underSince s.pkt } := by
  have timed := s.readingsIn_timed l
  unfold State.polled
  generalize s.readingsIn l = a at timed ⊢
  simp only [State.timed, State.course, Prod.mk.injEq, Course.mk.injEq] at timed ⊢
  obtain ⟨⟨gear, cgear, change, vcore, restart, throttled, above, below, alert⟩, pkt⟩ := timed
  simp only [gear, cgear, change, vcore, restart, throttled, above, below, alert, pkt, and_self]

theorem State.polled_pkt (s : State) (l : List Reading) : (s.polled l).pkt = s.pkt := congrArg (·.2) (s.readingsIn_timed l)

/-- The state that a poll leaves to decide on, by its course. -/
theorem State.polled_fields (s : State) (l : List Reading) : (s.polled l).gear = s.gear ∧ (s.polled l).cgear = s.cgear ∧
    (s.polled l).change = s.change ∧ (s.polled l).throttled = s.throttled ∧
    (s.polled l).overSince = sinceWhile (decide (1600 < (s.readingsIn l).top)) s.overSince s.pkt ∧
    (s.polled l).underSince = sinceWhile (decide ((s.readingsIn l).top ≤ 1520)) s.underSince s.pkt := by
  have course := s.polled_course l
  exact ⟨congrArg Course.gear course, congrArg Course.cgear course, congrArg Course.change course, congrArg Course.throttled course,
    congrArg Course.overSince course, congrArg Course.underSince course⟩

end

/-! ### What is due (R395) -/

section
variable {s t : State} {u k : Nat}

/-- The module is throttled to a gear, with the alert, and the change to it is under way. -/
def State.throttling (s : State) (g : Nat) : Prop :=
  s.throttled = some g ∧ s.alertThrottle = true ∧ s.change.map (·.chain) = some [g]

theorem State.thermalChange_throttling {g : Nat} (throttled : t.throttled = some g) (alert : t.alertThrottle = true) :
    (t.thermalChange g).throttling g := by
  obtain ⟨x, v, course, chain⟩ := t.thermalChange_course g
  have change : (t.thermalChange g).change = some x := congrArg Course.change course
  refine ⟨(congrArg Course.throttled course).trans throttled, (congrArg Course.alertThrottle course).trans alert, ?_⟩
  rw [change]
  exact congrArg some chain

theorem State.throttledAs_of_three (gear : s.gear = 3) : (s.throttledAs u t).throttling 2 := by
  rw [State.throttledAs, if_pos gear]
  exact State.thermalChange_throttling rfl rfl

theorem State.throttledAs_of_two (gear : s.gear = 2) (late : u + 250000 ≤ s.pkt) : (s.throttledAs u t).throttling 1 := by
  rw [State.throttledAs, if_neg (by rw [gear]; decide), if_pos ⟨gear, late⟩]
  exact State.thermalChange_throttling rfl rfl

section
variable (throttled : s.throttled = some k) (late : u + 2500000 ≤ s.pkt)
include throttled late

theorem State.restoreDue_of_there (there : s.cgear.toNat ≤ s.gear.toNat) : s.restoreDue u = { s with throttled := none } := by
  rw [State.restoreDue, if_pos ⟨by rw [throttled]; rfl, late⟩, if_pos there]

theorem State.restoreDue_of_below (below : s.gear.toNat < s.cgear.toNat) :
    (s.restoreDue u).change.map (·.chain) = some [s.gear.toNat + 1] ∧
      (s.restoreDue u).throttled = if s.gear.toNat + 1 < s.cgear.toNat then some (s.gear.toNat + 1) else none := by
  rw [State.restoreDue, if_pos ⟨by rw [throttled]; rfl, late⟩, if_neg (Nat.not_le.mpr below)]
  obtain ⟨x, v, course, chain⟩ := State.thermalChange_course { s with
    underSince := some s.pkt
    throttled := if s.gear.toNat + 1 < s.cgear.toNat then some (s.gear.toNat + 1) else none } (s.gear.toNat + 1)
  refine ⟨?_, congrArg Course.throttled course⟩
  exact (congrArg (fun y : Course => y.change.map (·.chain)) course).trans (congrArg some chain)

end

end

/-! ### Trips (R396, R588) -/

theorem exec_thermalTrip_of_hot {s : State} {x : Reading} (powered : s.powered = true) (untripped : s.tripped = false)
    (hot : 1840 ≤ temp x.value) :
    let b := (s.setFloor x.floor.val { s.floor x.floor.val with
      therm := Tbl.set 0 (s.floor x.floor.val).therm x.sensor.val x.value }).thermFault 2 3 x.floor.val x.sensor.val (temp x.value)
    let c := b.upRooms.foldl (fun (s : State) (r : Nat) => (s.abortRoom r (roomPath r)).rampDown r) b
    exec (.thermalTrip x) s = .next { c with
      tripped := true, cmds := c.cmds.filter (fun q => !(match q.work with
        | .floorReset _ => true
        | _ => false)) } := (if_neg (by simpa [powered, untripped] using hot)).trans rfl

theorem exec_thermalTrip_of_none {s : State} {x : Reading} (none_ : s.powered = false ∨ s.tripped = true ∨ temp x.value < 1840) :
    exec (.thermalTrip x) s = .next s := if_pos (by simpa [or_assoc] using none_)

/-! ### Clocks (R68, R561) -/

/-- Floors whose PLLs have stopped. -/
def State.unlockAll (s : State) (l : List Nat) : State :=
  l.foldl (fun (s : State) (f : Nat) => s.setFloor f { s.floor f with pllLock := false }) s

theorem State.unlockAll_floors {s t : State} (same : t.floors = s.floors) (l : List Nat) :
    (t.unlockAll l).floors = (s.unlockAll l).floors := by
  induction l generalizing s t with
  | nil => exact same
  | cons f l ih =>
    refine ih ?_
    simp only [State.setFloor, State.floor, same]

theorem State.unlockAll_mode (s : State) (l : List Nat) (f : Nat) : ((s.unlockAll l).floor f).mode = (s.floor f).mode := by
  refine foldl_leaves (fun t : State => (t.floor f).mode) _ (fun t g => ?_) _ _
  by_cases it : f = g
  · subst it
    rw [State.floor_setFloor_self]
  · rw [State.floor_setFloor_ne _ _ it]

theorem State.upRooms_of_modes {s t : State} (same : ∀ f, (t.floor f).mode = (s.floor f).mode) : t.upRooms = s.upRooms := by
  simp only [State.upRooms, State.floorUp, same]

/-- The rooms whose next correction record tells of the module's own oscillator. -/
def State.fallBackAll (s : State) (l : List Nat) : State :=
  l.foldl (fun (s : State) (r : Nat) => s.setRoom r { s.room r with fellBack := true }) s

theorem State.fallBackAll_floors (s : State) (l : List Nat) : (s.fallBackAll l).floors = s.floors := by
  refine foldl_leaves State.floors _ (fun s r => ?_) _ _
  rfl

theorem State.fallBackAll_room (s : State) (l : List Nat) (q : Nat) :
    ((s.fallBackAll l).room q).fellBack = (decide (q ∈ l) || (s.room q).fellBack) := by
  induction l generalizing s with
  | nil => simp [State.fallBackAll]
  | cons r l ih =>
    refine (ih _).trans ?_
    by_cases it : q = r
    · subst it
      rw [State.room_setRoom_self]
      simp
    · rw [State.room_setRoom_ne _ _ it]
      simp [it]

theorem exec_referenceLoss_of_powered {s : State} (powered : s.powered = true) (stands : s.refLost = false) :
    exec .referenceLoss s = .next { ((s.clockFault modulePath 1 3 4 0 0xFF 0xFF 0).unlockAll (List.range 16)).fallBackAll
      ((s.clockFault modulePath 1 3 4 0 0xFF 0xFF 0).unlockAll (List.range 16)).upRooms with refLost := true, fallback := true } :=
  if_neg (by simp [powered, stands])

theorem State.clockFault_site (s : State) (p : Word) (sub act r e floor room ago : Nat) :
    (s.clockFault p sub act r e floor room ago).site = s.site := State.record_site _ _

/-- Settles O31: the readings by what is due at the highest of them, and each loss of a clock by its operation on the state. -/
theorem sensorEvents : Obligations.SensorEvents := by
  refine ⟨fun l x u k s => ?_, fun f r s => ?_⟩
  · intro a top
    refine ⟨fun ready => ?_, fun notReady => if_pos (by rw [notReady]; rfl), fun powered untripped hot =>
      exec_thermalTrip_of_hot powered untripped hot, exec_thermalTrip_of_none⟩
    have steady := State.thermal_steady (s.polled l)
    simp only [State.steady, Prod.mk.injEq] at steady
    obtain ⟨floors, gear, cgear, above, below⟩ := steady
    obtain ⟨gear0, cgear0, change0, throttled0, over0, under0⟩ := s.polled_fields l
    have pkt0 := s.polled_pkt l
    refine ⟨_, exec_thermalPoll_of_ready l ready, floors, cgear.trans cgear0, gear.trans gear0, ?_, ?_, fun hot none_ gear3 => ?_,
      fun hot none_ gear2 since late => ?_, fun cold none_ since late throttled => ?_, fun stands => ?_⟩
    · rw [above, over0, sinceWhile_isSome]
      rfl
    · rw [below, under0, sinceWhile_isSome]
      rfl
    · obtain ⟨v, over1⟩ : ∃ v, (s.polled l).overSince = some v := ⟨_, over0.trans (if_pos (decide_eq_true hot))⟩
      rw [State.thermal_of_hot (change0.trans none_) over1]
      exact State.throttledAs_of_three (gear0.trans gear3)
    · have over1 : (s.polled l).overSince = some u := over0.trans ((if_pos (decide_eq_true hot)).trans (by rw [since]; rfl))
      rw [State.thermal_of_hot (change0.trans none_) over1]
      exact State.throttledAs_of_two (gear0.trans gear2) (pkt0 ▸ late)
    · have cool : ¬1600 < (s.readingsIn l).top := fun hot => absurd (lt_of_lt_of_le hot cold) (by decide)
      have over1 : (s.polled l).overSince = none := over0.trans (if_neg (by simpa using cool))
      have under1 : (s.polled l).underSince = some u := under0.trans ((if_pos (decide_eq_true cold)).trans (by rw [since]; rfl))
      have none1 := change0.trans none_
      have throttled1 := throttled0.trans throttled
      have late1 : u + 2500000 ≤ (s.polled l).pkt := pkt0 ▸ late
      rw [State.thermal_of_cold none1 over1 under1]
      refine ⟨fun there => ?_, fun short => ?_⟩
      · rw [State.restoreDue_of_there throttled1 late1 (by rw [gear0, cgear0]; exact there)]
        exact ⟨rfl, none1⟩
      · have due := State.restoreDue_of_below (u := u) throttled1 late1 (by rw [gear0, cgear0]; exact short)
        rw [gear0, cgear0] at due
        exact due
    · have same : (s.polled l).thermal = s.polled l := by
        rcases stands with pending | ⟨cool, free⟩
        · exact State.thermal_of_pending (change0 ▸ pending)
        · exact State.thermal_of_cool (over0.trans (if_neg fun hot => absurd (of_decide_eq_true hot) (Int.not_lt.mpr cool))) (throttled0.trans free)
      rw [same]
      exact ⟨throttled0, change0⟩
  · refine ⟨fun powered stands => ?_, fun none_ => if_pos (by simpa using none_), fun ready up stands => ?_, fun none_ => ?_,
      fun runs => if_pos runs, fun stands => if_neg (by rw [stands]; exact Bool.false_ne_true)⟩
    · obtain ⟨b, recorded, site⟩ : ∃ b, b = s.clockFault modulePath 1 3 4 0 0xFF 0xFF 0 ∧ b.site = s.site :=
        ⟨_, rfl, s.clockFault_site _ _ _ _ _ _ _ _⟩
      have live : (b.unlockAll (List.range 16)).upRooms = s.upRooms := State.upRooms_of_modes fun g =>
        (b.unlockAll_mode _ g).trans (congrArg Floor.mode (State.floor_of_site site g))
      have loses := exec_referenceLoss_of_powered powered stands
      rw [← recorded] at loses
      obtain ⟨c, unlocked⟩ : ∃ c, c = b.unlockAll (List.range 16) := ⟨_, rfl⟩
      rw [← unlocked] at loses live
      have floors : (c.fallBackAll c.upRooms).floors = (s.unlockAll (List.range 16)).floors := by
        rw [State.fallBackAll_floors, unlocked]
        exact State.unlockAll_floors (congrArg Site.floors site) _
      refine ⟨_, loses, rfl, rfl, floors, fun q member => (c.fallBackAll_room _ q).trans ?_⟩
      rw [live, decide_eq_true member]
      rfl
    · exact if_pos (by rw [ready, State.floorUp_iff.mpr up, stands]; rfl)
    · refine if_neg ?_
      rw [Bool.and_eq_true, Bool.and_eq_true, State.floorUp_iff]
      rintro ⟨⟨ready, up⟩, stands⟩
      rcases none_ with notReady | down | lost
      · exact Bool.false_ne_true (notReady.symm.trans ready)
      · exact down up
      · rw [lost] at stands
        exact Bool.false_ne_true stands

end Sys2Proof.Machine
end

section
/-!
Always-on ticks, correction pulses, hold limits and the hang watchdog (R61, R69, R71, R384, R389, R531, R568): what a tick leaves of
the module and makes of a room's allowance, which rooms take note of a pulse, and the obligation of ticks and holds (O29).
-/

namespace Sys2Proof.Machine

/-! ### What the rooms' part of a tick leaves -/

/-- What surrounds the rooms in a tick: package time, tiles, gear, limits and goals, what a room's clock rests on, and what else a
tick brings to an end. -/
structure Setting where
  pkt : Nat
  tiles : Tbl Tile
  gear : BitVec 2
  lims : Nat × Nat
  classes : Tbl Class
  floors : Tbl Floor
  stopped : Bool × Bool × Bool
  lastTarget : Option Nat
  change : Option GearChange
  cmds : List Cmd
  startWait : Option StartEnv

def State.setting (s : State) : Setting :=
  ⟨s.pkt, s.tiles, s.gear, (s.holdLim, s.wdog), s.classes, s.floors, (s.holdAll, s.tripped, s.refLost), s.lastTarget, s.change, s.cmds,
    s.startWait⟩

theorem State.portsOnly.setting {s t : State} (h : s.portsOnly t) : t.setting = s.setting := (congrArg State.setting h).trans rfl

theorem State.allowTick_setting (s : State) (r : Nat) : (s.allowTick r).setting = s.setting := by
  unfold State.allowTick
  dsimp only
  repeat' split
  all_goals rfl

theorem State.tickRoom_setting (s : State) (r : Nat) : (s.tickRoom r).setting = s.setting := by
  unfold State.tickRoom
  extract_lets t u
  have held : t.setting = s.setting := by
    unfold t
    split <;> rfl
  have allowed : u.setting = s.setting := (t.allowTick_setting r).trans held
  split
  · exact allowed
  · exact allowed

theorem State.allowTick_room_ne (s : State) {r q : Nat} (other : q ≠ r) : (s.allowTick r).room q = s.room q := by
  have put (t : State) (m : Room) : (t.setRoom r m).room q = t.room q := State.room_setRoom_ne _ _ other
  have spine (t : State) : (t.spine r true).room q = t.room q := put _ _
  unfold State.allowTick
  dsimp only
  repeat' split
  all_goals simp only [put, spine]

theorem State.tickRoom_room_ne (s : State) {r q : Nat} (other : q ≠ r) : (s.tickRoom r).room q = s.room q := by
  unfold State.tickRoom
  extract_lets t u
  have held : t.room q = s.room q := by
    unfold t
    split
    · exact State.room_setRoom_ne _ _ other
    · rfl
  have allowed : u.room q = s.room q := (t.allowTick_room_ne other).trans held
  split
  · exact (State.room_setRoom_ne _ _ other).trans allowed
  · exact allowed

theorem State.foldl_tickRoom_room_of_not_mem {l : List Nat} {r : Nat} (s : State) (absent : r ∉ l) :
    (l.foldl State.tickRoom s).room r = s.room r := by
  induction l generalizing s with
  | nil => rfl
  | cons q l ih =>
    rw [List.mem_cons, not_or] at absent
    exact (ih _ absent.2).trans (s.tickRoom_room_ne absent.1)

/-- Each room takes its own tick, in the setting of all and on the room as it stood. -/
theorem State.foldl_tickRoom_room {l : List Nat} (distinct : l.Nodup) {r : Nat} (member : r ∈ l) (s : State) :
    ∃ t : State, t.setting = s.setting ∧ t.room r = s.room r ∧ (l.foldl State.tickRoom s).room r = (t.tickRoom r).room r := by
  induction l generalizing s with
  | nil => exact absurd member List.not_mem_nil
  | cons q l ih =>
    obtain ⟨first, rest⟩ := List.nodup_cons.mp distinct
    by_cases it : r = q
    · subst it
      exact ⟨s, rfl, rfl, State.foldl_tickRoom_room_of_not_mem _ first⟩
    · obtain ⟨t, setting, room, last⟩ := ih rest ((List.mem_cons.mp member).resolve_left it) (s.tickRoom q)
      exact ⟨t, setting.trans (s.tickRoom_setting q), room.trans (s.tickRoom_room_ne it), last⟩

theorem State.tickRooms_setting (s : State) : s.tickRooms.setting = { s.setting with pkt := s.pkt + 1 } :=
  (foldl_leaves State.setting _ State.tickRoom_setting _ _).trans rfl

/-! ### The allowance of a room (R384, R389) -/

section
variable {s : State} {r : Nat}

theorem State.gearWindow_of_setting {t : State} (same : t.setting = s.setting) (n : Nat) : t.gearWindow n = s.gearWindow n :=
  congrArg (fun x : Setting => ({ s with lastTarget := x.lastTarget, change := x.change } : State).gearWindow n) same

theorem State.roomGear_of_setting {t : State} (same : t.setting = s.setting) (room : (t.room r).gear = (s.room r).gear) :
    t.roomGear r = s.roomGear r := by
  have gear : t.gear = s.gear := congrArg Setting.gear same
  rw [State.roomGear, State.roomGear, room, gear]

theorem State.clockRuns_of_setting {t : State} (same : t.setting = s.setting) (room : (t.room r).gear = (s.room r).gear)
    (clock : (t.room r).clockOff = (s.room r).clockOff) : t.clockRuns r = s.clockRuns r := by
  have stopped : (t.holdAll, t.tripped, t.refLost) = (s.holdAll, s.tripped, s.refLost) := congrArg Setting.stopped same
  obtain ⟨hold, trip, lost⟩ := by simpa only [Prod.mk.injEq] using stopped
  have floors : t.floors = s.floors := congrArg Setting.floors same
  simp only [State.clockRuns, State.clocked, State.roomGear_of_setting same room, clock, hold, trip, lost, State.floorUp, State.floor,
    floors]

theorem State.allowTick_of_climb (runs : s.clockRuns r = true) (away : s.gearWindow (s.room r).tread = false)
    (stays : (s.room r).fall = none) (refused : (s.room r).refused = true) :
    ((s.allowTick r).room r).allow = min (Config.ceiling (s.roomGear r)) ((s.room r).allow + 16) := by
  unfold State.allowTick
  dsimp only
  split
  · next left falls => exact nomatch falls.symm.trans stays
  · rw [if_neg (by simp [runs]), if_neg (by simp [away]), State.room_setRoom_self, refused]
    rfl

theorem State.allowTick_of_fall {left : Nat} (away : s.gearWindow (s.room r).tread = false) (falls : (s.room r).fall = some left)
    (more : 1 < left) : ((s.allowTick r).room r).allow = (s.room r).allow * (left - 1) / left ∧
      ((s.allowTick r).room r).fall = some (left - 1) := by
  unfold State.allowTick
  dsimp only
  split
  · next n falls' =>
    obtain rfl : n = left := Option.some.inj (falls'.symm.trans falls)
    rw [if_neg (by simp [away]), if_pos more, State.room_setRoom_self]
    exact ⟨rfl, rfl⟩
  · next stays => exact nomatch stays.symm.trans falls

/-- What a room's hold does not bear on. -/
def Room.power (m : Room) : Nat × Option Nat × Bool × Nat × Option (BitVec 2) × Bool :=
  (m.allow, m.fall, m.refused, m.tread, m.gear, m.clockOff)

theorem Room.heldTick_power (m : Room) : m.heldTick.power = m.power := by
  unfold Room.heldTick
  split <;> rfl

/-- A room's tick is its allowance's, on the room with its hold counted. -/
theorem State.tickRoom_power (s : State) (r : Nat) : ∃ t : State, t.setting = s.setting ∧ (t.room r).power = (s.room r).power ∧
    ((s.tickRoom r).room r).power = ((t.allowTick r).room r).power := by
  unfold State.tickRoom
  extract_lets t u
  refine ⟨t, ?_, ?_, ?_⟩
  · unfold t
    split <;> rfl
  · unfold t
    split
    · rw [State.room_setRoom_self, Room.heldTick_power]
    · rfl
  · split
    · rw [State.room_setRoom_self]
      rfl
    · rfl

section
variable (away : s.gearWindow (s.room r).tread = false)
include away

theorem State.tickRoom_of_climb (runs : s.clockRuns r = true) (stays : (s.room r).fall = none) (refused : (s.room r).refused = true) :
    ((s.tickRoom r).room r).allow = min (Config.ceiling (s.roomGear r)) ((s.room r).allow + 16) := by
  obtain ⟨t, setting, power, ticked⟩ := s.tickRoom_power r
  simp only [Room.power, Prod.mk.injEq] at power ticked
  obtain ⟨allow, fall, refused', tread, gear, clock⟩ := power
  rw [ticked.1, State.allowTick_of_climb ((State.clockRuns_of_setting setting gear clock).trans runs)
    (by rw [tread, State.gearWindow_of_setting setting, away]) (fall.trans stays) (refused'.trans refused),
    State.roomGear_of_setting setting gear, allow]

theorem State.tickRoom_of_fall {left : Nat} (falls : (s.room r).fall = some left) (more : 1 < left) :
    ((s.tickRoom r).room r).allow = (s.room r).allow * (left - 1) / left ∧ ((s.tickRoom r).room r).fall = some (left - 1) := by
  obtain ⟨t, setting, power, ticked⟩ := s.tickRoom_power r
  simp only [Room.power, Prod.mk.injEq] at power ticked
  obtain ⟨allow, fall, refused, tread, gear, clock⟩ := power
  have fallen := State.allowTick_of_fall (s := t) (r := r) (by rw [tread, State.gearWindow_of_setting setting, away])
    (fall.trans falls) more
  rw [ticked.1, ticked.2.1, ← allow]
  exact fallen

end

end

/-! ### The rest of a tick -/

section
variable {s : State}

theorem State.gearTick_rooms (s : State) : s.gearTick.rooms = s.rooms := by
  unfold State.gearTick
  split
  · split <;> rfl
  · rfl

theorem State.gearTick_setting (s : State) : ∃ o x, s.gearTick.setting = { s.setting with lastTarget := o, change := x } := by
  unfold State.gearTick
  split
  · split
    · exact ⟨_, _, rfl⟩
    · exact ⟨_, _, rfl⟩
  · exact ⟨_, _, rfl⟩

theorem State.loadDone_of_none (none_ : s.cmds.findSome? Cmd.loading = none) : s.loadDone = s := by
  rw [State.loadDone, none_]

theorem State.unpack_of_none (n : Nat) {d : Nat} (none_ : s.crateCmds d = []) : s.unpack n d = s := by
  cases n with
  | zero => rfl
  | succ n =>
    have step : s.unpackStep d = (s, false) := by rw [State.unpackStep, none_]
    rw [State.unpack, step]
    rfl

theorem State.unpackAll_of_none (none_ : ∀ d, s.crateCmds d = []) : s.unpackAll = s :=
  List.foldlRecOn _ _ (motive := fun t => t = s) rfl fun t same d _ => by rw [same, State.unpack_of_none _ (none_ d)]

theorem State.resetDue_of_none {f : Nat} (none_ : (s.floor f).due = none) : s.resetDue f = s := by
  rw [State.resetDue, none_]

theorem State.refuseDue_leaves {β : Type} {f : State → β} (ports : ∀ s t, State.portsOnly s t → f t = f s) (s : State) :
    f s.refuseDue = f s :=
  foldl_leaves f _ (fun s d => foldl_leaves f _ (fun s i => ports _ _ (State.skipBad_ports _ s d i)) _ s) _ s

/-- A state in which the limits and goals of another are in force. -/
def State.ruledBy (t s : State) : State := { t with limsIn := (s.holdLim, s.wdog), goalsIn := s.classes }

theorem State.ruledBy_rooms (t s : State) : (t.ruledBy s).rooms = t.rooms := rfl

theorem State.ruledBy_self {t s : State} (lims : (t.holdLim, t.wdog) = (s.holdLim, s.wdog)) (goals : t.classes = s.classes) :
    t.ruledBy t = t.ruledBy s := by
  unfold State.ruledBy
  rw [lims, goals]

/-- With no crate under way and no floor reset that stands due, what is left of a tick are the limits and goals that are in force
from now on, and the packets that are no commands. -/
theorem State.tickRest_of_none (noCrate : ∀ d, s.crateCmds d = []) (noReset : ∀ f, (s.floor f).due = none) :
    s.tickRest = (s.ruledBy s).refuseDue := by
  have same : (List.range 16).foldl (fun (s : State) (f : Nat) => s.resetDue f) s = s :=
    List.foldlRecOn _ _ (motive := fun t => t = s) rfl fun t same f _ => by rw [same, State.resetDue_of_none (noReset f)]
  rw [State.tickRest, State.unpackAll_of_none noCrate, same]
  rfl

/-- What a tick comes to where it brings nothing to an end. -/
def State.quietTick (s : State) : State := (s.tickRooms.gearTick.ruledBy s).refuseDue

theorem exec_allowanceTick_of_quiet (powered : s.powered = true) (noLoad : s.cmds.findSome? Cmd.loading = none)
    (noStart : s.startWait = none) (noCrate : ∀ d, s.crateCmds d = []) (noReset : ∀ f, (s.floor f).due = none) :
    exec .allowanceTick s = .next s.quietTick := by
  obtain ⟨t, ticked⟩ : ∃ t, t = s.tickRooms.gearTick := ⟨_, rfl⟩
  obtain ⟨o, x, setting⟩ := s.tickRooms.gearTick_setting
  rw [← ticked, State.tickRooms_setting] at setting
  have cmds : t.cmds = s.cmds := congrArg Setting.cmds setting
  have startWait : t.startWait = s.startWait := congrArg Setting.startWait setting
  have floors : t.floors = s.floors := congrArg Setting.floors setting
  have lims : (t.holdLim, t.wdog) = (s.holdLim, s.wdog) := congrArg Setting.lims setting
  have goals : t.classes = s.classes := congrArg Setting.classes setting
  rw [State.quietTick, exec_allowanceTick_of_powered powered, ← ticked, State.loadDone_of_none (cmds ▸ noLoad),
    State.startDue_of_no_wait (startWait.trans noStart),
    State.tickRest_of_none (fun d => by rw [State.crateCmds, cmds]; exact noCrate d) (fun f => by rw [State.floor, floors]; exact noReset f),
    State.ruledBy_self lims goals]

theorem State.quietTick_rooms (s : State) : s.quietTick.rooms = s.tickRooms.rooms := by
  rw [State.quietTick, State.refuseDue_leaves (f := State.rooms) (fun _ _ ports => congrArg Site.rooms ports.site),
    State.ruledBy_rooms, State.gearTick_rooms]

theorem State.quietTick_room (s : State) (r : Nat) : s.quietTick.room r = s.tickRooms.room r :=
  congrArg (fun rooms => Tbl.get Room.reset rooms r) s.quietTick_rooms

theorem State.refuseDue_ruledBy (t s : State) : (t.ruledBy s).refuseDue.setting = t.setting ∧
    (t.ruledBy s).refuseDue.limsIn = (s.holdLim, s.wdog) ∧ (t.ruledBy s).refuseDue.goalsIn = s.classes :=
  ⟨State.refuseDue_leaves (fun _ _ ports => ports.setting) _,
    State.refuseDue_leaves (f := State.limsIn) (fun _ _ ports => (congrArg State.limsIn ports).trans rfl) _,
    State.refuseDue_leaves (f := State.goalsIn) (fun _ _ ports => (congrArg State.goalsIn ports).trans rfl) _⟩

theorem State.setting_fields {t : State} {x : Setting} (same : t.setting = x) : t.pkt = x.pkt ∧ t.tiles = x.tiles ∧ t.gear = x.gear :=
  ⟨congrArg Setting.pkt same, congrArg Setting.tiles same, congrArg Setting.gear same⟩

/-- The counts and limits that a quiet tick leaves. -/
theorem State.quietTick_fields (s : State) : s.quietTick.pkt = s.pkt + 1 ∧ s.quietTick.tiles = s.tiles ∧ s.quietTick.gear = s.gear ∧
    s.quietTick.limsIn = (s.holdLim, s.wdog) ∧ s.quietTick.goalsIn = s.classes := by
  obtain ⟨o, x, setting⟩ := s.tickRooms.gearTick_setting
  rw [State.tickRooms_setting] at setting
  obtain ⟨same, limits, goals⟩ := State.refuseDue_ruledBy s.tickRooms.gearTick s
  obtain ⟨pkt, tiles, gear⟩ := State.setting_fields (same.trans setting)
  exact ⟨pkt, tiles, gear, limits, goals⟩

end

/-! ### Correction pulses (R71) -/

/-- A room takes note of the pulse of this tick. -/
def State.notePulse (s : State) (r : Nat) : State :=
  s.setRoom r { s.room r with pulses := if (s.room r).pulses.contains s.pkt then (s.room r).pulses else (s.room r).pulses ++ [s.pkt] }

theorem State.notePulse_pulses (s : State) (r q : Nat) :
    s.pkt ∈ ((s.notePulse r).room q).pulses ↔ q = r ∨ s.pkt ∈ (s.room q).pulses := by
  unfold State.notePulse
  by_cases it : q = r
  · subst it
    rw [State.room_setRoom_self]
    by_cases has : s.pkt ∈ (s.room q).pulses <;> simp [has]
  · rw [State.room_setRoom_ne _ _ it]
    simp [it]

theorem State.foldl_notePulse_pulses (l : List Nat) (s : State) (q : Nat) :
    s.pkt ∈ ((l.foldl State.notePulse s).room q).pulses ↔ q ∈ l ∨ s.pkt ∈ (s.room q).pulses := by
  induction l generalizing s with
  | nil => simp
  | cons r l ih =>
    refine (ih (s.notePulse r)).trans ?_
    rw [show (s.notePulse r).pkt = s.pkt from rfl, s.notePulse_pulses r q, List.mem_cons]
    tauto

/-- What the trim of a pulse leaves: the floors and package time. -/
theorem State.trimPulse_ground (s : State) : s.trimPulse.ground = s.ground := by
  have trims (g : Nat) (d : Int) : (s.moveTrim g d).ground = s.ground := by
    unfold State.moveTrim State.writeVcore
    dsimp only
    split <;> rfl
  have runs (t : State) (n : Nat) : ({ t with lowRuns := n } : State).ground = t.ground := rfl
  unfold State.trimPulse
  dsimp only
  repeat' split
  all_goals simp only [runs, trims]

theorem exec_correctionPulse_of_due {s : State} (released : s.holdAll = false) (due : s.pkt % 4096 = 0) :
    ∃ t : State, t.ground = s.ground ∧ exec .correctionPulse s = .next (t.upRooms.foldl State.notePulse t) := by
  refine ⟨if s.ready then { s.trimPulse with gearPended := s.change.isSome } else s, ?_, if_neg (by simp [released, due])⟩
  split
  · exact Eq.trans rfl s.trimPulse_ground
  · rfl

/-! ### Holds (R61, R568) -/

section
variable {s : State} {r : RoomId} {x : HoldSrc} {l : List HoldSrc} (held : (s.room r.val).holdSrcs = x :: l) (ready : s.ready = true)
  (up : (s.floor (roomFloor r.val)).mode = .up)
include held ready up

theorem exec_holdLimit_of_held : exec (.holdLimit r) s =
    if s.limsIn.1 ≤ (s.room r.val).holdTicks ∧ (s.room r.val).holdFired = false then
      let f := { s.tileRec x.tile 0x72 0 (if s.recovering x.tile then 5 else 0) none none
        (leBytes 1 x.kind ++ leBytes 2 x.what ++ leBytes 4 (s.room r.val).holdTicks) with rec_ := 1 }
      .next (((s.record f).setRoom r.val { (s.record f).room r.val with holdFired := true }).event (roomPath r.val) evHoldLimit)
    else .next s := by
  change execHoldLimit r s = _
  unfold execHoldLimit
  dsimp only
  split
  · next none_ => exact nomatch none_.symm.trans held
  · next y k first =>
    obtain rfl : y = x := (List.cons.inj (first.symm.trans held)).1
    simp only [ready, State.floorUp_iff.mpr up, Bool.true_and, Bool.and_eq_true, decide_eq_true_eq, Bool.not_eq_true']

theorem exec_hangWatchdog_of_held : exec (.hangWatchdog r) s =
    if s.limsIn.2 ≤ (s.room r.val).wdogTicks then
      if ∃ w ∈ s.hangWait, w.room = r.val then .next s.hangAgain
      else .next (s.hangReports.foldl (fun (s : State) (l : List HangNode) => s.hangReport l) s)
    else .next s := by
  change execHangWatchdog r s = _
  unfold execHangWatchdog
  simp only [ready, State.floorUp_iff.mpr up, held, List.isEmpty_cons, Bool.not_false, Bool.true_and, decide_eq_true_eq, List.any_eq_true,
    beq_iff_eq]

end

/-- Settles O29: a tick by what each room makes of it, a pulse by the rooms that take note of it, and a hold by the limits in
force. -/
theorem ticksAndHolds : Obligations.TicksAndHolds := by
  refine ⟨fun s => ⟨fun powered noLoad noStart noCrate noReset => ?_, fun off => if_pos (by rw [off]; rfl), fun released due => ?_,
    fun none_ => if_pos ?_⟩, fun r x l s held ready up => ?_⟩
  · obtain ⟨pkt, tiles, gear, limits, goals⟩ := s.quietTick_fields
    refine ⟨_, exec_allowanceTick_of_quiet powered noLoad noStart noCrate noReset, pkt, tiles, gear, limits, goals,
      fun distinct r member runs away => ?_⟩
    obtain ⟨t, setting, room, ticked⟩ := State.foldl_tickRoom_room distinct member ({ s with pkt := s.pkt + 1 } : State)
    have after : s.quietTick.room r = (t.tickRoom r).room r := (s.quietTick_room r).trans ticked
    have room : t.room r = s.room r := room
    have away : t.gearWindow (t.room r).tread = false := by
      rw [room]
      exact (State.gearWindow_of_setting setting _).trans away
    have gear : t.roomGear r = s.roomGear r := (State.roomGear_of_setting setting (congrArg Room.gear room)).trans rfl
    have runs : t.clockRuns r = true :=
      (State.clockRuns_of_setting setting (congrArg Room.gear room) (congrArg Room.clockOff room)).trans runs
    intro m
    rw [after]
    refine ⟨fun stays refused => ?_, fun left falls more => ?_⟩
    · have climbs := State.tickRoom_of_climb away runs ((congrArg Room.fall room).trans stays) ((congrArg Room.refused room).trans refused)
      rw [gear, room] at climbs
      exact climbs
    · have falls := State.tickRoom_of_fall away ((congrArg Room.fall room).trans falls) more
      rw [room] at falls
      exact falls
  · obtain ⟨t, ground, pulses⟩ := exec_correctionPulse_of_due released due
    simp only [State.ground, Prod.mk.injEq] at ground
    obtain ⟨floors, pkt, -⟩ := ground
    refine ⟨_, pulses, fun r live => ?_⟩
    rw [← pkt]
    exact (State.foldl_notePulse_pulses t.upRooms t r).mpr (.inl ((State.upRooms_of_floors floors).symm ▸ live))
  · simpa using none_
  · intro m
    have limit := exec_holdLimit_of_held held ready up
    have watch := exec_hangWatchdog_of_held held ready up
    refine ⟨fun reached notYet => limit.trans (if_pos ⟨reached, notYet⟩), fun none_ => limit.trans (if_neg ?_),
      fun reached none_ => watch.trans ((if_pos reached).trans (if_neg ?_)), fun reached some_ => watch.trans ((if_pos reached).trans (if_pos some_)),
      fun short => watch.trans (if_neg (Nat.not_le.mpr short))⟩
    · rintro ⟨reached, notYet⟩
      rcases none_ with short | fired
      · exact Nat.not_le.mpr short reached
      · exact Bool.false_ne_true (notYet.symm.trans fired)
    · rintro ⟨w, member, here⟩
      exact none_ w member here

end Sys2Proof.Machine
end
